-- ==== Sys2Proof/Word.lean ====
section
/-!
DEFINITION. The word types of the hub and their plainest arithmetic: registers are 32 bits (R10),
general registers of a control core 64 bits (R43), a memory unit 64 bytes and a plaza line 128 bytes
(R194, R224).
-/
namespace Sys2Proof

/-- One byte of memory. -/
abbrev Byte := BitVec 8
/-- One 32-bit register of BAR0 (R10). -/
abbrev W32 := BitVec 32
/-- One 64-bit general register of a control core (R43). -/
abbrev W64 := BitVec 64
/-- One 64-byte unit of stacked memory, byte 0 in bits 7..0 (R194). -/
abbrev UnitData := BitVec 512
/-- One 128-byte line of the plaza cache, byte 0 in bits 7..0 (R224). -/
abbrev LineData := BitVec 1024

end Sys2Proof
end

