-- ==== Sys2Proof/Machine/Table.lean ====
section
/-!
DEFINITION. Sparse plain data: tables from a natural number to a record, with strictly rising keys, and
byte memories in canonical form (strictly rising addresses, no byte equal to what an unlisted address
reads as), with the byte-order helpers over them (all fields are little-endian, R10, R34).
-/
namespace Sys2Proof

/-- A sparse table: pairs of key and entry, keys strictly rising. -/
abbrev Table (α : Type) := List (Nat × α)

/-- The entry at key `k`, if the table lists one. -/
def Table.find? {α : Type} : Table α → Nat → Option α
  | [], _ => none
  | (j, v) :: t, k => if j = k then some v else if k < j then none else Table.find? t k

/-- The entry at key `k`, or `d` where none is listed. -/
def Table.get {α : Type} (d : α) (t : Table α) (k : Nat) : α := (Table.find? t k).getD d

/-- The table with the entry at `k` set to `v`. -/
def Table.set {α : Type} : Table α → Nat → α → Table α
  | [], k, v => [(k, v)]
  | (j, w) :: t, k, v =>
    if k < j then (k, v) :: (j, w) :: t
    else if k = j then (k, v) :: t
    else (j, w) :: Table.set t k v

/-- The table without an entry at `k`. -/
def Table.erase {α : Type} : Table α → Nat → Table α
  | [], _ => []
  | (j, w) :: t, k =>
    if k < j then (j, w) :: t
    else if k = j then t
    else (j, w) :: Table.erase t k

/-- Keys rise strictly from `lo` on. -/
def Table.wfFrom {α : Type} : Nat → Table α → Bool
  | _, [] => true
  | lo, (j, _) :: t => decide (lo ≤ j) && Table.wfFrom (j + 1) t

/-- The canonical form of a table: strictly rising keys. -/
def Table.wf {α : Type} (t : Table α) : Bool := Table.wfFrom 0 t

/-- A byte memory; an unlisted address reads as zero (the stores and stacks are initialised to zero at
stage S4, R423). -/
abbrev Mem := List (Nat × Byte)

/-- What an address that is not listed reads as. -/
def Mem.empty : Byte := 0

/-- The byte at address `a`. -/
def Mem.read (m : Mem) (a : Nat) : Byte := Table.get Mem.empty m a

/-- The memory with byte `b` at address `a`; a byte equal to what an unlisted address reads as leaves
no entry. -/
def Mem.write (m : Mem) (a : Nat) (b : Byte) : Mem :=
  if b = Mem.empty then Table.erase m a else Table.set m a b

/-- No entry holds what an unlisted address reads as. -/
def Mem.noEmpty : Mem → Bool
  | [] => true
  | (_, b) :: t => decide (b ≠ Mem.empty) && Mem.noEmpty t

/-- The canonical form of a memory. -/
def Mem.wf (m : Mem) : Bool := Table.wf m && Mem.noEmpty m

/-- The `n` bytes from address `a` on, lowest address first. -/
def Mem.readBytes (m : Mem) : Nat → Nat → List Byte
  | _, 0 => []
  | a, n + 1 => Mem.read m a :: Mem.readBytes m (a + 1) n

/-- The memory with the bytes `bs` stored from address `a` on, in ascending order. -/
def Mem.writeBytes : Mem → Nat → List Byte → Mem
  | m, _, [] => m
  | m, a, b :: bs => Mem.writeBytes (Mem.write m a b) (a + 1) bs

/-- The memory with those bytes of `bs` stored whose mask bit is set; bit `i` of `mask` is for
address `a + i`. -/
def Mem.writeMasked : Mem → Nat → Nat → List Byte → Mem
  | m, _, _, [] => m
  | m, a, mask, b :: bs =>
    Mem.writeMasked (if mask % 2 = 1 then Mem.write m a b else m) (a + 1) (mask / 2) bs

/-- Little-endian value of a list of bytes. -/
def bytesToNat : List Byte → Nat
  | [] => 0
  | b :: bs => b.toNat + 256 * bytesToNat bs

/-- The `n` bytes of `v`, least significant first. -/
def natToBytes : Nat → Nat → List Byte
  | 0, _ => []
  | n + 1, v => BitVec.ofNat 8 v :: natToBytes n (v / 256)

/-- The little-endian value of `n` bytes at `a`. -/
def Mem.readNat (m : Mem) (a n : Nat) : Nat := bytesToNat (Mem.readBytes m a n)

/-- `n` bytes at `a` set to the little-endian value `v`. -/
def Mem.writeNat (m : Mem) (a n v : Nat) : Mem := Mem.writeBytes m a (natToBytes n v)

/-- Bits `hi` down to `lo` of a natural number. -/
def bits (v hi lo : Nat) : Nat := v / 2 ^ lo % 2 ^ (hi + 1 - lo)

/-- Bit `i` of a natural number. -/
def bit (v i : Nat) : Bool := v / 2 ^ i % 2 = 1

/-- `v` with bits `hi` down to `lo` set to `x` (of which the low bits count). -/
def setBits (v hi lo x : Nat) : Nat :=
  v - bits v hi lo * 2 ^ lo + x % 2 ^ (hi + 1 - lo) * 2 ^ lo

/-- 1 for true, 0 for false. -/
def b2n (b : Bool) : Nat := if b then 1 else 0

/-- Round `a` up to a multiple of `k`. -/
def ceilTo (a k : Nat) : Nat := (a + k - 1) / k * k

/-- The smallest natural number not below `a / k`. -/
def ceilDiv (a k : Nat) : Nat := (a + k - 1) / k

/-- The value a signed field of `w` bits spells. -/
def signed (w v : Nat) : Int := if v % 2 ^ w < 2 ^ (w - 1) then (v % 2 ^ w : Nat) else (v % 2 ^ w : Nat) - (2 ^ w : Nat)

/-- The list with element `i` replaced by `f` of it. -/
def listUpd {α : Type} (l : List α) (i : Nat) (f : α → α) : List α :=
  match l, i with
  | [], _ => []
  | x :: t, 0 => f x :: t
  | x :: t, n + 1 => x :: listUpd t n f

/-- Element `i` of a vector, or `d` beyond its end. -/
def vget {α : Type} {n : Nat} (d : α) (v : Vector α n) (i : Nat) : α := v[i]?.getD d

/-- A vector with element `i` replaced by `f` of it; unchanged where there is no such element. -/
def vupd {α : Type} {n : Nat} (d : α) (v : Vector α n) (i : Nat) (f : α → α) : Vector α n :=
  v.setIfInBounds i (f (vget d v i))

/-- Apply `f` for every element of a list, first to last. -/
def forEach {α β : Type} (l : List α) (f : α → β → β) (b : β) : β := l.foldl (fun b a => f a b) b

end Sys2Proof
end

