-- ==== Sys2Proof/Machine/Types.lean ====
section
/-!
DEFINITION. The plain data that commands and state share: poison marks, targets, requesters, coherence
requests, messages of the sites and of the fabric, and the outcomes the environment reports.
-/
namespace Sys2Proof

/-- The poison mark of a unit: the cause and DETAIL it gives whoever consumes it (R201, R287). -/
structure Mark where
  cause : Nat
  detail : Nat
  deriving DecidableEq, Repr

/-- Where an access ends: a unit of stacked memory by stack and stack address (R196, R197), a site's
aperture, a host window, a window of another package, or an unassigned address (R262). -/
inductive Tgt where
  | stacked (stack a : Nat)
  | site (n off : Nat)
  | host (win off : Nat)
  | remote (node win off : Nat)
  | unassigned (pa : Nat)
  deriving DecidableEq, Repr

/-- The parties that translate or read on their own behalf (R276), and the hub's own readers and writers: a walk of a
walker by its number, and what writes a context's completion or fault ring. -/
inductive Who where
  | tileFetch (t : Nat)
  | tileDma (t : Nat)
  | copy (id : Nat)
  | site (n : Nat) (txn : Nat)
  | fabWin (port win id : Nat)
  | reduce (port id : Nat)
  | host (fn id : Nat)
  | dispatcher (ring : Nat)
  | walker (p walk : Nat)
  | record (ctx : Nat) (flt : Bool)
  | welore
  deriving DecidableEq, Repr

/-- The access kinds of R267. -/
inductive AccKind where
  | read | write | exec | atomic
  deriving DecidableEq, Repr

/-- A record of R291: its code, whether it stalls and concerns the device, its context and words 4 to 15.
PHASE, OVERFLOW, DROPS and RING_POS are filled when it is written. -/
structure Rec where
  code : Nat
  stalling : Bool
  device : Bool
  ctx : Nat
  words : List Nat
  deriving DecidableEq, Repr

/-- The requests of R236, the recall of R244 and the eviction of R245. -/
inductive TKind where
  | rdShared | rdUnique
  | rdOnce (whole : Bool)
  | wrFull | wrPart
  | atomic (off width op : Nat) (operand compare : Nat)
  | writeback | evictClean | flushLine | takeBack | evict
  deriving DecidableEq, Repr

/-- Who waits for a transaction at a home: a site (with its KSP transaction number, or a CXL device's tag),
or one of the hub's non-caching requesters (R230), with a tag of its own. -/
inductive Req where
  | site (n txn : Nat)
  | agent (w : Who) (tag : Nat)
  | none
  deriving DecidableEq, Repr

/-- The state granted with DATA (R234). -/
inductive Grant where
  | s | e | m | none
  deriving DecidableEq, Repr

/-! ### Messages of a chiplet site (R296 to R318) -/

/-- A KSP message header (R306, R307). `addr` is ADDR[54:0]; in RSP messages `status` is STATUS. `w3` is
word 3. -/
structure KMsg where
  msg : Nat
  txn : Nat
  cls : Nat
  urg : Nat
  colour : Nat
  epoch : Nat
  poison : Bool
  addr : Nat
  virt : Bool
  hint : Nat
  unit : Nat
  grant : Nat
  dirty : Bool
  toReq : Bool
  toHome : Bool
  status : Nat
  w3 : Nat
  deriving DecidableEq, Repr

/-- FTYPE of a bond flit (R298); codes 4 to 7 are reserved. -/
inductive FType where
  | idle | hdr | hdrData | stream | reserved
  deriving DecidableEq, Repr

/-- The payload of a bond flit (R298): the link header and what follows it, by FTYPE. -/
structure Flit where
  seq : Nat
  ack : Nat
  ftype : FType
  nak : Bool
  credits : List Nat
  slots : List KMsg
  unit : UnitData
  stream : List Byte
  deriving DecidableEq, Repr

/-- How a received flit decodes (R297): to a payload, with the corrected logical bonds, or uncorrectable. -/
inductive FlitDec where
  | ok (payload : BitVec 704) (corrected : List Nat)
  | bad
  deriving DecidableEq, Repr

/-- The CXL device's snoop responses of R251. -/
inductive CxlRsp where
  | rspIHitI | rspIHitSE | rspSHitSE | rspSFwdM | rspIFwdM | rspVHitV | rspVFwdV
  deriving DecidableEq, Repr

/-- The outcome of reading one unit of a stack (R200): clean; corrected, with the symbols corrected;
delivered after one or two link retries; uncorrectable by the DRAM's own ECC; or uncorrectable in all three
reads. -/
inductive EccOutcome where
  | clean
  | corrected (symbols : List Nat)
  | linkRetry (reads : Nat) (symbols : List Nat)
  | dramUncorrectable
  | lineUncorrectable
  deriving DecidableEq, Repr

/-- What a plaza's own arrays do while it serves a request: the line it gives up if it needs a way (R245), units of the
line found uncorrectable (R256), and an entry whose copies disagree (R257) or both of whose copies fail (R258). The choice
of the way is internal to the hub (R228), so the command states it. -/
structure HomeEv where
  evict : Option Nat
  ue0 : Bool
  ue1 : Bool
  tagRepair : Bool
  tagDead : Bool
  deriving DecidableEq, Repr

/-! ### Packets of the on-die network (R329 to R343) -/

/-- The virtual networks of R330. -/
inductive Vn where
  | req | snp | rsp | dat | mgt
  deriving DecidableEq, Repr

/-- The messages that packets carry, as the table of R341 tells them apart: reads with the 64-byte units they ask for,
writes with the bytes of their payload, and answers with a status (0 good, 1 POISONED, 2 STALE, 3 DENIED). -/
inductive PktMsg where
  | rdOnce (units : Fin 3)
  | rdShared
  | rdUnique
  | mrd
  | memRd
  | wrFull
  | wrPart (bytes : Fin 129)
  | writeback
  | mwr
  | memWr
  | atomic
  | evictClean
  | flushLine
  | snoop
  | data (units : Fin 3)
  | comp (status : Fin 4)
  | wrAck (status : Fin 4)
  | wbAck (status : Fin 4)
  | memDone (status : Fin 4)
  | snpRsp
  | mgt
  deriving DecidableEq, Repr

/-- STANDING of R332. -/
inductive Standing where
  | inBudget | overBudget | system | background
  deriving DecidableEq, Repr

/-- A packet with its tags (R332). `src` and `dst` are attachments, 4 × router + attachment port; `point` is the
injection point of R346 that injects it, if one does. -/
structure Packet where
  src : Fin 768
  dst : Fin 768
  point : Option (Fin 113)
  msg : PktMsg
  ctx : Fin 4096
  device : Bool
  cls : Fin 16
  dotFast : Bool
  epoch : Fin 16
  colour : Bool
  urg : Fin 4
  standing : Standing
  poison : Fin 4
  deriving DecidableEq, Repr

/-- A packet in a router's buffer (R330): its data plane or, at 4, the control plane (R331); the router and the input port by
which it came in; the routers still ahead, of which the next `legA` are reached in phase A; whether its buffer is one of
phase A and whether it began in phase A (R334); and whether it has waited 2 µs there (R349). -/
structure Transit where
  pkt : Packet
  plane : Nat
  here : Nat
  port : Nat
  ahead : List Nat
  legA : Nat
  phaseA : Bool
  beganA : Bool
  aged : Bool
  deriving DecidableEq, Repr

/-- A packet that waits at its injection port: URG of the chiplet's message that asks for it (R348), whether its tags are set
already (an answer of the router itself), and whether it has waited 2 µs (R349). -/
structure Offer where
  pkt : Packet
  urg : Nat
  own : Bool
  aged : Bool
  deriving DecidableEq, Repr

/-- What happens in the network from one command to the next (R349): a router's output, or an injection port, chooses a
packet for a plane; or a packet under way, or one that waits to be injected, has now waited 2 µs. -/
inductive NetMove where
  | link (r : Fin 192) (out : Fin 4) (plane : Fin 5)
  | inject (a : Fin 768) (plane : Fin 5)
  | waited (i : Nat)
  | offered (i : Nat)
  deriving DecidableEq, Repr

/-- What a router finds wrong with a flit (R337): an error it corrects, units of the payload it cannot correct (bit i
for unit i), or a header it cannot correct. -/
inductive FlitFault where
  | corrected
  | payload (units : Fin 4)
  | header
  deriving DecidableEq, Repr

/-- The data that a packet carries, by where the hub holds it: none that the hub's units wait for; a message under way or a
unit that has arrived, at a place of its list; a write at its home, by its number in the tracker; a chiplet's DATA or WB_DATA
at a place of its site's inbox; a line read from memory, at its plaza; a write that waits at a stack's memory controller. -/
inductive Carried where
  | none
  | msg (i : Nat)
  | arrival (i : Nat)
  | txn (id : Nat)
  | inbox (n : Fin 6) (i : Nat)
  | line (key : Nat)
  | held (k : Fin 12) (i : Nat)
  deriving DecidableEq, Repr

/-- The counters of a block that have LO and HI registers (R508). -/
inductive CntReg where
  | cyc
  | val (i : Fin 8)
  | shdCyc
  | shd (i : Fin 8)
  deriving DecidableEq, Repr

/-- A unit that keeps an epoch (R432). -/
inductive QuarUnit where
  | tile (t : Fin 72)
  | cluster (c : Fin 18)
  | partition (p : Fin 3)
  | stack (k : Fin 12)
  | site (n : Fin 6)
  deriving DecidableEq, Repr

/-- A virtual network, plane and phase of a channel between routers (R330, R334). -/
structure NetChannel where
  vn : Fin 5
  plane : Fin 5
  phaseA : Bool
  deriving DecidableEq, Repr

/-- The flush marker of a unit at an attachment router, on one channel (R340). -/
structure FlushMarker where
  unit : QuarUnit
  router : Fin 192
  ch : NetChannel
  deriving DecidableEq, Repr

/-- What a unit says of a packet that it injects: the transaction of a chiplet's request that asks for it (R348), and the packet
delivered to the unit that it answers or serves, by its place, with whether it is the last to do so (R333). -/
structure Injection where
  txn : Fin 4096
  cause : Option (Nat × Bool)
  deriving DecidableEq, Repr

/-- An ejection: the attachment, the plane, whether the unit holds back REQ and SNP (R336), and whether an ABSORBED_WRITES record
was raised for it within the last 1 ms (R342). -/
structure Ejection where
  att : Fin 768
  plane : Fin 5
  holds : Bool
  quiet : Bool
  deriving DecidableEq, Repr

/-- What the bonds of a module carry for one flit: the 88 payload symbols that were sent, and what the physical bonds add to
their symbols on the way (R297). -/
structure BondFlit where
  payload : BitVec 704
  errors : List (Fin 100 × BitVec 8)
  deriving DecidableEq, Repr

/-- The modules that lose their forwarded clock, and those of which both bonds of a valid pair fail (R302, R322). -/
structure LostModules where
  clocks : BitVec 64
  valid : BitVec 64
  deriving DecidableEq, Repr

/-- What the lanes of a fabric port deliver: whether the codewords were good or corrected, and the 640 bytes (R359). -/
structure LaneFlit where
  codeword : Bool
  bytes : BitVec 5120
  deriving DecidableEq, Repr

/-- The PLLs whose loss of lock R499 describes; a fabric PLL serves one short edge, 0 west and 1 east (R495). -/
inductive Pll where
  | tile (p : Fin 3)
  | stack (k : Fin 12)
  | site (n : Fin 6)
  | fabric (edge : Fin 2)
  | network
  | management
  deriving DecidableEq, Repr

/-- A power field (R493). -/
inductive PowerField where
  | stack (k : Fin 12)
  | site (n : Fin 6)
  deriving DecidableEq, Repr

/-! ### What bring-up finds (R422 to R425) -/

/-- How a stack's training ends: trained, with the bonds that took a spare (128 × module + bond) and the modules retired;
failed after three attempts; or with a channel lost; with the bonds that had taken a spare by then (R38). -/
inductive StackTrain where
  | trained (spared : List (Fin 8192)) (retired : List (Fin 64))
  | failed (spared : List (Fin 8192))
  | channelLost (spared : List (Fin 8192))
  deriving DecidableEq, Repr, Inhabited

/-- How the training of a site's modules ends: with the bonds that took a spare (128 × module + bond) and the modules retired. -/
inductive SiteTrain where
  | trained (spared : List (Fin 8192)) (retired : List (Fin 64))
  | failed
  deriving DecidableEq, Repr

/-- How a fabric port's training ends: with the lanes that both ends can keep, without a peer, or failed. -/
inductive PortTrain where
  | trained (lanes : BitVec 8)
  | noPeer
  | failed
  deriving DecidableEq, Repr

/-- The outcomes of stage S3; a unit without an entry has no outcome. `west` and `east` are the Crossing links trained. -/
structure Training where
  stks : Vector (Option StackTrain) 12
  sites : Vector (Option SiteTrain) 6
  ports : Vector (Option PortTrain) 16
  west : BitVec 8
  east : BitVec 8
  deriving DecidableEq, Repr

/-- What the self-test of stage S4 finds: the units that fail. -/
structure SelfTest where
  tiles : List (Fin 72)
  clusters : List (Fin 18)
  plazas : List (Fin 36)
  stks : List (Fin 12)
  partitions : List (Fin 3)
  transit : Bool
  hostPort : Bool
  welore : Bool
  deriving DecidableEq, Repr

/-- A unit's last dwell of stage S5: errors and bits counted, and for a fabric port an uncorrectable codeword. -/
structure Dwell where
  errors : Nat
  bits : Nat
  uncorrectable : Bool
  deriving DecidableEq, Repr

/-- The outcomes of stage S5: the dwells of stacks, sites, ports, the host port and Crossing links (8 × Crossing + row),
and what the monitors did meanwhile: bonds spared, modules retired, and the lanes that ports have left. -/
structure Qualification where
  stks : Vector (Option Dwell) 12
  sites : Vector (Option Dwell) 6
  ports : Vector (Option Dwell) 16
  host : Option Dwell
  links : Vector (Option Dwell) 16
  stackSpared : List (Fin 12 × Fin 8192)
  stackRetired : List (Fin 12 × Fin 64)
  siteSpared : List (Fin 6 × Fin 8192)
  siteRetired : List (Fin 6 × Fin 64)
  portLanes : List (Fin 16 × BitVec 8)
  deriving DecidableEq, Repr

/-! ### Messages of the fabric (R359 to R364) -/

/-- A KFL message (R362, R363): header fields, words 2 and 3, and the payload with the marks of its poisoned
units. -/
structure KflMsg where
  msg : Nat
  len : Nat
  cls : Nat
  vl : Nat
  fmt : Nat
  hops : Nat
  dst : Nat
  src : Nat
  w2 : Nat
  w3 : Nat
  payload : List UnitData
  marks : List (Option Mark)
  deriving DecidableEq, Repr

/-- A 16-byte slot of the stream of messages (R359): its bits, whether a header begins in it, and the header of the message
that ends with it. -/
structure KflSlot where
  word : Nat
  head : Bool
  tail : Option Nat
  deriving DecidableEq, Repr

/-- A KFL flit (R359): its fields, with IDLE or MSG as its type, the credits it returns as counter and units, and the 39
slots of its message area; for a flit that this package sends, the headers of the messages that end in it. -/
structure KflFlit where
  seq : Nat
  ack : Nat
  idle : Bool
  nak : Bool
  first : Nat
  credits : List (Nat × Nat)
  slots : List Nat
  ends : List Nat
  deriving DecidableEq, Repr

/-! ### The host port (R390 to R415) -/

/-- What a configuration write changes (R398, R402, R404, R408 to R410): Memory Space Enable, Bus Master Enable, the
D-state, the Completion Timeout Value, MSI-X Enable and Function Mask, a BAR, VF Enable with NumVFs (the physical
function's), and the uncorrectable-error mask, severity, status (write 1 to clear) and reporting enables. -/
inductive CfgWrite where
  | mse (on : Bool)
  | bme (on : Bool)
  | d0 (on : Bool)
  | cto (v : Fin 16)
  | msix (enable mask : Bool)
  | bar (i : Fin 6) (v : BitVec 32)
  | numVfs (n : Fin 128)
  | vfEnable (on : Bool)
  | aerMask (v : BitVec 32)
  | aerSeverity (v : BitVec 32)
  | aerClear (v : BitVec 32)
  | errEnables (fatal nonfatal : Bool)
  deriving DecidableEq, Repr

/-- A write to a function's MSI-X structures (R410): one 32-bit word of an entry, or the control word. -/
inductive MsixWrite where
  | entry (v : Fin 4096) (word : Fin 4) (data : BitVec 32)
  | control (enable mask : Bool)
  deriving DecidableEq, Repr

/-- What every request of the host carries: the function, its tag, the IDE stream it came on with the T bit (R414),
and whether it is poisoned. -/
structure HostTlp where
  fn : Fin 128
  tag : BitVec 14
  stream : Option (Fin 8)
  poisoned : Bool
  deriving DecidableEq, Repr

/-- An instruction of the test access port (R473, R554): the public ones, EXTEST of the back-face pins, a request to
open or close a test gate, and any other instruction, by a code of the integrator's description. -/
inductive TapInstr where
  | idcode
  | bypass
  | samplePreload
  | extest
  | gate (g : Fin 48) (on : Bool)
  | other (code : BitVec 8)
  deriving DecidableEq, Repr

/-- How the host completed a read of the hub (R399). -/
inductive CplStatus where
  | ok | ur | ca | ep
  deriving DecidableEq, Repr

end Sys2Proof
end

