-- ==== Sys2Proof/Syntax.lean ====
section
/-!
DEFINITION. The commands of the block: one constructor for each row of the command table, in the table's
order, with the row's operands. Operands that name a unit are bounded by the unit's identities (R24);
operands of a structure type carry what the world outside the hub decides: what a message holds, how a
measurement or a test ended, what an outside device answered.
-/
namespace Sys2Proof

/-- The commands. -/
inductive Instr where
  /-- ALU_INSTRUCTION (R43): the control core executes an integer, multiply, divide, branch or jump
  instruction of its implemented RV64IMAC subset. -/
  | aluInstruction (t : Fin 72)
  /-- LOAD (R47): A load reaches the local map (tile store, DMEM or task block), or raises an access,
  misalignment or STORE_UE exception. -/
  | load (t : Fin 72) (ue : Bool)
  /-- STORE (R47): A store writes the tile store or user DMEM, or raises an access or misalignment
  exception. -/
  | store (t : Fin 72)
  /-- AMO (R46): an LR, SC or AMO instruction operates on DMEM, or faults on any other address. -/
  | amo (t : Fin 72) (ue : Bool)
  /-- FENCE_I (R48): fence.i invalidates the instruction cache so that later fetches refill it. -/
  | fenceI (t : Fin 72)
  /-- EBREAK (R53): ebreak ends the task with BREAKPOINT, or halts the tile for the debugger when
  operator debug is enabled. -/
  | ebreak (t : Fin 72)
  /-- WFI (R46): wfi raises illegal instruction in user mode, and waits for the abort interrupt in
  machine mode. -/
  | wfi (t : Fin 72)
  /-- CSR_ACCESS (R67): A csr instruction reads an Xkolgil or counter CSR; a write to an Xkolgil CSR,
  or a read of time, raises illegal instruction. -/
  | csrAccess (t : Fin 72)
  /-- INSTRUCTION_FETCH (R48): A user-mode fetch translates through the cluster translation cache,
  stalls on a fault, or ends the task on poison. -/
  | instructionFetch (t : Fin 72)
  /-- TASK_END (R51): ecall with a7 = 0 waits until every queue is empty and then reports the tile
  done. -/
  | taskEnd (t : Fin 72)
  /-- TASK_FAIL (R51): ecall with a7 = 1 discards unstarted commands and reports the tile failed with
  USER_FAIL and the code in a0. -/
  | taskFail (t : Fin 72)
  /-- TRACE (R51): ecall with a7 = 2 appends a0 to the trace buffer if operator debug is enabled. -/
  | trace (t : Fin 72)
  /-- ILLEGAL_ECALL (R51): ecall with any other function number ends the tile with ILLEGAL_ECALL. -/
  | illegalEcall (t : Fin 72)
  /-- XK_ISSUE (R60): xk.issue reads and checks a command block, assigns a ticket and queues the
  command, stalling while the queue is full. -/
  | xkIssue (t : Fin 72) (ue : Option (Fin 8))
  /-- XK_WAIT (R55): xk.wait stalls until the ticket completes and returns its status word, or raises
  exception 25 for an unissued ticket. -/
  | xkWait (t : Fin 72)
  /-- XK_TEST (R55): xk.test returns the status word of a completed ticket, or 0 if it is pending,
  without stalling. -/
  | xkTest (t : Fin 72)
  /-- XK_QFENCE (R55): xk.qfence stalls until every command issued to the masked queues has completed.
  -/
  | xkQfence (t : Fin 72)
  /-- XK_BPUT (R61): xk.bput writes a 64-bit value to a broadcast port at once. -/
  | xkBput (t : Fin 72)
  /-- XK_BGET (R55): xk.bget reads a broadcast port. -/
  | xkBget (t : Fin 72)
  /-- XK_BAR (R61): xk.bar counts the tile's arrival at a task barrier and stalls until every tile of
  the task has arrived. -/
  | xkBar (t : Fin 72)
  /-- BARRIER_RELEASE (R61): after the last arrival, the barrier releases every waiting tile and
  advances to its next use. -/
  | barrierRelease (id : Nat) (b : Fin 4)
  /-- COMMAND_START (R59): the engine takes a queued command once its header dependencies and all
  earlier commands of its queue allow it. -/
  | commandStart (t : Fin 72) (q : Fin 4)
  /-- COMMAND_COMPLETE (R57): an engine command completes in ticket order, freeing its queue entry and
  recording its status flags. -/
  | commandComplete (t : Fin 72) (q : Fin 4)
  /-- COPY_IN (R65): A DMA command moves rows from device virtual memory into the tile store through
  translation. -/
  | copyIn (t : Fin 72)
  /-- COPY_OUT (R65): A DMA command moves rows from the tile store to device virtual memory with its
  write hint. -/
  | copyOut (t : Fin 72)
  /-- CS_IN (R64): A DMA command moves rows from the cluster-store window into the tile store. -/
  | csIn (t : Fin 72)
  /-- CS_OUT (R64): A DMA command moves rows from the tile store into the cluster-store window. -/
  | csOut (t : Fin 72)
  /-- DMA_TRANSFER_UNIT (R64): the cluster DMA engine takes a transfer unit of at most 2 KiB from the
  next participant in round robin. -/
  | dmaTransferUnit (c : Fin 18)
  /-- MATMUL (R77): the matrix engine computes C = A·B in the wide or thin shape and writes output
  tiles to the tile store or the finished-tile queue. -/
  | matmul (t : Fin 72) (bad : Option (Fin 65536)) (mismatch : Bool)
  /-- FTQ_SLOT_FULL (R99): sixteen tile cycles after FILLING, a finished-tile queue slot becomes FULL.
  -/
  | ftqSlotFull (t : Fin 72)
  /-- FTQ_DEADLOCK (R103): after 256 tile cycles with the core stalled and no queued command able to
  progress, the task ends with FTQ_DEADLOCK. -/
  | ftqDeadlock (t : Fin 72)
  /-- VOP_COPY (R140): VOP COPY converts X element-wise into OUT_FMT. -/
  | vopCopy (t : Fin 72) (bad : Option (Fin 65536))
  /-- VOP_ADD (R140): VOP ADD computes X + Y element-wise. -/
  | vopAdd (t : Fin 72) (bad : Option (Fin 65536))
  /-- VOP_SUB (R140): VOP SUB computes X − Y element-wise. -/
  | vopSub (t : Fin 72) (bad : Option (Fin 65536))
  /-- VOP_MUL (R140): VOP MUL computes X · Y element-wise. -/
  | vopMul (t : Fin 72) (bad : Option (Fin 65536))
  /-- VOP_FMA (R140): VOP FMA computes X · Y + Z with one rounding. -/
  | vopFma (t : Fin 72) (bad : Option (Fin 65536))
  /-- VOP_MAX (R140): VOP MAX computes the IEEE 754 maximum of X and Y. -/
  | vopMax (t : Fin 72) (bad : Option (Fin 65536))
  /-- VOP_MIN (R140): VOP MIN computes the IEEE 754 minimum of X and Y. -/
  | vopMin (t : Fin 72) (bad : Option (Fin 65536))
  /-- VOP_ABS (R140): VOP ABS clears the sign of X. -/
  | vopAbs (t : Fin 72) (bad : Option (Fin 65536))
  /-- VOP_NEG (R140): VOP NEG inverts the sign of X. -/
  | vopNeg (t : Fin 72) (bad : Option (Fin 65536))
  /-- VOP_EXP (R157): VOP EXP computes e to the power X within 1 ulp. -/
  | vopExp (t : Fin 72) (bad : Option (Fin 65536))
  /-- VOP_LOG (R157): VOP LOG computes ln X within 1 ulp. -/
  | vopLog (t : Fin 72) (bad : Option (Fin 65536))
  /-- VOP_RCP (R157): VOP RCP computes 1/X within 1 ulp. -/
  | vopRcp (t : Fin 72) (bad : Option (Fin 65536))
  /-- VOP_RSQRT (R157): VOP RSQRT computes 1/√X within 1 ulp. -/
  | vopRsqrt (t : Fin 72) (bad : Option (Fin 65536))
  /-- VOP_TANH (R157): VOP TANH computes tanh X within 2 ulp. -/
  | vopTanh (t : Fin 72) (bad : Option (Fin 65536))
  /-- VOP_ERF (R157): VOP ERF computes erf X within 2 ulp. -/
  | vopErf (t : Fin 72) (bad : Option (Fin 65536))
  /-- VOP_CMPLT (R140): VOP CMPLT writes a mask bit set where X < Y. -/
  | vopCmplt (t : Fin 72) (bad : Option (Fin 65536))
  /-- VOP_CMPLE (R140): VOP CMPLE writes a mask bit set where X ≤ Y. -/
  | vopCmple (t : Fin 72) (bad : Option (Fin 65536))
  /-- VOP_CMPEQ (R140): VOP CMPEQ writes a mask bit set where X = Y. -/
  | vopCmpeq (t : Fin 72) (bad : Option (Fin 65536))
  /-- VOP_SEL (R140): VOP SEL selects X where the mask bit is 1 and Y otherwise. -/
  | vopSel (t : Fin 72) (bad : Option (Fin 65536))
  /-- VOP_URAND (R159): VOP URAND writes a uniform value in [0, 1) from sr_draw of the seed and
  logical index. -/
  | vopUrand (t : Fin 72) (bad : Option (Fin 65536))
  /-- COMPRESS (R147): COMPRESS packs the elements selected by the mask and writes their count and
  optional indices. -/
  | compress (t : Fin 72) (bad : Option (Fin 65536))
  /-- EXPAND (R148): EXPAND places packed elements at the set positions of the mask and fills the
  other positions from Y or +0. -/
  | expand (t : Fin 72) (bad : Option (Fin 65536))
  /-- MXPACK (R149): MXPACK encodes each row into MX blocks with E8M0 scales under R111. -/
  | mxpack (t : Fin 72) (bad : Option (Fin 65536))
  /-- RSUM (R153): RSUM with SCAN 0 sums each row in the task's class. -/
  | rsum (t : Fin 72) (bad : Option (Fin 65536))
  /-- RSUM_INCLUSIVE_SCAN (R153): RSUM with SCAN 1 writes the inclusive prefix sums of each row. -/
  | rsumInclusiveScan (t : Fin 72) (bad : Option (Fin 65536))
  /-- RSUM_EXCLUSIVE_SCAN (R153): RSUM with SCAN 2 writes the exclusive prefix sums of each row. -/
  | rsumExclusiveScan (t : Fin 72) (bad : Option (Fin 65536))
  /-- RMAX (R155): RMAX writes the highest element of each row under the ranking order. -/
  | rmax (t : Fin 72) (bad : Option (Fin 65536))
  /-- RMIN (R155): RMIN writes the lowest element of each row, or NaN if the row holds a NaN. -/
  | rmin (t : Fin 72) (bad : Option (Fin 65536))
  /-- RARGMAX (R155): RARGMAX writes the highest element of each row and its index. -/
  | rargmax (t : Fin 72) (bad : Option (Fin 65536))
  /-- RTOPK (R155): RTOPK writes the K highest elements of each row in descending order, with their
  indices. -/
  | rtopk (t : Fin 72) (bad : Option (Fin 65536))
  /-- TASK_DELIVERY (R50): the dispatcher delivers a task to a tile, which zeroes stores on a context
  change, resets its state and enters user mode. -/
  | taskDelivery (t : Fin 72)
  /-- ABORT_INTERRUPT (R63): partition control's abort interrupt stops the tile's task: stalls end,
  unstarted commands are discarded and running commands stop at a tile boundary. -/
  | abortInterrupt (t : Fin 72)
  /-- TILE_REPORT (R52): A tile's done or failure report reaches its dispatcher, and the task
  completes when every tile has reported. -/
  | tileReport (t : Fin 72)
  /-- DOORBELL (R164): A write to RING_DB raises the producer count, re-evaluates the head fence, or
  is ignored and may set OVERRUN. -/
  | doorbell (r : Fin 16384) (v : BitVec 32)
  /-- DESCRIPTOR_FETCH (R165): the dispatcher reads the next descriptor position below P and keeps its
  own copy. -/
  | descriptorFetch (r : Fin 16384)
  /-- DISPATCH (R176): A head descriptor is dispatched once it passes its checks, its fences are met,
  it holds a completion slot and it is placed. -/
  | dispatch (r : Fin 16384)
  /-- TASK_PLACEMENT (R185): the home dispatcher places a waiting TASK on free tiles by its MASK, PART
  or ANY form and grants its windows. -/
  | taskPlacement (r : Fin 16384)
  /-- TASK_RESERVING (R186): A TASK that has waited 100 µs for placement becomes reserving and fixes
  its tiles. -/
  | taskReserving (r : Fin 16384)
  /-- NOP (R174): A NOP descriptor does nothing except its fences, signal and record. -/
  | nop (id : Nat)
  /-- TASK (R170): A TASK descriptor runs a tile program on the tiles of its placement. -/
  | task (id : Nat)
  /-- COPY (R172): A COPY descriptor moves rows between two device virtual addresses on a chosen
  cluster DMA engine. -/
  | copy (id : Nat)
  /-- REDUCE (R173): A REDUCE descriptor reads its reduction descriptor and hands its vector to the
  cairns. -/
  | reduce (id : Nat)
  /-- BARRIER (R174): A BARRIER descriptor completes when every earlier dispatched descriptor of its
  context has completed. -/
  | barrier (id : Nat)
  /-- SNAPSHOT (R174): A SNAPSHOT descriptor asks Welore for a snapshot and completes with that
  snapshot's sequence number. -/
  | snapshot (id : Nat)
  /-- RESUME_PAGE (R175): A RESUME_PAGE descriptor answers one pending-fault record by retrying or
  aborting its requesters. -/
  | resumePage (id : Nat)
  /-- DESCRIPTOR_COMPLETE (R182): A descriptor completes: the histogram block and record are written,
  the fence is signalled and the interrupt is sent. -/
  | descriptorComplete (id : Nat)
  /-- CONTEXT_ENABLE (R188): A write of 1 to CTX_CTRL.ENABLE checks the areas and page-table root and
  makes the context ACTIVE, or records ENABLE_PENDING during a drain. -/
  | contextEnable (c : Fin 4096)
  /-- CONTEXT_DRAIN (R188): A write of 0 to CTX_CTRL.ENABLE starts the drain: fetch stops and running
  work is stopped. -/
  | contextDrain (c : Fin 4096)
  /-- CONTEXT_QUIESCED (R188): with every request answered and every record written, the draining
  context becomes QUIESCED and releases its resources. -/
  | contextQuiesced (c : Fin 4096)
  /-- CONTEXT_OFF (R189): the context becomes OFF, or becomes ACTIVE again at once if ENABLE_PENDING
  is set. -/
  | contextOff (c : Fin 4096)
  /-- RING_ENABLE (R163): A write of 1 to RING_CTRL.ENABLE checks and holds the ring's translation, or
  sets MAP_ERROR. -/
  | ringEnable (r : Fin 16384)
  /-- RING_DISABLE (R190): clearing RING_CTRL.ENABLE stops fetch and dispatch and discards fetched
  undispatched descriptors. -/
  | ringDisable (r : Fin 16384)
  /-- CQ_HEAD_WRITE (R179): A write of CQ_HEAD frees completion slots, or is ignored beyond CQ_TAIL.
  -/
  | cqHeadWrite (c : Fin 4096) (v : BitVec 32)
  /-- MRD (R200): A memory controller reads a 64-byte unit and ends in clean, corrected, link retry,
  uncorrectable or poisoned. -/
  | mrd (k : Fin 12) (u : Fin (2 ^ 30)) (ev ev2 : EccOutcome)
  /-- MWR (R194): A memory controller writes a whole 64-byte unit with new ECC and encryption. -/
  | mwr (k : Fin 12) (u : Fin (2 ^ 30)) (symbols : List Nat)
  /-- MIRROR_HEAL (R207): mirror data for an uncorrectable primary unit is delivered to the requester
  and written back to the primary. -/
  | mirrorHeal (k : Fin 12) (u : Fin (2 ^ 30)) (ev2 : EccOutcome)
  /-- BOND_MONITOR_WINDOW (R211): A bond monitor window ends and its correction counts restart. -/
  | bondMonitorWindow (k : Fin 12) (m : Fin 64)
  /-- PATROL_READ (R203): the memory controller patrol-reads the next unit of its stack and writes
  back corrected units. -/
  | patrolRead (k : Fin 12) (ev ev2 : EccOutcome)
  /-- MODULE_RETRAIN_START (R212): at the module's next refresh interval, the controller stops issuing
  to it and holds its requests while it retrains onto a spare. -/
  | moduleRetrainStart (k : Fin 12) (m : Fin 64)
  /-- MODULE_RETRAIN_DONE (R212): the module retrain completes, held requests issue in order and
  Welore records BOND_SPARED. -/
  | moduleRetrainDone (k : Fin 12) (m : Fin 64)
  /-- STK_CTRL_RETRAIN (R212): A write of STK_CTRL.RETRAIN schedules a retrain of the named module. -/
  | stkCtrlRetrain (k : Fin 12) (m : Fin 64)
  /-- STK_CTRL_ISOLATE (R218): A write of STK_CTRL.ISOLATE isolates the stack. -/
  | stkCtrlIsolate (k : Fin 12)
  /-- STK_CTRL_REJOIN (R220): A write of STK_CTRL.REJOIN to an ISOLATED stack retrains it and enters
  QUARANTINE. -/
  | stkCtrlRejoin (k : Fin 12) (t : StackTrain)
  /-- STACK_REJOIN_FILL_DONE (R220): the rejoining stack's poison fill and mirror copies end, and the
  epoch steps begin. -/
  | stackRejoinFillDone (k : Fin 12)
  /-- STACK_CLOCK_LOST (R218): the stack's forwarded clock stops, and the stack is isolated. -/
  | stackClockLost (k : Fin 12)
  /-- STACK_TRAINING_LOST (R218): the stack port loses training, and the stack is isolated. -/
  | stackTrainingLost (k : Fin 12)
  /-- STACK_BASE_RESET (R218): the Kolgil Memory Base reports a reset, and the stack is isolated. -/
  | stackBaseReset (k : Fin 12)
  /-- STACK_SWEEP_DONE (R218): the plazas finish sweeping the isolated stack's lines and Welore
  records STACK_ISOLATED. -/
  | stackSweepDone (k : Fin 12)
  /-- STACK_TEMP_REPORT (R215): A Kolgil Memory Base reports its die temperatures. -/
  | stackTempReport (k : Fin 12) (dies : Vector (BitVec 8) 16) (base : BitVec 8)
  /-- THROTTLE_STEP_DOWN (R216): after each 20 µs that the stack stays hot, the ceiling of its
  clusters falls by 100 MHz. -/
  | throttleStepDown (k : Fin 12)
  /-- THROTTLE_STEP_UP (R216): after each 200 µs below the hysteresis point, the ceiling rises by 100
  MHz. -/
  | throttleStepUp (k : Fin 12)
  /-- TELEMETRY_STALE (R217): A stack whose report has not arrived for 100 µs is treated as hot. -/
  | telemetryStale (k : Fin 12)
  /-- SRT_VALID_SET (R204): setting SRT_n_CTRL.VALID checks the shared region and activates it, or
  sets CFG_ERROR. -/
  | srtValidSet (n : Fin 256) (mirrored : Bool)
  /-- SRT_VALID_CLEAR (R210): clearing SRT_n_CTRL.VALID deactivates the entry and resets its counts.
  -/
  | srtValidClear (n : Fin 256) (mirrored : Bool)
  /-- TRACKER_START (R235): the home starts the oldest waiting transaction on a line when the line
  unblocks. -/
  | trackerStart (k : Fin 12) (l : Fin (2 ^ 29)) (ev : HomeEv)
  /-- RD_SHARED (R236): the home serves a read for sharing from the plaza, memory or the owning site.
  -/
  | rdShared (k : Fin 12) (l : Fin (2 ^ 29)) (ev : HomeEv)
  /-- RD_UNIQUE (R236): the home grants ownership of a line to the requester after invalidating or
  forwarding. -/
  | rdUnique (k : Fin 12) (l : Fin (2 ^ 29)) (ev : HomeEv)
  /-- RD_ONCE (R236): the home returns a current copy of a line without granting a state. -/
  | rdOnce (k : Fin 12) (l : Fin (2 ^ 29)) (ev : HomeEv)
  /-- WR_FULL (R236): the home merges a full-line write under its hint and acknowledges it. -/
  | wrFull (k : Fin 12) (l : Fin (2 ^ 29)) (ev : HomeEv)
  /-- WR_PART (R236): the home merges a masked write, recalling an owner and reading partial units
  first. -/
  | wrPart (k : Fin 12) (l : Fin (2 ^ 29)) (ev : HomeEv)
  /-- ATOMIC (R240): the home performs an atomic operation on a line it holds alone and returns the
  old value. -/
  | atomic (k : Fin 12) (l : Fin (2 ^ 29)) (ev : HomeEv)
  /-- WRITEBACK (R236): the home stores an owner's dirty line and frees its entry, or answers STALE.
  -/
  | writeback (k : Fin 12) (l : Fin (2 ^ 29))
  /-- EVICT_CLEAN (R236): the home frees an owner's entry for a clean eviction, or answers STALE. -/
  | evictClean (k : Fin 12) (l : Fin (2 ^ 29))
  /-- FLUSH_LINE (R236): the home recalls, invalidates and writes back a line and acknowledges. -/
  | flushLine (k : Fin 12) (l : Fin (2 ^ 29))
  /-- SNP_FWD_SHARED (R236): A forwarding snoop for sharing reaches the owning site agent. -/
  | snpFwdShared (n : Fin 6)
  /-- SNP_FWD_UNIQUE (R236): A forwarding snoop for ownership reaches the owning site agent. -/
  | snpFwdUnique (n : Fin 6)
  /-- SNP_FWD_ONCE (R236): A forwarding snoop for a one-time read reaches the owning site agent. -/
  | snpFwdOnce (n : Fin 6)
  /-- SNP_RECALL (R236): A recall snoop reaches the owning site agent, which returns the line and
  invalidates. -/
  | snpRecall (n : Fin 6)
  /-- SNP_DROP (R236): A drop snoop reaches the owning site agent, which invalidates without data. -/
  | snpDrop (n : Fin 6)
  /-- SNP_INV_PASS (R242): an SNP_INV passes a site stop, which forwards it to a caching site in
  service and sets its RESP_MASK bit. -/
  | snpInvPass (n : Fin 6) (txn : Nat)
  /-- SNP_INV_RETURN (R241): an SNP_INV returns to its origin stop and the home waits for the
  responses named in RESP_MASK. -/
  | snpInvReturn (txn : Nat)
  /-- RING_SLOT_MARK (R241): A stop that has waited 128 cycles to inject marks the next passing slot
  for itself. -/
  | ringSlotMark (stop : Fin 42)
  /-- SNP_RSP (R236): A snoop response reaches the home. -/
  | snpRsp (n : Fin 6)
  /-- COMP_ACK (R236): A requester's COMP_ACK reaches the home and unblocks the line. -/
  | compAck (n : Fin 6)
  /-- WB_DATA (R236): an owner's write-back data reaches the home and is stored. -/
  | wbData (n : Fin 6)
  /-- STASH_ACK (R247): A site's STASH_ACK reaches the home and unblocks the pushed line. -/
  | stashAck (n : Fin 6)
  /-- MEM_DONE (R236): A memory controller's MEM_DONE reaches the home. -/
  | memDone (i : Nat)
  /-- DATA (R236): DATA reaches a requester or is routed to it by DEST. -/
  | data (src : Option (Fin 6)) (i : Nat)
  /-- COMP (R236): COMP, OK or POISONED, reaches a requester. -/
  | comp (i : Nat)
  /-- WR_ACK (R231): WR_ACK reaches the writer, completing its write. -/
  | wrAck (i : Nat)
  /-- WB_ACK (R236): WB_ACK, OK or STALE, reaches the site. -/
  | wbAck (i : Nat)
  /-- SNOOP_TIMEOUT (R233): A site that has not answered a snoop within PLZ_CTRL.SNP_TIMEOUT is
  declared ABSENT. -/
  | snoopTimeout (n : Fin 6)
  /-- FLUSH_ALL (R260): A write of PLZ_CTRL.FLUSH_ALL writes every dirty plaza unit to memory. -/
  | flushAll
  /-- FLUSH_ALL_DONE (R260): the FLUSH_ALL ends and FLUSH_BUSY clears. -/
  | flushAllDone
  /-- CXL_RDSHARED (R250): A CXL RdShared becomes RD_SHARED and is answered with data and GO-S. -/
  | cxlRdshared (n : Fin 6) (tag : Fin 4096) (pa : BitVec 52)
  /-- CXL_RDANY (R250): A CXL RdAny becomes RD_SHARED and is answered with data and GO-S. -/
  | cxlRdany (n : Fin 6) (tag : Fin 4096) (pa : BitVec 52)
  /-- CXL_RDOWN (R250): A CXL RdOwn becomes RD_UNIQUE and is answered with data and GO-E or GO-M. -/
  | cxlRdown (n : Fin 6) (tag : Fin 4096) (pa : BitVec 52)
  /-- CXL_RDOWNNODATA (R250): A CXL RdOwnNoData becomes RD_UNIQUE, and the data is discarded at the
  bridge. -/
  | cxlRdownnodata (n : Fin 6) (tag : Fin 4096) (pa : BitVec 52)
  /-- CXL_RDCURR (R250): A CXL RdCurr becomes RD_ONCE and is answered with data and GO-I. -/
  | cxlRdcurr (n : Fin 6) (tag : Fin 4096) (pa : BitVec 52)
  /-- CXL_ITOMWR (R250): A CXL ItoMWr becomes a write with hint DEFAULT and is answered GO-I after
  WR_ACK. -/
  | cxlItomwr (n : Fin 6) (tag : Fin 4096) (pa : BitVec 52) (data : LineData) (mask : BitVec 128) (poison : Bool)
  /-- CXL_WRCUR (R250): A CXL WrCur becomes a write and is answered GO-I after WR_ACK. -/
  | cxlWrcur (n : Fin 6) (tag : Fin 4096) (pa : BitVec 52) (data : LineData) (mask : BitVec 128) (poison : Bool)
  /-- CXL_WRINV (R250): A CXL WrInv becomes a write and is answered GO-I after WR_ACK. -/
  | cxlWrinv (n : Fin 6) (tag : Fin 4096) (pa : BitVec 52) (data : LineData) (mask : BitVec 128) (poison : Bool)
  /-- CXL_WOWRINV (R250): A CXL WOWrInv becomes a write and is answered GO-I after WR_ACK. -/
  | cxlWowrinv (n : Fin 6) (tag : Fin 4096) (pa : BitVec 52) (data : LineData) (mask : BitVec 128) (poison : Bool)
  /-- CXL_WOWRINVF (R250): A CXL WOWrInvF becomes a write and is answered GO-I after WR_ACK. -/
  | cxlWowrinvf (n : Fin 6) (tag : Fin 4096) (pa : BitVec 52) (data : LineData) (mask : BitVec 128) (poison : Bool)
  /-- CXL_DIRTYEVICT (R250): A CXL DirtyEvict becomes WRITEBACK via GO-WritePull and GO-I after
  WB_ACK. -/
  | cxlDirtyevict (n : Fin 6) (tag : Fin 4096) (pa : BitVec 52)
  /-- CXL_CLEANEVICT (R250): A CXL CleanEvict becomes EVICT_CLEAN and is answered GO-I after WB_ACK.
  -/
  | cxlCleanevict (n : Fin 6) (tag : Fin 4096) (pa : BitVec 52)
  /-- CXL_CLEANEVICTNODATA (R250): A CXL CleanEvictNoData becomes EVICT_CLEAN and is answered GO-I
  after WB_ACK. -/
  | cxlCleanevictnodata (n : Fin 6) (tag : Fin 4096) (pa : BitVec 52)
  /-- CXL_CLFLUSH (R250): A CXL CLFlush becomes FLUSH_LINE and is answered GO-I after WR_ACK. -/
  | cxlClflush (n : Fin 6) (tag : Fin 4096) (pa : BitVec 52)
  /-- CXL_CACHEFLUSHED (R250): A CXL CacheFlushed is accepted with no effect. -/
  | cxlCacheflushed (_n : Fin 6)
  /-- CXL_OTHER_REQUEST (R250): any other CXL device-to-host request is answered GO-Err without
  effect. -/
  | cxlOtherRequest (n : Fin 6)
  /-- CXL_SNOOP_RESPONSE (R251): A CXL device's snoop response is turned by the bridge into SNP_RSP
  and onward data. -/
  | cxlSnoopResponse (n : Fin 6) (k : Fin 12) (l : Fin (2 ^ 29)) (r : CxlRsp)
  /-- SITE_OWNER_SWEEP_DONE (R253): the plazas finish sweeping an absent site's owner entries, and
  Welore records SITE_ABSENT. -/
  | siteOwnerSweepDone (n : Fin 6)
  /-- TRANSLATION_WALK_STEP (R266): A page-table entry read returns to the walker, which descends,
  finds the leaf and checks it, or faults. -/
  | translationWalkStep (p : Fin 3) (i : Nat)
  /-- FAULT_ARRIVAL (R278): A fault reaching its fault-home walker joins a live entry or allocates a
  new one, or stalls without a record. -/
  | faultArrival (p : Fin 3) (i : Fin 256)
  /-- FAULT_RECORD_DELIVERY (R280): an UNDELIVERED entry's record is written to its fault ring once
  the ring has space. -/
  | faultRecordDelivery (p : Fin 3)
  /-- KEPT_RECORD_WRITE (R222): A kept record held by Welore is written once the operator ring has
  space. -/
  | keptRecordWrite
  /-- RESUME_AT_WALKER (R283): the walker matches a RESUME_PAGE to its entry, makes it WAKING and
  releases its requesters, or answers STALE_RESUME. -/
  | resumeAtWalker (id : Nat)
  /-- RESUME_WAKE_DONE (R283): every requester has been woken; the entry is freed and a waiting fault
  is presented. -/
  | resumeWakeDone (p : Fin 3) (i : Fin 256)
  /-- HOST_WAIT_EXPIRY (R285): A host access stalled on a fault for HOST_WAIT ends with Completer
  Abort or is dropped. -/
  | hostWaitExpiry (f : Fin 128) (id : Nat)
  /-- XLT_INV (R274): A write of XLT_INV_CTRL.GO starts an invalidation of the named scope, or sets
  DROPPED or DENIED. -/
  | xltInv (f : Fin 128) (v : BitVec 32)
  /-- XLT_INV_DONE (R274): the invalidation finishes and BUSY clears. -/
  | xltInvDone (f : Fin 128)
  /-- FLT_OP_ENABLE (R288): A write of 1 to FLT_OP_CTRL.ENABLE resets the operator ring counts and
  checks its area. -/
  | fltOpEnable (v : BitVec 31)
  /-- FLT_OP_DISABLE (R288): clearing FLT_OP_CTRL.ENABLE stops the operator ring. -/
  | fltOpDisable (v : BitVec 31)
  /-- FLT_HEAD_WRITE (R288): A write of a fault ring's HEAD frees record slots, or is ignored beyond
  TAIL. -/
  | fltHeadWrite (c : Option (Fin 4096)) (v : BitVec 32)
  /-- SITE_FLIT (R299): A bond flit is decoded and its messages delivered in SEQ order, or a NAK is
  sent. -/
  | siteFlit (n : Fin 6) (m : Fin 64) (f : BondFlit)
  /-- SITE_NAK (R299): on a NAK the transmitter resends from ACK + 1; a flit NAKed 16 times ends the
  link. -/
  | siteNak (n : Fin 6) (ack : BitVec 14)
  /-- SITE_SEQ_GAP_TIMEOUT (R299): A SEQ gap that persists for 64 flit times makes the receiver send
  NAK. -/
  | siteSeqGapTimeout (n : Fin 6)
  /-- SITE_ACK_TIMER (R299): after 0.5 µs without an ACK report, the site end reports ACK. -/
  | siteAckTimer (n : Fin 6)
  /-- KSP_REQ_ADMISSION (R316): A REQ message from the chiplet is checked against the site window
  table and forwarded, or answered under R312. -/
  | kspReqAdmission (n : Fin 6)
  /-- WDATA (R307): A WDATA unit of a chiplet's write request reaches the hub. -/
  | wdata (n : Fin 6) (last : Bool)
  /-- MEM_DATA (R313): the chiplet's MEM_DATA answers a MEM_RD of its aperture. -/
  | memData (n : Fin 6)
  /-- MEM_ACK (R313): the chiplet's MEM_ACK answers a MEM_WR of its aperture. -/
  | memAck (n : Fin 6)
  /-- TGT_TIMEOUT (R313): A TGT request unanswered for 100 µs completes with poison or as dropped and
  raises PROTOCOL_ERROR. -/
  | tgtTimeout (n : Fin 6) (txn : Fin 4096)
  /-- CAPS (R303): the chiplet's CAPS declaration is checked and the site accepted or kept out. -/
  | caps (n : Fin 6) (cxl caching rate supported : Bool) (aperture : BitVec 16) (power : BitVec 16) (vendor part certLen : BitVec 16)
  /-- JOINED (R324): the chiplet's JOINED completes its join, credits are granted and the site returns
  to service. -/
  | joined (n : Fin 6)
  /-- STATUS (R318): the chiplet's periodic STATUS message reports PLL lock and keeps the sideband
  alive. `word` is its first payload word; where its MTYPE is a reserved one, that is what arrived in place of STATUS. -/
  | status (n : Fin 6) (word : BitVec 64)
  /-- POWER_REPORT (R319): the chiplet reports its mean power in answer to a BUDGET. -/
  | powerReport (n : Fin 6) (watts : BitVec 11) (seq : BitVec 9)
  /-- BOND_FAIL (R300): the chiplet reports a failing bond, and the hub starts its repair. -/
  | bondFail (n : Fin 6) (m : Fin 64) (b : Fin 96)
  /-- REPAIR_DONE (R301): the chiplet reports the module repaired, and it returns to the rotation. -/
  | repairDone (n : Fin 6) (m : Fin 64)
  /-- SITE_REPAIR_TIMEOUT (R302): A module not back within 10 µs of its repair is retired. -/
  | siteRepairTimeout (n : Fin 6) (m : Fin 64)
  /-- CERT_DATA (R321): A chunk of the chiplet's certificate reaches the hub. -/
  | certData (n : Fin 6) (bytes : List Byte)
  /-- RESPONSE (R321): the chiplet's signature over the challenge is verified, keeping the site out on
  failure. -/
  | response (n : Fin 6) (sig : List Byte)
  /-- RESET_NOTICE (R322): the chiplet announces its reset, and the site is declared ABSENT. -/
  | resetNotice (n : Fin 6)
  /-- PLL_UNLOCK (R322): the chiplet announces PLL loss, and the site is declared ABSENT. -/
  | pllUnlock (n : Fin 6)
  /-- FLUSHED (R326): the chiplet reports its lines flushed, and the hub recalls what remains and
  completes the power change. -/
  | flushed (n : Fin 6)
  /-- MBOX (R536): A chiplet MBOX message fills the site's inbound buffer, or is discarded with LOST
  set. -/
  | mbox (n : Fin 6) (bytes : List Byte)
  /-- SITE_BUDGET_TIMER (R319): every 50 µs the hub sends BUDGET to each site. -/
  | siteBudgetTimer (n : Fin 6)
  /-- SITE_BUDGET_WRITE (R319): A write of SITE_n_BUDGET sends BUDGET within 5 µs, or waits for the
  end of a clamp. -/
  | siteBudgetWrite (n : Fin 6) (w : BitVec 11)
  /-- SIDEBAND_LOST (R322): no sideband message for 1 ms declares the site ABSENT. -/
  | sidebandLost (n : Fin 6)
  /-- SITE_CLOCK_LOST (R322): loss of forwarded clock on the site's modules declares it ABSENT or
  retires the affected modules, as the loss of both bonds of a valid pair does (R302). -/
  | siteClockLost (n : Fin 6) (l : LostModules)
  /-- SITE_OVERPOWER (R320): A site's measured power over 10 µs exceeds 350 W, and the hub clamps its
  budget. -/
  | siteOverpower (n : Fin 6) (w : BitVec 11)
  /-- SITE_CLAMP_TIMEOUT (R320): A site still above 350 W 100 µs after its clamp loses power and is
  declared ABSENT with OVERCURRENT. -/
  | siteClampTimeout (n : Fin 6) (w : BitVec 11)
  /-- SITE_UNCLAMP (R320): after 1 ms below the clamped budget, the operator's budget is restored. -/
  | siteUnclamp (n : Fin 6)
  /-- SITE_RESET (R324): SITE_n_CTRL.RESET declares the site ABSENT, sends RESET and starts the
  rejoin. -/
  | siteReset (n : Fin 6)
  /-- SITE_REJOIN (R324): SITE_n_CTRL.REJOIN starts retraining and rejoin of an ABSENT site. -/
  | siteRejoin (n : Fin 6)
  /-- SITE_ISOLATE (R322): SITE_n_CTRL.ISOLATE declares the site ABSENT with cause OPERATOR. -/
  | siteIsolate (n : Fin 6)
  /-- SITE_RETRAIN (R301): SITE_n_CTRL.RETRAIN retrains the named module. -/
  | siteRetrain (n : Fin 6) (m : Fin 64)
  /-- SITE_WIN_FENCE (R317): SITE_n_CTRL.WIN_FENCE sets WIN_BUSY until earlier admitted requests
  complete. -/
  | siteWinFence (n : Fin 6)
  /-- SITE_WIN_FENCE_DONE (R317): every request admitted before the fence has completed and WIN_BUSY
  clears. -/
  | siteWinFenceDone (n : Fin 6)
  /-- SITE_REJOINED (R324): A rejoin completes with status GOOD or DEGRADED and a SITE_REJOINED
  record. -/
  | siteRejoined (n : Fin 6)
  /-- SITE_REJOIN_FAILED (R324): A rejoin step fails or 50 ms pass; the site stays ABSENT. -/
  | siteRejoinFailed (n : Fin 6)
  /-- PACKET_INJECT (R347): an injection point charges a packet to its class and sets its STANDING and
  URG. -/
  | packetInject (p : Packet) (i : Injection)
  /-- PACKET_EJECT (R339): A router's ejection stage delivers a packet, discards it as stale, or
  absorbs it for an isolated target. -/
  | packetEject (moves : List NetMove) (e : Ejection)
  /-- LINK_FLIT_ERROR (R337): A router repairs a correctable flit, poisons an uncorrectable payload,
  or fails the transit domain on a bad header. -/
  | linkFlitError (r : Fin 192) (i : Nat) (c : Carried) (f : FlitFault)
  /-- FLUSH_MARKER_RETURN (R340): A flush marker returns to Welore; when all have returned, the unit's
  new tag is written. -/
  | flushMarkerReturn (m : FlushMarker)
  /-- DEAD_TARGET_TIMEOUT (R343): A target that accepts no RSP, DAT or MGT for DEAD_TIMEOUT is
  isolated as dead. -/
  | deadTargetTimeout (r : Fin 192) (port : Fin 4)
  /-- CROSSING_LINK_LOST (R344): A Crossing link loses training or exceeds its error limit, and
  injection on its routes is held. -/
  | crossingLinkLost (c : Fin 2) (y : Fin 8)
  /-- CROSSING_DRAIN_DONE (R344): the retired link is drained behind markers and held packets are
  rerouted. -/
  | crossingDrainDone (c : Fin 2) (y : Fin 8)
  /-- QOS_PERIOD_BOUNDARY (R347): A 1 µs period ends: charges reset, written budgets apply, misses are
  recorded and guarantees are published. -/
  | qosPeriodBoundary (waited : List (Fin 113 × Fin 16))
  /-- FABRIC_FLIT (R360): A KFL flit is checked and its messages delivered in order, or it is
  discarded and NAKed. -/
  | fabricFlit (n : Fin 16) (f : LaneFlit)
  /-- FABRIC_NAK (R360): on NAK a fabric port resends from ACK + 1; 16 NAKs end the link with
  LINK_LOST. -/
  | fabricNak (n : Fin 16) (ack : BitVec 16)
  /-- FABRIC_ACK_TIMER (R360): after 0.5 µs without an ACK report, the port reports ACK. -/
  | fabricAckTimer (n : Fin 16)
  /-- KFL_RD (R376): an arriving RD is routed onward or checked against its window and performed as
  RD_ONCE. -/
  | kflRd (n : Fin 17)
  /-- KFL_WR (R376): an arriving WR is routed or checked and performed as WR_FULL. -/
  | kflWr (n : Fin 17)
  /-- KFL_WR_PART (R376): an arriving WR_PART is routed or checked and performed as a masked write. -/
  | kflWrPart (n : Fin 17)
  /-- KFL_ATOMIC (R376): an arriving ATOMIC is routed or checked and performed at the home. -/
  | kflAtomic (n : Fin 17)
  /-- RD_DATA (R365): A read answer is delivered to the request table that TXN names. -/
  | rdData (n : Fin 17)
  /-- KFL_WR_ACK (R374): A remote WR_ACK completes a write to another package. -/
  | kflWrAck (n : Fin 17)
  /-- FABRIC_RSP_TIMEOUT (R365): A request unanswered for RSP_TIMEOUT ends with TIMEOUT. -/
  | fabricRspTimeout (n : Fin 16) (e : Fin 4096)
  /-- FAULT_WAIT_EXPIRY (R376): A window request stalled on a fault for FAULT_WAIT is answered
  ABORTED. -/
  | faultWaitExpiry (p : Fin 16) (id : Nat)
  /-- HELLO (R371): A HELLO records the peer's node, port and digest, raising FABRIC_PEER_CHANGED on a
  difference. -/
  | hello (n : Fin 16)
  /-- HELLO_TIMER (R371): every 1 ms each port sends HELLO. -/
  | helloTimer (n : Fin 16)
  /-- LANE_PLAN (R367): A peer's LANE_PLAN names the lanes it can keep for the retrain. -/
  | lanePlan (n : Fin 16)
  /-- LANE_ERROR_WINDOW (R366): A lane's symbol error window ends and the lane may be marked failing.
  -/
  | laneErrorWindow (n : Fin 16) (l : Fin 8) (errors : BitVec 37) (codewords : BitVec 32) (most : Bool)
  /-- LANE_LOCK_LOST (R366): A lane loses lock, becomes failing and starts a retrain. -/
  | laneLockLost (n : Fin 16) (l : Fin 8)
  /-- FABRIC_RETRAIN (R367): FAB_PORT_n_CTRL.RETRAIN clears failing marks and retrains the port. -/
  | fabricRetrain (n : Fin 16)
  /-- FABRIC_RETRAIN_DONE (R367): the port resumes at its new width, resends and raises DEGRADED or
  UP. -/
  | fabricRetrainDone (n : Fin 16)
  /-- FABRIC_RETRAIN_TIMEOUT (R368): A retrain that misses 200 µs leaves the port DOWN. -/
  | fabricRetrainTimeout (n : Fin 16)
  /-- NO_PEER_RETRY (R368): every 100 ms a port DOWN with NO_PEER tries to train. -/
  | noPeerRetry (n : Fin 16)
  /-- FAB_NODE_WRITE (R369): A write of FAB_NODE changes the node address and sends HELLO within 1 µs.
  -/
  | fabNodeWrite (v : BitVec 16)
  /-- FAB_RT_DATA_ACCESS (R372): an access of FAB_RT_DATA reaches the selected routing entry and, with
  AUTOINC, advances NODE. -/
  | fabRtDataAccess (w : Option (BitVec 32))
  /-- FAB_WIN_FENCE (R378): FAB_CTRL.WIN_FENCE sets WIN_BUSY until earlier admitted requests are
  answered. -/
  | fabWinFence
  /-- FAB_WIN_FENCE_DONE (R378): every request admitted before the fence is answered and WIN_BUSY
  clears. -/
  | fabWinFenceDone
  /-- REDUCE_ARM (R382): A waiting REDUCE arms its group at the executing cairn and sends RED_READY to
  its children. -/
  | reduceArm (id : Nat)
  /-- RED_READY (R383): an armed child checks the group parameters and may send chunks below LIMIT. -/
  | redReady (n : Fin 16)
  /-- RED_READY_REPEAT (R383): A node repeats its latest RED_READY after 10 µs without a chunk from
  that child. -/
  | redReadyRepeat (id : Nat) (p : Fin 16)
  /-- RED_DATA (R384): A chunk arrives; up chunks are summed in ORDER when complete, and down chunks
  are written and forwarded. -/
  | redData (n : Fin 16)
  /-- RED_ABORT (R386): A RED_ABORT ends the group and is passed on to the other ports of the tree. -/
  | redAbort (n : Fin 16)
  /-- REDUCE_TIMEOUT (R386): TIMEOUT_US passes and the node ends its group with TIMEOUT. -/
  | reduceTimeout (id : Nat)
  /-- REDUCE_COMPLETE (R385): all of DST is accepted and every down chunk acknowledged, so the REDUCE
  completes. -/
  | reduceComplete (id : Nat)
  /-- HOST_MEMORY_REQUEST (R397): A host read or write to a BAR is served, or answered Unsupported
  Request or dropped. -/
  | hostMemoryRequest (t : HostTlp) (bar2 : Bool) (off : BitVec 36) (len : BitVec 13) (w : Option (List Byte))
  /-- HOST_ATOMICOP (R397): A host AtomicOp is performed as an ATOMIC, or answered Unsupported
  Request. -/
  | hostAtomicop (t : HostTlp) (bar2 : Bool) (off : BitVec 36) (op : Fin 3) (w : Fin 17) (x cmp : BitVec 128)
  /-- APERTURE_ACCESS (R543): A BAR2 access is translated in the slot's context and served, or
  refused. -/
  | apertureAccess (t : HostTlp) (off : BitVec 36) (len : BitVec 13) (w : Option (List Byte))
  /-- HOST_COMPLETION (R399): A completion from the host delivers read data, or poisons the units on
  an error status. -/
  | hostCompletion (tag : Nat) (st : CplStatus) (bytes : List Byte)
  /-- COMPLETION_TIMEOUT (R398): A host-bound read times out and its units are delivered poisoned with
  HOST_TIMEOUT. -/
  | completionTimeout (tag : Nat) (quiet : Bool)
  /-- PORT_UNCORRECTABLE_ERROR (R401): an uncorrectable port error puts the port into containment and
  shuts every gate. -/
  | portUncorrectableError (b : Fin 32) (stream : Option (Fin 8))
  /-- CONTAINMENT_RELEASE (R402): HIF_CONTAIN.RELEASE ends containment if the link is active and no
  error is set, or sets REFUSED. -/
  | containmentRelease
  /-- HOT_RESET (R392): A Hot Reset, Link Disable or loss of power resets the hub and restarts bring-
  up at S0. -/
  | hotReset
  /-- HOST_LINK_DOWN (R392): A link-down that the port survives is an uncorrectable port error. -/
  | hostLinkDown
  /-- CONFIG_WRITE (R404): A configuration write changes Bus Master Enable, Memory Space Enable,
  D-state or VF Enable and opens or shuts gates. -/
  | configWrite (f : Fin 128) (w : CfgWrite)
  /-- FLR (R406): initiate FLR shuts the gate, retires tags and drains the function's contexts. -/
  | flr (f : Fin 128)
  /-- FLR_DONE (R406): the FLR ends: registers reset, recorded configuration writes apply and FRS is
  sent. -/
  | flrDone (f : Fin 128)
  /-- MSIX_TABLE_WRITE (R410): A write to an MSI-X entry or control may unmask a vector and send its
  pending message. -/
  | msixTableWrite (f : Fin 128) (w : MsixWrite)
  /-- GET_VERSION (R411): SPDM GET_VERSION is answered by the DOE responder. -/
  | getVersion
  /-- GET_CAPABILITIES (R411): SPDM GET_CAPABILITIES is answered by the DOE responder. -/
  | getCapabilities
  /-- NEGOTIATE_ALGORITHMS (R411): SPDM NEGOTIATE_ALGORITHMS selects P-384, SHA-384 and AES-256-GCM.
  -/
  | negotiateAlgorithms (offered : Bool)
  /-- GET_DIGESTS (R411): SPDM GET_DIGESTS returns the slot 0 chain digest, or an error without a
  certificate. -/
  | getDigests
  /-- GET_CERTIFICATE (R411): SPDM GET_CERTIFICATE returns part of the slot 0 chain. -/
  | getCertificate (slot : BitVec 8) (off len : BitVec 16)
  /-- CHALLENGE (R411): SPDM CHALLENGE is signed with the current alias key. -/
  | challenge (slot : BitVec 8) (nonce : BitVec 256)
  /-- GET_MEASUREMENTS (R461): SPDM GET_MEASUREMENTS returns the current measurement values. -/
  | getMeasurements (index : BitVec 8) (sign : Bool) (nonce : BitVec 256)
  /-- KEY_EXCHANGE (R411): SPDM KEY_EXCHANGE starts a secured session, refused on random-source
  failure. -/
  | keyExchange (sid : BitVec 32)
  /-- FINISH (R411): SPDM FINISH completes the session handshake. -/
  | finish (sid : BitVec 32) (ok : Bool)
  /-- HEARTBEAT (R411): SPDM HEARTBEAT keeps a session alive. -/
  | heartbeat (sid : BitVec 32)
  /-- KEY_UPDATE (R411): SPDM KEY_UPDATE updates the session keys. -/
  | keyUpdate (sid : BitVec 32) (op : BitVec 8)
  /-- END_SESSION (R411): SPDM END_SESSION ends a secured session. -/
  | endSession (sid : BitVec 32)
  /-- IDE_KM (R412): an IDE_KM vendor-defined request sets the keys of a Selective IDE stream. -/
  | ideKm (sid : BitVec 32) (stream : Fin 8)
  /-- LOCK_INTERFACE_REQUEST (R414): TDISP LOCK_INTERFACE_REQUEST moves a VF's TDI to CONFIG_LOCKED
  and shuts its gate. -/
  | lockInterfaceRequest (sid : BitVec 32) (f : Fin 128) (stream : Fin 8)
  /-- GET_DEVICE_INTERFACE_REPORT (R413): TDISP returns the VF's interface report. -/
  | getDeviceInterfaceReport (sid : BitVec 32) (f : Fin 128)
  /-- GET_DEVICE_INTERFACE_STATE (R413): TDISP returns the TDI's state. -/
  | getDeviceInterfaceState (sid : BitVec 32) (f : Fin 128)
  /-- START_INTERFACE_REQUEST (R414): TDISP START_INTERFACE_REQUEST moves the TDI to RUN and opens its
  gate. -/
  | startInterfaceRequest (sid : BitVec 32) (f : Fin 128) (nonce : BitVec 256)
  /-- STOP_INTERFACE_REQUEST (R415): TDISP STOP_INTERFACE_REQUEST returns the TDI to CONFIG_UNLOCKED.
  -/
  | stopInterfaceRequest (sid : BitVec 32) (f : Fin 128)
  /-- RESET_ASSERT (R419): assertion of RESET_N holds the hub and restarts bring-up at S0. -/
  | resetAssert
  /-- RESET_RELEASE (R419): release of RESET_N with supplies good starts stage S0. -/
  | resetRelease (strap : Fin 4)
  /-- RAIL_UNDERVOLTAGE (R550): A group 1 or 2 rail below its minimum for 1 µs acts as a reset
  assertion. -/
  | railUndervoltage
  /-- STAGE_S0_DONE (R418): OTP is sensed and the life-cycle state decoded; S0 passes or ends in
  error. -/
  | stageS0Done (ok : Bool) (hot : Option (Fin 54)) (temp : BitVec 8)
  /-- HOST_LINK_TRAINED (R419): the host link trains and the boot function appears, ending S1. -/
  | hostLinkTrained (rate : Fin 8) (width : Fin 17)
  /-- IMAGE_READY (R421): BOOT_CTRL.IMAGE_READY starts admission of the pushed Welore image. -/
  | imageReady
  /-- IMAGE_ADMISSION (R454): the boot ROM verifies the image, burns revocations and starts it, or
  rejects it with ADMIT_REASON. -/
  | imageAdmission
  /-- TRAINING_DONE (R422): every unit of S3 has an outcome, and training ends. -/
  | trainingDone (tr : Training)
  /-- SELFTEST_DONE (R423): self-test and store initialisation of S4 end, with units set FAILED as
  found. -/
  | selftestDone (t : SelfTest)
  /-- QUALIFICATION_DONE (R425): the dwells of S5 end, and units over their limits leave service. -/
  | qualificationDone (q : Qualification)
  /-- READY (R426): S6 assigns logical numbers, sets the epochs, publishes the report, starts periods
  and sets READY. -/
  | ready
  /-- STAGE_TIMEOUT (R418): A stage passes its bound and ends, in error with STAGE_TIMEOUT unless it
  is S3 or S5. -/
  | stageTimeout (tr : Training) (q : Qualification)
  /-- PARTITION_RESET (R438): PART_p_CTRL.RESET puts the partition compute into QUARANTINE and holds
  it in reset. -/
  | partitionReset (p : Fin 3)
  /-- PARTITION_RESET_DONE (R438): the partition finishes its epoch steps, raises PARTITION_RESET_DONE
  and resumes fetch. -/
  | partitionResetDone (p : Fin 3)
  /-- QUARANTINE_EXIT (R435): A unit finishes its epoch steps and returns to GOOD or DEGRADED, or
  becomes FAILED. -/
  | quarantineExit (u : QuarUnit) (bad : List QuarUnit)
  /-- TILE_RETIRE (R440): TILE_RETIRE.GO retires a logical tile with cause OPERATOR. -/
  | tileRetire (l : Fin 128)
  /-- CERT_ISSUE (R463): welore issues an attestation certificate, burning a reservation bit at the
  first issue of the boot. -/
  | certIssue
  /-- REISSUE (R463): SEC_CTRL.REISSUE requests a certificate issue, or sets REISSUE_LIMIT. -/
  | reissue
  /-- SVN_COMMIT (R455): SEC_CTRL.SVN_COMMIT raises FW_SVN_FLOOR to the running image's SVN. -/
  | svnCommit
  /-- LC_TRANSITION_GO (R469): SEC_LC_CTRL.GO checks the token and burns the life-cycle words, or
  refuses. -/
  | lcTransitionGo (target : Fin 8)
  /-- LC_TRANSITION (R469): the transition's burns and wipe end; LC_TRANSITION is raised and the hub
  holds for reset. -/
  | lcTransition (ok : Bool)
  /-- USER_STORE_BURN (R472): A write of SEC_USER_DATA burns the set bits into the selected user word.
  -/
  | userStoreBurn (v : BitVec 32)
  /-- GATE_OPEN (R473): A write of 1 to a SEC_GATE_OPEN bit opens a test gate if the life-cycle state
  permits. -/
  | gateOpen (g : Fin 48)
  /-- GATE_CLOSE (R473): A write of 0 to a SEC_GATE_OPEN bit closes the gate. -/
  | gateClose (g : Fin 48)
  /-- DEBUG_ENABLE (R474): SEC_DEBUG.ENABLE set enables operator debug and forces disclosure. -/
  | debugEnable
  /-- DEBUG_DISABLE (R476): clearing SEC_DEBUG.ENABLE ends the powers of operator debug. -/
  | debugDisable
  /-- RNG_HEALTH_FAIL (R452): the random source fails its health tests; KEY_EXCHANGE and site
  challenges are refused. -/
  | rngHealthFail
  /-- TAP_INSTRUCTION (R554): the test access port executes an IEEE 1149.1 instruction within what
  open gates allow. -/
  | tapInstruction (i : TapInstr)
  /-- SETDASA (R553): the I3C target accepts SETDASA to its static address. -/
  | setdasa (static dynamic : BitVec 7)
  /-- ENTDAA (R553): the I3C target takes part in ENTDAA. -/
  | entdaa (won : Bool) (dynamic : BitVec 7)
  /-- I3C_READ (R553): an I3C read returns a status register by index. -/
  | i3cRead (addr : BitVec 7) (index : BitVec 8)
  /-- POWER_COMMAND (R485): PWR_CMD.GO commands a power state for a unit, or sets REFUSED. -/
  | powerCommand (ty id : BitVec 8) (p : Fin 4)
  /-- POWER_COMMAND_APPLY (R486): A held power command applies at a task boundary, quarantine exit or
  the end of a transition. -/
  | powerCommandApply (u : QuarUnit)
  /-- POWER_TRANSITION_DONE (R487): A unit's power transition completes. -/
  | powerTransitionDone (u : QuarUnit)
  /-- STACK_POWER_SWEEP_DONE (R488): the plazas finish sweeping a stack leaving ON, and its transition
  proceeds. -/
  | stackPowerSweepDone (k : Fin 12)
  /-- STACK_BUDGET_TIMER (R492): every 50 µs the hub sends each stack in service its budget message.
  -/
  | stackBudgetTimer
  /-- STACK_BUDGET_WRITE (R492): A write of PWR_STK_s_BUDGET sends a budget message within 5 µs, or
  waits for the clamp. -/
  | stackBudgetWrite (k : Fin 12) (w : BitVec 9)
  /-- STACK_POWER_REPORT (R492): A Kolgil Memory Base reports its mean power. -/
  | stackPowerReport (k : Fin 12) (w : BitVec 9)
  /-- FIELD_POWER_SAMPLE (R493): the hub measures each power field; a stack field over 110 W is
  clamped. -/
  | fieldPowerSample (f : PowerField) (w : BitVec 11)
  /-- STACK_CLAMP_TIMEOUT (R493): A stack still over 110 W 100 µs after clamping is isolated with
  OVERCURRENT. -/
  | stackClampTimeout (k : Fin 12) (w : BitVec 11)
  /-- STACK_UNCLAMP (R493): after 1 ms below the clamped budget, the stack's clamp lifts. -/
  | stackUnclamp (k : Fin 12)
  /-- PLL_LOCK_LOST (R499): A hub PLL loses lock and its partition, unit or the transit domain fails.
  -/
  | pllLockLost (p : Pll)
  /-- REFCLK_LOST (R499): the reference is lost; PLLs hold frequency and a RESET_REQUIRED service
  request is raised. -/
  | refclkLost
  /-- TEMP_SENSOR_READ (R500): A junction sensor is read every 10 µs. -/
  | tempSensorRead (k : Fin 54) (t : BitVec 8)
  /-- COUNTER_WRAP (R512): A programmable counter wraps, setting OVF and optionally interrupting and
  writing an overflow record. -/
  | counterWrap
  /-- BW_WINDOW_END (R515): A bandwidth window ends and CNT_b_BW_p shows its total. -/
  | bwWindowEnd (b : Fin 353)
  /-- COUNTER_LO_READ (R508): A read of a counter's LO register copies its bits [47:32] into HI. -/
  | counterLoRead (fn : Fin 128) (b : Fin 353) (r : CntReg)
  /-- SNAP_REQUEST (R519): SNAP_CTRL.GO requests a snapshot, served by the next one after MIN_GAP. -/
  | snapRequest
  /-- SNAPSHOT_BEGIN (R516): welore increments the sequence number, flips the colour and sends the
  first marker. -/
  | snapshotBegin
  /-- SNAPSHOT_MARKER (R516): A marker reaches a router or unit, which latches its block on the first,
  forwards markers and counts in-flight arrivals. -/
  | snapshotMarker (b : Fin 353) (port : Fin 8) (c : NetChannel)
  /-- SNAPSHOT_COMPLETE (R516): all 353 blocks have reported; the new shadow bank becomes visible and
  SNAPSHOT descriptors complete. -/
  | snapshotComplete
  /-- RC_READ (R529): A read of an RC field returns its value and clears exactly what it returned for
  that function. -/
  | rcRead (f : Fin 128) (off : BitVec 26)
  /-- SQ_CLEAR (R530): in SQ mode, writing back the latched sequence number clears events up to it, or
  sets SQ_MISMATCH. -/
  | sqClear (f : Fin 128) (off : BitVec 26) (n : BitVec 32)
  /-- REGISTER_WRITE (R527): A write to a register without behaviour of its own sets its fields at
  their apply points. -/
  | registerWrite (f : Fin 128) (off : BitVec 26) (v : BitVec 32)
  /-- REGISTER_STALL_TIMEOUT (R525): A register unit that does not answer within 2 µs ends the access
  with Completer Abort or drop. -/
  | registerStallTimeout (t : HostTlp) (off : BitVec 26) (write : Bool)
  /-- BULK_SEL_WRITE (R533): A write of BULK_SEL selects an area and resets the cursor to zero. -/
  | bulkSelWrite (f : Fin 128) (v : BitVec 32)
  /-- BULK_DATA_ACCESS (R533): an access of BULK_DATA reaches the area at the cursor and advances it
  with AUTOINC. -/
  | bulkDataAccess (f : Fin 128) (w : Option (BitVec 32))
  /-- BULK_BURST_ACCESS (R533): an access of the burst aperture reaches the area at BULK_ADDR plus the
  offset. -/
  | bulkBurstAccess (t : HostTlp) (o : Fin 4096) (len : BitVec 13) (w : Option (List Byte))
  /-- DEBUG_RESUME (R535): A write of 1 to a halted tile's debug control resumes the tile. -/
  | debugResume (t : Fin 72)
  /-- DEBUG_END_TASK (R535): A write of 2 to a halted tile's debug control ends its task with
  BREAKPOINT. -/
  | debugEndTask (t : Fin 72)
  /-- MBOX_SEND (R536): BULK_MBOX_CTRL.SEND sends the outbound buffer to the site as an MBOX message.
  -/
  | mboxSend (n : Fin 8) (len : BitVec 9)
  /-- MBOX_IN_ACK (R536): BULK_MBOX_CTRL.IN_ACK frees the site's inbound buffer. -/
  | mboxInAck (n : Fin 8) (len : BitVec 9)
  /-- RAIL_BACK_IN_RANGE (R550): every group 1 and 2 rail has been back within its operating range for
  100 µs with RESET_N high, and bring-up starts again at S0. -/
  | railBackInRange
  /-- HOST_LINK_RETRAINED (R391): after READY the host link retrains or returns to DL_Active at a new
  width or rate, changing the capacity of resources 56 and 57 and the host port's floor-plan record.
  -/
  | hostLinkRetrained (rate : Fin 8) (width : Fin 17)
  /-- CHANNEL_LOST (R193): both copies of a channel's command, clock-forward or status bond fail, the
  channel is lost, and the stack is isolated with CHANNEL_LOST. -/
  | channelLost (k : Fin 12)
  /-- ROUTER_FAILURE (R345): A router fails after READY, and the transit domain fails. -/
  | routerFailure (r : Fin 192)
  /-- SITE_MONITOR_WINDOW (R300): A site bond's monitor window of 2^40 bits ends, and its correction
  count restarts. -/
  | siteMonitorWindow (n : Fin 6) (m : Fin 64) (b : Fin 96)
  /-- CXL_MEM_RESPONSE (R314): A CXL device's CXL.mem response, with data or completion, answers the
  hub's read or write of the site's HDM-H aperture. -/
  | cxlMemResponse (n : Fin 6) (txn : Fin 4096) (data : UnitData) (poison : Bool)
  /-- CXL_D2H_DATA (R250): A CXL device sends device-to-host data, such as write data after GO-
  WritePull or the data of a snoop response, and the bridge passes it on as WB_DATA, DATA or write
  data. -/
  | cxlD2hData (n : Fin 6) (k : Fin 12) (l : Fin (2 ^ 29)) (data : LineData) (poison : Bool)
  /-- MBOX_OUT_DONE (R536): an outbound MBOX message has left on the sideband, and the site's OUT_BUSY
  bit clears. -/
  | mboxOutDone (n : Fin 6)
  /-- HUB_POWER_SAMPLE (R491): the hub's measured power over the last 1 ms updates PWR_HUB_POWER and
  sets or clears HUB_OVER. -/
  | hubPowerSample (w : BitVec 12)
  deriving DecidableEq, Repr

end Sys2Proof
end

