-- ==== Sys2Proof/Decode.lean ====
section
/-!
DEFINITION. The command that a word spells. The command table of this block gives no row any bits (every row's list of
fields is empty), so no word spells a command.
-/
namespace Sys2Proof

/-- The command whose bits are `w`: none, since no row of the table has bits. -/
def decodeTableWord (_nbits _w : Nat) : Option Instr := none

end Sys2Proof
end

