-- ==== Sys2Proof/Machine/Arith.lean ====
section
/-!
DEFINITION. The number formats and their values (R105 to R107), rounding and conversion (R112 to R117), MX
blocks (R109 to R111), FP32 addition, the chunks of the exact and the fast class (R119 to R128) and the
classes of the exponent histogram (R131). Every computation is exact in integers with a power of two and
rounds where the rules round.
-/
namespace Sys2Proof

/-! ### Formats and values (R105, R106) -/

/-- The formats of R105 with a code of R79. -/
inductive Fmt where
  | fp32 | bf16 | fp16 | e4m3 | e5m2 | e3m2 | e2m3 | e2m1 | int8 | int4 | int32
  deriving DecidableEq, Repr

/-- The format of a code (R79, R105). -/
def Fmt.ofCode? (c : Nat) : Option Fmt :=
  match c with
  | 1 => some .fp32
  | 2 => some .bf16
  | 3 => some .fp16
  | 4 => some .e4m3
  | 5 => some .e5m2
  | 6 => some .e3m2
  | 7 => some .e2m3
  | 8 => some .e2m1
  | 9 => some .int8
  | 10 => some .int4
  | 11 => some .int32
  | _ => none

/-- Bits of an element. -/
def Fmt.bits : Fmt → Nat
  | .fp32 => 32
  | .bf16 => 16
  | .fp16 => 16
  | .e4m3 => 8
  | .e5m2 => 8
  | .e3m2 => 6
  | .e2m3 => 6
  | .e2m1 => 4
  | .int8 => 8
  | .int4 => 4
  | .int32 => 32

/-- An integer format. -/
def Fmt.isInt : Fmt → Bool
  | .int8 => true
  | .int4 => true
  | .int32 => true
  | _ => false

/-- Fraction bits of a floating format. -/
def Fmt.frac : Fmt → Nat
  | .fp32 => 23
  | .bf16 => 7
  | .fp16 => 10
  | .e4m3 => 3
  | .e5m2 => 2
  | .e3m2 => 2
  | .e2m3 => 3
  | .e2m1 => 1
  | _ => 0

/-- Bias of a floating format. -/
def Fmt.bias : Fmt → Nat
  | .fp32 => 127
  | .bf16 => 127
  | .fp16 => 15
  | .e4m3 => 7
  | .e5m2 => 15
  | .e3m2 => 3
  | .e2m3 => 1
  | .e2m1 => 1
  | _ => 0

/-- The encoding of the largest finite magnitude of a floating format. -/
def Fmt.maxEnc : Fmt → Nat
  | .fp32 => 0x7F7FFFFF
  | .bf16 => 0x7F7F
  | .fp16 => 0x7BFF
  | .e4m3 => 0x7E
  | .e5m2 => 0x7B
  | .e3m2 => 0x1F
  | .e2m3 => 0x1F
  | .e2m1 => 0x7
  | _ => 0

/-- The format has infinities. -/
def Fmt.hasInf : Fmt → Bool
  | .fp32 => true
  | .bf16 => true
  | .fp16 => true
  | .e5m2 => true
  | _ => false

/-- The canonical NaN, if the format has one. -/
def Fmt.nan? : Fmt → Option Nat
  | .fp32 => some 0x7FC00000
  | .bf16 => some 0x7FC0
  | .fp16 => some 0x7E00
  | .e4m3 => some 0x7F
  | .e5m2 => some 0x7E
  | _ => none

/-- The precision P of R125. -/
def Fmt.prec : Fmt → Nat
  | .int8 => 8
  | .fp32 => 8
  | f => f.frac + 1

/-- A value: finite, ±m · 2^e with a sign for zero too, infinite, or NaN. -/
inductive Val where
  | fin (neg : Bool) (m : Nat) (e : Int)
  | inf (neg : Bool)
  | nan
  deriving DecidableEq, Repr

/-- The value +0. -/
def Val.zero : Val := .fin false 0 0

/-- The value of an integer. -/
def Val.ofInt (i : Int) : Val := .fin (decide (i < 0)) i.natAbs 0

/-- The value of an encoding (R106). -/
def Fmt.decode (f : Fmt) (v : Nat) : Val :=
  if f.isInt then Val.ofInt (signed f.bits v)
  else
    let n := f.bits - 1
    let neg := bit v n
    let mag := v % 2 ^ n
    let ex := mag / 2 ^ f.frac
    let fr := mag % 2 ^ f.frac
    let lim : Int := 1 - (f.bias : Int) - (f.frac : Int)
    if f.hasInf && ex == 2 ^ (n - f.frac) - 1 then (if fr = 0 then .inf neg else .nan)
    else if f = .e4m3 ∧ mag = 0x7F then .nan
    else if ex = 0 then .fin neg fr lim
    else .fin neg (2 ^ f.frac + fr) (lim + (ex - 1 : Nat))

/-- ex(v) = ⌊log2 |v|⌋ of a nonzero finite value (R125). -/
def exOf (m : Nat) (e : Int) : Int := (Nat.log2 m : Nat) + e

/-- The value scaled by a power of two. -/
def Val.scale (v : Val) (k : Int) : Val :=
  match v with
  | .fin n m e => .fin n m (e + k)
  | w => w

/-- The sign inverted. -/
def Val.neg (v : Val) : Val :=
  match v with
  | .fin n m e => .fin (!n) m e
  | .inf n => .inf (!n)
  | .nan => .nan

/-- A zero of either sign. -/
def Val.isZero : Val → Bool
  | .fin _ m _ => m == 0
  | _ => false

/-- The product of R119. -/
def Val.mul (a b : Val) : Val :=
  match a, b with
  | .nan, _ => .nan
  | _, .nan => .nan
  | .inf s, .fin t m _ => if m = 0 then .nan else .inf (s != t)
  | .fin t m _, .inf s => if m = 0 then .nan else .inf (s != t)
  | .inf s, .inf t => .inf (s != t)
  | .fin s m e, .fin t k d => .fin (s != t) (m * k) (e + d)

/-- An exact dyadic number m · 2^e. -/
structure Dy where
  m : Int
  e : Int
  deriving DecidableEq, Repr

/-- Zero. -/
def Dy.zero : Dy := { m := 0, e := 0 }

/-- The exact sum. -/
def Dy.add (a b : Dy) : Dy :=
  if a.e ≤ b.e then { m := a.m + b.m * 2 ^ (b.e - a.e).toNat, e := a.e }
  else { m := a.m * 2 ^ (a.e - b.e).toNat + b.m, e := b.e }

/-- The exact dyadic of a finite value. -/
def Val.dy : Val → Dy
  | .fin n m e => { m := if n then -(m : Int) else m, e := e }
  | _ => .zero

/-- The value of a dyadic; zero is +0. -/
def Dy.val (d : Dy) : Val := .fin (decide (d.m < 0)) d.m.natAbs d.e

/-- The sum drops its bits below 2^u toward zero (trunc of R125, times the unit). -/
def Dy.cut (d : Dy) (u : Int) : Dy :=
  if u ≤ d.e then d else { m := d.m.tdiv (2 ^ (u - d.e).toNat), e := u }

/-- Exact comparison: a < b. -/
def Dy.lt (a b : Dy) : Bool := decide ((Dy.add a { b with m := -b.m }).m < 0)

/-! ### Rounding (R112 to R114) -/

/-- The rounding modes of R112: 0 to nearest even, 1 toward zero, 2 stochastic. -/
inductive Round where
  | rne | rtz | sr
  deriving DecidableEq, Repr

/-- kmix of R114. -/
def kmix (z0 : W64) : W64 :=
  let z1 := z0 ^^^ (z0 >>> 33)
  let z2 := z1 * 0xB7E151628AED2A6B#64
  let z3 := z2 ^^^ (z2 >>> 29)
  let z4 := z3 * 0x9E6C63D0676A9A99#64
  z4 ^^^ (z4 >>> 32)

/-- sr_draw of R114. -/
def srDraw (seed : W64) (index : Nat) : Nat :=
  let z := kmix (BitVec.ofNat 64 index ^^^ kmix seed)
  (kmix (z + 0x243F6A8885A308D3#64) >>> 32).toNat

/-- How a conversion rounds: the mode and the random word of its element. -/
structure Rnd where
  mode : Round
  draw : Nat
  deriving DecidableEq, Repr

/-- Round to nearest even. -/
def Rnd.rne : Rnd := { mode := .rne, draw := 0 }

/-- The index, in units of 2^q, of the grid point that m · 2^e rounds to (R113). -/
def roundIndex (r : Rnd) (q : Int) (m : Nat) (e : Int) : Nat :=
  if q ≤ e then m * 2 ^ (e - q).toNat
  else
    let d := 2 ^ (q - e).toNat
    let t := m / d
    let rem := m % d
    if rem = 0 then t
    else match r.mode with
      | .rne => if 2 * rem < d then t else if d < 2 * rem then t + 1 else if t % 2 = 0 then t else t + 1
      | .rtz => t
      | .sr => if r.draw < rem * 2 ^ 32 / d then t + 1 else t

/-- The exponent of the grid spacing at m · 2^e in a floating format (R113 step 1). -/
def Fmt.spacing (f : Fmt) (m : Nat) (e : Int) : Int :=
  let lo : Int := 1 - (f.bias : Int)
  let hi : Int := lo + ((f.maxEnc / 2 ^ f.frac - 1 : Nat) : Int)
  (if m = 0 then lo else min (max (exOf m e) lo) hi) - (f.frac : Int)

/-- The rounded magnitude in a floating format as an encoding without sign; it may exceed the largest finite
one. -/
def Fmt.magEnc (f : Fmt) (r : Rnd) (m : Nat) (e : Int) : Nat :=
  let q := f.spacing m e
  let lim : Int := 1 - (f.bias : Int) - (f.frac : Int)
  (q - lim).toNat * 2 ^ f.frac + roundIndex r q m e

/-- A sign bit put on an encoding. -/
def Fmt.withSign (f : Fmt) (neg : Bool) (enc : Nat) : Nat := enc + b2n neg * 2 ^ (f.bits - 1)

/-- The smallest and the largest integer of an integer format. -/
def Fmt.intMax (f : Fmt) : Nat := 2 ^ (f.bits - 1) - 1

/-- The conversion of R113 and R116: the encoding, and whether it saturated. -/
def Fmt.convert (f : Fmt) (r : Rnd) (v : Val) : Nat × Bool :=
  if f.isInt then
    match v with
    | .nan => (0, true)
    | .inf neg => (if neg then 2 ^ (f.bits - 1) else f.intMax, true)
    | .fin neg m e =>
      let n := roundIndex r 0 m e
      if neg then
        if 2 ^ (f.bits - 1) < n then (2 ^ (f.bits - 1), true) else ((2 ^ f.bits - n) % 2 ^ f.bits, false)
      else if f.intMax < n then (f.intMax, true) else (n, false)
  else
    match v with
    | .nan =>
      match f.nan? with
      | some c => (c, false)
      | none => (0, true)
    | .inf neg =>
      if f.hasInf then (f.withSign neg ((2 ^ (f.bits - 1 - f.frac) - 1) * 2 ^ f.frac), false)
      else (f.withSign neg f.maxEnc, true)
    | .fin neg m e =>
      let c := f.magEnc r m e
      if f.maxEnc < c then (f.withSign neg f.maxEnc, true) else (f.withSign neg c, false)

/-- Rounding into FP32 under the IEEE 754 rules: values beyond the range become infinite (R121). -/
def roundFp32 (r : Rnd) (v : Val) : Nat :=
  match v with
  | .fin neg m e =>
    let c := Fmt.fp32.magEnc r m e
    if Fmt.fp32.maxEnc < c then Fmt.fp32.withSign neg 0x7F800000 else Fmt.fp32.withSign neg c
  | .inf neg => Fmt.fp32.withSign neg 0x7F800000
  | .nan => 0x7FC00000

/-- The exact sum of two values under IEEE 754: a zero sum of values of unlike sign is +0. -/
def Val.add (a b : Val) : Val :=
  match a, b with
  | .nan, _ => .nan
  | _, .nan => .nan
  | .inf s, .inf t => if s = t then .inf s else .nan
  | .inf s, _ => .inf s
  | _, .inf t => .inf t
  | .fin s m e, .fin t k d =>
    if m = 0 ∧ k = 0 then .fin (s && t) 0 0
    else (Dy.add (Val.dy (.fin s m e)) (Val.dy (.fin t k d))).val

/-- fp32_add_rne of R121. -/
def fp32Add (a b : Nat) : Nat := roundFp32 .rne (Val.add (Fmt.fp32.decode a) (Fmt.fp32.decode b))

/-! ### Chunks (R119 to R125) -/

/-- An operand of a dot product: its value, and the precision P of its format. -/
structure Opnd where
  v : Val
  p : Nat
  deriving DecidableEq, Repr

/-- The special value of a chunk (R120), if it has one. -/
def chunkSpecial (ps : List Val) : Option Val :=
  if ps.any (fun p => p == .nan) then some .nan
  else
    let pos := ps.contains (.inf false)
    let neg := ps.contains (.inf true)
    if pos && neg then some .nan
    else if pos then some (.inf false)
    else if neg then some (.inf true)
    else none

/-- The exact sum of finite products. -/
def sumDy (ps : List Val) : Dy := ps.foldl (fun d p => Dy.add d p.dy) .zero

/-- exact_chunk of R121: the products of a chunk and the exponent of its scales, to FP32. -/
def exactChunk (ps : List Val) (sc : Int) : Nat :=
  match chunkSpecial ps with
  | some v => roundFp32 .rne v
  | none =>
    let d := sumDy ps
    if d.m = 0 then 0 else roundFp32 .rne (d.val.scale sc)

/-- The terms of a fast-class group: exponent of the product's anchor and the product, zero products left
out. -/
def groupTerms (xs : List (Opnd × Opnd)) : List (Int × Dy) :=
  xs.filterMap (fun x =>
    match x.1.v, x.2.v with
    | .fin _ m e, .fin _ k d =>
      if m = 0 ∨ k = 0 then none else some (exOf m e + exOf k d, (Val.mul x.1.v x.2.v).dy)
    | _, _ => none)

/-- group_thin of R125; `g` is Pa + Pb + 1. -/
def groupThin (g : Int) (ts : List (Int × Dy)) : Dy :=
  match ts with
  | [] => .zero
  | t :: rest =>
    let top := rest.foldl (fun m x => max m x.1) t.1
    ts.foldl (fun s x => Dy.add s (x.2.cut (top - g))) .zero

/-- group_wide of R125. -/
def groupWide (g : Int) (ts : List (Int × Dy)) : Dy :=
  (ts.foldl (fun (st : Option Int × Dy) x =>
    let up : Bool := match st.1 with
      | none => true
      | some top => decide (top < x.1)
    let top := if up then x.1 else st.1.getD x.1
    let s := if up then st.2.cut (top - g) else st.2
    (some top, Dy.add s (x.2.cut (top - g)))) (none, Dy.zero)).2

/-- One group of the fast class added to the FP32 accumulator (R125). -/
def fastGroup (wide : Bool) (acc : Nat) (xs : List (Opnd × Opnd)) (sc : Int) : Nat :=
  match chunkSpecial (xs.map (fun x => Val.mul x.1.v x.2.v)) with
  | some v => fp32Add acc (roundFp32 .rne v)
  | none =>
    let g : Int := match xs with
      | [] => 1
      | x :: _ => (x.1.p : Int) + (x.2.p : Int) + 1
    let ts := groupTerms xs
    let s := if wide then groupWide g ts else groupThin g ts
    match Fmt.fp32.decode acc with
    | .fin n m e =>
      let d := Dy.add (Val.dy (.fin n m e)) { s with e := s.e + sc }
      if d.m = 0 then 0 else roundFp32 .rne d.val
    | v => roundFp32 .rne v

/-! ### FP32 operands (R127, R128) -/

/-- The BF16 pieces h, m and l of a finite FP32 encoding. -/
def fp32Pieces (x : Nat) : Val × Val × Val :=
  let clear (c : Nat) : Nat := c / 2 ^ 16 * 2 ^ 16
  let v := Fmt.fp32.decode x
  let h := Fmt.fp32.decode (clear x)
  let r1 := (Dy.add v.dy { (h.dy) with m := -h.dy.m }).val
  let m := Fmt.fp32.decode (clear (roundFp32 .rne r1))
  let r2 := (Dy.add r1.dy { (m.dy) with m := -m.dy.m }).val
  let l := match r2 with
    | .fin n k e => Fmt.bf16.decode (Fmt.bf16.withSign n (Fmt.bf16.magEnc { mode := .rtz, draw := 0 } k e))
    | w => w
  (h, m, l)

/-- The passes of R128 as piece numbers (0 h, 1 m, 2 l) of A and B, in order. -/
def fp32Passes (nine : Bool) : List (Nat × Nat) :=
  (if nine then [(2, 2), (1, 2), (2, 1)] else []) ++ [(1, 1), (0, 2), (2, 0), (0, 1), (1, 0), (0, 0)]

/-- Piece `i` of a triple. -/
def pieceOf (p : Val × Val × Val) (i : Nat) : Val :=
  match i with
  | 0 => p.1
  | 1 => p.2.1
  | _ => p.2.2

/-- The encoding is infinite or NaN. -/
def fp32Special (x : Nat) : Bool := x / 2 ^ 23 % 256 == 255

/-- The products of one position of an FP32 command: the selected piece products, or the whole product where
an element is infinite or NaN. -/
def fp32Products (nine : Bool) (a b : Nat) : List Val :=
  if fp32Special a || fp32Special b then [Val.mul (Fmt.fp32.decode a) (Fmt.fp32.decode b)]
  else (fp32Passes nine).map (fun p => Val.mul (pieceOf (fp32Pieces a) p.1) (pieceOf (fp32Pieces b) p.2))

/-- The groups of one chunk of finite elements of an FP32 command in the fast class, in pass order. -/
def fp32Groups (nine : Bool) (xs : List (Nat × Nat)) : List (List (Opnd × Opnd)) :=
  (fp32Passes nine).map (fun p => xs.map (fun x =>
    ({ v := pieceOf (fp32Pieces x.1) p.1, p := 8 }, { v := pieceOf (fp32Pieces x.2) p.2, p := 8 })))

/-- A chunk of an FP32 command in the fast class added to the accumulator: a chunk with a special product has that value
and its finite products are ignored (R120), any other adds its groups in turn. -/
def fp32FastChunk (wide nine : Bool) (acc : Nat) (xs : List (Nat × Nat)) (sc : Int) : Nat :=
  match chunkSpecial (xs.map (fun x => Val.mul (Fmt.fp32.decode x.1) (Fmt.fp32.decode x.2))) with
  | some v => fp32Add acc (roundFp32 .rne v)
  | none => (fp32Groups nine xs).foldl (fun acc g => fastGroup wide acc g sc) acc

/-! ### Sequences (R124, R384) -/

/-- A list cut into pieces of `n`; `fuel` bounds their number. -/
def chunks {α : Type} (n : Nat) : Nat → List α → List (List α)
  | 0, _ => []
  | _, [] => []
  | fuel + 1, l => l.take n :: chunks n fuel (l.drop n)

/-- The exact-class sum of a sequence (R124). -/
def exactSum (xs : List Val) : Nat :=
  (chunks 16 xs.length xs).foldl (fun acc c => fp32Add acc (exactChunk c 0)) 0

/-- The fast-class sum of a sequence against ones: one group for each 16 elements, in the thin shape. -/
def fastSum (p : Nat) (xs : List Val) : Nat :=
  (chunks 16 xs.length xs).foldl (fun acc c =>
    fastGroup false acc (c.map (fun v => ({ v := v, p := p }, { v := .fin false 1 0, p := p }))) 0) 0

/-! ### MX blocks (R109 to R111) -/

/-- emax of an element format (R111). -/
def mxEmax : Fmt → Int
  | .e4m3 => 8
  | .e5m2 => 15
  | .e3m2 => 4
  | .e2m3 => 2
  | .e2m1 => 2
  | _ => 0

/-- The value of an element in a block with scale code `s`; an INT8 element counts in units of 2⁻⁶. -/
def mxValue (f : Fmt) (s c : Nat) : Val :=
  if s = 0xFF then .nan
  else ((f.decode c).scale (if f = .int8 then -6 else 0)).scale ((s : Int) - 127)

/-- ⌊log2 amax⌋ of the finite values of a group, none where all are zero. -/
def groupLog? (vs : List Val) : Option Int :=
  vs.foldl (fun m v =>
    match v with
    | .fin _ k e =>
      if k = 0 then m
      else match m with
        | none => some (exOf k e)
        | some x => some (max x (exOf k e))
    | _ => m) none

/-- A group of values encoded as an MX block: the scale and the elements with their saturation (R111). -/
def mxEncode (f : Fmt) (vs : List (Val × Rnd)) : Nat × List (Nat × Bool) :=
  if vs.any (fun v => match v.1 with
      | .fin _ _ _ => false
      | _ => true) then (0xFF, vs.map (fun _ => (0, false)))
  else match groupLog? (vs.map (·.1)) with
    | none => (0x7F, vs.map (fun _ => (0, false)))
    | some g =>
      let x := min (max (g - mxEmax f) (-127)) 127
      ((x + 127).toNat,
       vs.map (fun v => f.convert v.2 (v.1.scale (-x + (if f = .int8 then 6 else 0)))))

/-! ### The exponent histogram (R131) -/

/-- The class of one written element, and whether it is subnormal in its format. -/
inductive HistCls where
  | bin (i : Nat)
  | zero | inf | nan
  deriving DecidableEq, Repr

/-- The class of an encoding of a format (R131). -/
def histClass (f : Fmt) (c : Nat) : HistCls × Bool :=
  match f.decode c with
  | .nan => (.nan, false)
  | .inf _ => (.inf, false)
  | .fin _ m e =>
    if m = 0 then (.zero, false)
    else (.bin ((max 0 (exOf m e + 127)).toNat / 4),
      !f.isInt && decide (c % 2 ^ (f.bits - 1) < 2 ^ f.frac))

end Sys2Proof
end

