-- ==== Sys2Proof/Config.lean ====
section
/-!
DEFINITION. What the spec leaves open: free values, which are constants without a body, and the
cryptographic and transcendental functions that the spec names and the model does not compute.
-/
namespace Sys2Proof.Config

/-- A fresh value that the spec leaves open, picked by the model's own counter `State.free` (log entry 3). -/
opaque freeWord : Nat → BitVec 64

/-- A fresh line of data whose contents only a device outside the hub knows (log entry 3). -/
opaque freeLine : Nat → BitVec 1024

/-- The eight check symbols of the line ECC code over the 64 symbols of a unit, whose field and generator polynomials the
spec does not give (R199; log entry 114). -/
opaque lineCheck : BitVec 512 → BitVec 64

/-- The eight check symbols of a bond flit over its 88 payload symbols (R297), by the code whose field and generator
polynomials the spec does not give (log entry 116). -/
opaque flitCheck : BitVec 704 → BitVec 64

/-- What a received flit with more than six wrong symbols decodes to, beyond what the code promises (R199): a payload with
the symbols corrected, or uncorrectable. -/
opaque flitBeyond : BitVec 768 → Option (BitVec 704 × BitVec 96)

/-- The memory key that the random source yields where none is provisioned, by the number of the draw (R451). -/
opaque volatileKey : Nat → BitVec 512

/-- The symbols, at most two, that the base reports as corrected in the status of a write that the hub makes of its own
(R199), by the model's own counter. -/
opaque writeStatus : Nat → Option (Fin 72) × Option (Fin 72)

/-- How a stack's port trains where a write of STK_CTRL.REJOIN starts the training (R220), by the model's own counter. -/
opaque stackTraining : Nat → StackTrain

/-- The set of a plaza's cache that a line falls in, and the set of its owner-table slice: internal to the hub (R228). -/
opaque lineSet : Nat → Fin 8192

/-- The owner-table set of a line. -/
opaque ownerSet : Nat → Fin 1024

/-- SHA-384 of a byte string (R40, R453, R465, R469; log entry 5). -/
opaque sha384 : List (BitVec 8) → BitVec 384

/-- Whether the ECDSA P-384 signature of R454 verifies: public key, signed content, signature. -/
opaque ecdsaVerify : List (BitVec 8) → List (BitVec 8) → List (BitVec 8) → Bool

/-- Whether the HSS signature of R454 verifies: public key, digest, signature. -/
opaque hssVerify : List (BitVec 8) → BitVec 384 → List (BitVec 8) → Bool

/-- The public key that belongs to a private scalar of the device identity key, x then y (R465). -/
opaque identityPublic : Nat → List (BitVec 8)

/-- The DER bytes of an attestation certificate (R460 to R464): the identity and LMS keys, the serial number, the
leaf index and the measured values in the order of R461, each as a byte string. -/
opaque certificate : Nat → Nat → Nat → Nat → List (List (BitVec 8)) → List (BitVec 8)

/-- The DER certificates of the Charus root CA and of the Charus device CA, which travel in the image with the given
digest (R454, R464). -/
opaque caRoot : Nat → List (BitVec 8)

/-- The certificate of the device CA. -/
opaque caDevice : Nat → List (BitVec 8)

/-- An ECDSA P-384 signature of 96 bytes with the alias key of the certificate of a leaf (R411, R464): the identity key, the
leaf, the bytes signed. -/
opaque aliasSign : Nat → Nat → List (BitVec 8) → List (BitVec 8)

/-- The FP32 result of an elementary function where the spec gives only a bound (R157, R158): the operation, the
FP32 input; the same for every tile. -/
opaque elementary : Nat → Nat → BitVec 32

/-- The byte of the tile monitor at an offset of monitor memory, in the image with the given digest (R45, R47). -/
opaque monitorByte : Nat → Nat → BitVec 8

/-- The identification CSRs of a control core, by CSR number: mvendorid, marchid, mimpid, mconfigptr (R67). -/
opaque machineId : Nat → BitVec 64

/-- The words of the DUMP area, whose layout is Charus's own (R532): the recording, the word's index. -/
opaque dumpWord : Nat → Nat → BitVec 32

/-- How many packets more than one a router's buffer holds, by its number (R330 gives no depth). -/
opaque bufferExtra : Nat → Nat

/-- The 32-bit generator of R513: the next state. -/
opaque sampleStep : Nat → Nat

/-- Whether a test gate covers a reserved bit of a register: the gate, the register's offset, the bit (R524; log entry
80). -/
opaque gateCovers : Nat → Nat → Nat → Bool

end Sys2Proof.Config
end

