-- ==== Sys2Proof/Machine/Cells.lean ====
section
/-!
DEFINITION. What the cells of a stack hold for a unit (R199, R201, R202): AES-256-XTS as in IEEE 1619 with the unit as the
data unit, and the codeword of ciphertext and check symbols that travels on the bonds. A block of the cipher is 16 bytes,
each a natural below 256.
-/
namespace Sys2Proof.Machine

/-! ### AES-256 -/

/-- A row of the substitution table of AES, 32 bytes from 32 × row on. -/
def aesBoxRow (r : Nat) : Nat :=
  match r with
  | 0 => 0xc072a49cafa2d4adf04759fa7dc982ca76abd7fe2b670130c56f6bf27b777c63
  | 1 => 0x75b227ebe28012079a059618c323c7041531d871f1e5a534ccf73f362693fdb7
  | 2 => 0xcf584c4a39becb6a5bb1fc20ed00d153842fe329b3d63b52a05a6e1b1a2c8309
  | 3 => 0xd2f3ff1021dab6bcf5389d928f40a351a89f3c507f02f94585334d43fbaaefd0
  | 4 => 0xdb0b5ede14b8ee4688902a22dc4f816073195d643d7ea7c41744975fec130ccd
  | 5 => 0x08ae7a65eaf4566ca94ed58d6d37c8e779e4959162acd3c25c2406490a3a32e0
  | 6 => 0x9e1dc186b95735610ef6034866b53e708a8bbd4b1f74dde8c6b4a61c2e2578ba
  | _ => 0x16bb54b00f2d99416842e6bf0d89a18cdf2855cee9871e9b948ed9691198f8e1

/-- SubBytes of one byte. -/
def aesSub (b : Nat) : Nat := aesBoxRow (b / 32 % 8) / 2 ^ (8 * (b % 32)) % 256

/-- Multiplication by x in the field of AES. -/
def aesTimes2 (b : Nat) : Nat := if b < 128 then 2 * b else (2 * b) ^^^ 0x11B

/-- Two lists of bytes added bit by bit. -/
def xorBytes (a b : List Nat) : List Nat := List.zipWith (fun x y => x ^^^ y) a b

/-- ShiftRows. -/
def aesShift (b : List Nat) : List Nat :=
  (List.range 16).map (fun i => b.getD ((i % 4 + 4 * ((i / 4 + i % 4) % 4)) % 16) 0)

/-- MixColumns. -/
def aesMix (b : List Nat) : List Nat :=
  (List.range 16).map (fun i =>
    let at' (j : Nat) : Nat := b.getD (i / 4 * 4 + (i + j) % 4) 0
    aesTimes2 (at' 0) ^^^ aesTimes2 (at' 1) ^^^ at' 1 ^^^ at' 2 ^^^ at' 3)

/-- The next word of the key schedule, `i` being its index. -/
def aesNextWord (i : Nat) (ws : List (List Nat)) : List Nat :=
  let last := ws.getD (i - 1) []
  let turned :=
    if i % 8 = 0 then xorBytes ((last.drop 1 ++ last.take 1).map aesSub) [2 ^ (i / 8 - 1), 0, 0, 0]
    else if i % 8 = 4 then last.map aesSub
    else last
  xorBytes (ws.getD (i - 8) []) turned

/-- The 60 words of the key schedule of a key of 32 bytes. -/
def aesWords (key : List Nat) : List (List Nat) :=
  (List.range 52).foldl (fun ws i => ws ++ [aesNextWord (i + 8) ws])
    ((List.range 8).map (fun i => (key.drop (4 * i)).take 4))

/-- The 15 round keys. -/
def aesKeys (key : List Nat) : List (List Nat) :=
  (List.range 15).map (fun r => (((aesWords key).drop (4 * r)).take 4).flatten)

/-- AES-256 of one block under round keys. -/
def aesBlock (keys : List (List Nat)) (b : List Nat) : List Nat :=
  let inner := ((keys.drop 1).take 13).foldl (fun b k => xorBytes (aesMix (aesShift (b.map aesSub))) k)
    (xorBytes b (keys.getD 0 []))
  xorBytes (aesShift (inner.map aesSub)) (keys.getD 14 [])

/-! ### XTS -/

/-- Multiplication of a tweak by α. -/
def xtsTimes (t : Nat) : Nat := if t < 2 ^ 127 then 2 * t else (2 * t % 2 ^ 128) ^^^ 0x87

/-- A natural as bytes, least significant first. -/
def bytesOf (n v : Nat) : List Nat := (List.range n).map (fun i => v / 2 ^ (8 * i) % 256)

/-- The natural of bytes, least significant first. -/
def natOf (l : List Nat) : Nat := l.foldr (fun b v => b + 256 * v) 0

/-- The blocks of a data unit from a tweak on, each under the next multiple of it. -/
def xtsBlocks (keys : List (List Nat)) : Nat → Nat → Nat → Nat
  | 0, _, _ => 0
  | n + 1, t, v =>
    let tweak := bytesOf 16 t
    natOf (xorBytes (aesBlock keys (xorBytes (bytesOf 16 v) tweak)) tweak) +
      2 ^ 128 * xtsBlocks keys n (xtsTimes t) (v / 2 ^ 128)

/-- AES-256-XTS of a unit under a key of 512 bits, of which the low half is the data key and the high half the tweak key
(log entry 114). -/
def xtsUnit (key tweak : Nat) (d : UnitData) : UnitData :=
  BitVec.ofNat 512 (xtsBlocks (aesKeys (bytesOf 32 key)) 4
    (natOf (aesBlock (aesKeys (bytesOf 32 (key / 2 ^ 256))) (bytesOf 16 tweak))) d.toNat)

/-! ### The codeword (R199, R201) -/

/-- What the 72 bonds of a module carry for a unit: its data symbols and its check symbols. -/
structure Codeword where
  data : UnitData
  check : BitVec 64
  deriving DecidableEq, Repr

/-- The pattern that a poisoned unit's check symbols are XORed with. -/
def poisonPattern : BitVec 64 := 0x5A5A5A5A5A5A5A5A

/-- The codeword of an encrypted unit; a poisoned one carries the pattern. -/
def codewordOf (d : UnitData) (poisoned : Bool) : Codeword :=
  { data := d, check := if poisoned then Config.lineCheck d ^^^ poisonPattern else Config.lineCheck d }

/-- Symbol `j` of a codeword: the eight bits that bond `j` carries over the eight beats of 64 data bits and 8 check bits. -/
def Codeword.symbol (c : Codeword) (j : Nat) : Byte :=
  BitVec.ofNat 8 (natOfBits ((List.range 8).map (fun beat =>
    if j < 64 then c.data.getLsbD (64 * beat + j) else c.check.getLsbD (8 * beat + (j - 64)))))
where
  /-- The natural of bits, least significant first. -/
  natOfBits (l : List Bool) : Nat := l.foldr (fun b v => b2n b + 2 * v) 0

end Sys2Proof.Machine
end

