-- ==== Sys2Proof/Machine/RegMap.lean ====
section
/-!
DEFINITION. The register map: every register of BAR0 with its offset (R538 to R542) and every field of it
with its bits, access, reset value and apply point, from the register tables R94, R162, R210, R223, R260,
R293, R328, R355, R389, R417, R448, R481, R504, R522, R531, R537 and R541. Bits that no field of a row names
are the row's reserved bits. The registers of the selected ring and the fence counters, which R538 and R539
reach through a selector, have model keys above the 64 MiB of BAR0, one per ring or fence.
-/
namespace Sys2Proof

/-- The access codes of R11, and the two that depend on the function (R162, R293): `rwPf` is RW in the
physical function and absent in a virtual one, `rwPfRo` is RW in the physical function and RO in a virtual
one. SQ is not a code of its own: it is RC under REG_COMPAT.SQ_MODE (R530). -/
inductive Access where
  | rw | ro | wo | rc | w1s | rwPf | rwPfRo
  deriving DecidableEq, Repr

/-- The apply points of R527. -/
inductive Apply where
  | now | qosPeriod | taskBoundary | snapshot | linkRetrain
  deriving DecidableEq, Repr

/-- One field of a register table. -/
structure FieldInfo where
  name : String
  lo : Nat
  hi : Nat
  acc : Access
  reset : Nat
  ap : Apply
  deriving DecidableEq, Repr

/-- A family of registers: one name of the register tables, with its offset and its index strides
(step and count). -/
structure RegFam where
  name : String
  base : Nat
  strides : List (Nat × Nat)
  fields : List FieldInfo
  deriving DecidableEq, Repr

/-- One row of a register table. -/
def fld (name : String) (lo hi : Nat) (acc : Access) (reset : Nat) (ap : Apply) : FieldInfo :=
  { name := name, lo := lo, hi := hi, acc := acc, reset := reset, ap := ap }

/-- Does offset `off` name a register of the family? -/
def RegFam.has (f : RegFam) (off : Nat) : Bool :=
  decide (f.base ≤ off) &&
  match f.strides with
  | [] => decide (off = f.base)
  | [(s, n)] => decide ((off - f.base) % s = 0 ∧ (off - f.base) / s < n)
  | (s, n) :: (t, m) :: _ =>
    decide ((off - f.base) / s < n ∧ (off - f.base) % s % t = 0 ∧ (off - f.base) % s / t < m)

/-- Register families, part 1 of 8. -/
def regFams1 : List RegFam := [
  -- R162
  ⟨"CTX_POLICY", 0x0, [(128, 4096)],
    [fld "OWNER" 0 7 .rwPf 0 .now,
     fld "SNAP_OK" 8 8 .rwPf 0 .taskBoundary,
     fld "DOT_FORCE" 9 10 .rwPf 0 .taskBoundary,
     fld "CLASS_MASK" 16 31 .rwPf 1 .taskBoundary]⟩,
  -- R162
  ⟨"CTX_CTRL", 0x4, [(128, 4096)],
    [fld "ENABLE" 0 0 .rw 0 .now]⟩,
  -- R162
  ⟨"CTX_STATUS", 0x8, [(128, 4096)],
    [fld "STATE" 0 1 .ro 0 .now,
     fld "ENABLE_PENDING" 2 2 .ro 0 .now,
     fld "CFG_ERROR" 3 3 .rc 0 .now,
     fld "IN_FLIGHT" 16 31 .ro 0 .now]⟩,
  -- R541
  ⟨"CTX_FENCE_SEL", 0xC, [(128, 4096)],
    [fld "INDEX" 0 5 .rw 0 .now]⟩,
  -- R162
  ⟨"CQ_BASE_LO", 0x10, [(128, 4096)],
    [fld "ADDR" 6 31 .rw 0 .now]⟩,
  -- R162
  ⟨"CQ_BASE_HI", 0x14, [(128, 4096)],
    [fld "ADDR" 0 22 .rw 0 .now]⟩,
  -- R162
  ⟨"CQ_HIST_BASE_LO", 0x18, [(128, 4096)],
    [fld "ADDR" 6 31 .rw 0 .now]⟩,
  -- R162
  ⟨"CQ_HIST_BASE_HI", 0x1C, [(128, 4096)],
    [fld "ADDR" 0 22 .rw 0 .now]⟩,
  -- R162
  ⟨"CQ_CTRL", 0x20, [(128, 4096)],
    [fld "SIZE_LOG2" 0 4 .rw 0 .now,
     fld "HIST_EN" 5 5 .rw 0 .now,
     fld "IRQ_EN" 6 6 .rw 0 .now,
     fld "VECTOR" 7 18 .rw 0 .now]⟩,
  -- R162
  ⟨"CQ_HEAD", 0x24, [(128, 4096)],
    [fld "COUNT" 0 31 .rw 0 .now]⟩,
  -- R162
  ⟨"CQ_TAIL", 0x28, [(128, 4096)],
    [fld "COUNT" 0 31 .ro 0 .now]⟩,
  -- R293
  ⟨"CTX_PT_ROOT_LO", 0x30, [(128, 4096)],
    [fld "ADDR" 16 31 .rwPfRo 0 .now]⟩,
  -- R293
  ⟨"CTX_PT_ROOT_HI", 0x34, [(128, 4096)],
    [fld "ADDR" 0 19 .rwPfRo 0 .now]⟩,
  -- R293
  ⟨"CTX_FLT_BASE_LO", 0x40, [(128, 4096)],
    [fld "ADDR" 6 31 .rw 0 .now]⟩,
  -- R293
  ⟨"CTX_FLT_BASE_HI", 0x44, [(128, 4096)],
    [fld "ADDR" 0 22 .rw 0 .now]⟩,
  -- R293
  ⟨"CTX_FLT_CTRL", 0x48, [(128, 4096)],
    [fld "SIZE_LOG2" 0 3 .rw 0 .now,
     fld "IRQ_EN" 4 4 .rw 0 .now,
     fld "VECTOR" 5 16 .rw 0 .now]⟩,
  -- R293
  ⟨"CTX_FLT_HEAD", 0x4C, [(128, 4096)],
    [fld "COUNT" 0 31 .rw 0 .now]⟩,
  -- R293
  ⟨"CTX_FLT_TAIL", 0x50, [(128, 4096)],
    [fld "COUNT" 0 31 .ro 0 .now]⟩,
  -- R293
  ⟨"CTX_FLT_STATUS", 0x54, [(128, 4096)],
    [fld "OVERFLOW" 0 0 .rc 0 .now, fld "DROPS" 16 31 .rc 0 .now]⟩,
  -- R162
  ⟨"RING_DB", 0x80000, [(4, 16384)],
    [fld "COUNT" 0 31 .wo 0 .now]⟩,
  -- R162
  ⟨"RING_HEAD", 0x90000, [(4, 16384)],
    [fld "COUNT" 0 31 .ro 0 .now]⟩,
  -- R522
  ⟨"CNT_b_CYC_LO", 0xA0000, [(256, 353)],
    [fld "COUNT" 0 31 .ro 0 .now]⟩]

/-- Register families, part 2 of 8. -/
def regFams2 : List RegFam := [
  -- R522
  ⟨"CNT_b_CYC_HI", 0xA0004, [(256, 353)],
    [fld "COUNT" 0 15 .ro 0 .now]⟩,
  -- R522
  ⟨"CNT_b_OVF", 0xA0008, [(256, 353)],
    [fld "WRAPPED" 0 7 .rc 0 .now]⟩,
  -- R522
  ⟨"CNT_b_BW_CTRL", 0xA000C, [(256, 353)],
    [fld "WINDOW_LOG2" 0 4 .rw 20 .snapshot, fld "SNAP_ALIGN" 5 5 .rw 0 .snapshot]⟩,
  -- R522
  ⟨"CNT_b_BW_p", 0xA0010, [(256, 353), (4, 4)],
    [fld "UNITS" 0 31 .ro 0 .now]⟩,
  -- R522
  ⟨"CNT_b_SEL_i", 0xA0020, [(256, 353), (4, 8)],
    [fld "EVENT" 0 7 .rw 0 .snapshot,
     fld "FILTER_EN" 8 8 .rw 0 .snapshot,
     fld "CONTEXT" 9 20 .rw 0 .snapshot,
     fld "PORT" 21 23 .rw 0 .snapshot,
     fld "VN" 24 26 .rw 0 .snapshot,
     fld "OVF_IRQ" 27 27 .rw 0 .now]⟩,
  -- R522
  ⟨"CNT_b_VAL_i_LO", 0xA0040, [(256, 353), (8, 8)],
    [fld "COUNT" 0 31 .rw 0 .now]⟩,
  -- R522
  ⟨"CNT_b_VAL_i_HI", 0xA0044, [(256, 353), (8, 8)],
    [fld "COUNT" 0 15 .rw 0 .now]⟩,
  -- R522
  ⟨"CNT_b_SHD_i_LO", 0xA0080, [(256, 353), (16, 8)],
    [fld "COUNT" 0 31 .ro 0 .snapshot]⟩,
  -- R522
  ⟨"CNT_b_SHD_i_HI", 0xA0084, [(256, 353), (16, 8)],
    [fld "COUNT" 0 15 .ro 0 .snapshot]⟩,
  -- R522
  ⟨"CNT_b_SHD_i_INFL", 0xA0088, [(256, 353), (16, 8)],
    [fld "COUNT" 0 31 .ro 0 .snapshot]⟩,
  -- R522
  ⟨"CNT_b_SHD_CYC_LO", 0xA008C, [(256, 353)],
    [fld "COUNT" 0 31 .ro 0 .snapshot]⟩,
  -- R522
  ⟨"CNT_b_SHD_CYC_HI", 0xA009C, [(256, 353)],
    [fld "COUNT" 0 15 .ro 0 .snapshot]⟩,
  -- R541
  ⟨"RING_SEL", 0xC0000, [],
    [fld "RING" 0 13 .rw 0 .now]⟩,
  -- R293
  ⟨"XLT_INV_VA_LO", 0xC0020, [],
    [fld "ADDR" 16 31 .rw 0 .now]⟩,
  -- R293
  ⟨"XLT_INV_VA_HI", 0xC0024, [],
    [fld "ADDR" 0 22 .rw 0 .now]⟩,
  -- R293
  ⟨"XLT_INV_CTRL", 0xC0028, [],
    [fld "CONTEXT" 0 11 .rw 0 .now,
     fld "WHOLE" 12 12 .rw 0 .now,
     fld "LOG2_PAGES" 13 18 .rw 0 .now,
     fld "GO" 19 19 .wo 0 .now]⟩,
  -- R293
  ⟨"XLT_INV_STATUS", 0xC002C, [],
    [fld "BUSY" 0 0 .ro 0 .now, fld "DROPPED" 1 1 .rc 0 .now, fld "DENIED" 2 2 .rc 0 .now]⟩,
  -- R417
  ⟨"HIF_FN_STATUS", 0xC0040, [],
    [fld "GATE_OPEN" 0 0 .ro 0 .now,
     fld "FLR_PENDING" 1 1 .ro 0 .now,
     fld "TDI_STATE" 2 3 .ro 0 .now,
     fld "BAD_VECTOR" 4 4 .rc 0 .now,
     fld "DROPS" 16 31 .rc 0 .now]⟩,
  -- R522
  ⟨"SNAP_SEQ", 0xC0044, [],
    [fld "VALUE" 0 31 .ro 0 .snapshot]⟩,
  -- R531
  ⟨"REG_STATUS", 0xC0080, [],
    [fld "BAD_ACCESS" 0 0 .rc 0 .now,
     fld "RSVD_CHANGED" 1 1 .rc 0 .now,
     fld "STALL_TIMEOUT" 2 2 .rc 0 .now,
     fld "SQ_MISMATCH" 3 3 .rc 0 .now,
     fld "LAST_OFFSET" 8 31 .ro 0 .now]⟩,
  -- R531
  ⟨"REG_COMPAT", 0xC0084, [],
    [fld "SQ_MODE" 0 0 .rw 0 .now]⟩,
  -- R531
  ⟨"REG_SQ_LAST", 0xC0088, [],
    [fld "SEQ" 0 15 .ro 0 .now, fld "VALID" 16 16 .ro 0 .now]⟩]

/-- Register families, part 3 of 8. -/
def regFams3 : List RegFam := [
  -- R537
  ⟨"BULK_SEL", 0xC0100, [],
    [fld "AREA" 0 2 .rw 0 .now, fld "AUTOINC" 3 3 .rw 1 .now]⟩,
  -- R537
  ⟨"BULK_ADDR_LO", 0xC0104, [],
    [fld "ADDR" 2 31 .rw 0 .now]⟩,
  -- R537
  ⟨"BULK_ADDR_HI", 0xC0108, [],
    [fld "ADDR" 0 19 .rw 0 .now]⟩,
  -- R537
  ⟨"BULK_DATA", 0xC010C, [],
    [fld "DATA" 0 31 .rw 0 .now]⟩,
  -- R537
  ⟨"BULK_STATUS", 0xC0110, [],
    [fld "RANGE" 0 0 .rc 0 .now,
     fld "RO_AREA" 1 1 .rc 0 .now,
     fld "DENIED" 2 2 .rc 0 .now,
     fld "AREA_BUSY" 3 3 .rc 0 .now]⟩,
  -- R541
  ⟨"APT_s_VA_LO", 0xC0200, [(16, 16)],
    [fld "ADDR" 26 31 .rw 0 .now]⟩,
  -- R541
  ⟨"APT_s_VA_HI", 0xC0204, [(16, 16)],
    [fld "ADDR" 0 22 .rw 0 .now]⟩,
  -- R541
  ⟨"APT_s_CTRL", 0xC0208, [(16, 16)],
    [fld "ENABLE" 0 0 .rw 0 .now, fld "WRITE" 1 1 .rw 0 .now, fld "CONTEXT" 2 13 .rw 0 .now]⟩,
  -- R448
  ⟨"BOOT_STATUS", 0x100000, [],
    [fld "STAGE" 0 2 .ro 0 .now,
     fld "READY" 3 3 .ro 0 .now,
     fld "ERROR" 4 4 .ro 0 .now,
     fld "IMAGE_BUSY" 5 5 .ro 0 .now,
     fld "ERROR_CODE" 16 31 .ro 0 .now]⟩,
  -- R448
  ⟨"BOOT_CTRL", 0x100004, [],
    [fld "IMAGE_READY" 0 0 .wo 0 .now]⟩,
  -- R448
  ⟨"BOOT_IMAGE_LEN", 0x100008, [],
    [fld "LEN" 0 25 .rw 0 .now]⟩,
  -- R448
  ⟨"CFG_EPOCH", 0x10000C, [],
    [fld "VALUE" 0 31 .ro 0 .now]⟩,
  -- R448
  ⟨"SVC_STATUS", 0x100010, [],
    [fld "RAISED" 0 15 .rc 0 .now, fld "WORST" 16 18 .rc 0 .now]⟩,
  -- R448
  ⟨"TILE_RETIRE", 0x100014, [],
    [fld "LOGICAL" 0 6 .wo 0 .now, fld "GO" 7 7 .wo 0 .now]⟩,
  -- R417
  ⟨"HIF_STATUS", 0x100020, [],
    [fld "LINK_UP" 0 0 .ro 0 .now,
     fld "RATE" 1 3 .ro 0 .now,
     fld "WIDTH" 4 8 .ro 0 .now,
     fld "CONTAINED" 9 9 .ro 0 .now,
     fld "TRANSIT_FAILED" 10 10 .ro 0 .now]⟩,
  -- R417
  ⟨"HIF_CONTAIN", 0x100024, [],
    [fld "RELEASE" 0 0 .wo 0 .now, fld "REFUSED" 1 1 .rc 0 .now, fld "CAUSE" 2 6 .ro 0 .now]⟩,
  -- R355
  ⟨"NOC_CTRL", 0x100040, [],
    [fld "DEAD_TIMEOUT" 0 7 .rw 50 .now]⟩,
  -- R355
  ⟨"NOC_STATUS", 0x100044, [],
    [fld "WEST_LINKS" 0 7 .ro 255 .now,
     fld "EAST_LINKS" 8 15 .ro 255 .now,
     fld "TRANSIT_FAILED" 16 16 .ro 0 .now]⟩,
  -- R355
  ⟨"NOC_ERRORS", 0x100048, [],
    [fld "CORRECTED" 0 15 .rc 0 .now, fld "STALE" 16 31 .rc 0 .now]⟩,
  -- R223
  ⟨"MEM_CTRL", 0x100060, [],
    [fld "T_THROTTLE" 0 7 .rw 95 .now,
     fld "T_HYST" 8 11 .rw 5 .now,
     fld "FLOOR" 12 16 .rw 8 .now,
     fld "BOND_THRESH" 17 24 .rw 8 .now]⟩,
  -- R260
  ⟨"PLZ_CTRL", 0x100064, [],
    [fld "SNP_TIMEOUT" 0 9 .rw 20 .now,
     fld "HOST_HINT" 10 13 .rw 0 .now,
     fld "FLUSH_ALL" 14 14 .wo 0 .now,
     fld "FLUSH_BUSY" 15 15 .ro 0 .now]⟩,
  -- R293
  ⟨"FLT_CTRL", 0x100080, [],
    [fld "CTX_QUOTA" 0 8 .rw 32 .now, fld "HOST_WAIT" 9 12 .rw 4 .now]⟩]

/-- Register families, part 4 of 8. -/
def regFams4 : List RegFam := [
  -- R293
  ⟨"FLT_p_STATUS", 0x100084, [(4, 3)],
    [fld "LIVE" 0 8 .ro 0 .now, fld "TABLE_FULL" 9 9 .rc 0 .now]⟩,
  -- R293
  ⟨"FLT_OP_BASE_LO", 0x100090, [],
    [fld "ADDR" 6 31 .rw 0 .now]⟩,
  -- R293
  ⟨"FLT_OP_BASE_HI", 0x100094, [],
    [fld "ADDR" 0 22 .rw 0 .now]⟩,
  -- R293
  ⟨"FLT_OP_CTRL", 0x100098, [],
    [fld "SIZE_LOG2" 0 3 .rw 0 .now,
     fld "IRQ_EN" 4 4 .rw 0 .now,
     fld "VECTOR" 5 16 .rw 0 .now,
     fld "ENABLE" 31 31 .rw 0 .now]⟩,
  -- R293
  ⟨"FLT_OP_HEAD", 0x10009C, [],
    [fld "COUNT" 0 31 .rw 0 .now]⟩,
  -- R293
  ⟨"FLT_OP_TAIL", 0x1000A0, [],
    [fld "COUNT" 0 31 .ro 0 .now]⟩,
  -- R293
  ⟨"FLT_OP_STATUS", 0x1000A4, [],
    [fld "OVERFLOW" 0 0 .rc 0 .now,
     fld "CFG_ERROR" 1 1 .rc 0 .now,
     fld "DROPS" 16 31 .rc 0 .now]⟩,
  -- R448
  ⟨"PART_p_CTRL", 0x1000C0, [(8, 3)],
    [fld "RESET" 0 0 .wo 0 .now]⟩,
  -- R448
  ⟨"PART_p_STATUS", 0x1000C4, [(8, 3)],
    [fld "STATE" 0 1 .ro 0 .now, fld "GOOD_TILES" 2 6 .ro 0 .now]⟩,
  -- R522
  ⟨"CNT_CTRL", 0x100100, [],
    [fld "ENABLE" 0 0 .rw 1 .now, fld "VECTOR" 1 12 .rw 0 .now]⟩,
  -- R522
  ⟨"SNAP_CTRL", 0x100104, [],
    [fld "GO" 0 0 .wo 0 .now, fld "MIN_GAP" 1 10 .rw 100 .now]⟩,
  -- R522
  ⟨"SNAP_STATUS", 0x100108, [],
    [fld "BUSY" 0 0 .ro 0 .now, fld "COLOUR" 1 1 .ro 0 .now, fld "ABORTED" 2 2 .ro 0 .now]⟩,
  -- R522
  ⟨"SMP_BASE_LO", 0x100110, [],
    [fld "ADDR" 6 31 .rw 0 .now]⟩,
  -- R522
  ⟨"SMP_BASE_HI", 0x100114, [],
    [fld "ADDR" 0 19 .rw 0 .now]⟩,
  -- R522
  ⟨"SMP_CTRL", 0x100118, [],
    [fld "ENABLE" 0 0 .rw 0 .now,
     fld "SIZE_LOG2" 1 5 .rw 0 .now,
     fld "RATE_LOG2" 6 10 .rw 16 .now,
     fld "QUEUE_MASK" 11 14 .rw 15 .now]⟩,
  -- R522
  ⟨"SMP_HEAD", 0x10011C, [],
    [fld "COUNT" 0 31 .rw 0 .now]⟩,
  -- R522
  ⟨"SMP_TAIL", 0x100120, [],
    [fld "COUNT" 0 31 .ro 0 .now]⟩,
  -- R522
  ⟨"SMP_STATUS", 0x100124, [],
    [fld "DROPS" 0 31 .rc 0 .now]⟩,
  -- R389
  ⟨"FAB_NODE", 0x100140, [],
    [fld "NODE" 0 15 .rw 65535 .now]⟩,
  -- R389
  ⟨"FAB_CTRL", 0x100144, [],
    [fld "RSP_TIMEOUT" 0 7 .rw 10 .now,
     fld "FAULT_WAIT" 8 11 .rw 4 .now,
     fld "WIN_FENCE" 12 12 .wo 0 .now,
     fld "WIN_BUSY" 13 13 .ro 0 .now,
     fld "ROUTE_EN" 14 14 .rw 0 .now]⟩,
  -- R389
  ⟨"FAB_RT_SEL", 0x100148, [],
    [fld "NODE" 0 15 .rw 0 .now, fld "TABLE" 16 20 .rw 0 .now, fld "AUTOINC" 21 21 .rw 0 .now]⟩,
  -- R389
  ⟨"FAB_RT_DATA", 0x10014C, [],
    [fld "OUT" 0 4 .rw 31 .now, fld "VL_UP" 5 5 .rw 0 .now]⟩]

/-- Register families, part 5 of 8. -/
def regFams5 : List RegFam := [
  -- R355
  ⟨"QOS_CTRL", 0x100160, [],
    [fld "IRQ_EN" 0 0 .rw 0 .now, fld "VECTOR" 1 12 .rw 0 .now]⟩,
  -- R355
  ⟨"QOS_GUARANTEED", 0x100164, [],
    [fld "MASK" 0 15 .ro 0 .qosPeriod]⟩,
  -- R355
  ⟨"QOS_HOST_CLASS", 0x100168, [],
    [fld "PF_CLASS" 0 3 .rw 0 .qosPeriod, fld "VF_CLASS" 4 7 .rw 0 .qosPeriod]⟩,
  -- R355
  ⟨"QOS_URG_THRESH", 0x10016C, [],
    [fld "T1" 0 6 .rw 50 .qosPeriod,
     fld "T2" 7 13 .rw 75 .qosPeriod,
     fld "T3" 14 20 .rw 90 .qosPeriod]⟩,
  -- R355
  ⟨"QOS_MISS", 0x100170, [],
    [fld "COUNT" 0 15 .rc 0 .now,
     fld "LAST_POINT" 16 22 .ro 0 .now,
     fld "LAST_CLASS" 23 26 .ro 0 .now]⟩,
  -- R504
  ⟨"PWR_CMD", 0x100180, [],
    [fld "UNIT_TYPE" 0 7 .rw 0 .now,
     fld "PHYS_ID" 8 15 .rw 0 .now,
     fld "STATE" 16 17 .rw 0 .taskBoundary,
     fld "GO" 18 18 .wo 0 .now,
     fld "REFUSED" 19 19 .rc 0 .now]⟩,
  -- R504
  ⟨"PWR_UNIT", 0x100184, [],
    [fld "NOW" 0 1 .ro 0 .now,
     fld "TARGET" 2 3 .ro 0 .now,
     fld "MOVING" 4 4 .ro 0 .now,
     fld "HELD" 5 5 .ro 0 .now]⟩,
  -- R504
  ⟨"PWR_PKG", 0x100188, [],
    [fld "BUDGET_W" 0 11 .rw 3600 .now,
     fld "BUDGET_OVER" 12 12 .ro 0 .now,
     fld "HUB_OVER" 13 13 .ro 0 .now]⟩,
  -- R504
  ⟨"PWR_HUB_BUDGET", 0x10018C, [],
    [fld "WATTS" 0 11 .rw 1800 .now]⟩,
  -- R504
  ⟨"PWR_HUB_POWER", 0x100190, [],
    [fld "WATTS" 0 11 .ro 0 .now]⟩,
  -- R504
  ⟨"PWR_TRIP", 0x100194, [],
    [fld "TRIPPED" 0 0 .ro 0 .now, fld "SENSOR" 1 6 .ro 0 .now, fld "STACK" 7 10 .ro 0 .now]⟩,
  -- R537
  ⟨"BULK_MBOX_CTRL", 0x1001A0, [],
    [fld "SITE" 0 2 .rw 0 .now,
     fld "LEN" 3 11 .rw 0 .now,
     fld "SEND" 12 12 .wo 0 .now,
     fld "IN_ACK" 13 13 .wo 0 .now]⟩,
  -- R537
  ⟨"BULK_MBOX_STATUS", 0x1001A4, [],
    [fld "OUT_BUSY" 0 5 .ro 0 .now,
     fld "IN_FULL" 6 11 .ro 0 .now,
     fld "LOST" 12 17 .rc 0 .now,
     fld "IN_LEN" 18 26 .ro 0 .now]⟩,
  -- R481
  ⟨"SEC_STATUS", 0x101000, [],
    [fld "LC_STATE" 0 2 .ro 0 .now,
     fld "KEYS_PRESENT" 3 3 .ro 0 .now,
     fld "CERT_VALID" 4 4 .ro 0 .now,
     fld "ADMIT_REASON" 5 8 .ro 0 .now,
     fld "FW_KEY_SLOT" 9 10 .ro 0 .now]⟩,
  -- R481
  ⟨"SEC_CTRL", 0x101004, [],
    [fld "REISSUE" 0 0 .wo 0 .now,
     fld "SVN_COMMIT" 1 1 .wo 0 .now,
     fld "CERT_BUSY" 2 2 .ro 0 .now,
     fld "REISSUE_LIMIT" 3 3 .rc 0 .now]⟩,
  -- R481
  ⟨"SEC_LMS_STATUS", 0x101008, [],
    [fld "BLOCKS_BURNED" 0 15 .ro 0 .now,
     fld "LEAVES_USED" 16 28 .ro 0 .now,
     fld "LOW" 29 29 .ro 0 .now,
     fld "EXHAUSTED" 30 30 .ro 0 .now]⟩,
  -- R481
  ⟨"SEC_FW_SVN", 0x10100C, [],
    [fld "RUNNING" 0 6 .ro 0 .now, fld "FLOOR" 8 14 .ro 0 .now]⟩,
  -- R481
  ⟨"SEC_TOKEN_i", 0x101010, [(4, 8)],
    [fld "BYTES" 0 31 .wo 0 .now]⟩,
  -- R481
  ⟨"SEC_LC_CTRL", 0x101030, [],
    [fld "TARGET" 0 2 .wo 0 .now, fld "GO" 3 3 .wo 0 .now]⟩,
  -- R481
  ⟨"SEC_LC_STATUS", 0x101034, [],
    [fld "BUSY" 0 0 .ro 0 .now,
     fld "RESULT" 1 2 .ro 0 .now,
     fld "RESET_NEEDED" 3 3 .ro 0 .now,
     fld "REASON" 4 6 .ro 0 .now,
     fld "FAILED_TOKENS" 7 10 .ro 0 .now,
     fld "LOCKED_OUT" 11 11 .ro 0 .now]⟩,
  -- R481
  ⟨"SEC_GATE_OPEN_LO", 0x101038, [],
    [fld "GATES" 0 31 .rw 0 .now]⟩,
  -- R481
  ⟨"SEC_GATE_OPEN_HI", 0x10103C, [],
    [fld "GATES" 0 15 .rw 0 .now]⟩]

/-- Register families, part 6 of 8. -/
def regFams6 : List RegFam := [
  -- R481
  ⟨"SEC_DEBUG", 0x101040, [],
    [fld "ENABLE" 0 0 .rw 0 .now, fld "EVER" 1 1 .ro 0 .now, fld "GATES_EVER" 2 2 .ro 0 .now]⟩,
  -- R481
  ⟨"SEC_TENANT_CTRL", 0x101044, [],
    [fld "COARSE_K" 0 4 .rw 12 .snapshot]⟩,
  -- R481
  ⟨"SEC_TENANT_CNT_j", 0x101050, [(4, 4)],
    [fld "ALLOW" 0 31 .rw 0 .snapshot]⟩,
  -- R481
  ⟨"SEC_USER_SEL", 0x101060, [],
    [fld "WORD" 0 8 .rw 0 .now]⟩,
  -- R481
  ⟨"SEC_USER_DATA", 0x101064, [],
    [fld "VALUE" 0 31 .rw 0 .now]⟩,
  -- R94
  ⟨"MXE_PATH", 0x102000, [(4, 72)],
    [fld "NATIVE" 0 0 .ro 0 .now,
     fld "FORCE_NATIVE" 1 1 .rw 0 .taskBoundary,
     fld "FAULTED" 2 2 .ro 0 .now,
     fld "FAULT_COUNT" 8 15 .ro 0 .now]⟩,
  -- R504
  ⟨"PWR_CLK_c", 0x102200, [(4, 18)],
    [fld "F_SET" 0 4 .rw 17 .now, fld "F_NOW" 5 9 .ro 17 .now, fld "CEILED" 10 10 .ro 0 .now]⟩,
  -- R504
  ⟨"PWR_STK_s_BUDGET", 0x102300, [(8, 12)],
    [fld "WATTS_Q" 0 8 .rw 440 .now]⟩,
  -- R504
  ⟨"PWR_STK_s_POWER", 0x102304, [(8, 12)],
    [fld "REPORTED" 0 8 .ro 0 .now,
     fld "MEASURED" 9 17 .ro 0 .now,
     fld "CLAMPED" 18 18 .ro 0 .now]⟩,
  -- R504
  ⟨"PWR_TEMP_k", 0x102400, [(4, 54)],
    [fld "JUNCTION" 0 7 .ro 0 .now]⟩,
  -- R223
  ⟨"STK_STATUS", 0x103000, [(16, 12)],
    [fld "STATE" 0 2 .ro 0 .now,
     fld "MODULES" 3 9 .ro 64 .now,
     fld "SPARES" 10 18 .ro 256 .now,
     fld "THROTTLED" 19 19 .ro 0 .now,
     fld "THR_STEPS" 20 23 .ro 0 .now,
     fld "TEMP_STALE" 24 24 .ro 0 .now,
     fld "REFRESH_2X" 25 25 .ro 0 .now]⟩,
  -- R223
  ⟨"STK_TEMP", 0x103004, [(16, 12)],
    [fld "HOTTEST" 0 7 .ro 0 .now, fld "DIE" 8 11 .ro 0 .now, fld "BASE" 12 19 .ro 0 .now]⟩,
  -- R223
  ⟨"STK_CTRL", 0x103008, [(16, 12)],
    [fld "REJOIN" 0 0 .wo 0 .now,
     fld "ISOLATE" 1 1 .wo 0 .now,
     fld "RETRAIN" 2 2 .wo 0 .now,
     fld "MODULE" 3 8 .wo 0 .now]⟩,
  -- R260
  ⟨"PLZ_n_STATUS", 0x103200, [(16, 36)],
    [fld "STATE" 0 1 .ro 0 .now,
     fld "SERVED_BY" 2 7 .ro 0 .now,
     fld "SERVING_OTHER" 8 8 .ro 0 .now,
     fld "TRACKER" 16 25 .ro 0 .now]⟩,
  -- R260
  ⟨"PLZ_n_OWNERS", 0x103204, [(16, 36)],
    [fld "IN_USE" 0 14 .ro 0 .now, fld "RECALLS" 15 31 .ro 0 .now]⟩,
  -- R260
  ⟨"PLZ_n_ERRORS", 0x103208, [(16, 36)],
    [fld "TAG_REPAIRS" 0 15 .ro 0 .now, fld "DATA_UE" 16 31 .ro 0 .now]⟩,
  -- R355
  ⟨"QOS_CLASS_c_CTRL", 0x104000, [(4, 16)],
    [fld "RANK" 0 3 .rw 0 .qosPeriod,
     fld "GUAR_REQ" 4 4 .rw 0 .qosPeriod,
     fld "LOST_RES" 8 15 .ro 255 .qosPeriod]⟩,
  -- R355
  ⟨"QOS_CAP_r", 0x104100, [(4, 62)],
    [fld "UNITS" 0 15 .ro 0 .now]⟩,
  -- R355
  ⟨"QOS_INJ_n_CTRL", 0x104200, [(4, 113)],
    [fld "URG_MAX" 0 1 .rw 3 .qosPeriod]⟩,
  -- R355
  ⟨"QOS_BUDGET_n_k", 0x105000, [(32, 113), (4, 8)],
    [fld "EVEN" 0 15 .rw 65535 .qosPeriod, fld "ODD" 16 31 .rw 65535 .qosPeriod]⟩,
  -- R355
  ⟨"QOS_RES_r_k", 0x106000, [(32, 62), (4, 8)],
    [fld "EVEN" 0 15 .rw 0 .qosPeriod, fld "ODD" 16 31 .rw 0 .qosPeriod]⟩,
  -- R210
  ⟨"SRT_n_BASE_LO", 0x108000, [(64, 256)],
    [fld "ADDR" 16 31 .rw 0 .now]⟩]

/-- Register families, part 7 of 8. -/
def regFams7 : List RegFam := [
  -- R210
  ⟨"SRT_n_BASE_HI", 0x108004, [(64, 256)],
    [fld "ADDR" 0 19 .rw 0 .now]⟩,
  -- R210
  ⟨"SRT_n_MIRROR_LO", 0x108008, [(64, 256)],
    [fld "ADDR" 16 31 .rw 0 .now]⟩,
  -- R210
  ⟨"SRT_n_MIRROR_HI", 0x10800C, [(64, 256)],
    [fld "ADDR" 0 19 .rw 0 .now]⟩,
  -- R210
  ⟨"SRT_n_PAGES", 0x108010, [(64, 256)],
    [fld "COUNT" 0 23 .rw 0 .now]⟩,
  -- R210
  ⟨"SRT_n_CTRL", 0x108014, [(64, 256)],
    [fld "VALID" 0 0 .rw 0 .now, fld "MIRRORED" 1 1 .rw 0 .now]⟩,
  -- R210
  ⟨"SRT_n_STATUS", 0x108018, [(64, 256)],
    [fld "ACTIVE" 0 0 .ro 0 .now,
     fld "POISONED" 1 1 .ro 0 .now,
     fld "FAILED_OVER" 2 2 .ro 0 .now,
     fld "CFG_ERROR" 3 3 .rc 0 .now]⟩,
  -- R210
  ⟨"SRT_n_POISON_UNITS", 0x10801C, [(64, 256)],
    [fld "COUNT" 0 31 .ro 0 .now]⟩,
  -- R210
  ⟨"SRT_n_HEALS", 0x108020, [(64, 256)],
    [fld "COUNT" 0 31 .ro 0 .now]⟩,
  -- R389
  ⟨"FAB_PORT_n_STATUS", 0x10C000, [(128, 16)],
    [fld "STATE" 0 1 .ro 2 .now,
     fld "WIDTH" 2 5 .ro 0 .now,
     fld "LANES_OK" 6 13 .ro 255 .now,
     fld "PEER_VALID" 14 14 .ro 0 .now,
     fld "GROUPS" 15 18 .ro 0 .now]⟩,
  -- R389
  ⟨"FAB_PORT_n_CTRL", 0x10C004, [(128, 16)],
    [fld "RETRAIN" 0 0 .wo 0 .now, fld "DISABLE" 1 1 .rw 0 .linkRetrain]⟩,
  -- R389
  ⟨"FAB_PORT_n_PEER", 0x10C008, [(128, 16)],
    [fld "NODE" 0 15 .ro 65535 .now, fld "PORT" 16 19 .ro 0 .now]⟩,
  -- R389
  ⟨"FAB_PORT_n_ERRORS", 0x10C00C, [(128, 16)],
    [fld "RETRIES" 0 11 .rc 0 .now,
     fld "DISCARDED" 12 21 .rc 0 .now,
     fld "DENIED" 22 31 .rc 0 .now]⟩,
  -- R389
  ⟨"FAB_PORT_n_PEER_ID_k", 0x10C010, [(128, 16), (4, 12)],
    [fld "WORD" 0 31 .ro 0 .now]⟩,
  -- R293
  ⟨"HWIN_n_HOST_LO", 0x110000, [(16, 1024)],
    [fld "ADDR" 16 31 .rw 0 .now]⟩,
  -- R293
  ⟨"HWIN_n_HOST_HI", 0x110004, [(16, 1024)],
    [fld "ADDR" 0 31 .rw 0 .now]⟩,
  -- R293
  ⟨"HWIN_n_SIZE", 0x110008, [(16, 1024)],
    [fld "COUNT" 0 23 .rw 0 .now]⟩,
  -- R293
  ⟨"HWIN_n_CTRL", 0x11000C, [(16, 1024)],
    [fld "ENABLE" 0 0 .rw 0 .now, fld "FUNCTION" 1 7 .rw 0 .now, fld "WRITE" 8 8 .rw 0 .now]⟩,
  -- R417
  ⟨"HIF_FN_f_STATUS", 0x114000, [(4, 128)],
    [fld "GATE_OPEN" 0 0 .ro 0 .now,
     fld "FLR_PENDING" 1 1 .ro 0 .now,
     fld "TDI_STATE" 2 3 .ro 0 .now,
     fld "BAD_VECTOR" 4 4 .rc 0 .now,
     fld "DROPS" 16 31 .rc 0 .now]⟩,
  -- R389
  ⟨"FAB_WIN_w_BASE_LO", 0x120000, [(32, 4096)],
    [fld "ADDR" 16 31 .rw 0 .now]⟩,
  -- R389
  ⟨"FAB_WIN_w_BASE_HI", 0x120004, [(32, 4096)],
    [fld "ADDR" 0 22 .rw 0 .now]⟩,
  -- R389
  ⟨"FAB_WIN_w_SIZE", 0x120008, [(32, 4096)],
    [fld "COUNT" 0 20 .rw 0 .now]⟩,
  -- R389
  ⟨"FAB_WIN_w_CTRL", 0x12000C, [(32, 4096)],
    [fld "TYPE" 0 1 .rw 0 .now,
     fld "RIGHTS" 2 4 .rw 0 .now,
     fld "CLASS" 5 8 .rw 0 .now,
     fld "HINT" 9 12 .rw 0 .now,
     fld "CONTEXT" 13 24 .rw 0 .now]⟩]

/-- Register families, part 8 of 8. -/
def regFams8 : List RegFam := [
  -- R389
  ⟨"FAB_WIN_w_SRC", 0x120010, [(32, 4096)],
    [fld "NODE" 0 15 .rw 0 .now, fld "MASK" 16 31 .rw 0 .now]⟩,
  -- R328
  ⟨"SITE_n_STATUS", 0x140000, [(8192, 6)],
    [fld "STATE" 0 2 .ro 2 .now,
     fld "PROTO" 3 3 .ro 0 .now,
     fld "CACHING" 4 4 .ro 0 .now,
     fld "RATE" 5 5 .ro 0 .now,
     fld "MODULES" 6 12 .ro 0 .now,
     fld "SPARES" 13 21 .ro 0 .now,
     fld "CLAMPED" 22 22 .ro 0 .now,
     fld "POWER" 23 24 .ro 3 .now]⟩,
  -- R328
  ⟨"SITE_n_CTRL", 0x140004, [(8192, 6)],
    [fld "RESET" 0 0 .wo 0 .now,
     fld "REJOIN" 1 1 .wo 0 .now,
     fld "ISOLATE" 2 2 .wo 0 .now,
     fld "RETRAIN" 3 3 .wo 0 .now,
     fld "MODULE" 4 9 .wo 0 .now,
     fld "WIN_FENCE" 10 10 .wo 0 .now,
     fld "WIN_BUSY" 11 11 .ro 0 .now,
     fld "BOND_THRESH" 12 19 .rw 8 .linkRetrain,
     fld "CXL_URG" 20 21 .rw 0 .qosPeriod]⟩,
  -- R328
  ⟨"SITE_n_POLICY", 0x140008, [(8192, 6)],
    [fld "CLASS_MASK" 0 15 .rw 1 .qosPeriod,
     fld "DEFAULT_CLASS" 16 19 .rw 0 .qosPeriod,
     fld "KSP_OK" 20 20 .rw 1 .linkRetrain,
     fld "CXL_OK" 21 21 .rw 1 .linkRetrain,
     fld "CERT_REQUIRED" 22 22 .rw 0 .linkRetrain]⟩,
  -- R328
  ⟨"SITE_n_CAPS", 0x14000C, [(8192, 6)],
    [fld "PROTO" 0 0 .ro 0 .now,
     fld "CACHING" 1 1 .ro 0 .now,
     fld "RATE" 2 2 .ro 0 .now,
     fld "APERTURE_GIB" 3 13 .ro 0 .now,
     fld "MAX_POWER" 14 22 .ro 0 .now,
     fld "CERT" 23 23 .ro 0 .now]⟩,
  -- R328
  ⟨"SITE_n_ID", 0x140010, [(8192, 6)],
    [fld "VENDOR" 0 15 .ro 0 .now, fld "PART" 16 31 .ro 0 .now]⟩,
  -- R328
  ⟨"SITE_n_BUDGET", 0x140014, [(8192, 6)],
    [fld "WATTS_Q" 0 10 .rw 400 .now]⟩,
  -- R328
  ⟨"SITE_n_POWER", 0x140018, [(8192, 6)],
    [fld "REPORTED" 0 10 .ro 0 .now, fld "MEASURED" 11 21 .ro 0 .now]⟩,
  -- R328
  ⟨"SITE_n_ERRORS", 0x14001C, [(8192, 6)],
    [fld "RETRIES" 0 11 .ro 0 .now,
     fld "STALE" 12 21 .ro 0 .now,
     fld "DENIED" 22 31 .ro 0 .now]⟩,
  -- R328
  ⟨"SITE_n_DIGEST_k", 0x140040, [(8192, 6), (4, 12)],
    [fld "WORD" 0 31 .ro 0 .now]⟩,
  -- R328
  ⟨"SITE_n_WIN_m_BASE_LO", 0x141000, [(8192, 6), (16, 256)],
    [fld "ADDR" 16 31 .rw 0 .now]⟩,
  -- R328
  ⟨"SITE_n_WIN_m_BASE_HI", 0x141004, [(8192, 6), (16, 256)],
    [fld "ADDR" 0 19 .rw 0 .now]⟩,
  -- R328
  ⟨"SITE_n_WIN_m_CTRL", 0x141008, [(8192, 6), (16, 256)],
    [fld "TYPE" 0 1 .rw 0 .now, fld "RIGHTS" 2 5 .rw 0 .now, fld "SPAN" 8 31 .rw 0 .now]⟩,
  -- R162
  ⟨"RING_CTRL", 0x4000000, [(16, 16384)],
    [fld "ENABLE" 0 0 .rw 0 .now,
     fld "SIZE_LOG2" 1 5 .rw 0 .now,
     fld "HOME" 6 7 .rw 0 .now,
     fld "CONTEXT" 8 19 .rwPfRo 0 .now]⟩,
  -- R162
  ⟨"RING_BASE_LO", 0x4000004, [(16, 16384)],
    [fld "ADDR" 6 31 .rw 0 .now]⟩,
  -- R162
  ⟨"RING_BASE_HI", 0x4000008, [(16, 16384)],
    [fld "ADDR" 0 22 .rw 0 .now]⟩,
  -- R162
  ⟨"RING_STATUS", 0x400000C, [(16, 16384)],
    [fld "OVERRUN" 0 0 .rc 0 .now,
     fld "MAP_ERROR" 1 1 .rc 0 .now,
     fld "FETCH_POISON" 2 2 .rc 0 .now]⟩,
  -- R162
  ⟨"CTX_FENCE_n", 0x5000000, [(256, 4096), (4, 64)],
    [fld "VALUE, n = 0–63" 0 31 .rw 0 .now]⟩]

/-- Every register of the hub. -/
def regFams : List RegFam :=
  regFams1 ++ regFams2 ++ regFams3 ++ regFams4 ++ regFams5 ++ regFams6 ++ regFams7 ++ regFams8

/-- The family that assigns a register to the offset, if any does (R523: an offset that names no register
reads zero and ignores writes). -/
def regFam? (off : Nat) : Option RegFam := regFams.find? (fun f => f.has off)

/-- The fields of the register at the offset. -/
def regFields (off : Nat) : List FieldInfo :=
  match regFam? off with
  | some f => f.fields
  | none => []

/-- CTX_POLICY (R162). -/
def rCtxPolicy (i : Nat) : Nat := 0x0 + 128 * i
/-- CTX_CTRL (R162). -/
def rCtxCtrl (i : Nat) : Nat := 0x4 + 128 * i
/-- CTX_STATUS (R162). -/
def rCtxStatus (i : Nat) : Nat := 0x8 + 128 * i
/-- CTX_FENCE_SEL (R541). -/
def rCtxFenceSel (i : Nat) : Nat := 0xC + 128 * i
/-- CQ_BASE_LO (R162). -/
def rCqBaseLo (i : Nat) : Nat := 0x10 + 128 * i
/-- CQ_BASE_HI (R162). -/
def rCqBaseHi (i : Nat) : Nat := 0x14 + 128 * i
/-- CQ_HIST_BASE_LO (R162). -/
def rCqHistBaseLo (i : Nat) : Nat := 0x18 + 128 * i
/-- CQ_HIST_BASE_HI (R162). -/
def rCqHistBaseHi (i : Nat) : Nat := 0x1C + 128 * i
/-- CQ_CTRL (R162). -/
def rCqCtrl (i : Nat) : Nat := 0x20 + 128 * i
/-- CQ_HEAD (R162). -/
def rCqHead (i : Nat) : Nat := 0x24 + 128 * i
/-- CQ_TAIL (R162). -/
def rCqTail (i : Nat) : Nat := 0x28 + 128 * i
/-- CTX_PT_ROOT_LO (R293). -/
def rCtxPtRootLo (i : Nat) : Nat := 0x30 + 128 * i
/-- CTX_PT_ROOT_HI (R293). -/
def rCtxPtRootHi (i : Nat) : Nat := 0x34 + 128 * i
/-- CTX_FLT_BASE_LO (R293). -/
def rCtxFltBaseLo (i : Nat) : Nat := 0x40 + 128 * i
/-- CTX_FLT_BASE_HI (R293). -/
def rCtxFltBaseHi (i : Nat) : Nat := 0x44 + 128 * i
/-- CTX_FLT_CTRL (R293). -/
def rCtxFltCtrl (i : Nat) : Nat := 0x48 + 128 * i
/-- CTX_FLT_HEAD (R293). -/
def rCtxFltHead (i : Nat) : Nat := 0x4C + 128 * i
/-- CTX_FLT_TAIL (R293). -/
def rCtxFltTail (i : Nat) : Nat := 0x50 + 128 * i
/-- CTX_FLT_STATUS (R293). -/
def rCtxFltStatus (i : Nat) : Nat := 0x54 + 128 * i
/-- RING_DB (R162). -/
def rRingDb (i : Nat) : Nat := 0x80000 + 4 * i
/-- RING_HEAD (R162). -/
def rRingHead (i : Nat) : Nat := 0x90000 + 4 * i
/-- CNT_b_CYC_LO (R522). -/
def rCntBCycLo (i : Nat) : Nat := 0xA0000 + 256 * i
/-- CNT_b_CYC_HI (R522). -/
def rCntBCycHi (i : Nat) : Nat := 0xA0004 + 256 * i
/-- CNT_b_OVF (R522). -/
def rCntBOvf (i : Nat) : Nat := 0xA0008 + 256 * i
/-- CNT_b_BW_CTRL (R522). -/
def rCntBBwCtrl (i : Nat) : Nat := 0xA000C + 256 * i
/-- CNT_b_BW_p (R522). -/
def rCntBBwP (i j : Nat) : Nat := 0xA0010 + 256 * i + 4 * j
/-- CNT_b_SEL_i (R522). -/
def rCntBSelI (i j : Nat) : Nat := 0xA0020 + 256 * i + 4 * j
/-- CNT_b_VAL_i_LO (R522). -/
def rCntBValILo (i j : Nat) : Nat := 0xA0040 + 256 * i + 8 * j
/-- CNT_b_VAL_i_HI (R522). -/
def rCntBValIHi (i j : Nat) : Nat := 0xA0044 + 256 * i + 8 * j
/-- CNT_b_SHD_i_LO (R522). -/
def rCntBShdILo (i j : Nat) : Nat := 0xA0080 + 256 * i + 16 * j
/-- CNT_b_SHD_i_HI (R522). -/
def rCntBShdIHi (i j : Nat) : Nat := 0xA0084 + 256 * i + 16 * j
/-- CNT_b_SHD_i_INFL (R522). -/
def rCntBShdIInfl (i j : Nat) : Nat := 0xA0088 + 256 * i + 16 * j
/-- CNT_b_SHD_CYC_LO (R522). -/
def rCntBShdCycLo (i : Nat) : Nat := 0xA008C + 256 * i
/-- CNT_b_SHD_CYC_HI (R522). -/
def rCntBShdCycHi (i : Nat) : Nat := 0xA009C + 256 * i
/-- RING_SEL (R541). -/
def rRingSel : Nat := 0xC0000
/-- XLT_INV_VA_LO (R293). -/
def rXltInvVaLo : Nat := 0xC0020
/-- XLT_INV_VA_HI (R293). -/
def rXltInvVaHi : Nat := 0xC0024
/-- XLT_INV_CTRL (R293). -/
def rXltInvCtrl : Nat := 0xC0028
/-- XLT_INV_STATUS (R293). -/
def rXltInvStatus : Nat := 0xC002C
/-- HIF_FN_STATUS (R417). -/
def rHifFnStatus : Nat := 0xC0040
/-- SNAP_SEQ (R522). -/
def rSnapSeq : Nat := 0xC0044
/-- REG_STATUS (R531). -/
def rRegStatus : Nat := 0xC0080
/-- REG_COMPAT (R531). -/
def rRegCompat : Nat := 0xC0084
/-- REG_SQ_LAST (R531). -/
def rRegSqLast : Nat := 0xC0088
/-- BULK_SEL (R537). -/
def rBulkSel : Nat := 0xC0100
/-- BULK_ADDR_LO (R537). -/
def rBulkAddrLo : Nat := 0xC0104
/-- BULK_ADDR_HI (R537). -/
def rBulkAddrHi : Nat := 0xC0108
/-- BULK_DATA (R537). -/
def rBulkData : Nat := 0xC010C
/-- BULK_STATUS (R537). -/
def rBulkStatus : Nat := 0xC0110
/-- APT_s_VA_LO (R541). -/
def rAptSVaLo (i : Nat) : Nat := 0xC0200 + 16 * i
/-- APT_s_VA_HI (R541). -/
def rAptSVaHi (i : Nat) : Nat := 0xC0204 + 16 * i
/-- APT_s_CTRL (R541). -/
def rAptSCtrl (i : Nat) : Nat := 0xC0208 + 16 * i
/-- BOOT_STATUS (R448). -/
def rBootStatus : Nat := 0x100000
/-- BOOT_CTRL (R448). -/
def rBootCtrl : Nat := 0x100004
/-- BOOT_IMAGE_LEN (R448). -/
def rBootImageLen : Nat := 0x100008
/-- CFG_EPOCH (R448). -/
def rCfgEpoch : Nat := 0x10000C
/-- SVC_STATUS (R448). -/
def rSvcStatus : Nat := 0x100010
/-- TILE_RETIRE (R448). -/
def rTileRetire : Nat := 0x100014
/-- HIF_STATUS (R417). -/
def rHifStatus : Nat := 0x100020
/-- HIF_CONTAIN (R417). -/
def rHifContain : Nat := 0x100024
/-- NOC_CTRL (R355). -/
def rNocCtrl : Nat := 0x100040
/-- NOC_STATUS (R355). -/
def rNocStatus : Nat := 0x100044
/-- NOC_ERRORS (R355). -/
def rNocErrors : Nat := 0x100048
/-- MEM_CTRL (R223). -/
def rMemCtrl : Nat := 0x100060
/-- PLZ_CTRL (R260). -/
def rPlzCtrl : Nat := 0x100064
/-- FLT_CTRL (R293). -/
def rFltCtrl : Nat := 0x100080
/-- FLT_p_STATUS (R293). -/
def rFltPStatus (i : Nat) : Nat := 0x100084 + 4 * i
/-- FLT_OP_BASE_LO (R293). -/
def rFltOpBaseLo : Nat := 0x100090
/-- FLT_OP_BASE_HI (R293). -/
def rFltOpBaseHi : Nat := 0x100094
/-- FLT_OP_CTRL (R293). -/
def rFltOpCtrl : Nat := 0x100098
/-- FLT_OP_HEAD (R293). -/
def rFltOpHead : Nat := 0x10009C
/-- FLT_OP_TAIL (R293). -/
def rFltOpTail : Nat := 0x1000A0
/-- FLT_OP_STATUS (R293). -/
def rFltOpStatus : Nat := 0x1000A4
/-- PART_p_CTRL (R448). -/
def rPartPCtrl (i : Nat) : Nat := 0x1000C0 + 8 * i
/-- PART_p_STATUS (R448). -/
def rPartPStatus (i : Nat) : Nat := 0x1000C4 + 8 * i
/-- CNT_CTRL (R522). -/
def rCntCtrl : Nat := 0x100100
/-- SNAP_CTRL (R522). -/
def rSnapCtrl : Nat := 0x100104
/-- SNAP_STATUS (R522). -/
def rSnapStatus : Nat := 0x100108
/-- SMP_BASE_LO (R522). -/
def rSmpBaseLo : Nat := 0x100110
/-- SMP_BASE_HI (R522). -/
def rSmpBaseHi : Nat := 0x100114
/-- SMP_CTRL (R522). -/
def rSmpCtrl : Nat := 0x100118
/-- SMP_HEAD (R522). -/
def rSmpHead : Nat := 0x10011C
/-- SMP_TAIL (R522). -/
def rSmpTail : Nat := 0x100120
/-- SMP_STATUS (R522). -/
def rSmpStatus : Nat := 0x100124
/-- FAB_NODE (R389). -/
def rFabNode : Nat := 0x100140
/-- FAB_CTRL (R389). -/
def rFabCtrl : Nat := 0x100144
/-- FAB_RT_SEL (R389). -/
def rFabRtSel : Nat := 0x100148
/-- FAB_RT_DATA (R389). -/
def rFabRtData : Nat := 0x10014C
/-- QOS_CTRL (R355). -/
def rQosCtrl : Nat := 0x100160
/-- QOS_GUARANTEED (R355). -/
def rQosGuaranteed : Nat := 0x100164
/-- QOS_HOST_CLASS (R355). -/
def rQosHostClass : Nat := 0x100168
/-- QOS_URG_THRESH (R355). -/
def rQosUrgThresh : Nat := 0x10016C
/-- QOS_MISS (R355). -/
def rQosMiss : Nat := 0x100170
/-- PWR_CMD (R504). -/
def rPwrCmd : Nat := 0x100180
/-- PWR_UNIT (R504). -/
def rPwrUnit : Nat := 0x100184
/-- PWR_PKG (R504). -/
def rPwrPkg : Nat := 0x100188
/-- PWR_HUB_BUDGET (R504). -/
def rPwrHubBudget : Nat := 0x10018C
/-- PWR_HUB_POWER (R504). -/
def rPwrHubPower : Nat := 0x100190
/-- PWR_TRIP (R504). -/
def rPwrTrip : Nat := 0x100194
/-- BULK_MBOX_CTRL (R537). -/
def rBulkMboxCtrl : Nat := 0x1001A0
/-- BULK_MBOX_STATUS (R537). -/
def rBulkMboxStatus : Nat := 0x1001A4
/-- SEC_STATUS (R481). -/
def rSecStatus : Nat := 0x101000
/-- SEC_CTRL (R481). -/
def rSecCtrl : Nat := 0x101004
/-- SEC_LMS_STATUS (R481). -/
def rSecLmsStatus : Nat := 0x101008
/-- SEC_FW_SVN (R481). -/
def rSecFwSvn : Nat := 0x10100C
/-- SEC_TOKEN_i (R481). -/
def rSecTokenI (i : Nat) : Nat := 0x101010 + 4 * i
/-- SEC_LC_CTRL (R481). -/
def rSecLcCtrl : Nat := 0x101030
/-- SEC_LC_STATUS (R481). -/
def rSecLcStatus : Nat := 0x101034
/-- SEC_GATE_OPEN_LO (R481). -/
def rSecGateOpenLo : Nat := 0x101038
/-- SEC_GATE_OPEN_HI (R481). -/
def rSecGateOpenHi : Nat := 0x10103C
/-- SEC_DEBUG (R481). -/
def rSecDebug : Nat := 0x101040
/-- SEC_TENANT_CTRL (R481). -/
def rSecTenantCtrl : Nat := 0x101044
/-- SEC_TENANT_CNT_j (R481). -/
def rSecTenantCntJ (i : Nat) : Nat := 0x101050 + 4 * i
/-- SEC_USER_SEL (R481). -/
def rSecUserSel : Nat := 0x101060
/-- SEC_USER_DATA (R481). -/
def rSecUserData : Nat := 0x101064
/-- MXE_PATH (R94). -/
def rMxePath (i : Nat) : Nat := 0x102000 + 4 * i
/-- PWR_CLK_c (R504). -/
def rPwrClkC (i : Nat) : Nat := 0x102200 + 4 * i
/-- PWR_STK_s_BUDGET (R504). -/
def rPwrStkSBudget (i : Nat) : Nat := 0x102300 + 8 * i
/-- PWR_STK_s_POWER (R504). -/
def rPwrStkSPower (i : Nat) : Nat := 0x102304 + 8 * i
/-- PWR_TEMP_k (R504). -/
def rPwrTempK (i : Nat) : Nat := 0x102400 + 4 * i
/-- STK_STATUS (R223). -/
def rStkStatus (i : Nat) : Nat := 0x103000 + 16 * i
/-- STK_TEMP (R223). -/
def rStkTemp (i : Nat) : Nat := 0x103004 + 16 * i
/-- STK_CTRL (R223). -/
def rStkCtrl (i : Nat) : Nat := 0x103008 + 16 * i
/-- PLZ_n_STATUS (R260). -/
def rPlzNStatus (i : Nat) : Nat := 0x103200 + 16 * i
/-- PLZ_n_OWNERS (R260). -/
def rPlzNOwners (i : Nat) : Nat := 0x103204 + 16 * i
/-- PLZ_n_ERRORS (R260). -/
def rPlzNErrors (i : Nat) : Nat := 0x103208 + 16 * i
/-- QOS_CLASS_c_CTRL (R355). -/
def rQosClassCCtrl (i : Nat) : Nat := 0x104000 + 4 * i
/-- QOS_CAP_r (R355). -/
def rQosCapR (i : Nat) : Nat := 0x104100 + 4 * i
/-- QOS_INJ_n_CTRL (R355). -/
def rQosInjNCtrl (i : Nat) : Nat := 0x104200 + 4 * i
/-- QOS_BUDGET_n_k (R355). -/
def rQosBudgetNK (i j : Nat) : Nat := 0x105000 + 32 * i + 4 * j
/-- QOS_RES_r_k (R355). -/
def rQosResRK (i j : Nat) : Nat := 0x106000 + 32 * i + 4 * j
/-- SRT_n_BASE_LO (R210). -/
def rSrtNBaseLo (i : Nat) : Nat := 0x108000 + 64 * i
/-- SRT_n_BASE_HI (R210). -/
def rSrtNBaseHi (i : Nat) : Nat := 0x108004 + 64 * i
/-- SRT_n_MIRROR_LO (R210). -/
def rSrtNMirrorLo (i : Nat) : Nat := 0x108008 + 64 * i
/-- SRT_n_MIRROR_HI (R210). -/
def rSrtNMirrorHi (i : Nat) : Nat := 0x10800C + 64 * i
/-- SRT_n_PAGES (R210). -/
def rSrtNPages (i : Nat) : Nat := 0x108010 + 64 * i
/-- SRT_n_CTRL (R210). -/
def rSrtNCtrl (i : Nat) : Nat := 0x108014 + 64 * i
/-- SRT_n_STATUS (R210). -/
def rSrtNStatus (i : Nat) : Nat := 0x108018 + 64 * i
/-- SRT_n_POISON_UNITS (R210). -/
def rSrtNPoisonUnits (i : Nat) : Nat := 0x10801C + 64 * i
/-- SRT_n_HEALS (R210). -/
def rSrtNHeals (i : Nat) : Nat := 0x108020 + 64 * i
/-- FAB_PORT_n_STATUS (R389). -/
def rFabPortNStatus (i : Nat) : Nat := 0x10C000 + 128 * i
/-- FAB_PORT_n_CTRL (R389). -/
def rFabPortNCtrl (i : Nat) : Nat := 0x10C004 + 128 * i
/-- FAB_PORT_n_PEER (R389). -/
def rFabPortNPeer (i : Nat) : Nat := 0x10C008 + 128 * i
/-- FAB_PORT_n_ERRORS (R389). -/
def rFabPortNErrors (i : Nat) : Nat := 0x10C00C + 128 * i
/-- FAB_PORT_n_PEER_ID_k (R389). -/
def rFabPortNPeerIdK (i j : Nat) : Nat := 0x10C010 + 128 * i + 4 * j
/-- HWIN_n_HOST_LO (R293). -/
def rHwinNHostLo (i : Nat) : Nat := 0x110000 + 16 * i
/-- HWIN_n_HOST_HI (R293). -/
def rHwinNHostHi (i : Nat) : Nat := 0x110004 + 16 * i
/-- HWIN_n_SIZE (R293). -/
def rHwinNSize (i : Nat) : Nat := 0x110008 + 16 * i
/-- HWIN_n_CTRL (R293). -/
def rHwinNCtrl (i : Nat) : Nat := 0x11000C + 16 * i
/-- HIF_FN_f_STATUS (R417). -/
def rHifFnFStatus (i : Nat) : Nat := 0x114000 + 4 * i
/-- FAB_WIN_w_BASE_LO (R389). -/
def rFabWinWBaseLo (i : Nat) : Nat := 0x120000 + 32 * i
/-- FAB_WIN_w_BASE_HI (R389). -/
def rFabWinWBaseHi (i : Nat) : Nat := 0x120004 + 32 * i
/-- FAB_WIN_w_SIZE (R389). -/
def rFabWinWSize (i : Nat) : Nat := 0x120008 + 32 * i
/-- FAB_WIN_w_CTRL (R389). -/
def rFabWinWCtrl (i : Nat) : Nat := 0x12000C + 32 * i
/-- FAB_WIN_w_SRC (R389). -/
def rFabWinWSrc (i : Nat) : Nat := 0x120010 + 32 * i
/-- SITE_n_STATUS (R328). -/
def rSiteNStatus (i : Nat) : Nat := 0x140000 + 8192 * i
/-- SITE_n_CTRL (R328). -/
def rSiteNCtrl (i : Nat) : Nat := 0x140004 + 8192 * i
/-- SITE_n_POLICY (R328). -/
def rSiteNPolicy (i : Nat) : Nat := 0x140008 + 8192 * i
/-- SITE_n_CAPS (R328). -/
def rSiteNCaps (i : Nat) : Nat := 0x14000C + 8192 * i
/-- SITE_n_ID (R328). -/
def rSiteNId (i : Nat) : Nat := 0x140010 + 8192 * i
/-- SITE_n_BUDGET (R328). -/
def rSiteNBudget (i : Nat) : Nat := 0x140014 + 8192 * i
/-- SITE_n_POWER (R328). -/
def rSiteNPower (i : Nat) : Nat := 0x140018 + 8192 * i
/-- SITE_n_ERRORS (R328). -/
def rSiteNErrors (i : Nat) : Nat := 0x14001C + 8192 * i
/-- SITE_n_DIGEST_k (R328). -/
def rSiteNDigestK (i j : Nat) : Nat := 0x140040 + 8192 * i + 4 * j
/-- SITE_n_WIN_m_BASE_LO (R328). -/
def rSiteNWinMBaseLo (i j : Nat) : Nat := 0x141000 + 8192 * i + 16 * j
/-- SITE_n_WIN_m_BASE_HI (R328). -/
def rSiteNWinMBaseHi (i j : Nat) : Nat := 0x141004 + 8192 * i + 16 * j
/-- SITE_n_WIN_m_CTRL (R328). -/
def rSiteNWinMCtrl (i j : Nat) : Nat := 0x141008 + 8192 * i + 16 * j
/-- RING_CTRL (R162). -/
def rRingCtrl (i : Nat) : Nat := 0x4000000 + 16 * i
/-- RING_BASE_LO (R162). -/
def rRingBaseLo (i : Nat) : Nat := 0x4000004 + 16 * i
/-- RING_BASE_HI (R162). -/
def rRingBaseHi (i : Nat) : Nat := 0x4000008 + 16 * i
/-- RING_STATUS (R162). -/
def rRingStatus (i : Nat) : Nat := 0x400000C + 16 * i
/-- CTX_FENCE_n (R162). -/
def rCtxFenceN (i j : Nat) : Nat := 0x5000000 + 256 * i + 4 * j

/-- The reset value a field's table gives, or the value the model takes where it gives an expression
(PLZ_n_STATUS.SERVED_BY resets to its own n, R260). -/
def regReset (off : Nat) : Nat :=
  let v := (regFields off).foldl (fun a f => a + f.reset * 2 ^ f.lo) 0
  if (regFam? off).map (·.name) = some "PLZ_n_STATUS" then v + (off - rPlzNStatus 0) / 16 * 4
  else if rQosCapR 0 ≤ off ∧ off ≤ rQosCapR 61 ∧ (off - rQosCapR 0) % 4 = 0 then
    -- R350 with the interface units in service at reset: 64 modules a stack, no site module, no fabric or
    -- host lane, eight links a Crossing
    let r := (off - rQosCapR 0) / 4
    if r < 12 then 14400 else if r < 58 then 0 else 38400
  else v

end Sys2Proof
end

