-- ==== Sys2Proof/Machine/State.lean ====
section
/-!
DEFINITION. The state of the hub as plain data, and the state after reset. Every register of the map lives in
`Regs` under its key; every other piece of state the spec names has a field of its own. Numbers that identify
units are plain naturals; every table reads as its default where it lists nothing.
-/
namespace Sys2Proof.Machine

/-- Why the machine stops with a fault. -/
inductive Fault where
  /-- Raised by a command whose operands break `Instr.wf` (a payload of the wrong length, say), which no
  sender can form: safe, the machine stops where the hardware has no such command. -/
  | illFormed
  deriving DecidableEq, Repr

/-- Why the machine refuses a command. -/
inductive Refusal where
  /-- Raised by an arm of exec for a command without a meaning yet: safe. -/
  | notModelled (mnemonic : String)
  deriving DecidableEq, Repr

/-! ### Registers (R523 to R531) -/

/-- The clear-on-read contents of one register for one function (R529, R530): the field values, the
16-bit count of events recorded, the number of the latest event of each field (by its low bit), and the
number and value that the function last latched from it. -/
structure RcReg where
  val : Nat
  seq : Nat
  fieldSeq : Table Nat
  latched : Option (Nat × Nat)
  deriving DecidableEq, Repr

/-- The register file: the value last written or set, by key; the value in force where a field waits for its
apply point (R527, R528); and the clear-on-read contents, by function × 2⁴⁰ + key. -/
structure Regs where
  val : Table W32
  force : Table W32
  rc : Table RcReg
  deriving DecidableEq, Repr


/-! ### Tiles and clusters (R42 to R70) -/

/-- The two privilege modes of R43; a tile without a task waits in machine mode. -/
inductive CoreMode where
  | machine | user
  deriving DecidableEq, Repr

/-- What holds the control core: nothing, a full queue (R56), a ticket (R55), xk.qfence, a barrier (R61),
TASK_END waiting for the queues (R51), wfi (R46), a translation fault of the fetch (R48), or the debugger
(R53). -/
inductive Stall where
  | none
  | issue (q : Nat)
  | wait (q : Nat) (ticket : Nat) (rd : Nat)
  | qfence (mask : Nat)
  | bar (b : Nat)
  | taskEnd
  | wfi
  | fetch
  | halted
  deriving DecidableEq, Repr

/-- A command of a queue: its ticket, the 16 words of its block as read at issue (R60), the broadcast port
values copied at issue (R61), whether it has started (R59), its progress, the flags it has set (R58), its
unacknowledged writes (R66), its sample tag (R513), its number among the issues of all queues, and the tickets that the
core had observed complete by then (R61). -/
structure QCmd where
  ticket : Nat
  words : List Nat
  port0 : W64
  port1 : W64
  started : Bool
  pos : Nat
  sat : Bool
  nan : Bool
  outst : Nat
  tagged : Bool
  order : Nat
  seen : Vector Nat 4
  deriving DecidableEq, Repr

/-- A command queue (R56, R57): its entries in ticket order, the last ticket issued and the last completed,
and the SAT and NAN flags of the 256 most recent completed tickets, latest first. -/
structure TQueue where
  entries : List QCmd
  issued : Nat
  done : Nat
  flags : List (Bool × Bool)
  deriving DecidableEq, Repr

/-- The states of a finished-tile queue slot (R99). -/
inductive SlotState where
  | empty | filling | full | draining
  deriving DecidableEq, Repr

/-- A slot of the finished-tile queue (R98): its state; the slot descriptor of R101 (TYPE, MTICKET, TILE_INDEX,
SHAPE, BATCH and VALID_ROWS); whether its elements go into the histogram once it is FULL (R83); and the 32 × 64
words it holds. -/
structure FtqSlot where
  st : SlotState
  fp32 : Bool
  ticket : Nat
  index : Nat
  thin : Bool
  batch : Nat
  rows : Nat
  hist : Bool
  data : List W32
  deriving DecidableEq, Repr

/-- The histogram a task keeps on a tile (R132). -/
structure Hist where
  bins : Table Nat
  zero : Nat
  subnormal : Nat
  infinity : Nat
  nan : Nat
  saturation : Nat
  deriving DecidableEq, Repr

/-- What a tile tells its dispatcher (R52): done, or a failure with cause and DETAIL. -/
inductive Report where
  | done
  | failed (cause detail : Nat)
  deriving DecidableEq, Repr

/-- What a unit of the tile store held before a write (R62): the unit, the writer (a queue, or 4 for the core), its ticket
(for the core the number of issues before the store), the old contents and their mark. -/
structure Stale where
  unit : Nat
  writer : Nat
  ticket : Nat
  old : UnitData
  mark : Option Mark
  deriving DecidableEq, Repr

/-- The machine-mode CSRs of the two modes implemented that hold a value (R46, R67). -/
structure MCsr where
  mstatus : W64
  mie : W64
  mip : W64
  mtvec : W64
  mscratch : W64
  mepc : W64
  mcause : W64
  mtval : W64
  menvcfg : W64
  deriving DecidableEq, Repr

/-- One tile. `monImage` is the digest of the image whose tile monitor has been loaded into monitor memory (R45) and `monMem`
the bytes of that memory written since (R47, log entry 11).
`live` names the dispatched TASK it runs; `lines` is the instruction cache, keyed by 64-byte
unit of device virtual address; `storeMarks` the poison marks and `storeUe` the uncorrectable units of the
tile store (by unit), `storeOnce` those rewritten since they were uncorrectable (R440), `dmemUe` the uncorrectable 8-byte words of DMEM (by word).
`accs` are the finished output tiles that wait in the matrix engine's two accumulator banks (R99); `unord` what the tile store
held before the writes of the task, the latest first, `seen` the highest ticket of each queue that the core has observed
complete, and `issues` the number of commands issued (R61, R62). -/
structure Tile where
  mode : CoreMode
  pc : W64
  x : Vector W64 32
  ir : Option (Nat × Nat)
  csr : MCsr
  instret : W64
  reserv : Option Nat
  stall : Stall
  dmem : Mem
  monImage : Option Nat
  monMem : Table Byte
  block : List Nat
  store : Mem
  storeMarks : Table Mark
  storeUe : List Nat
  storeOnce : List Nat
  dmemUe : List Nat
  lines : Table UnitData
  ports : Vector W64 2
  queues : Vector TQueue 4
  ftq : Vector FtqSlot 8
  ftqHead : Nat
  ftqTail : Nat
  accs : List FtqSlot
  unord : List Stale
  seen : Vector Nat 4
  issues : Nat
  live : Option Nat
  rank : Nat
  count : Nat
  logical : Nat
  ctx : Nat
  cls : Nat
  dotFast : Bool
  round : Nat
  seed : W64
  cswSize : Nat
  ending : Option Report
  reported : Bool
  prevCtx : Option Nat
  hist : Hist
  histUsed : Bool
  sat : Bool
  nan : Bool
  trace : List W64
  sampleGen : Nat
  deriving DecidableEq, Repr

/-- One cluster: its store of 16 MiB, the poison marks in it, the holder and last
holder of each 64 KiB granule (R187), the DMA engine's round robin and the COPYs it serves (R64, R172). -/
structure Cluster where
  store : Mem
  marks : Table Mark
  holder : Table Nat
  lastCtx : Table Nat
  turn : Nat
  copies : List Nat
  deriving DecidableEq, Repr

/-! ### Contexts, rings and dispatch (R161 to R190) -/

/-- A cached translation: the context, the base of the page, the level of the leaf (or of the non-leaf
entry in a walk cache) and the entry itself (R264, R272). -/
structure CacheEnt where
  ctx : Nat
  base : Nat
  level : Nat
  entry : Nat
  deriving DecidableEq, Repr

/-- A fetched descriptor that has not been dispatched: its position, its words, and whether its read
returned poison (R165, R166). -/
structure Fetched where
  pos : Nat
  words : List Nat
  poison : Bool
  deriving DecidableEq, Repr

/-- One submission ring beside its registers: the producer count P and the fetched count (R164), the copies
of fetched descriptors in ring order (R165), the held translation (R163), what the checks of
R168 and R169 gave its head when it got there (cause, DETAIL, class, whether it was forced), whether the head
holds a completion slot (R179), whether its fence is to be looked at again (R177), whether its TASK is
reserving, with the tiles it has fixed (R186), the order in which its head became head and its TASK fixed its tiles
among those of all rings (R186), and the writes of the host that doorbells were written behind: the position from which
descriptors wait for them, and their numbers (R178). -/
structure Ring where
  prod : Nat
  fetched : Nat
  queue : List Fetched
  held : Option CacheEnt
  judged : Option (Nat × Nat × Bool × Bool)
  slot : Bool
  fenceLook : Bool
  reserving : Bool
  fixed : List Nat
  since : Nat
  fixedAt : Nat
  gates : List (Nat × List Nat)
  deriving DecidableEq, Repr

/-- A tile's report as the dispatcher keeps it (R52). -/
structure FirstFail where
  cause : Nat
  detail : Nat
  tile : Nat
  deriving DecidableEq, Repr

/-- A dispatched descriptor that has not completed. `tiles` are the physical tiles of a TASK in ascending
logical order and `reports` those that have reported; `bars` the arrivals at the four barriers and
`barUse` each barrier's use count (R61); `windows` the granules granted in each cluster (R187); `waitFor`
the descriptors a BARRIER waits for; `snapFrom` the snapshot a SNAPSHOT waits for (R174); `cluster`,
`progress` and `outst` the progress of a COPY, and `later` that its first failure is poison met behind the first byte
of the transfer unit that is being written (R172); `stopping` a drain or peer stop under way, and `cut` that it cut a
tile of a TASK short (R188 step 3); `step` the step of R182 that its completion has come to. -/
structure Live where
  id : Nat
  ring : Nat
  pos : Nat
  ctx : Nat
  words : List Nat
  poison : Bool
  opcode : Nat
  dotFast : Bool
  forced : Bool
  started : Bool
  tiles : List Nat
  reports : List Nat
  firstFail : Option FirstFail
  bars : Vector (List Nat) 4
  barUse : Vector Nat 4
  windows : Table (List Nat)
  waitFor : List Nat
  snapFrom : Nat
  cluster : Nat
  progress : Nat
  outst : Nat
  later : Bool
  stopping : Bool
  cut : Bool
  sat : Bool
  nan : Bool
  hist : Hist
  finished : Option (Nat × Nat)
  result : Nat
  step : Nat
  deriving DecidableEq, Repr

/-- One context beside its registers: held translations of completion ring, histogram area and fault ring, and which of
these areas have failed their check and wait for an invalidation (R163, R288), the descriptors that complete, the one
whose record is next first (R182), the drain's cause, doorbells kept for the new instance (R189), drops since the last
written fault record (R282). -/
structure Ctx where
  heldCq : Option CacheEnt
  heldHist : Option CacheEnt
  heldFlt : Option CacheEnt
  cqFailed : Bool
  histFailed : Bool
  fltFailed : Bool
  waiting : List Nat
  drainCause : Nat
  kept : Table Nat
  fltDrops : Nat
  deriving DecidableEq, Repr

/-! ### Translation and faults (R261 to R293) -/

/-- A walk in progress in a walker: its number, the requester, what it asks, the level to be read next and the table
address (R266). -/
structure Walk where
  num : Nat
  who : Who
  ctx : Nat
  va : Nat
  acc : AccKind
  level : Nat
  table : Nat
  deriving DecidableEq, Repr

/-- The fault causes in the order of the CAUSES field of R292. -/
inductive XFault where
  | notPresent | permission | sharedRo | badEntry | badTarget | tablePoison
  deriving DecidableEq, Repr

/-- A fault on its way to its fault-home walker, or stalled there without a record (R277, R281). -/
structure FaultMsg where
  src : Nat
  who : Who
  ctx : Nat
  va : Nat
  acc : AccKind
  cause : XFault
  level : Nat
  deriving DecidableEq, Repr

/-- The states of an entry of a pending-fault table (R278). -/
inductive PftState where
  | free | undelivered | delivered | waking
  deriving DecidableEq, Repr

/-- An entry of a pending-fault table: the bitmap of R276, ACCESS and CAUSES of R292. -/
structure Pft where
  st : PftState
  ctx : Nat
  page : Nat
  seq : Nat
  access : Nat
  causes : Nat
  level : Nat
  bitmap : Nat
  wake : Nat
  deriving DecidableEq, Repr

/-- One walker and its pending-fault table: walks in progress and the number of the next, its walk cache, the 256 entries, the order of
the undelivered ones, its FAULT_SEQ counter, faults arriving and faults stalled without a record. -/
structure Walker where
  walks : List Walk
  nextWalk : Nat
  cache : List CacheEnt
  pft : Table Pft
  order : List Nat
  seq : Nat
  arriving : List FaultMsg
  noRecord : List FaultMsg
  deriving DecidableEq, Repr

/-- An access stalled on a fault: who, in which context, on which 64 KiB page, and how it is to end once it
is released into an abort (R276, R284). -/
structure Stalled where
  who : Who
  ctx : Nat
  page : Nat
  deriving DecidableEq, Repr

/-- An invalidation under way (R274): the function that asked, the context, whether it is WHOLE, and the first and
last 64 KiB page of its scope. -/
structure Inval where
  fn : Nat
  ctx : Nat
  whole : Bool
  lo : Nat
  hi : Nat
  deriving DecidableEq, Repr

/-- The translation system: the walkers, the caches of R272, accesses stalled on faults, accesses released into an abort
(R284), invalidations, RESUME_PAGEs on their way (live, walker, entry), the operator ring's drops, and the kept
records that wait with what the full store has lost (R289, R290). -/
structure Xlt where
  walkers : Vector Walker 3
  ctc : Vector (List CacheEnt) 18
  siteCache : Vector (List CacheEnt) 6
  fabCache : Vector (List CacheEnt) 16
  hostCache : List CacheEnt
  stalled : List Stalled
  aborted : List (Who × Nat × Nat)
  invs : List Inval
  resumes : List (Nat × Nat × Nat)
  opDrops : Nat
  kept : List Rec
  lost : Nat
  lostLo : Nat
  lostHi : Nat
  deriving DecidableEq, Repr

/-! ### Stacked memory (R191 to R223) -/

/-- A request held in a retry buffer (R212): a read with the outcomes it will meet, a plaza's DIRTY unit to be written with
the symbols the base will report, or a write with its data. -/
inductive HeldMem where
  | mrd (unit : Nat) (ev ev2 : EccOutcome)
  | mwr (unit : Nat) (symbols : List Nat)
  | write (unit : Nat) (data : UnitData) (mark : Option Mark)
  deriving DecidableEq, Repr

/-- One stack beside its registers: bonds counted and failing in each module (R211), retired modules
(R213), modules whose retrain is scheduled and running and the requests held in the retry buffer in their order of
arrival (R212), the throttle's ceiling in 100 MHz steps and whether it restrains (R216), the cause of its isolation (R218),
the rejoin under way (R220), the dropped writes counted, and whether STACK_NOT_ON has been raised in this period out of ON
(R221). Where it has been filled with poison (R220), `restored` lists the copies brought back and `fillMarks` the shared
regions, by index, base and size, that were VALID then (R201). -/
structure Stack where
  bondCount : Table Nat
  bondRun : Table Nat
  failing : List Nat
  spared : List Nat
  retired : List Nat
  retrainDue : List Nat
  retraining : List Nat
  retry : List HeldMem
  patrol : Nat
  hot : Bool
  ceiling : Nat
  restrains : Bool
  isoCause : Nat
  swept : Bool
  rejoining : Bool
  filled : Bool
  restored : List (Nat × Nat)
  fillMarks : List (Nat × Nat × Nat)
  droppedWrites : Nat
  notOnRaised : Bool
  clampBudget : Option Nat
  curBudget : Nat
  budgetSeq : Nat
  deriving DecidableEq, Repr

/-- The DRAM of the twelve stacks: bytes keyed by stack × 2³⁶ + stack address, and poison marks keyed by
unit, stack × 2³⁰ + address / 64 (R201). Where a stack has been filled with poison (R220), `good` lists the
units written since, and the stack's `restored` the shared-region copies brought back. -/
structure Dram where
  bytes : Mem
  marks : Table Mark
  good : Table Nat
  deriving DecidableEq, Repr

/-! ### The Plaza cache and coherence (R224 to R260) -/

/-- A line a plaza holds (R229), keyed by stack × 2²⁹ + address / 128. -/
structure PLine where
  v0 : Bool
  v1 : Bool
  d0 : Bool
  d1 : Bool
  sharedOut : Bool
  keep : Bool
  u0 : UnitData
  u1 : UnitData
  m0 : Option Mark
  m1 : Option Mark
  deriving DecidableEq, Repr

/-- An owner-table entry (R243): the owning site and the order of allocation. -/
structure Owner where
  site : Nat
  order : Nat
  deriving DecidableEq, Repr

/-- Where a transaction stands at its home: waiting in the tracker, waiting for a snoop's answer, for the
invalidation broadcast, or finished but for acknowledgements (R235, R236). -/
inductive Phase where
  | waiting | snooping | invalidating | closing
  deriving DecidableEq, Repr

/-- A transaction in a plaza's tracker. `owner` is the site snooped; `rsp`, `wb`, `ack`, `mem`, `stash` say
what it still waits for; `inv` the sites whose responses are awaited and `ring` whether its SNP_INV is on
the ring; `noData` whether the snooped site reported no data; `after` the request of the home's own that goes before it, and
`recalled` whether an owner-table entry has been recalled for its grant (R244). -/
structure Txn where
  id : Nat
  line : Nat
  kind : TKind
  req : Req
  data : LineData
  mask : BitVec 128
  m0 : Option Mark
  m1 : Option Mark
  hint : Nat
  mirror : Bool
  phase : Phase
  owner : Option Nat
  rsp : Bool
  wb : Bool
  ack : Bool
  mem : Bool
  stash : Option Nat
  inv : Nat
  invSeen : Nat
  ring : Bool
  noData : Bool
  after : Option Nat
  recalled : Bool
  deriving DecidableEq, Repr

/-- A coherence message under way inside the hub (R234). An SNP_INV holds its slot of the ring once it has been injected, the
stops it has come from its origin, and RESP_MASK (R241, R242); a WR_ACK its status. -/
inductive CMsg where
  | snpFwdShared (site line txn : Nat) (req : Req)
  | snpFwdUnique (site line txn : Nat) (req : Req)
  | snpFwdOnce (site line txn : Nat) (req : Req)
  | snpRecall (site line txn : Nat)
  | snpDrop (site line txn : Nat)
  | snpInv (line txn skip : Nat) (slot : Option Nat) (dist : Nat) (mask : Nat)
  | data (req : Req) (line : Nat) (d : LineData) (m0 m1 : Option Mark) (g : Grant)
  | comp (req : Req) (line txn : Nat) (poisoned : Option Mark)
  | wrAck (req : Req) (line status : Nat)
  | wbAck (req : Req) (line : Nat) (ok : Bool)
  | memDone (line txn : Nat)
  | stash (site line txn : Nat) (d : LineData) (m0 m1 : Option Mark)
  deriving DecidableEq, Repr

/-- A snoop that a site's chiplet has not answered (R233). -/
structure Snoop where
  site : Nat
  line : Nat
  txn : Nat
  deriving DecidableEq, Repr

/-- A request forwarded to an owner whose requester still waits for DATA or COMP (R236, R308): the number that
the snoop carries as DTXN, the requester, the line, and what has come. -/
structure Fwd where
  num : Nat
  req : Req
  line : Nat
  comp : Bool
  got0 : Option (UnitData × Option Mark)
  got1 : Option (UnitData × Option Mark)
  deriving DecidableEq, Repr

/-- A unit delivered to a requester of the hub that has not yet taken it. -/
structure Arrival where
  who : Who
  key : Tgt
  data : UnitData
  mark : Option Mark
  deriving DecidableEq, Repr

/-- The plazas and the Ring Road: the lines held, the owner table with the order of its allocations, the
trackers with the requests that wait before a full one, coherence messages under way, snoops unanswered, stops that have
marked a slot of the ring, units delivered to
the hub's own requesters and units they have asked for, writes of theirs that failed with their DETAIL, and
the sweeps under way (R218, R253, R260, R488). -/
structure Plaza where
  lines : Table PLine
  owners : Table Owner
  order : Nat
  txns : List Txn
  nextTxn : Nat
  msgs : List CMsg
  snoops : List Snoop
  fwds : List Fwd
  ringMarks : List (Nat × Nat)
  arrivals : List Arrival
  asked : List (Who × Tgt)
  failed : List (Who × Nat)
  flushing : Bool
  ownerSweep : List Nat
  stackSweep : List Nat
  deriving DecidableEq, Repr

/-! ### Chiplet sites (R294 to R328) -/

/-- A request of a chiplet that has been admitted and whose WDATA is still arriving, or whose translation or
answer is awaited (R307, R316): the header, the data and mask collected (for a read outside stacked memory, the
units that have come), the WDATA still due, whether a window fence waits for it (R317), why it fails (0 while it
does not), whether its address has been translated and where to, and its writes not yet acknowledged. -/
structure OpenReq where
  hdr : KMsg
  data : LineData
  mask : BitVec 128
  m0 : Option Mark
  m1 : Option Mark
  need : Nat
  fenced : Bool
  fail : Nat
  sent : Bool
  outst : Nat
  deriving DecidableEq, Repr

/-- A site agent's request at a home: the bridge and the agent hold DATA and COMP until both are there
(R236, R250). -/
structure AgentReq where
  txn : Nat
  line : Nat
  kind : TKind
  cxl : Bool
  needComp : Bool
  gotComp : Bool
  gotData : Bool
  noData : Bool
  data : LineData
  m0 : Option Mark
  m1 : Option Mark
  grant : Grant
  unit : Nat
  cls : Nat
  urg : Nat
  fenced : Bool
  deriving DecidableEq, Repr

/-- A TGT request of the hub to a chiplet's aperture (R313): its number, for whom and for what, and the units
it asks for or writes; `dead` once it has been answered without the chiplet. -/
structure TgtReq where
  txn : Nat
  who : Who
  key : Tgt
  write : Bool
  units : Nat
  deriving DecidableEq, Repr

/-- Data that a CXL device still owes its bridge (R250, R251): the line, the number of the hub's snoop or the
device's tag, the code of the snoop (0 for DirtyEvict) and whether the response reported the line modified. -/
structure CxlDue where
  line : Nat
  txn : Nat
  code : Nat
  modified : Bool
  deriving DecidableEq, Repr

/-- Where a (re)join stands (R324): not joining, waiting for CAPS, for the certificate, for the challenge's
answer, in QUARANTINE, waiting for JOINED, or joined and about to return to service. -/
inductive JoinStep where
  | none | caps | cert | challenge | quarantine | join | joined
  deriving DecidableEq, Repr

/-- One chiplet site beside its registers. The link: modules out of the rotation under repair and retired,
spares used in each module and the spare that each replaced bond (128 × module + bond) has, failing bonds, correction
counts, sequence numbers, the module on which the next flit is placed at the earliest, unacknowledged flits
(R296 to R302). The protocol: credits held and credits owed to the chiplet in the order REQ, TGT, SNP, RSP, DAT (R305), the
bytes of the CXL stream that make no whole flit yet (R298, R314), delivered messages waiting to be taken, open requests,
agent requests, TGT requests and those whose late answer is to be discarded (R313). The management transport: join step,
whether the site is kept out until the next bring-up (R321), certificate, budgets. -/
structure Site where
  retired : List Nat
  repairing : List (Nat × Nat × Nat)
  sparesUsed : Table Nat
  spareMap : Table Nat
  failing : List (Nat × Nat)
  corr : Table Nat
  corrRun : Table Nat
  txSeq : Nat
  rxSeq : Nat
  nextMod : Nat
  unacked : List Flit
  naks : Nat
  naksRx : Nat
  gap : Bool
  early : List Flit
  credits : List Nat
  owed : List Nat
  stream : List Byte
  held : List (KMsg × UnitData)
  inbox : List (KMsg × UnitData)
  opens : List OpenReq
  agents : List AgentReq
  tgts : List TgtReq
  late : List (Nat × Bool)
  nextTxn : Nat
  due : List CxlDue
  epoch : Nat
  join : JoinStep
  nonce : List Byte
  pll : Bool
  everAccepted : Bool
  barred : Bool
  certLen : Nat
  cert : List Byte
  firstDigest : Option (List Byte)
  lastStep : Nat
  absCause : Nat
  poisoned : Nat
  curBudget : Nat
  clampBudget : Option Nat
  budgetSeq : Nat
  sbSeq : Nat
  flushing : Bool
  deriving DecidableEq, Repr

/-! ### The on-die network and quality of service (R329 to R355) -/

/-- The network. `tags` is the epoch tag of each attachment plus one, 0 for NONE (R339); `markers` the flush
markers still out for a unit, by number (R340); `packets` are those in the routers' buffers, in the order in which they reached
the router where they stand (R330), and `waiting` those at the injection ports, in order; `seen` are requests and snoops
delivered, whose tags their answers copy (R333); `charges` the charge of point × 16 + class in bytes (R347);
`missAge` the periods since a class's last GUARANTEE_MISS record (R353); `heldLinks` Crossing links being
drained (R344); `isolated` dead attachments with the key of their unit (R343); `absorbed` the writes absorbed for each target
attachment (R342). -/
structure Net where
  tags : Table Nat
  markers : Table (List Nat)
  packets : List Transit
  waiting : List Offer
  seen : List Packet
  isolated : List (Nat × Nat)
  charges : Table Nat
  missAge : Table Nat
  guarDue : Bool
  heldLinks : List (Nat × Nat)
  absorbed : Table Nat
  started : Bool
  deriving DecidableEq, Repr

/-! ### The fabric (R356 to R389) -/

/-- An outstanding request of a port's table (R365). -/
structure FabReq where
  who : Who
  key : Tgt
  write : Bool
  units : Nat
  deriving DecidableEq, Repr

/-- A request admitted through a window that waits for its answer (R376): its number, the message, the window, the
context of a CONTEXT entry, the address of its first byte, hint and class as the entry stood, whether a fence
waits for it (R378), the units still to be written, writes not yet acknowledged, a status that ended a unit,
and the units that have come. -/
structure WinReq where
  id : Nat
  msg : KflMsg
  win : Nat
  ctx : Option Nat
  addr : Nat
  hint : Nat
  cls : Nat
  fenced : Bool
  todo : List Nat
  outst : Nat
  fail : Nat
  got : Table (UnitData × Option Mark)
  deriving DecidableEq, Repr

/-- One fabric port beside its registers. The link: sequence numbers, unacknowledged flits, NAKs sent and received in
succession, credits held by the index of R361 and credits owed to the peer, messages held, slots of messages that have left
for the stream but are in no flit yet, and the slots of a message that has begun
to arrive (R359 to R361, R367). Above it: the table of
R365, the lanes that the peer can keep, why it is or goes DOWN, its width before a retrain, the node of the last
HELLO (R371), destinations with a recent FABRIC_UNREACHABLE record (R372), and requests admitted (R376). -/
structure FabPort where
  txSeq : Nat
  rxSeq : Nat
  unacked : List KflFlit
  naks : Nat
  naksRx : Nat
  gap : Bool
  credits : List Nat
  owed : List (Nat × Nat)
  table : Table FabReq
  held : List KflMsg
  tx : List KflSlot
  part : List Nat
  peerPlan : Nat
  cause : Nat
  widthBefore : Nat
  peerNode : Option Nat
  unreachNote : List Nat
  winReqs : List WinReq
  nextWin : Nat
  deriving DecidableEq, Repr

/-- A reduction group at this package (R380 to R387). `live` is its REDUCE; `words` its reduction
descriptor; `armed` whether it is armed; `limitUp` the LIMIT its parent has sent; `inputs` the children's chunks
held, by chunk × 32 + port, as FP32 encodings; `formed` the chunks whose value has been formed and `wrote` those
written to DST; `outst` writes not yet acknowledged; `mark` that of the first poisoned chunk (R387). -/
structure Group where
  live : Nat
  port : Nat
  words : List Nat
  armed : Bool
  limitUp : Nat
  inputs : Table (List Nat × Option Mark)
  formed : Nat
  wrote : Nat
  outst : Nat
  mark : Option Mark
  deriving DecidableEq, Repr

/-- The fabric: ports, routing entries by table × 2¹⁶ + node (OUT + 32 × VL_UP, R372), arriving messages and
reduction groups in order of dispatch. -/
structure Fabric where
  ports : Vector FabPort 16
  routes : Table Nat
  arriving : List (Nat × KflMsg)
  groups : List Group
  deriving DecidableEq, Repr

/-! ### The host endpoint (R390 to R417) -/

/-- One MSI-X table entry: message address and data, mask bit (R410). -/
structure MsixEntry where
  addr : Nat
  data : Nat
  masked : Bool
  deriving DecidableEq, Repr

/-- The TDISP states of R413. -/
inductive Tdi where
  | unlocked | locked | run | error
  deriving DecidableEq, Repr

/-- One PCIe function beside its registers (R393 to R410): Memory Space Enable, Bus Master Enable, D0, the
Completion Timeout Value field, an FLR under way, the MSI-X enable and function mask bits, table and pending bits,
the TDI with its stream and the nonce of its lock, the configuration writes recorded during an FLR (R408), an FRS message that waits for
the release of containment (R406), and the BARs. -/
structure Fn where
  present : Bool
  mse : Bool
  bme : Bool
  d0 : Bool
  cto : Nat
  flr : Bool
  msixEnable : Bool
  msixMask : Bool
  msix : Table MsixEntry
  pba : List Nat
  tdi : Tdi
  stream : Option Nat
  nonce : Option Nat
  recorded : List CfgWrite
  frsHeld : Bool
  bars : Table Nat
  deriving DecidableEq, Repr

/-- A read the hub has sent to the host and not seen answered (R398): its tag, the function, for whom it is,
the first unit and the number of units. -/
structure HostReq where
  tag : Nat
  fn : Nat
  who : Who
  key : Tgt
  units : Nat
  deriving DecidableEq, Repr

/-- A host access through the context aperture that waits for translation or data (R397, R543): its number, the
host's tag, the function, context and address; for an atomic its operation, width, operand and compare value; for
a write the bytes still to be written from `va` on; for a read the units that have come. -/
structure AptReq where
  id : Nat
  tag : Nat
  fn : Nat
  ctx : Nat
  va : Nat
  len : Nat
  write : Bool
  atomic : Option (Nat × Nat × Nat × Nat)
  bytes : List Byte
  got : Table (UnitData × Option Mark)
  deriving DecidableEq, Repr

/-- An SPDM session (R411, R464): whether FINISH has secured it, the leaf of the certificate whose alias key it uses,
and the number of KEY_UPDATEs. -/
structure SpdmSession where
  secured : Bool
  leaf : Nat
  keyGen : Nat
  deriving DecidableEq, Repr

/-- The DOE responder's progress (R411): version, capabilities and algorithms agreed, and the sessions by number. -/
structure Spdm where
  version : Bool
  caps : Bool
  algs : Bool
  sessions : Table SpdmSession
  deriving DecidableEq, Repr

/-- The host endpoint. `vfEnable` and `numVfs` are the SR-IOV fields; `reads` the reads sent, `nextTag` where the search for
the next read's tag begins, and `retired` the tags an FLR has retired (R390, R398, R406); `errs`, `masks` and `severity` the Uncorrectable Error Status, Mask and Severity
registers by function, `fatalOn` and `nonfatalOn` the reporting enables (R400, R401); `streams` the IDE streams
with keys (R412). -/
structure HostPort where
  fns : Vector Fn 128
  vfEnable : Bool
  numVfs : Nat
  reads : List HostReq
  nextTag : Nat
  retired : List Nat
  apt : List AptReq
  nextApt : Nat
  errs : Table Nat
  masks : Table Nat
  severity : Table Nat
  fatalOn : Bool
  nonfatalOn : Bool
  streams : List Nat
  spdm : Spdm
  deriving DecidableEq, Repr


/-! ### The floor-plan report (R34 to R41) -/

/-- A unit's record of the floor-plan report, but for what follows from its identity: STATUS, CAUSE, the
widths and spares, the measured error rate and the unit's epoch (R36, R37). -/
structure UnitRec where
  status : Nat
  cause : Nat
  width : Nat
  spares : Nat
  errMant : Nat
  errExp : Nat
  epoch : Nat
  deriving DecidableEq, Repr

/-- The report at one revision: records by unit type × 256 + physical identity, REVISION and the die
configuration epoch it was written under (R35, R39). -/
structure Plan where
  units : Table UnitRec
  rev : Nat
  epoch : Nat
  deriving DecidableEq, Repr

/-! ### Bring-up and recovery (R418 to R448) -/

/-- How a power-on or reset stands before stage S0: held in reset, or running (R419, R550). -/
inductive ResetState where
  | held | running | railWait
  deriving DecidableEq, Repr

/-- A unit's own progress through quarantine (R435): its entry epoch and the step reached. -/
structure Quar where
  epoch : Nat
  step : Nat
  cause : Nat
  deriving DecidableEq, Repr

/-- Bring-up. `hubHeld` says that every unit but the transit domain, the host port and Welore is held in reset (R420,
R469); `image` is the pushed image; `reports` the 16 words of each stage's report (R427); `shadow` the configuration
shadow of units in QUARANTINE (R434); `quar` the units in QUARANTINE by type × 256 + identity (R435); `partReset` the
partitions in reset and the step reached (R438); `marked` the status of each unit that the hub has marked ahead of its
record (R218, R253); `newWork` whether the hub accepts new work (R345, R443); `plan` the
floor-plan report as it stands, `rev0` its revision 0 and `latches` the revision each function reads (R39); `tilesAt` the
physical tile of each logical number (R25); `digest` FLOORPLAN_DIGEST (R40); `dump` which recording DUMP holds (R532). -/
structure Boot where
  reset : ResetState
  hubHeld : Bool
  image : Mem
  reports : Table (List Nat)
  shadow : Table W32
  quar : Table Quar
  partReset : Table Nat
  marked : Table Nat
  newWork : Bool
  plan : Plan
  rev0 : Plan
  latches : Table Plan
  tilesAt : List Nat
  digest : Nat
  dump : Option Nat
  deriving DecidableEq, Repr

/-! ### Security and life cycle (R449 to R481) -/

/-- The one-time-programmable memory (R449). `reserve` lists the burned reservation bits, rising (R456);
regions are naturals of their width; `fwKey` holds digest and revoke bit. `trim` stands for the internal
regions, of which only the wipe of R470 matters. -/
structure Otp where
  lcA : Nat
  lcB : Nat
  scrapFull : Bool
  serial : Nat
  idkPriv : Nat
  lmsPriv : Nat
  memKey : Nat
  idCert : List Byte
  fwKey : Vector (Nat × Bool) 4
  svnFloor : Nat
  reserve : List Nat
  tokenDigest : Vector Nat 4
  user : Table Nat
  disabled : List Nat
  blown : Bool
  deriving DecidableEq, Repr

/-- What an issued certificate states (R461): leaf, epoch, life-cycle code, debug status, blocks burned. -/
structure Cert where
  leaf : Nat
  epoch : Nat
  lc : Nat
  debug : Nat
  blocks : Nat
  deriving DecidableEq, Repr

/-- A life-cycle transition under way (R469): from and to codes. -/
structure LcMove where
  src : Nat
  dst : Nat
  deriving DecidableEq, Repr

/-- Security: the OTP, the volatile memory key of R451 (the number of its draw), the running image's digest and
version, the certificates issued in this boot, the block reserved, the current certificate, an issue that is
due, the gates opened in this boot (R476), the token bytes written, a transition under way and the random source's health. -/
structure Sec where
  otp : Otp
  volatileKey : Option Nat
  digest : Nat
  version : Nat
  issued : Nat
  block : Option Nat
  cert : Option Cert
  due : Bool
  gatesSeen : List Nat
  token : Table Nat
  lcMove : Option LcMove
  rngFailed : Bool
  deriving DecidableEq, Repr

/-! ### Power, clocks and temperature (R482 to R504) -/

/-- The power of one unit: the last commanded state, the state applied, the target of a transition in
progress and a held command (R485, R486). States are 0 ON, 1 IDLE, 2 RETAIN, 3 OFF. -/
structure PUnit where
  target : Nat
  now : Nat
  moving : Option Nat
  held : Option Nat
  deriving DecidableEq, Repr

/-- Power: units by type × 256 + identity; sensors whose last reading was at the trip point, and stack dies
(stack × 32 + die) likewise (R501). -/
structure Power where
  units : Table PUnit
  hotLast : List Nat
  hotDies : List Nat
  deriving DecidableEq, Repr

/-! ### Counters and snapshots (R505 to R522) -/

/-- A running snapshot: the blocks that have latched and those that have reported, and for each block the
input channels whose marker has arrived, by block × 2¹⁶ + channel; and the selections under which the blocks were
latched, by block × 8 + counter (R511). -/
structure SnapRun where
  latched : List Nat
  reported : List Nat
  arrived : List Nat
  sels : Table Nat
  deriving DecidableEq, Repr

/-- The counters: values by block × 16 + counter (8 is the cycle counter), both shadow banks as values and
in-flight counts, the HI copies by function × 2³⁰ + offset, the running totals of the bandwidth windows by
block × 4 + port, the counters that have wrapped and wait to be dealt with (R512), the running snapshot and the last number taken, whether a request waits (R519), and the
selections written since the last latch, by block × 8 + counter (R511). -/
structure Counters where
  val : Table Nat
  shadow0 : Table (Nat × Nat)
  shadow1 : Table (Nat × Nat)
  hiCopy : Table Nat
  bw : Table Nat
  wraps : List (Nat × Nat)
  run : Option SnapRun
  seqRun : Nat
  asked : Bool
  selDue : List Nat
  deriving DecidableEq, Repr

/-! ### Mailbox, pins and the slow ports (R533 to R537, R547, R553, R554) -/

/-- The mailbox memory of R536 by offset, and the message each site is still to send. -/
structure Mbox where
  mem : Mem
  sending : Table (List Byte)
  inLen : Table Nat
  deriving DecidableEq, Repr

/-- The management pins and ports: GPIO straps sampled at the release of RESET_N, THERMTRIP_N, GPIO3, the
RESET_N level, the I3C dynamic address, and the test port's instruction. -/
structure Pins where
  strap : Nat
  thermtripLow : Bool
  gpio3Low : Bool
  resetLow : Bool
  i3cAddr : Option Nat
  tapIr : Nat
  deriving DecidableEq, Repr
/-! ### What leaves the hub -/

/-- What the hub sends outward: MSI-X messages (R410), posted writes and reads on the host port (R395, R398),
completions to the host, messages of the sites' main band and sideband, of the fabric, of the stacks'
status bonds, the codewords of units written to the stacks, and changes of pins. -/
inductive Out where
  | msix (fn vector : Nat)
  | hostWrite (fn addr : Nat) (bytes : List Byte) (poisoned : Bool)
  | hostRead (fn tag addr len : Nat)
  | hostCpl (fn tag status : Nat) (bytes : List Byte) (poisoned : Bool)
  | flit (site module : Nat) (payload : BitVec 704) (check : BitVec 64)
  | cxl (site : Nat) (what : String) (line : Nat) (data : LineData)
  | cxlMem (site txn : Nat) (write : Bool) (off : Nat) (data : UnitData) (mask : Nat) (poison : Bool)
  | sideband (site : Nat) (words : List Nat)
  | kfl (port : Nat) (flit : BitVec 5120)
  | stack (stack : Nat) (what : String) (value : Nat)
  | unit (stack a : Nat) (data : UnitData) (check : BitVec 64)
  | pin (name : String) (value : Nat)
  | doe (what : String) (words : List Nat) (bytes : List Byte)
  | regRead (fn off : Nat) (value : W32)
  | frs (fn : Nat)
  | errMessage (fatal : Bool)
  | tap (ir : Nat) (value : Nat)
  | i3c (value : Nat)
  deriving DecidableEq, Repr

/-! ### The whole state -/

/-- The hub. `pending` is the queue of commands that wait, `lives` the dispatched descriptors in order of
dispatch, `out` what has left the hub, the latest first, and `free` the model's own counter, which only picks
the next free value. -/
structure State where
  pending : List Instr
  regs : Regs
  tiles : Vector Tile 72
  clusters : Vector Cluster 18
  ctxs : Table Ctx
  rings : Table Ring
  lives : List Live
  nextLive : Nat
  xlt : Xlt
  stks : Vector Stack 12
  dram : Dram
  plz : Plaza
  sites : Vector Site 6
  net : Net
  fab : Fabric
  host : HostPort
  boot : Boot
  sec : Sec
  pwr : Power
  cnt : Counters
  mbox : Mbox
  pins : Pins
  out : List Out
  free : Nat
  deriving DecidableEq, Repr

/-! ### The state after reset -/

/-- A command queue with nothing issued. -/
def TQueue.init : TQueue := { entries := [], issued := 0, done := 0, flags := [] }

/-- An EMPTY slot of the finished-tile queue. -/
def FtqSlot.init : FtqSlot := 
  { st := .empty, fp32 := false, ticket := 0, index := 0, thin := false, batch := 0, rows := 0, hist := false,
    data := [] }

/-- An empty histogram. -/
def Hist.init : Hist :=
  { bins := [], zero := 0, subnormal := 0, infinity := 0, nan := 0, saturation := 0 }

/-- Machine-mode CSRs after reset: mstatus reads TW 1 (R46) and UXL 2, mtvec points to the start of monitor memory; the others
are zero (log entry 11). -/
def MCsr.init : MCsr :=
  { mstatus := 0x200200000, mie := 0, mip := 0, mtvec := 0x30000000, mscratch := 0, mepc := 0, mcause := 0, mtval := 0,
    menvcfg := 0 }

/-- A tile without a task, waiting in machine mode with its stores at zero. -/
def Tile.init : Tile :=
  { mode := .machine, pc := 0, x := Vector.replicate 32 0, ir := none, csr := .init, instret := 0, reserv := none, stall := .wfi, dmem := [], monImage := none, monMem := [], block := [], store := [],
    storeMarks := [], storeUe := [], storeOnce := [], dmemUe := [], lines := [], ports := Vector.replicate 2 0,
    queues := Vector.replicate 4 .init, ftq := Vector.replicate 8 .init, ftqHead := 0, ftqTail := 0,
    accs := [], unord := [], seen := Vector.replicate 4 0, issues := 0, live := none, rank := 0, count := 0, logical := 0, ctx := 0, cls := 0, dotFast := false, round := 0,
    seed := 0, cswSize := 0, ending := none, reported := false, prevCtx := none,
    hist := .init, histUsed := false, sat := false, nan := false, trace := [], sampleGen := 0 }

/-- A cluster with its store at zero and every granule free. -/
def Cluster.init : Cluster :=
  { store := [], marks := [], holder := [], lastCtx := [], turn := 0, copies := [] }

/-- A ring with nothing submitted. -/
def Ring.init : Ring :=
  { prod := 0, fetched := 0, queue := [], held := none, judged := none, slot := false, fenceLook := false,
    reserving := false, fixed := [], since := 0, fixedAt := 0, gates := [] }

/-- A context that is OFF. -/
def Ctx.init : Ctx :=
  { heldCq := none, heldHist := none, heldFlt := none, cqFailed := false, histFailed := false, fltFailed := false,
    waiting := [], drainCause := 0,
    kept := [], fltDrops := 0 }

/-- An entry of a pending-fault table that is FREE. -/
def Pft.init : Pft :=
  { st := .free, ctx := 0, page := 0, seq := 0, access := 0, causes := 0, level := 0, bitmap := 0, wake := 0 }

/-- A walker with no walk and no entry. -/
def Walker.init : Walker :=
  { walks := [], nextWalk := 0, cache := [], pft := [], order := [], seq := 0, arriving := [], noRecord := [] }

/-- The translation system with empty caches. -/
def Xlt.init : Xlt :=
  { walkers := Vector.replicate 3 .init, ctc := Vector.replicate 18 [], siteCache := Vector.replicate 6 [],
    fabCache := Vector.replicate 16 [], hostCache := [], stalled := [], aborted := [], invs := [],
    resumes := [], opDrops := 0, kept := [], lost := 0, lostLo := 0, lostHi := 0 }

/-- A stack before training: its ceiling at the highest tile clock, nothing failing. -/
def Stack.init : Stack :=
  { bondCount := [], bondRun := [], failing := [], spared := [], retired := [], retrainDue := [],
    retraining := [], retry := [], patrol := 0, hot := false, ceiling := 17, restrains := false, isoCause := 0,
    swept := false, rejoining := false, filled := false, restored := [], fillMarks := [], droppedWrites := 0, notOnRaised := false,
    clampBudget := none, curBudget := 0, budgetSeq := 0 }

/-- The plazas with every line INVALID. -/
def Plaza.init : Plaza :=
  { lines := [], owners := [], order := 0, txns := [], nextTxn := 0, msgs := [], snoops := [], fwds := [],
    ringMarks := [], arrivals := [], asked := [], failed := [], flushing := false, ownerSweep := [], stackSweep := [] }

/-- A site before training. -/
def Site.init : Site :=
  { retired := [], repairing := [], sparesUsed := [], spareMap := [], failing := [], corr := [], corrRun := [], txSeq := 0,
    rxSeq := 0, nextMod := 0, unacked := [], naks := 0, naksRx := 0, gap := false, early := [], credits := [0, 0, 0, 0, 0],
    owed := [0, 0, 0, 0, 0], stream := [], held := [],
    inbox := [], opens := [], agents := [], tgts := [], late := [], nextTxn := 0, due := [], epoch := 0, join := .none,
    nonce := [], pll := false, everAccepted := false, barred := false, certLen := 0, cert := [], firstDigest := none, lastStep := 0,
    absCause := 0, poisoned := 0, curBudget := 0, clampBudget := none, budgetSeq := 0,
    sbSeq := 0, flushing := false }

/-- The network before READY. -/
def Net.init : Net :=
  { tags := [], markers := [], packets := [], waiting := [], seen := [], isolated := [], charges := [], missAge := [], guarDue := false,
    heldLinks := [], absorbed := [], started := false }

/-- A fabric port before training. -/
def FabPort.init : FabPort :=
  { txSeq := 0, rxSeq := 0, unacked := [], naks := 0, naksRx := 0, gap := false, credits := [0, 0, 0, 0, 0, 0, 0],
    owed := [], table := [], held := [], tx := [], part := [], peerPlan := 0xFF, cause := 0, widthBefore := 0, peerNode := none, unreachNote := [],
    winReqs := [], nextWin := 0 }

/-- The fabric before training. -/
def Fabric.init : Fabric :=
  { ports := Vector.replicate 16 .init, routes := [], arriving := [], groups := [] }

/-- A function at its PCIe reset values; only the physical function is present. -/
def Fn.init : Fn :=
  { present := false, mse := false, bme := false, d0 := true, cto := 0, flr := false, msixEnable := false,
    msixMask := false, msix := [], pba := [], tdi := .unlocked, stream := none, nonce := none, recorded := [],
    frsHeld := false, bars := [] }

/-- The host endpoint with no link. -/
def HostPort.init : HostPort :=
  { fns := Vector.replicate 128 .init, vfEnable := false, numVfs := 0, reads := [], nextTag := 0, retired := [],
    apt := [], nextApt := 0, errs := [], masks := [], severity := [], fatalOn := false, nonfatalOn := false,
    streams := [],
    spdm := { version := false, caps := false, algs := false, sessions := [] } }

/-- A floor-plan report with no record. -/
def Plan.init : Plan := { units := [], rev := 0, epoch := 0 }

/-- Bring-up while RESET_N is low. -/
def Boot.init : Boot :=
  { reset := .held, hubHeld := false, image := [], reports := [], shadow := [], quar := [], marked := [],
    partReset := [], newWork := false, plan := .init, rev0 := .init, latches := [],
    tilesAt := [], digest := 0, dump := none }

/-- OTP as it leaves the fab: nothing burned (MAKER, no key provisioned). -/
def Otp.init : Otp :=
  { lcA := 0, lcB := 0, scrapFull := false, serial := 0, idkPriv := 0, lmsPriv := 0, memKey := 0, idCert := [],
    fwKey := Vector.replicate 4 (0, false), svnFloor := 0, reserve := [], tokenDigest := Vector.replicate 4 0,
    user := [], disabled := [], blown := false }

/-- Security after reset: the given OTP, nothing volatile. -/
def Sec.init (otp : Otp) : Sec :=
  { otp := otp, volatileKey := none, digest := 0, version := 0, issued := 0, block := none, cert := none,
    due := false, gatesSeen := [], token := [], lcMove := none, rngFailed := false }

/-- A unit that is OFF. -/
def PUnit.init : PUnit := { target := 3, now := 3, moving := none, held := none }

/-- Power after reset: every unit OFF, no sensor read. -/
def Power.init : Power :=
  { units := [], hotLast := [], hotDies := [] }

/-- The counters at zero. -/
def Counters.init : Counters :=
  { val := [], shadow0 := [], shadow1 := [], hiCopy := [], bw := [], wraps := [], run := none, seqRun := 0, asked := false,
    selDue := [] }

/-- An empty mailbox. -/
def Mbox.init : Mbox := { mem := [], sending := [], inLen := [] }

/-- The pins with RESET_N low. -/
def Pins.init : Pins :=
  { strap := 0, thermtripLow := false, gpio3Low := false, resetLow := true, i3cAddr := none, tapIr := 0 }

/-- The hub with the given OTP held in reset: what every reset leaves (R392, R419), no queue, no message on
its way, every register at its table's reset value. -/
def State.resetWith (otp : Otp) : State :=
  { pending := [], regs := { val := [], force := [], rc := [] }, tiles := Vector.replicate 72 .init,
    clusters := Vector.replicate 18 .init, ctxs := [], rings := [], lives := [], nextLive := 0, xlt := .init,
    stks := Vector.replicate 12 .init, dram := { bytes := [], marks := [], good := [] }, plz := .init,
    sites := Vector.replicate 6 .init, net := .init, fab := .init, host := .init, boot := .init,
    sec := Sec.init otp, pwr := .init, cnt := .init, mbox := .init, pins := .init, out := [], free := 0 }

/-- The machine right after reset. -/
def State.reset : State := State.resetWith Otp.init

end Sys2Proof.Machine
end

