-- ==== Sys2Proof/Machine/Ops.lean ====
section
/-!
DEFINITION. The shared operations over registers, functions, interrupts and the floor-plan report. Every
register is read and written through the accessors of this file.
-/
namespace Sys2Proof.Machine

/-! ### Access to the units of the state -/

/-- Tile `t`, by physical identity. -/
def State.tile (s : State) (t : Nat) : Tile := vget .init s.tiles t
/-- Tile `t` changed. -/
def updTile (t : Nat) (f : Tile → Tile) (s : State) : State := { s with tiles := vupd .init s.tiles t f }
/-- Cluster `c`. -/
def State.cluster (s : State) (c : Nat) : Cluster := vget .init s.clusters c
/-- Cluster `c` changed. -/
def updCluster (c : Nat) (f : Cluster → Cluster) (s : State) : State :=
  { s with clusters := vupd .init s.clusters c f }
/-- Stack `k`. -/
def State.stack (s : State) (k : Nat) : Stack := vget .init s.stks k
/-- Stack `k` changed. -/
def updStack (k : Nat) (f : Stack → Stack) (s : State) : State := { s with stks := vupd .init s.stks k f }
/-- Site `n`. -/
def State.site (s : State) (n : Nat) : Site := vget .init s.sites n
/-- Site `n` changed. -/
def updSite (n : Nat) (f : Site → Site) (s : State) : State := { s with sites := vupd .init s.sites n f }
/-- Context `c`. -/
def State.context (s : State) (c : Nat) : Ctx := Table.get .init s.ctxs c
/-- Context `c` changed. -/
def updCtx (c : Nat) (f : Ctx → Ctx) (s : State) : State :=
  { s with ctxs := Table.set s.ctxs c (f (s.context c)) }
/-- Ring `r`. -/
def State.ring (s : State) (r : Nat) : Ring := Table.get .init s.rings r
/-- Ring `r` changed. -/
def updRing (r : Nat) (f : Ring → Ring) (s : State) : State :=
  { s with rings := Table.set s.rings r (f (s.ring r)) }
/-- The dispatched descriptor with the model's number `id`. -/
def State.liveOf? (s : State) (id : Nat) : Option Live := s.lives.find? (fun l => l.id == id)
/-- That descriptor changed. -/
def updLive (id : Nat) (f : Live → Live) (s : State) : State :=
  { s with lives := s.lives.map (fun l => if l.id = id then f l else l) }
/-- Walker `p`. -/
def State.walker (s : State) (p : Nat) : Walker := vget .init s.xlt.walkers p
/-- Walker `p` changed. -/
def updWalker (p : Nat) (f : Walker → Walker) (s : State) : State :=
  { s with xlt := { s.xlt with walkers := vupd .init s.xlt.walkers p f } }
/-- Fabric port `n`. -/
def State.port (s : State) (n : Nat) : FabPort := vget .init s.fab.ports n
/-- Fabric port `n` changed. -/
def updPort (n : Nat) (f : FabPort → FabPort) (s : State) : State :=
  { s with fab := { s.fab with ports := vupd .init s.fab.ports n f } }
/-- Function `f` of the host port. -/
def State.fn (s : State) (f : Nat) : Fn := vget .init s.host.fns f
/-- Function `f` changed. -/
def updFn (f : Nat) (g : Fn → Fn) (s : State) : State :=
  { s with host := { s.host with fns := vupd .init s.host.fns f g } }
/-- Plaza state changed. -/
def updPlz (f : Plaza → Plaza) (s : State) : State := { s with plz := f s.plz }
/-- Translation state changed. -/
def updXlt (f : Xlt → Xlt) (s : State) : State := { s with xlt := f s.xlt }
/-- Something leaves the hub. -/
def emit (o : Out) (s : State) : State := { s with out := o :: s.out }
/-- The next free value, and the state that has used it up. -/
def fresh (s : State) : BitVec 64 × State := (Config.freeWord s.free, { s with free := s.free + 1 })

/-! ### Registers (R10, R527, R528) -/

/-- The key of a register of function `fn`'s own view at `off` (R538). -/
def fnKey (fn off : Nat) : Nat := 2 ^ 30 * fn + off

/-- The register at key `k`, as last written or set. -/
def State.reg (s : State) (k : Nat) : Nat :=
  (Table.get (BitVec.ofNat 32 (regReset (k % 2 ^ 30))) s.regs.val k).toNat

/-- The register at key `k` set to `v`. -/
def setReg (k v : Nat) (s : State) : State :=
  { s with regs := { s.regs with val := Table.set s.regs.val k (BitVec.ofNat 32 v) } }

/-- Field [hi:lo] of the register at key `k`. -/
def State.rf (s : State) (k hi lo : Nat) : Nat := bits (s.reg k) hi lo

/-- Bit `b` of the register at key `k`. -/
def State.rb (s : State) (k b : Nat) : Bool := bit (s.reg k) b

/-- Field [hi:lo] of the register at key `k` set to `v`. -/
def setRf (k hi lo v : Nat) (s : State) : State := setReg k (setBits (s.reg k) hi lo v) s

/-- Field [hi:lo] raised by `n`, saturating. -/
def addRf (k hi lo n : Nat) (s : State) : State :=
  setRf k hi lo (min (s.rf k hi lo + n) (2 ^ (hi + 1 - lo) - 1)) s

/-- The value in force of the register at key `k`: what was in force before where an apply point is still
awaited (R528). -/
def State.inForce (s : State) (k : Nat) : Nat :=
  match Table.find? s.regs.force k with
  | some v => v.toNat
  | none => s.reg k

/-- Field [hi:lo] of the value in force. -/
def State.rff (s : State) (k hi lo : Nat) : Nat := bits (s.inForce k) hi lo

/-- Take over the fields `fs` of `new` into `old`. -/
def mergeFields (fs : List FieldInfo) (old new : Nat) : Nat :=
  fs.foldl (fun v f => setBits v f.hi f.lo (bits new f.hi f.lo)) old

/-- A word that the hub computes for the register at `k`, whose reserved bits read as they stand (R11). -/
def State.withRsvd (s : State) (k v : Nat) : Nat := mergeFields (regFields (k % 2 ^ 30)) (s.reg k) v

/-- Software's write of the fields `fs` with the word `v`: the register reads `v` in them from now on, and
those whose apply point is not immediate stay in force as they were (R527, R528). -/
def putFields (k : Nat) (fs : List FieldInfo) (v : Nat) (s : State) : State :=
  let now := fs.filter (fun f => f.ap == .now)
  let force := mergeFields now (s.inForce k) v
  let val := mergeFields fs (s.reg k) v
  let s1 := setReg k val s
  { s1 with regs := { s1.regs with
      force := if force = val then Table.erase s1.regs.force k
               else Table.set s1.regs.force k (BitVec.ofNat 32 force) } }

/-- The apply point `ap` of the register at key `k` has come: the fields that wait for it take effect. -/
def applyKey (ap : Apply) (k : Nat) (s : State) : State :=
  match Table.find? s.regs.force k with
  | none => s
  | some w =>
    let fs := (regFields (k % 2 ^ 30)).filter (fun f => f.ap == ap)
    let force := mergeFields fs w.toNat (s.reg k)
    { s with regs := { s.regs with
        force := if force = s.reg k then Table.erase s.regs.force k
                 else Table.set s.regs.force k (BitVec.ofNat 32 force) } }

/-- The apply point `ap` has come for every register whose key satisfies `p`. -/
def applyAll (ap : Apply) (p : Nat → Bool) (s : State) : State :=
  forEach (s.regs.force.map (·.1)) (fun k s => if p k then applyKey ap k s else s) s

/-! ### Owners (R161, R162) and clear-on-read state (R529, R530) -/

/-- The function that owns context `c`. -/
def State.owner (s : State) (c : Nat) : Nat := s.rf (rCtxPolicy c) 7 0

/-- The context that ring `r` serves. -/
def State.ringCtx (s : State) (r : Nat) : Nat := s.rf (rRingCtrl r) 19 8

/-- The functions that hold clear-on-read state for the register at key `k`: the owner of a context's or
ring's register, the function of a register of its own view, the physical function and function f for
HIF_FN_f_STATUS, else the physical function. -/
def State.rcFns (s : State) (k : Nat) : List Nat :=
  if 2 ^ 30 ≤ k then [k / 2 ^ 30]
  else if k < 0x80000 then [s.owner (k / 128)]
  else if 0x4000000 ≤ k ∧ k < 0x5000000 then [s.owner (s.ringCtx ((k - 0x4000000) / 16))]
  else if rHifFnFStatus 1 ≤ k ∧ k ≤ rHifFnFStatus 127 then [0, (k - rHifFnFStatus 0) / 4]
  else [0]

/-- The clear-on-read contents of key `k` for function `fn`. -/
def State.rcReg (s : State) (fn k : Nat) : RcReg :=
  Table.get { val := 0, seq := 0, fieldSeq := [], latched := none } s.regs.rc (2 ^ 40 * fn + k)

/-- Those contents set. -/
def setRc (fn k : Nat) (r : RcReg) (s : State) : State :=
  { s with regs := { s.regs with rc := Table.set s.regs.rc (2 ^ 40 * fn + k) r } }

/-- An event of the field whose low bit is `lo`: the field becomes `f` of itself in every function's
contents, and each counts the event (R529, R530). -/
def rcEvent (k hi lo : Nat) (f : Nat → Nat) (s : State) : State :=
  forEach (s.rcFns k) (fun fn s =>
    let r := s.rcReg fn k
    let q := (r.seq + 1) % 2 ^ 16
    setRc fn k { r with val := setBits r.val hi lo (f (bits r.val hi lo)), seq := q,
                        fieldSeq := Table.set r.fieldSeq lo q } s) s

/-- An event sets flag `b` of the clear-on-read register at key `k`. -/
def rcFlag (k b : Nat) (s : State) : State := rcEvent k b b (fun _ => 1) s

/-- An event adds `n` to the count [hi:lo], saturating. -/
def rcCount (k hi lo n : Nat) (s : State) : State :=
  rcEvent k hi lo (fun v => min (v + n) (2 ^ (hi + 1 - lo) - 1)) s

/-- Clear-on-read field of key `k` for function `fn`. -/
def State.rcf (s : State) (fn k hi lo : Nat) : Nat := bits (s.rcReg fn k).val hi lo

/-! ### Bring-up state in registers -/

/-- BOOT_STATUS.READY. -/
def State.ready (s : State) : Bool := s.rb rBootStatus 3

/-- BOOT_STATUS.STAGE. -/
def State.stage (s : State) : Nat := s.rf rBootStatus 2 0

/-- After READY and not held in reset (R420, R469 step 5). -/
def State.running (s : State) : Bool := s.ready && !s.boot.hubHeld

/-- CFG_EPOCH. -/
def State.epoch (s : State) : Nat := s.reg rCfgEpoch

/-- Operator debug is enabled (R474). -/
def State.debugOn (s : State) : Bool := s.rb rSecDebug 0

/-! ### Keys (R451) -/

/-- A key region of `w` bits is provisioned: neither all zeros nor all ones. -/
def provisioned (w v : Nat) : Bool := v != 0 && v != 2 ^ w - 1

/-- IDK_PRIV and LMS_PRIV are provisioned. -/
def Otp.keysPresent (o : Otp) : Bool := provisioned 384 o.idkPriv && provisioned 320 o.lmsPriv

/-! ### Functions, gates and MSI-X (R404, R405, R410) -/

/-- The condition of R404 on function `f`'s DMA gate. -/
def State.gateCond (s : State) (f : Nat) : Bool :=
  let n := s.fn f
  n.bme && n.d0 && !n.flr && !s.rb rHifStatus 9 &&
    (match n.tdi with
     | .unlocked => true
     | .run => true
     | _ => false)

/-- HIF_FN_f_STATUS.GATE_OPEN. -/
def State.gateOpen (s : State) (f : Nat) : Bool := s.rb (rHifFnFStatus f) 0

/-- Why a request of function `f` cannot leave: the DETAIL of R399 for a shut gate (R401 step 2). -/
def State.gateDetail (s : State) (_f : Nat) : Nat := if s.rb rHifStatus 9 then 6 else 5

/-- The size of function `f`'s MSI-X table. -/
def vectors (f : Nat) : Nat := if f = 0 then 4096 else 64

/-- An MSI-X table entry; every entry is masked at reset. -/
def Fn.entry (n : Fn) (v : Nat) : MsixEntry := Table.get { addr := 0, data := 0, masked := true } n.msix v

/-- Nothing keeps vector `v` of function `f` from being sent. -/
def State.canSend (s : State) (f v : Nat) : Bool :=
  let n := s.fn f
  n.msixEnable && !(n.entry v).masked && !n.msixMask && s.gateOpen f

/-- An event sends vector `v` of function `f` (R410). -/
def sendVector (f v : Nat) (s : State) : State :=
  if vectors f ≤ v then rcFlag (rHifFnFStatus f) 4 s
  else if s.canSend f v then emit (.msix f v) s
  else updFn f (fun n => { n with pba := if n.pba.contains v then n.pba else n.pba ++ [v] }) s

/-- Pending vectors of function `f` that nothing holds back any longer are sent, one message each. -/
def sendPending (f : Nat) (s : State) : State :=
  forEach (s.fn f).pba (fun v s =>
    if s.canSend f v then
      emit (.msix f v) (updFn f (fun n => { n with pba := n.pba.filter (· != v) }) s)
    else s) s

/-- Function `f`'s gate takes the state that R404 gives it; when it opens, pending vectors are sent (R405). -/
def syncGate (f : Nat) (s : State) : State :=
  let was := s.gateOpen f
  let s1 := setRf (rHifFnFStatus f) 0 0 (b2n (s.gateCond f)) s
  if s1.gateOpen f && !was then sendPending f s1 else s1

/-- Every function's gate takes its state. -/
def syncGates (s : State) : State := forEach (List.range 128) syncGate s

/-! ### The floor plan (R34 to R39) -/

/-- Unit types of R37. -/
abbrev uTile : Nat := 1
/-- UNIT_TYPE of a cluster. -/
abbrev uCluster : Nat := 2
/-- UNIT_TYPE of a plaza. -/
abbrev uPlaza : Nat := 3
/-- UNIT_TYPE of a stack. -/
abbrev uStack : Nat := 4
/-- UNIT_TYPE of a site. -/
abbrev uSite : Nat := 5
/-- UNIT_TYPE of a fabric port. -/
abbrev uPort : Nat := 6
/-- UNIT_TYPE of the host port. -/
abbrev uHost : Nat := 7
/-- UNIT_TYPE of a router. -/
abbrev uRouter : Nat := 8
/-- UNIT_TYPE of a Crossing. -/
abbrev uCrossing : Nat := 9
/-- UNIT_TYPE of a partition. -/
abbrev uPartition : Nat := 10

/-- STATUS codes of R38. -/
abbrev stGood : Nat := 0
/-- STATUS DISABLED. -/
abbrev stDisabled : Nat := 1
/-- STATUS FAILED. -/
abbrev stFailed : Nat := 2
/-- STATUS DEGRADED. -/
abbrev stDegraded : Nat := 3
/-- STATUS EMPTY. -/
abbrev stEmpty : Nat := 4
/-- STATUS ABSENT. -/
abbrev stAbsent : Nat := 5
/-- STATUS ISOLATED. -/
abbrev stIsolated : Nat := 6
/-- STATUS QUARANTINE. -/
abbrev stQuarantine : Nat := 7
/-- STATUS DOWN. -/
abbrev stDown : Nat := 8

/-- The cause codes of R446 that the model gives. -/
abbrev ccNone : Nat := 0x00
/-- FUSED. -/
abbrev ccFused : Nat := 0x01
/-- SELFTEST_FAILED. -/
abbrev ccSelftest : Nat := 0x02
/-- TRAIN_FAILED. -/
abbrev ccTrain : Nat := 0x03
/-- QUAL_FAILED. -/
abbrev ccQual : Nat := 0x04
/-- NO_PEER. -/
abbrev ccNoPeer : Nat := 0x05
/-- CLUSTER_FAILED. -/
abbrev ccCluster : Nat := 0x06
/-- PARTITION_FAILED. -/
abbrev ccPartition : Nat := 0x07
/-- MODULE_RETIRED. -/
abbrev ccModule : Nat := 0x08
/-- LANE_FAILED. -/
abbrev ccLane : Nat := 0x09
/-- TARGET_DEAD. -/
abbrev ccDead : Nat := 0x10
/-- OPERATOR. -/
abbrev ccOperator : Nat := 0x11
/-- STORE_FAULT. -/
abbrev ccStore : Nat := 0x12
/-- TAG_FAULT. -/
abbrev ccTag : Nat := 0x13
/-- POWER_RETURN. -/
abbrev ccPower : Nat := 0x14
/-- PARTITION_RESET. -/
abbrev ccPartReset : Nat := 0x15
/-- REJOIN. -/
abbrev ccRejoin : Nat := 0x16
/-- CLOCK_LOST. -/
abbrev ccClock : Nat := 0x20
/-- LINK_LOST. -/
abbrev ccLink : Nat := 0x21
/-- BASE_RESET. -/
abbrev ccBaseReset : Nat := 0x22
/-- CHANNEL_LOST. -/
abbrev ccChannel : Nat := 0x23
/-- CHIPLET_RESET. -/
abbrev ccChipletReset : Nat := 0x30
/-- CHIPLET_CLOCK. -/
abbrev ccChipletClock : Nat := 0x31
/-- WIDTH_LOST. -/
abbrev ccWidth : Nat := 0x32
/-- SNOOP_TIMEOUT. -/
abbrev ccSnoop : Nat := 0x33
/-- OVERCURRENT. -/
abbrev ccOvercurrent : Nat := 0x34
/-- SIDEBAND_LOST. -/
abbrev ccSideband : Nat := 0x35
/-- CAPS_REJECTED. -/
abbrev ccCapsRejected : Nat := 0x36
/-- CAPS_CHANGED. -/
abbrev ccCapsChanged : Nat := 0x37
/-- CERT_FAILED. -/
abbrev ccCertFailed : Nat := 0x38
/-- CERT_MISSING. -/
abbrev ccCertMissing : Nat := 0x39
/-- IDENTITY_CHANGED. -/
abbrev ccIdentity : Nat := 0x3A
/-- RETRAIN_TIMEOUT. -/
abbrev ccRetrain : Nat := 0x40
/-- PORT_DISABLED. -/
abbrev ccDisabled : Nat := 0x41

/-- The key of a unit. -/
def unitKey (ty id : Nat) : Nat := ty * 256 + id

/-- A record that has not been written. -/
def UnitRec.init : UnitRec :=
  { status := 0, cause := 0, width := 0, spares := 0, errMant := 0, errExp := 0, epoch := 0 }

/-- The record of a unit. -/
def State.unit (s : State) (ty id : Nat) : UnitRec := Table.get .init s.boot.plan.units (unitKey ty id)

/-- The status of a unit: what the hub has marked it to be while its record still waits for the sweeps of the plazas
(R218 step 2, R253 step 2), else what its record says. -/
def State.status (s : State) (ty id : Nat) : Nat :=
  match Table.find? s.boot.marked (unitKey ty id) with
  | some m => m
  | none => (s.unit ty id).status

/-- GOOD or DEGRADED: in service. -/
def State.inService (s : State) (ty id : Nat) : Bool :=
  let st := s.status ty id
  st == stGood || st == stDegraded

/-- The GOOD tiles of partition `p`. -/
def State.goodTiles (s : State) (p : Nat) : Nat :=
  ((List.range 24).filter (fun i => s.status uTile (24 * p + i) == stGood)).length

/-- The registers that repeat the report for partitions: PART_p_STATUS (R448). -/
def syncStatus (s : State) : State :=
  forEach (List.range 3) (fun p s =>
    let st := s.status uPartition p
    setRf (rPartPStatus p) 6 2 (s.goodTiles p)
      (setRf (rPartPStatus p) 1 0 (if st = stQuarantine then 1 else if st = stFailed then 2 else 0) s)) s

/-- The register that repeats the report for one unit: PLZ_n_STATUS.STATE (R260), STK_STATUS.STATE and
MODULES (R223), SITE_n_STATUS.STATE (R328). -/
def syncUnit (key : Nat) (s : State) : State :=
  let ty := key / 256
  let id := key % 256
  let st := s.status ty id
  if ty = uPlaza then setRf (rPlzNStatus id) 1 0 (b2n (st == stFailed)) s
  else if ty = uStack then
    setRf (rStkStatus id) 9 3 (if st = stIsolated then 0 else 64 - (s.stack id).retired.length)
      (setRf (rStkStatus id) 2 0 (if st = stDegraded then 1 else if st = stIsolated then 2
        else if st = stQuarantine then 3 else 0) s)
  else if ty = uSite then
    setRf (rSiteNStatus id) 2 0 (if st = stDegraded then 1 else if st = stEmpty then 2
      else if st = stAbsent then 3 else if st = stQuarantine then 4 else 0) s
  else s

/-- One group of record changes: the records are rewritten and, after S6, REVISION rises by one if any of
them changed (R39). -/
def rewriteUnits (ch : List (Nat × (UnitRec → UnitRec))) (s : State) : State :=
  let p := s.boot.plan
  let us := forEach ch (fun c us => Table.set us c.1 (c.2 (Table.get .init us c.1))) p.units
  let changed := ch.any (fun c => Table.get .init us c.1 != Table.get .init p.units c.1)
  let p' : Plan :=
    if s.ready && changed then { units := us, rev := (p.rev + 1) % 2 ^ 32, epoch := s.epoch }
    else { p with units := us }
  syncStatus (forEach (ch.map (·.1)) syncUnit { s with boot := { s.boot with plan := p' } })

/-- What the record of a unit says is in force for the unit. -/
def unmark (key : Nat) (s : State) : State :=
  { s with boot := { s.boot with marked := Table.erase s.boot.marked key } }

/-- The hub marks a unit out of service, ahead of its record (R218 step 2, R253 step 2). -/
def markUnit (ty id st : Nat) (s : State) : State :=
  syncUnit (unitKey ty id)
    { s with boot := { s.boot with marked := Table.set s.boot.marked (unitKey ty id) st } }

/-- One unit takes a status and a cause. -/
def setStatus (ty id st cause : Nat) (s : State) : State :=
  rewriteUnits [(unitKey ty id, fun u => { u with status := st, cause := cause })] (unmark (unitKey ty id) s)

/-- The record of a unit that the hub has marked says so from now on, with its cause (R218 step 4, R253 step 5); a rejoin
that has begun since stands. -/
def recordMarked (ty id cause : Nat) (s : State) : State :=
  match Table.find? s.boot.marked (unitKey ty id) with
  | some m => setStatus ty id m cause s
  | none => s

/-- CFG_EPOCH raised by one, wrapping to 1 (R432). -/
def bumpEpoch (s : State) : State :=
  setReg rCfgEpoch (if s.epoch = 2 ^ 32 - 1 then 1 else s.epoch + 1) s

/-- Units enter QUARANTINE together: CFG_EPOCH rises by one, their records change in one revision, their
entries in the tables of R339 become NONE, and the steps of R435 start from the first (R432, R433, R436,
R438 step 1); `f` is what else of the records changes with it. -/
def enterQuarWith (us : List (Nat × Nat)) (cause : Nat) (f : UnitRec → UnitRec) (s : State) : State :=
  let s1 := rewriteUnits (us.map (fun u =>
    (unitKey u.1 u.2, fun r => { f r with status := stQuarantine, cause := cause })))
    (forEach us (fun u s => unmark (unitKey u.1 u.2) s) (bumpEpoch s))
  { s1 with
    boot := { s1.boot with quar := us.foldl (fun q u =>
      Table.set q (unitKey u.1 u.2) { epoch := s1.epoch, step := 0, cause := cause }) s1.boot.quar },
    net := { s1.net with
      tags := us.foldl (fun q u => Table.erase q (unitKey u.1 u.2)) s1.net.tags,
      markers := us.foldl (fun q u => Table.erase q (unitKey u.1 u.2)) s1.net.markers } }

/-- The unit answers again: its attachments are no longer isolated as dead (R343). -/
def unisolate (ty id : Nat) (s : State) : State :=
  { s with net := { s.net with isolated := s.net.isolated.filter (fun e => e.2 != unitKey ty id) } }

/-- Units enter QUARANTINE, nothing else of their records changing. -/
def enterQuar (us : List (Nat × Nat)) (cause : Nat) (s : State) : State := enterQuarWith us cause (fun r => r) s

/-- The shadow takes a value written to a register of a unit in QUARANTINE (R434). -/
def toShadow (off v : Nat) (s : State) : State :=
  { s with boot := { s.boot with shadow := Table.set s.boot.shadow off (BitVec.ofNat 32 v) } }

/-- The partition of a tile. -/
def tilePart (t : Nat) : Nat := t / 24
/-- The cluster of a tile. -/
def tileCluster (t : Nat) : Nat := t / 4
/-- The partition of a cluster. -/
def clusterPart (c : Nat) : Nat := c / 6
/-- The partition of a site. -/
def sitePart (n : Nat) : Nat := n / 2
/-- The partition of a fabric port. -/
def portPart (n : Nat) : Nat := if n < 8 then 0 else 2
/-- The partition of a stack by identity: N0 to N5 are 0 to 5, S0 to S5 6 to 11 (R15, R24). -/
def stackPart (k : Nat) : Nat := k % 6 / 2
/-- The stack above cluster `c` (R22). -/
def clusterStack (c : Nat) : Nat :=
  let p := c / 6
  match c % 6 with
  | 0 => 6 + 2 * p
  | 1 => 6 + 2 * p
  | 2 => 6 + 2 * p + 1
  | 3 => 2 * p
  | 4 => 2 * p
  | _ => 2 * p + 1
/-- The clusters beneath stack `k` (R22). -/
def stackClusters (k : Nat) : List Nat := (List.range 18).filter (fun c => clusterStack c == k)

/-- The logical number of a tile, if one is assigned (R25). `Boot.tilesAt` lists the physical tile of each
logical number. -/
def State.logicalOf? (s : State) (t : Nat) : Option Nat := s.boot.tilesAt.findIdx? (· == t)

/-- The physical tile of a logical number. -/
def State.tileAt? (s : State) (l : Nat) : Option Nat := s.boot.tilesAt[l]?

/-! ### Power states (R482) -/

/-- The power of a unit. -/
def State.pwrUnit (s : State) (ty id : Nat) : PUnit := Table.get .init s.pwr.units (unitKey ty id)

/-- The effective power state of a unit: 0 ON, 1 IDLE, 2 RETAIN, 3 OFF. -/
def State.effPower (s : State) (ty id : Nat) : Nat :=
  let own := (s.pwrUnit ty id).now
  if ty = uTile then
    max own (max (s.pwrUnit uCluster (tileCluster id)).now (s.pwrUnit uPartition (tilePart id)).now)
  else if ty = uCluster then max own (s.pwrUnit uPartition (clusterPart id)).now
  else own

/-! ### Counting events (R506 to R512) -/

/-- Events of kind C, filtered by context (R509). -/
def eventC (e : Nat) : Bool :=
  [1, 2, 3, 5, 7, 8, 4, 6, 9, 10, 11, 12, 13, 14, 0x22, 0x23, 0x24, 0x30, 0x31, 0x32, 0x37, 0x40, 0x41].contains e

/-- Events of kind K, filtered by class. -/
def eventK (e : Nat) : Bool := decide (0xA0 ≤ e) && decide (e ≤ 0xA3)

/-- Block indices (R505). -/
def blkTile (t : Nat) : Nat := t
/-- The block of a cluster. -/
def blkCluster (c : Nat) : Nat := 72 + c
/-- The block of a plaza. -/
def blkPlaza (p : Nat) : Nat := 90 + p
/-- The block of a stack's memory controller. -/
def blkStack (k : Nat) : Nat := 126 + k
/-- The block of a site interface. -/
def blkSite (n : Nat) : Nat := 138 + n
/-- The block of a fabric port. -/
def blkPort (n : Nat) : Nat := 144 + n
/-- The block of the host port. -/
def blkHost : Nat := 160
/-- The block of a router. -/
def blkRouter (r : Nat) : Nat := 161 + r

/-- Counter `i` of block `b` (8 is the cycle counter). -/
def State.counter (s : State) (b i : Nat) : Nat := Table.get 0 s.cnt.val (b * 16 + i)

/-- Counter `i` of block `b` raised by `n`; a wrap is noted for COUNTER_WRAP (R506, R512). -/
def bumpCounter (b i n : Nat) (s : State) : State :=
  let v := s.counter b i + n
  { s with cnt := { s.cnt with
      val := Table.set s.cnt.val (b * 16 + i) (v % 2 ^ 48),
      wraps := if 2 ^ 48 ≤ v then s.cnt.wraps ++ [(b, i)] else s.cnt.wraps } }

/-- The counters of block `b` whose selection has ever been written; the others count nothing (EVENT 0x00). -/
def State.selected (s : State) (b : Nat) : List Nat :=
  s.regs.val.filterMap (fun e =>
    if rCntBSelI b 0 ≤ e.1 ∧ e.1 ≤ rCntBSelI b 7 ∧ (e.1 - rCntBSelI b 0) % 4 = 0 then
      some ((e.1 - rCntBSelI b 0) / 4)
    else none)

/-- Does the selection word `sel` count event `ev` with the given context, class, port and network (R510)? -/
def selects (sel ev : Nat) (ctx cls : Option Nat) (pv : Option (Nat × Nat)) : Bool :=
  bits sel 7 0 == ev && ev != 0 &&
  (match pv with
   | none => true
   | some (p, v) => bits sel 23 21 == p && (bits sel 26 24 == v || bits sel 26 24 == 5)) &&
  (!bit sel 8 ||
    (if eventC ev then ctx == some (bits sel 20 9)
     else if eventK ev then cls == some (bits sel 12 9)
     else false))

/-- `n` occurrences of event `ev` in block `b` (R506, R510); `pv` is the port and network of an event of kind
Q. -/
def countEvent (b ev : Nat) (ctx cls : Option Nat) (pv : Option (Nat × Nat)) (n : Nat) (s : State) : State :=
  if !s.rb rCntCtrl 0 then s
  else forEach (s.selected b) (fun i s =>
    if selects (s.rff (rCntBSelI b i) 26 0) ev ctx cls pv then bumpCounter b i n s else s) s

/-- `n` 64-byte units pass bandwidth port `p` of block `b` (R515). -/
def countUnits (b p n : Nat) (s : State) : State :=
  { s with cnt := { s.cnt with bw := Table.set s.cnt.bw (b * 4 + p) (Table.get 0 s.cnt.bw (b * 4 + p) + n) } }

end Sys2Proof.Machine
end

