-- ==== Sys2Proof/Machine/Memory.lean ====
section
/-!
DEFINITION. Stacked memory and its homes: the device physical address map (R196, R197, R262), shared
regions (R204 to R209), the reads and writes of a memory controller (R194, R200, R201, R207), and what a
plaza does with one line on its own (R229, R238, R246). A record raised on the way goes through the `raise`
argument, so that the ring writes of the records themselves can use the same operations.
-/
namespace Sys2Proof.Machine

/-- How a record is raised: code, kept or not, and the words of its detail (R292). -/
abbrev Raise := Nat → Bool → List Nat → State → State

/-- The two words of an address, low word first (R292). -/
def words2 (a : Nat) : List Nat := [a % 2 ^ 32, a / 2 ^ 32 % 2 ^ 32]

/-- A write hint that is not reserved (R246). -/
def hintKnown (h : Nat) : Bool := decide (h ≤ 2 ∨ (8 ≤ h ∧ h ≤ 13))

/-! ### The address map (R196, R197, R226, R262) -/

/-- Index i of local_stack (R197). -/
def localStack (p i : Nat) : Nat :=
  match i with
  | 0 => 2 * p
  | 1 => 2 * p + 1
  | 2 => 2 * p + 6
  | _ => 2 * p + 7

/-- hbm_map of R197; alias 0 is GLOBAL, alias p + 1 is LOCAL of partition p. -/
def hbmMap (al o : Nat) : Nat × Nat :=
  let q := o / 2048
  let n := if al = 0 then 12 else 4
  let i := q % n
  (if al = 0 then i else localStack (al - 1) i, q / n * 2048 + o % 2048)

/-- The base and size of an alias (R262). -/
def aliasBase (al : Nat) : Nat := if al = 0 then 0 else 0x10000000000 + 0x4000000000 * (al - 1)
/-- The size of an alias. -/
def aliasSize (al : Nat) : Nat := if al = 0 then 0xC000000000 else 0x4000000000

/-- The alias a device physical address lies in, with the offset in it. -/
def aliasOf? (pa : Nat) : Option (Nat × Nat) :=
  if pa < 0xC000000000 then some (0, pa)
  else if 0x10000000000 ≤ pa ∧ pa < 0x1C000000000 then
    some ((pa - 0x10000000000) / 0x4000000000 + 1, (pa - 0x10000000000) % 0x4000000000)
  else none

/-- The offset of stack address `a` of stack `k` in an alias, if the alias covers the stack. -/
def aliasOffset? (al k a : Nat) : Option Nat :=
  if al = 0 then some ((a / 2048 * 12 + k) * 2048 + a % 2048)
  else if stackPart k = al - 1 then
    some ((a / 2048 * 4 + (if k < 6 then k % 2 else 2 + k % 2)) * 2048 + a % 2048)
  else none

/-- Where a device physical address leads (R262). -/
def paTarget (pa : Nat) : Tgt :=
  match aliasOf? pa with
  | some (al, o) => let m := hbmMap al o; .stacked m.1 m.2
  | none =>
    if 0x20000000000 ≤ pa ∧ pa < 0x20000000000 + 6 * 2 ^ 40 then
      .site ((pa - 0x20000000000) / 2 ^ 40) ((pa - 0x20000000000) % 2 ^ 40)
    else if 0x4000000000000 ≤ pa ∧ pa < 0x4000000000000 + 1024 * 2 ^ 40 then
      .host ((pa - 0x4000000000000) / 2 ^ 40) ((pa - 0x4000000000000) % 2 ^ 40)
    else .unassigned pa

/-- The device physical address of a target of the map; stacked memory by its GLOBAL alias. -/
def targetPa : Tgt → Nat
  | .stacked k a => (aliasOffset? 0 k a).getD 0
  | .site n o => 0x20000000000 + 2 ^ 40 * n + o
  | .host n o => 0x4000000000000 + 2 ^ 40 * n + o
  | .remote _ _ o => o
  | .unassigned pa => pa

/-- The key of a byte of a stack. -/
def byteKey (k a : Nat) : Nat := 2 ^ 36 * k + a
/-- The key of a unit. -/
def unitKeyOf (k a : Nat) : Nat := 2 ^ 30 * k + a / 64
/-- The key of a line. -/
def lineKey (k a : Nat) : Nat := 2 ^ 29 * k + a / 128
/-- The stack of a line key. -/
def lineStack (lk : Nat) : Nat := lk / 2 ^ 29
/-- The stack address of a line key. -/
def lineAddr (lk : Nat) : Nat := lk % 2 ^ 29 * 128

/-- home_slot of R226. -/
def homeSlot (k a : Nat) : Nat :=
  let p := stackPart k
  let i := if k < 6 then k % 2 else 2 + k % 2
  let l := a / 128
  12 * p + ((l ^^^ (l / 2 ^ 11) ^^^ (l / 2 ^ 22)) + 3 * i) % 12

/-- The plaza that serves a line's slot (R227). -/
def State.homePlaza (s : State) (lk : Nat) : Nat :=
  s.rf (rPlzNStatus (homeSlot (lineStack lk) (lineAddr lk))) 7 2

/-- The home of the line is FAILED since READY, so every request to it is absorbed (R258). -/
def State.homeDead (s : State) (lk : Nat) : Bool := s.status uPlaza (s.homePlaza lk) == stFailed

/-- The port module that carries a unit (R198). -/
def moduleOf (a : Nat) : Nat := 2 * ((a / 2 ^ 12 % 32) ^^^ (a / 2 ^ 17 % 32)) + a / 2 ^ 11 % 2

/-- The module that carries a unit of stack `k` now: the sibling of a retired module carries both pseudo-channels
(R198, R213). -/
def State.moduleFor (s : State) (k a : Nat) : Nat :=
  if (s.stack k).retired.contains (moduleOf a) then moduleOf a ^^^ 1 else moduleOf a

/-- The controller issues to the module of an address: no trip has stopped it, and the module is not being
retrained (R212 step 2, R501). -/
def State.issues (s : State) (k a : Nat) : Bool :=
  !s.rb rPwrTrip 0 && !(s.stack k).retraining.contains (s.moduleFor k a)

/-! ### Shared regions (R204 to R210) -/

/-- The base of region `n`. -/
def State.srtBase (s : State) (n : Nat) : Nat :=
  2 ^ 32 * s.rf (rSrtNBaseHi n) 19 0 + 2 ^ 16 * s.rf (rSrtNBaseLo n) 31 16
/-- The mirror's base of region `n`. -/
def State.srtMirror (s : State) (n : Nat) : Nat :=
  2 ^ 32 * s.rf (rSrtNMirrorHi n) 19 0 + 2 ^ 16 * s.rf (rSrtNMirrorLo n) 31 16
/-- The size of region `n` in bytes. -/
def State.srtSize (s : State) (n : Nat) : Nat := 65536 * s.rf (rSrtNPages n) 23 0
/-- Region `n` is VALID and passed its checks. -/
def State.srtActive (s : State) (n : Nat) : Bool := s.rb (rSrtNStatus n) 0
/-- Region `n` is MIRRORED. -/
def State.srtMirrored (s : State) (n : Nat) : Bool := s.rb (rSrtNCtrl n) 1

/-- The VALID regions, by index. A region is VALID only after a write, so only listed registers count. -/
def State.regions (s : State) : List Nat :=
  s.regs.val.filterMap (fun e =>
    if rSrtNStatus 0 ≤ e.1 ∧ e.1 ≤ rSrtNStatus 255 ∧ (e.1 - rSrtNStatus 0) % 64 = 0 ∧ bit e.2.toNat 0 then
      some ((e.1 - rSrtNStatus 0) / 64)
    else none)

/-- The offset of a stack location in the range of `size` bytes at `base`, if it lies there. -/
def rangeOffset? (base size k a : Nat) : Option Nat :=
  match aliasOf? base with
  | none => none
  | some (al, o) =>
    match aliasOffset? al k a with
    | none => none
    | some x => if o ≤ x ∧ x < o + size then some (x - o) else none

/-- The VALID region whose primary holds a stack location, with the offset in it. -/
def State.regionOf? (s : State) (k a : Nat) : Option (Nat × Nat) :=
  (s.regions.filterMap (fun n => (rangeOffset? (s.srtBase n) (s.srtSize n) k a).map (fun o => (n, o)))).head?

/-- The VALID mirrored region one of whose copies holds a stack location, with the location of the other
copy. -/
def State.otherCopy? (s : State) (k a : Nat) : Option (Nat × Nat × Nat) :=
  (s.regions.filterMap (fun n =>
    if s.srtMirrored n then
      match rangeOffset? (s.srtBase n) (s.srtSize n) k a with
      | some o =>
        match paTarget (s.srtMirror n + o) with
        | .stacked k' a' => some (n, k', a')
        | _ => none
      | none =>
        match rangeOffset? (s.srtMirror n) (s.srtSize n) k a with
        | some o =>
          match paTarget (s.srtBase n + o) with
          | .stacked k' a' => some (n, k', a')
          | _ => none
        | none => none
    else none)).head?

/-- The mirror location of a unit in the primary of a VALID mirrored region (R206, R207). -/
def State.mirrorOf? (s : State) (k a : Nat) : Option (Nat × Nat × Nat) :=
  match s.regionOf? k a with
  | none => none
  | some (n, o) =>
    if s.srtMirrored n then
      match paTarget (s.srtMirror n + o) with
      | .stacked k' a' => some (n, k', a')
      | _ => none
    else none

/-- MEMORY_POISON of R183. -/
abbrev cMemoryPoison : Nat := 0x21
/-- SHARED_POISON. -/
abbrev cSharedPoison : Nat := 0x22
/-- TARGET_ABSENT. -/
abbrev cTargetAbsent : Nat := 0x23

/-- The mark of a unit of a stack, by its source (R201). -/
def State.markFor (s : State) (k a source : Nat) : Mark :=
  match s.regionOf? k a with
  | some (n, _) => { cause := cSharedPoison, detail := n }
  | none => { cause := cMemoryPoison, detail := source * 16 + k }

/-- The mark of a dead target (R341). -/
def absentMark : Mark := { cause := cTargetAbsent, detail := 0 }

/-- The current copy of a unit of a VALID region's primary has gained or lost its poison mark: POISON_UNITS
and POISONED follow, and the region's records are raised (R208, R209). -/
def noteMark (raise : Raise) (k a : Nat) (was is : Bool) (s : State) : State :=
  match s.regionOf? k a with
  | none => s
  | some (n, _) =>
    let u := s.reg (rSrtNPoisonUnits n)
    if is && !was then
      let s1 := setRf (rSrtNStatus n) 1 1 1 (setReg (rSrtNPoisonUnits n) (min (u + 1) (2 ^ 32 - 1)) s)
      if s.rb (rSrtNStatus n) 1 then s1 else raise 0x0203 true [n] s1
    else if was && !is then
      if u = 0 then s
      else
        let s1 := setReg (rSrtNPoisonUnits n) (u - 1) s
        if u = 1 then raise 0x0204 true [n] (setRf (rSrtNStatus n) 1 1 0 s1) else s1
    else s

/-! ### Lines as a plaza holds them (R229) -/

/-- A line the plaza does not hold. -/
def PLine.init : PLine :=
  { v0 := false, v1 := false, d0 := false, d1 := false, sharedOut := false, keep := false, u0 := 0, u1 := 0,
    m0 := none, m1 := none }

/-- The plaza's entry of a line. -/
def State.pline (s : State) (lk : Nat) : PLine := Table.get .init s.plz.lines lk

/-- Unit `u` of the line as the plaza holds it, if it is VALID. -/
def PLine.unit? (l : PLine) (u : Nat) : Option (UnitData × Option Mark) :=
  if u = 0 then (if l.v0 then some (l.u0, l.m0) else none) else (if l.v1 then some (l.u1, l.m1) else none)

/-! ### The memory controllers (R194 to R207, R211) -/

/-- Why a stack's units read as poison: 2 while ISOLATED or in QUARANTINE, 3 while not ON (R201, R218, R221). -/
def State.stackOut? (s : State) (k : Nat) : Option Nat :=
  let st := s.status uStack k
  if st = stIsolated ∨ st = stQuarantine then some 2
  else if (Table.get .init s.pwr.units (unitKey uStack k)).now ≠ 0 then some 3
  else none

/-- An access to a stack that is not ON: one STACK_NOT_ON record in each period out of ON (R221). -/
def noteNotOn (raise : Raise) (k source : Nat) (s : State) : State :=
  if source = 3 && !(s.stack k).notOnRaised then
    raise 0x020C false [k] (updStack k (fun x => { x with notOnRaised := true }) s)
  else s

/-- The 64 bytes of a unit as DRAM holds them. -/
def State.dramUnit (s : State) (k a : Nat) : UnitData :=
  BitVec.ofNat 512 (Mem.readNat s.dram.bytes (byteKey k (a / 64 * 64)) 64)

/-- The unit still holds the poison its stack was filled with (R220 step 3): it has not been written since, and
lies in no copy that was brought back. -/
def State.stillFilled (s : State) (k a : Nat) : Bool :=
  (s.stack k).filled && (Table.find? s.dram.good (unitKeyOf k a)).isNone &&
    !(s.stack k).restored.any (fun r => (rangeOffset? r.1 r.2 k a).isSome)

/-- The mark with which a unit was filled: that of the shared region that was VALID there then, else source 2 (R201,
R220 step 3). -/
def State.fillMark (s : State) (k a : Nat) : Mark :=
  match (s.stack k).fillMarks.find? (fun r => (rangeOffset? r.2.1 r.2.2 k a).isSome) with
  | some r => { cause := cSharedPoison, detail := r.1 }
  | none => { cause := cMemoryPoison, detail := 2 * 16 + k }

/-- The mark DRAM holds for a unit. -/
def State.dramMark (s : State) (k a : Nat) : Option Mark :=
  match Table.find? s.dram.marks (unitKeyOf k a) with
  | some m => some m
  | none => if s.stillFilled k a then some (s.fillMark k a) else none

/-- The unit is poisoned: in its plaza, or as DRAM stores it (R208, R209). -/
def State.poisoned (s : State) (k a : Nat) : Bool :=
  (s.dramMark k a).isSome ||
    (match (s.pline (lineKey k a)).unit? (a / 64 % 2) with
     | some r => r.2.isSome
     | none => false)

/-- A change of one unit, with what it does to the shared region it lies in (R208, R209). -/
def tracked (raise : Raise) (k a : Nat) (f : State → State) (s : State) : State :=
  noteMark raise k a (s.poisoned k a) ((f s).poisoned k a) (f s)

/-- The device memory key (R202, R451). -/
def State.memKey (s : State) : Nat :=
  match s.sec.volatileKey with
  | some i => (Config.volatileKey i).toNat
  | none => s.sec.otp.memKey

/-- The word of a mark, cause first. -/
def markWord (m : Mark) : Nat := m.cause + 2 ^ 16 * m.detail
/-- The mark of a word. -/
def wordMark (w : Nat) : Mark := { cause := w % 2 ^ 16, detail := w / 2 ^ 16 % 2 ^ 16 }

/-- A unit as it is stored with a mark: the mark stands in bytes 0 to 3 (R201). -/
def withMark (d : UnitData) (m : Option Mark) : UnitData :=
  match m with
  | some x => BitVec.ofNat 512 (setBits d.toNat 31 0 (markWord x))
  | none => d

/-- What the hub sends over the bonds to store a unit: the ciphertext under the unit's tweak and its check symbols (R199,
R201, R202). -/
def State.codeword (s : State) (k a : Nat) (d : UnitData) (m : Option Mark) : Codeword :=
  codewordOf (xtsUnit s.memKey (byteKey k a / 64) (withMark d m)) m.isSome

/-- The codeword that the cells of a unit hold. -/
def State.cells (s : State) (k a : Nat) : Codeword := s.codeword k a (s.dramUnit k a) (s.dramMark k a)

/-- A unit stored in DRAM with its mark, or with good check symbols. -/
def putDram (k a : Nat) (d : UnitData) (m : Option Mark) (s : State) : State :=
  let c := s.codeword k a d m
  emit (.unit k (a / 64 * 64) c.data c.check)
    { s with dram :=
      { bytes := Mem.writeNat s.dram.bytes (byteKey k (a / 64 * 64)) 64 (withMark d m).toNat,
        marks := match m with
          | some x => Table.set s.dram.marks (unitKeyOf k a) x
          | none => Table.erase s.dram.marks (unitKeyOf k a),
        good := if (s.stack k).filled then Table.set s.dram.good (unitKeyOf k a) 1 else s.dram.good } }

/-- A unit whose whole contents have been written good in its plaza: the mark that DRAM held is of no account any more
(R209). -/
def clearMark (k a : Nat) (s : State) : State :=
  { s with dram := { s.dram with
      marks := Table.erase s.dram.marks (unitKeyOf k a),
      good := if (s.stack k).filled then Table.set s.dram.good (unitKeyOf k a) 1 else s.dram.good } }

/-- Corrected symbols of one unit are counted to their bonds; a bond becomes failing at the threshold, or
when its symbol is corrected in 16 consecutive units of its module, and a retrain of the module is scheduled
(R211, R212 step 1). -/
def countBonds (k a : Nat) (symbols : List Nat) (s : State) : State :=
  let m := s.moduleFor k a
  let st := s.stack k
  let keep := st.bondRun.filter (fun e => e.1 / 128 != m || symbols.contains (e.1 % 128))
  let st1 := { st with bondRun := keep }
  let st2 := symbols.foldl (fun (x : Stack) j =>
    let b := m * 128 + j
    let c := Table.get 0 x.bondCount b + 1
    let r := Table.get 0 x.bondRun b + 1
    let bad := decide (s.rf rMemCtrl 24 17 ≤ c) || decide (16 ≤ r)
    { x with bondCount := Table.set x.bondCount b c, bondRun := Table.set x.bondRun b r,
             failing := if bad && !x.failing.contains b then x.failing ++ [b] else x.failing,
             retrainDue := if bad && !x.failing.contains b && !x.retrainDue.contains m
                           then x.retrainDue ++ [m] else x.retrainDue }) st1
  countEvent (blkStack k) 0x42 none none none symbols.length (updStack k (fun _ => st2) s)

/-- An uncorrectable unit is stored as poison (R200, R201, R208). -/
def convertPoison (raise : Raise) (k a source : Nat) (s : State) : Mark × State :=
  let m := s.markFor k a source
  let s1 := tracked raise k a (putDram k a (s.dramUnit k a) (some m)) s
  (m, if m.cause = cSharedPoison then s1 else raise 0x0201 false ([k] ++ words2 (a / 64 * 64) ++ [source]) s1)

/-- A unit as DRAM holds it, with its mark. -/
def State.stored (s : State) (k a : Nat) : UnitData × Option Mark := (s.dramUnit k a, s.dramMark k a)

/-- A read of one unit of a stack in service as DRAM and its link answer it (R200), without the healing of R207; `ev` is
the outcome of the read. -/
def readUnit (raise : Raise) (k a : Nat) (ev : EccOutcome) (s : State) : (UnitData × Option Mark) × State :=
  match ev with
  | .clean => (s.stored k a, countBonds k a [] s)
  | .corrected l => (s.stored k a, countBonds k a l s)
  | .linkRetry n l => (s.stored k a, countEvent (blkStack k) 0x43 none none none n (countBonds k a l s))
  | .dramUncorrectable => let r := convertPoison raise k a 0 (countBonds k a [] s); ((s.dramUnit k a, some r.1), r.2)
  | .lineUncorrectable =>
    let r := convertPoison raise k a 1 (countEvent (blkStack k) 0x43 none none none 2 (countBonds k a [] s))
    ((s.dramUnit k a, some r.1), r.2)

/-- The mark with which a mirrored unit of a stack out of service completes where the other copy's stack is not in service
either, or is not ON (R218, R221). -/
def State.copyMark (s : State) (k a k' a' src : Nat) : Mark :=
  if src = 2 || (s.regionOf? k a).isSome then s.markFor k a src else s.markFor k' a' src

/-- A read of a unit of a stack that is out of service or not ON (R218, R219, R221): a mirrored unit of a lost stack comes
from the other copy, out of its plaza or by `look` from its memory. -/
def readOut (raise : Raise) (k a src : Nat) (look : Nat → Nat → State → (UnitData × Option Mark) × State) (s : State) :
    (UnitData × Option Mark) × State :=
  match (if src = 2 then s.otherCopy? k a else none) with
  | some (_, k', a') =>
    match s.stackOut? k' with
    | some src' => ((0, some (s.copyMark k a k' a' src')), noteNotOn raise k' src' s)
    | none =>
      match (s.pline (lineKey k' a')).unit? (a' / 64 % 2) with
      | some r => (r, s)
      | none => look k' a' s
  | none => ((0, some (s.markFor k a src)), noteNotOn raise k src s)

/-- What the home finds in memory, as the memory controllers' reads have left it (R236). -/
def memLook (raise : Raise) (k a : Nat) (s : State) : (UnitData × Option Mark) × State :=
  match s.stackOut? k with
  | some src => readOut raise k a src (fun k' a' s => (s.stored k' a', s)) s
  | none => (s.stored k a, s)

/-- An uncorrectable unit of a mirrored primary is written again with the mirror's data (R207 steps 4 and 5). -/
def healUnit (raise : Raise) (n k a : Nat) (d : UnitData) (s : State) : State :=
  let s1 := tracked raise k a (putDram k a d none) s
  raise 0x0202 false ([n, k] ++ words2 (a / 64 * 64)) (countEvent (blkStack k) 0x45 none none none 1
    (setReg (rSrtNHeals n) (min (s1.reg (rSrtNHeals n) + 1) (2 ^ 32 - 1)) s1))

/-- An outcome of R200 after which the unit is uncorrectable. -/
def eccBad : EccOutcome → Bool
  | .dramUncorrectable => true
  | .lineUncorrectable => true
  | _ => false

/-- A read of one unit by its memory controller (R200). `ev` is the outcome of the read, `ev2` that of the
mirror's, should it be read. Mirrored units of a stack out of service come from the other copy (R219), and
an uncorrectable mirrored unit is healed (R207). -/
def memRead (raise : Raise) (k a : Nat) (ev ev2 : EccOutcome) (s : State) :
    (UnitData × Option Mark) × State :=
  match s.stackOut? k with
  | some src => readOut raise k a src (fun k' a' => readUnit raise k' a' ev) s
  | none =>
    match (if eccBad ev then s.mirrorOf? k a else none) with
    | some (n, k', a') =>
      if (s.stackOut? k').isSome then readUnit raise k a ev s
      else
        let r := readUnit raise k' a' ev2 s
        match r.1.2 with
        | none => ((r.1.1, none), healUnit raise n k a r.1.1 r.2)
        | some _ => readUnit raise k a ev r.2
    | none => readUnit raise k a ev s

/-- A write to a stack out of service is dropped and counted (R218, R221). -/
def dropWrite (raise : Raise) (k src : Nat) (s : State) : State :=
  noteNotOn raise k src (updStack k (fun x => { x with droppedWrites := x.droppedWrites + 1 }) s)

/-- A write of one whole unit by its memory controller (R194); `symbols` are the positions the base reports
as corrected (R199). -/
def memWrite (raise : Raise) (k a : Nat) (d : UnitData) (m : Option Mark) (symbols : List Nat) (s : State) :
    State :=
  match s.stackOut? k with
  | some src => dropWrite raise k src s
  | none =>
    tracked raise k a (putDram k a d m) (countUnits (blkStack k) 1 1 (countEvent (blkStack k) 0x41 none none none 1
      (countBonds k a symbols s)))

/-- A request put into the retry buffer of its stack (R212 step 2). -/
def holdMem (k : Nat) (h : HeldMem) (s : State) : State := updStack k (fun x => { x with retry := x.retry ++ [h] }) s

/-- A write of a unit that the hub makes of its own. The symbols of its write status are free values (R199). While the
controller does not issue to the unit's module, the retry buffer holds it (R212). -/
def hubWrite (raise : Raise) (k a : Nat) (d : UnitData) (m : Option Mark) (s : State) : State :=
  if (s.stackOut? k).isNone && !s.issues k a then holdMem k (.write (a / 64) d m) s
  else
    let st := Config.writeStatus s.free
    let l := (st.1.map (·.val)).toList ++ (st.2.map (·.val)).toList
    memWrite raise k a d m l { s with free := s.free + 1 }

/-- The home's copy of the unit, or a memory controller that issues to its module: the home need not wait for the unit
(R212, R501). -/
def State.memReady (s : State) (k a : Nat) : Bool :=
  (s.stackOut? k).isSome || ((s.pline (lineKey k a)).unit? (a / 64 % 2)).isSome || s.issues k a

/-! ### One line in its plaza (R229, R238, R246) -/

/-- The plaza holds some unit of the line. -/
def PLine.held (l : PLine) : Bool := l.v0 || l.v1

/-- The entry set; an entry that says nothing is not kept. -/
def setPline (lk : Nat) (l : PLine) (s : State) : State :=
  { s with plz := { s.plz with
      lines := if l = .init then Table.erase s.plz.lines lk else Table.set s.plz.lines lk l } }

/-- The site that owns a line (R229). -/
def State.ownerSite? (s : State) (lk : Nat) : Option Nat := (Table.find? s.plz.owners lk).map (·.site)

/-- Unit `u` set to data and mark, VALID, DIRTY as given. -/
def PLine.put (l : PLine) (u : Nat) (d : UnitData) (m : Option Mark) (dirty : Bool) : PLine :=
  if u = 0 then { l with v0 := true, d0 := dirty, u0 := d, m0 := m }
  else { l with v1 := true, d1 := dirty, u1 := d, m1 := m }

/-- Unit `u` is DIRTY. -/
def PLine.dirty (l : PLine) (u : Nat) : Bool := if u = 0 then l.d0 else l.d1

/-- Unit `u` of a line of data. -/
def lineUnit (d : LineData) (u : Nat) : UnitData := BitVec.ofNat 512 (d.toNat / 2 ^ (512 * u))

/-- A line of data from its two units. -/
def joinUnits (d0 d1 : UnitData) : LineData := BitVec.ofNat 1024 (d0.toNat + 2 ^ 512 * d1.toNat)

/-- The home's read of one unit of a line that no site owns: the plaza's copy, or the memory controller's
(R236). -/
def homeUnit (raise : Raise) (lk u : Nat) (s : State) : (UnitData × Option Mark) × State :=
  match (s.pline lk).unit? u with
  | some r => (r, s)
  | none => memLook raise (lineStack lk) (lineAddr lk + 64 * u) s

/-- Both units of the line read, the line allocated CLEAN where it was not held (R236, RD_SHARED). -/
def allocLine (raise : Raise) (lk : Nat) (s : State) : State :=
  forEach [0, 1] (fun u s =>
    match (s.pline lk).unit? u with
    | some _ => s
    | none =>
      let r := memLook raise (lineStack lk) (lineAddr lk + 64 * u) s
      setPline lk ((r.2.pline lk).put u r.1.1 r.1.2 false) r.2) s

/-- Bytes of `old` replaced under a 64-bit byte mask. -/
def mergeBytes : Nat → UnitData → UnitData → Nat → UnitData
  | 0, old, _, _ => old
  | n + 1, old, new, mask =>
    let r := mergeBytes n old new mask
    if bit mask n then
      BitVec.ofNat 512 (setBits r.toNat (8 * n + 7) (8 * n) (bits new.toNat (8 * n + 7) (8 * n)))
    else r

/-- All 64 bytes of a unit. -/
def fullMask : Nat := 2 ^ 64 - 1

/-- One whole unit of a line stored in its plaza; good data that has been written puts an end to the mark DRAM held
(R208, R209). -/
def storeUnitAt (raise : Raise) (lk u : Nat) (d : UnitData) (m : Option Mark) (dirty : Bool) (s : State) : State :=
  tracked raise (lineStack lk) (lineAddr lk + 64 * u) (fun s =>
    let s1 := setPline lk ((s.pline lk).put u d m dirty) s
    if dirty && m.isNone then clearMark (lineStack lk) (lineAddr lk + 64 * u) s1 else s1) s

/-- A write of one unit under its byte mask, merged at the home (R238); `stream` is the write of a line that
the plaza does not hold under hint STREAM (R246). -/
def mergeUnit (raise : Raise) (stream : Bool) (lk u : Nat) (d : UnitData) (mask : Nat) (m : Option Mark)
    (s : State) : State :=
  if mask = 0 then s
  else
    let r : (UnitData × Option Mark) × State :=
      if mask = fullMask then ((d, m), s)
      else
        let o := homeUnit raise lk u s
        ((mergeBytes 64 o.1.1 d mask, match o.1.2 with
          | some x => some x
          | none => m), o.2)
    if stream then hubWrite raise (lineStack lk) (lineAddr lk + 64 * u) r.1.1 r.1.2 r.2
    else storeUnitAt raise lk u r.1.1 r.1.2 true r.2

/-- A request that ends with its line held by the plaza (R236, R246). -/
def State.allocates (s : State) (t : Txn) : Bool :=
  let out := (s.stackOut? (lineStack t.line)).isSome
  match t.kind with
  | .rdShared => !out
  | .wrFull => !out && t.hint != 1
  | .wrPart => !out && (t.hint != 1 || (s.ownerSite? t.line).isSome)
  | .atomic _ _ _ _ _ => !out
  | .writeback => !out && (s.ownerSite? t.line).isSome
  | .flushLine => !out && (s.ownerSite? t.line).isSome
  | .takeBack => !out
  | _ => false

/-- The lines that stand in one way each of the plaza of a line, but for the line itself: those held, and those of requests
in progress that end with the line held (R224). -/
def State.waysUsed (s : State) (lk : Nat) : List Nat :=
  let p := s.homePlaza lk
  let here (l : Nat) : Bool := l != lk && s.homePlaza l == p
  let busy := s.plz.txns.filterMap (fun t =>
    if t.phase != .waiting && here t.line && !(s.pline t.line).held && s.allocates t then some t.line else none)
  (s.plz.lines.filter (fun e => here e.1 && e.2.held)).map (·.1) ++ busy.eraseDups

/-- The used ways of the set of a line (R224, R228). -/
def State.setUsed (s : State) (lk : Nat) : List Nat :=
  (s.waysUsed lk).filter (fun l => Config.lineSet l == Config.lineSet lk)

/-- The plaza holds the line or has a free way in its set. -/
def State.hasRoom (s : State) (lk : Nat) : Bool :=
  (s.pline lk).held || decide ((s.waysUsed lk).length < 16) || decide ((s.setUsed lk).length < 16)

/-- A write under KEEP sets it, unless 8 other ways of the set have it (R246). -/
def State.mayKeep (s : State) (lk : Nat) : Bool :=
  let kept := s.plz.lines.filter (fun e => e.1 != lk && e.2.keep && s.homePlaza e.1 == s.homePlaza lk)
  decide (kept.length < 8) || decide ((kept.filter (fun e => Config.lineSet e.1 == Config.lineSet lk)).length < 8)

/-- A write merged at its home under a hint (R238, R246). -/
def mergeLine (raise : Raise) (lk : Nat) (d : LineData) (mask : Nat) (m0 m1 : Option Mark) (hint : Nat)
    (s : State) : State :=
  let stream := hint == 1 && !(s.pline lk).held
  let s1 := mergeUnit raise stream lk 0 (lineUnit d 0) (mask % 2 ^ 64) m0 s
  let s2 := mergeUnit raise stream lk 1 (lineUnit d 1) (mask / 2 ^ 64 % 2 ^ 64) m1 s1
  if hint = 2 then setPline lk { s2.pline lk with keep := s2.mayKeep lk || (s2.pline lk).keep } s2 else s2

/-- The home's write of a line whose stack may be out of service, or that the mirror bit sends to two places
(R206, R218, R221). -/
def homeWrite (raise : Raise) (lk : Nat) (d : LineData) (mask : Nat) (m0 m1 : Option Mark) (hint : Nat)
    (mirror : Bool) (s : State) : State :=
  let one (lk : Nat) (s : State) : State :=
    if s.homeDead lk then s
    else match s.stackOut? (lineStack lk) with
      | some src => dropWrite raise (lineStack lk) src s
      | none => mergeLine raise lk d mask m0 m1 hint s
  if mirror then
    match s.mirrorOf? (lineStack lk) (lineAddr lk) with
    | some (_, k', a') => one (lineKey k' a') (one lk s)
    | none => one lk (raise 0x020D false (words2 (targetPa (.stacked (lineStack lk) (lineAddr lk)))) s)
  else one lk s

/-- The home's read of one unit for a requester that caches nothing (R236, R218, R219, R258). -/
def homeRead (raise : Raise) (lk u : Nat) (s : State) : (UnitData × Option Mark) × State :=
  if s.homeDead lk then ((0, some absentMark), s)
  else match s.stackOut? (lineStack lk) with
    | some _ => memLook raise (lineStack lk) (lineAddr lk + 64 * u) s
    | none => homeUnit raise lk u s

/-- DIRTY units of a line written back to memory, the line staying CLEAN (R245 step 2, R260). -/
def cleanLine (raise : Raise) (lk : Nat) (s : State) : State :=
  let l := s.pline lk
  let k := lineStack lk
  let s1 := if l.v0 && l.d0 then hubWrite raise k (lineAddr lk) l.u0 l.m0 s else s
  let s2 := if l.v1 && l.d1 then hubWrite raise k (lineAddr lk + 64) l.u1 l.m1 s1 else s1
  if l.held then setPline lk { s2.pline lk with d0 := false, d1 := false } s2 else s2

/-- The plaza's copy of a line discarded. -/
def dropLine (lk : Nat) (s : State) : State := setPline lk .init s

/-- A line passes to an owner: the plaza drops it, and marks that stood in the plaza alone stay with the units in memory
(R201, R209). -/
def giveLine (lk : Nat) (s : State) : State :=
  let l := s.pline lk
  let keep (u : Nat) (m : Option Mark) (s : State) : State :=
    match m with
    | some x => { s with dram := { s.dram with
        marks := Table.set s.dram.marks (unitKeyOf (lineStack lk) (lineAddr lk + 64 * u)) x } }
    | none => s
  dropLine lk (keep 1 (if l.v1 then l.m1 else none) (keep 0 (if l.v0 then l.m0 else none) s))

/-! ### A look by the hub itself -/

/-- The last write of a unit that the retry buffer of its stack holds (R212). -/
def State.heldWrite? (s : State) (k a : Nat) : Option (UnitData × Option Mark) :=
  ((s.stack k).retry.filterMap (fun h => match h with
    | .write u d m => if u = a / 64 then some (d, m) else none
    | _ => none)).getLast?

/-- What the home of a stacked location would return now, without a change of state; for a line that a site
owns, whose contents only the chiplet knows, a free value (log entry 12). -/
def State.peekUnit (s : State) (k a : Nat) : UnitData × Option Mark :=
  let lk := lineKey k a
  let u := a / 64 % 2
  if s.homeDead lk then (0, some absentMark)
  else match s.stackOut? k with
    | some src => (readOut (fun _ _ _ s => s) k a src (fun k' a' s => (((s.heldWrite? k' a').getD (s.stored k' a')), s)) s).1
    | none =>
      if (s.ownerSite? lk).isSome then (lineUnit (Config.freeLine s.free) u, none)
      else match (s.pline lk).unit? u with
        | some r => r
        | none => (s.heldWrite? k a).getD (s.stored k a)

end Sys2Proof.Machine
end

