-- ==== Sys2Proof/Machine/Wire.lean ====
section
/-!
DEFINITION. What the bonds of a chiplet site carry: the four words of a KSP header (R306), the payload of a bond flit
(R298), and its code over the logical bonds, each a data bond or the spare that has replaced it (R297).
-/
namespace Sys2Proof.Machine

/-! ### KSP headers (R306, R307) -/

/-- A KSP header with every field zero. -/
def KMsg.blank : KMsg :=
  { msg := 0, txn := 0, cls := 0, urg := 0, colour := 0, epoch := 0, poison := false, addr := 0, virt := false,
    hint := 0, unit := 0, grant := 0, dirty := false, toReq := false, toHome := false, status := 0, w3 := 0 }

/-- The class of a message: 0 REQ, 1 TGT, 2 SNP, 3 RSP, 4 DAT (R304, R307). -/
def kspClass (m : Nat) : Nat :=
  if m = 0x0A then 4 else if m < 0x11 then 0 else if m < 0x21 then 2 else if m < 0x31 then 3
  else if m < 0x41 then 4 else 1

/-- The message carries a unit of its own (R307). -/
def kspHasUnit (m : Nat) : Bool := kspClass m == 4

/-- The 128 bits of a header: word 0 first (R306). In RSP messages word 2 holds STATUS, and STATE, TO_REQ and TO_HOME of
SNP_RSP (R307). -/
def kspHeader (m : KMsg) : Nat :=
  let w0 := m.msg % 2 ^ 8 + 2 ^ 8 * (m.txn % 2 ^ 12) + 2 ^ 20 * (m.cls % 16) + 2 ^ 24 * (m.urg % 4) +
    2 ^ 26 * (m.colour % 2) + 2 ^ 27 * (m.epoch % 16) + 2 ^ 31 * b2n m.poison
  let w2 :=
    if kspClass m.msg = 3 then m.status % 16 + 2 ^ 4 * b2n m.toReq + 2 ^ 5 * b2n m.toHome + 2 ^ 29 * (m.grant % 4)
    else m.addr / 2 ^ 32 % 2 ^ 23 + 2 ^ 23 * b2n m.virt + 2 ^ 24 * (m.hint % 16) + 2 ^ 28 * (m.unit % 2) +
      2 ^ 29 * (m.grant % 4) + 2 ^ 31 * b2n m.dirty
  w0 + 2 ^ 32 * (m.addr % 2 ^ 32) + 2 ^ 64 * w2 + 2 ^ 96 * (m.w3 % 2 ^ 32)

/-- The header that 128 bits spell. -/
def kspOf (v : Nat) : KMsg :=
  let w2 := bits v 95 64
  let rsp := decide (kspClass (bits v 7 0) = 3)
  { msg := bits v 7 0, txn := bits v 19 8, cls := bits v 23 20, urg := bits v 25 24, colour := bits v 26 26,
    epoch := bits v 30 27, poison := bit v 31,
    addr := bits v 63 32 + (if rsp then 0 else 2 ^ 32 * bits w2 22 0),
    virt := !rsp && bit w2 23, hint := if rsp then 0 else bits w2 27 24, unit := if rsp then 0 else bits w2 28 28,
    grant := bits w2 30 29, dirty := !rsp && bit w2 31,
    toReq := rsp && bit w2 4, toHome := rsp && bit w2 5, status := if rsp then bits w2 3 0 else 0, w3 := bits v 127 96 }

/-! ### Bond flits (R298) -/

/-- FTYPE as a code. -/
def ftypeCode (t : FType) : Nat :=
  match t with
  | .idle => 0
  | .hdr => 1
  | .hdrData => 2
  | .stream => 3
  | .reserved => 4

/-- The FTYPE of a code. -/
def ftypeOf (c : Nat) : FType :=
  match c with
  | 0 => .idle
  | 1 => .hdr
  | 2 => .hdrData
  | 3 => .stream
  | _ => .reserved

/-- A natural from parts of `w` bits, the first lowest. -/
def packBits (w : Nat) (l : List Nat) : Nat := l.foldr (fun x v => x % 2 ^ w + 2 ^ w * v) 0

/-- The 88 payload bytes of a flit: the link header, and the slots, the slot with its unit, or the stream (R298). -/
def flitPayload (f : Flit) : BitVec 704 :=
  let seq := if f.ftype = .idle then 0 else f.seq % 2 ^ 14
  let head := seq + 2 ^ 14 * (f.ack % 2 ^ 14) + 2 ^ 28 * ftypeCode f.ftype + 2 ^ 31 * b2n f.nak +
    2 ^ 32 * packBits 6 (f.credits.take 5)
  let body := match f.ftype with
    | .hdr => packBits 128 ((f.slots.take 5).map kspHeader)
    | .hdrData => kspHeader (f.slots.headD Machine.KMsg.blank) + 2 ^ 128 * f.unit.toNat
    | .stream => packBits 8 ((f.stream.take 80).map (·.toNat))
    | _ => 0
  BitVec.ofNat 704 (head + 2 ^ 64 * body)

/-- The flit that 88 payload bytes spell. -/
def flitOf (p : BitVec 704) : Flit :=
  let v := p.toNat
  let t := ftypeOf (bits v 30 28)
  { seq := bits v 13 0, ack := bits v 27 14, ftype := t, nak := bit v 31,
    credits := (List.range 5).map (fun i => bits v (37 + 6 * i) (32 + 6 * i)),
    slots := match t with
      | .hdr => (List.range 5).map (fun i => kspOf (bits v (191 + 128 * i) (64 + 128 * i)))
      | .hdrData => [kspOf (bits v 191 64)]
      | _ => [],
    unit := match t with
      | .hdrData => BitVec.ofNat 512 (v / 2 ^ 192)
      | _ => 0,
    stream := match t with
      | .stream => (List.range 80).map (fun i => BitVec.ofNat 8 (v / 2 ^ (64 + 8 * i)))
      | _ => [] }

/-! ### The code of a flit (R297) -/

/-- The physical bond that is logical bond `j` of a module: its own, or 96 + the spare that has replaced it. -/
def bondOf (x : Site) (m j : Nat) : Nat :=
  match Table.find? x.spareMap (128 * m + j) with
  | some k => 96 + k
  | none => j

/-- The 96 symbols of a flit: its payload bytes and its check symbols. -/
def flitCode (p : BitVec 704) : BitVec 768 := BitVec.ofNat 768 (p.toNat + 2 ^ 704 * (Config.flitCheck p).toNat)

/-- The logical bonds whose symbol arrives wrong, where `errs` names physical bonds with what is added to their symbols. -/
def wrongBonds (x : Site) (m : Nat) (errs : List (Fin 100 × BitVec 8)) : List Nat :=
  (List.range 96).filter (fun j => errs.any (fun e => e.1.val == bondOf x m j && e.2 != 0))

/-- The symbols as they arrive. -/
def flitReceived (x : Site) (m : Nat) (p : BitVec 704) (errs : List (Fin 100 × BitVec 8)) : BitVec 768 :=
  (List.range 96).foldl (fun c j =>
    errs.foldl (fun c e => if e.1.val = bondOf x m j then c ^^^ BitVec.ofNat 768 (e.2.toNat * 2 ^ (8 * j)) else c) c)
    (flitCode p)

/-- What the receiver decodes from a flit sent with payload `p` on module `m`: any two symbols are corrected and any six
detected; what more of them give is open. -/
def decodeFlit (x : Site) (m : Nat) (p : BitVec 704) (errs : List (Fin 100 × BitVec 8)) : FlitDec :=
  let l := wrongBonds x m errs
  if l.length ≤ 2 then .ok p l
  else if l.length ≤ 6 then .bad
  else match Config.flitBeyond (flitReceived x m p errs) with
    | some r => .ok r.1 ((List.range 96).filter (fun j => r.2.getLsbD j))
    | none => .bad

end Sys2Proof.Machine
end

