-- ==== Sys2Proof/Machine/KflWire.lean ====
section
/-!
DEFINITION. What the fabric's lanes carry: KFL messages as 16-byte slots (R362, R363), and the 640-byte flit with its CRC-32
(R359).
-/
namespace Sys2Proof.Machine

/-! ### Messages as slots (R362, R363) -/

/-- The 128 bits of a message's header (R362). -/
def kflHeader (m : KflMsg) : Nat :=
  let poison := (m.marks.zipIdx.filter (fun e => e.1.isSome)).foldl (fun v e => v + 2 ^ e.2) 0
  m.msg % 2 ^ 8 + 2 ^ 8 * (m.len % 16) + 2 ^ 12 * (m.cls % 16) + 2 ^ 16 * (m.vl % 2) + 2 ^ 17 * (m.fmt % 2) +
    2 ^ 18 * (m.hops % 64) + 2 ^ 24 * (poison % 2 ^ 8) + 2 ^ 32 * (m.dst % 2 ^ 16) + 2 ^ 48 * (m.src % 2 ^ 16) +
    2 ^ 64 * (m.w2 % 2 ^ 32) + 2 ^ 96 * (m.w3 % 2 ^ 32)

/-- The units of payload that a message of a code and a LEN has: none for RD, whose LEN are the units asked for (R362). -/
def kflUnits (msg len : Nat) : Nat := if msg = 1 then 0 else len

/-- The slots of a message, its header first; a poisoned unit carries its mark in its bytes 0 to 3 (R362). -/
def kflSlots (m : KflMsg) : List Nat :=
  kflHeader m :: m.payload.zipIdx.flatMap (fun e =>
    let v := match m.marks.getD e.2 none with
      | some k => markWord k
      | none => e.1.toNat
    (List.range 4).map (fun i => v / 2 ^ (128 * i) % 2 ^ 128))

/-- The slots of a message as they join the stream. -/
def kflStream (m : KflMsg) : List KflSlot :=
  let l := kflSlots m
  l.zipIdx.map (fun e =>
    { word := e.1, head := e.2 == 0, tail := if e.2 + 1 = l.length then some (kflHeader m) else none })

/-- The message that a header and the slots after it spell. -/
def kflOf (h : Nat) (rest : List Nat) : KflMsg :=
  let n := kflUnits (bits h 7 0) (bits h 11 8)
  let unit (i : Nat) : Nat := packBits 128 ((rest.drop (4 * i)).take 4)
  { msg := bits h 7 0, len := bits h 11 8, cls := bits h 15 12, vl := bits h 16 16, fmt := bits h 17 17,
    hops := bits h 23 18, dst := bits h 47 32, src := bits h 63 48, w2 := bits h 95 64, w3 := bits h 127 96,
    payload := (List.range n).map (fun i => if bit h (24 + i) then 0 else BitVec.ofNat 512 (unit i)),
    marks := (List.range n).map (fun i => if bit h (24 + i) then some (wordMark (unit i % 2 ^ 32)) else none) }

/-- The messages that are whole in a stream of slots, without padding, and the slots left over; `fuel` bounds their number. -/
def kflParse : Nat → List Nat → List KflMsg × List Nat
  | fuel + 1, h :: rest =>
    let n := 4 * kflUnits (bits h 7 0) (bits h 11 8)
    if rest.length < n then ([], h :: rest)
    else
      let x := kflParse fuel (rest.drop n)
      (if bits h 7 0 = 0 then x.1 else kflOf h (rest.take n) :: x.1, x.2)
  | _, l => ([], l)

/-! ### Flits (R359) -/

/-- One step of CRC-32 with the IEEE 802.3 polynomial, bit by bit in reflected order. -/
def crcBits : Nat → Nat → Nat
  | 0, c => c
  | n + 1, c => crcBits n (if c % 2 = 1 then (c / 2) ^^^ 0xEDB88320 else c / 2)

/-- CRC-32 over the `n` lowest bytes of `v`, from a register `c`. -/
def crcBytes : Nat → Nat → Nat → Nat
  | 0, _, c => c ^^^ 0xFFFFFFFF
  | n + 1, v, c => crcBytes n (v / 256) (crcBits 8 (c ^^^ (v % 256)))

/-- CRC-32 of bytes 0 to 635. -/
def flitCrc (v : Nat) : Nat := crcBytes 636 v 0xFFFFFFFF

/-- The 636 bytes of a flit before its CRC. -/
def kflFlitBody (f : KflFlit) : Nat :=
  let credit (i : Nat) : Nat := match f.credits[i]? with
    | some c => c.1 % 16 + 16 * (c.2 % 2 ^ 12)
    | none => 15
  (if f.idle then 0 else f.seq % 2 ^ 16) + 2 ^ 16 * (f.ack % 2 ^ 16) +
    2 ^ 32 * (b2n (!f.idle) + 4 * b2n f.nak + 16 * (f.first % 64)) + 2 ^ 64 * (credit 0 + 2 ^ 16 * credit 1) +
    2 ^ 96 * packBits 128 (f.slots.take 39)

/-- The 640 bytes of a flit. -/
def kflFlitBytes (f : KflFlit) : BitVec 5120 :=
  BitVec.ofNat 5120 (kflFlitBody f + 2 ^ 5088 * flitCrc (kflFlitBody f))

/-- The flit that 640 bytes spell, if their CRC holds; its FTYPE apart, of which 2 and 3 are reserved. -/
def kflFlitOf? (b : BitVec 5120) : Option (Nat × KflFlit) :=
  let v := b.toNat
  let body := v % 2 ^ 5088
  if v / 2 ^ 5088 ≠ flitCrc body then none
  else some (bits v 33 32,
    { seq := bits v 15 0, ack := bits v 31 16, idle := bits v 33 32 == 0, nak := bit v 34, first := bits v 41 36,
      credits := [(bits v 67 64, bits v 79 68), (bits v 83 80, bits v 95 84)].filter (fun c => decide (c.1 < 7)),
      slots := (List.range 39).map (fun i => body / 2 ^ (96 + 128 * i) % 2 ^ 128), ends := [] })

end Sys2Proof.Machine
end

