-- ==== Sys2Proof/Machine/Access.lean ====
section
/-!
DEFINITION. How the hub's own requesters read and write any target of the address map: stacked memory through
its homes (R225, R230, R231), a site's aperture (R313), a host window (R270, R395, R398, R399), another package
(R271, R374, R377) and nothing at all (R262, R341). A read that cannot be answered at once is sent, and its
units arrive later; the requester's command is then repeated.
-/
namespace Sys2Proof.Machine

/-! ### Targets by units -/

/-- A target moved on by `n` bytes. -/
def tgtAdd (n : Nat) : Tgt → Tgt
  | .stacked k a => .stacked k (a + n)
  | .site m o => .site m (o + n)
  | .host w o => .host w (o + n)
  | .remote nd w o => .remote nd w (o + n)
  | .unassigned pa => .unassigned (pa + n)

/-- The offset of a target in its space. -/
def tgtOff : Tgt → Nat
  | .stacked _ a => a
  | .site _ o => o
  | .host _ o => o
  | .remote _ _ o => o
  | .unassigned pa => pa

/-- The target lies in no range of the map (R262). -/
def tgtUnassigned (t : Tgt) : Bool :=
  match t with
  | .unassigned _ => true
  | _ => false

/-- The unit or line a target lies in. -/
def tgtAlign (n : Nat) (t : Tgt) : Tgt :=
  match t with
  | .stacked k a => .stacked k (a / n * n)
  | .site m o => .site m (o / n * n)
  | .host w o => .host w (o / n * n)
  | .remote nd w o => .remote nd w (o / n * n)
  | .unassigned pa => .unassigned (pa / n * n)

/-! ### Trackers (R235) -/

/-- The transactions of a plaza, with those that wait before a full tracker. -/
def State.plazaTxns (s : State) (p : Nat) : List Txn := s.plz.txns.filter (fun t => s.homePlaza t.line == p)

/-- The tracker of a line's plaza has an entry free (R224, R235). -/
def State.trackerFree (s : State) (lk : Nat) : Bool := decide ((s.plazaTxns (s.homePlaza lk)).length < 512)

/-- PLZ_n_STATUS.TRACKER of every plaza follows its tracker (R260). -/
def syncTracker (p : Nat) (s : State) : State :=
  setRf (rPlzNStatus p) 25 16 (min 512 (s.plazaTxns p).length) s

/-- The trackers follow a change of the transactions of one line. -/
def setTxns (lk : Nat) (f : List Txn → List Txn) (s : State) : State :=
  syncTracker (s.homePlaza lk) (updPlz (fun p => { p with txns := f p.txns }) s)

/-- A line on which a new request can start at once: no site owns it, no transaction holds or awaits it, no
sweep of its stack runs, and its tracker is not full (R235, R218). -/
def State.lineFree (s : State) (lk : Nat) : Bool :=
  (s.ownerSite? lk).isNone && !s.plz.txns.any (fun t => t.line == lk) &&
    !s.plz.stackSweep.contains (lineStack lk) && s.trackerFree lk

/-- A transaction enters the tracker of its home and waits there (R235). -/
def postTxn (kind : TKind) (req : Req) (lk : Nat) (d : LineData) (mask : BitVec 128) (m0 m1 : Option Mark)
    (hint : Nat) (mirror : Bool) (s : State) : State :=
  let t : Txn :=
    { id := s.plz.nextTxn, line := lk, kind := kind, req := req, data := d, mask := mask, m0 := m0,
      m1 := m1, hint := hint, mirror := mirror, phase := .waiting, owner := none, rsp := false, wb := false,
      ack := false, mem := false, stash := none, inv := 0, invSeen := 0, ring := false, noData := false,
      after := none, recalled := false }
  setTxns lk (· ++ [t]) (updPlz (fun p => { p with nextTxn := p.nextTxn + 1 }) s)

/-! ### Sending to a site (R299, R305, R306, R313) -/

/-- The modules of a site that carry flits: neither retired nor under repair (R299, R301, R302). -/
def rotation (x : Site) : List Nat :=
  (List.range 64).filter (fun m => !x.retired.contains m && !x.repairing.any (fun r => r.1 == m))

/-- The module on which the next flit is placed: the next one in the rotation, in ascending order, wrapping (R299). -/
def nextModule? (x : Site) : Option Nat :=
  match (rotation x).find? (fun m => decide (x.nextMod ≤ m)) with
  | some m => some m
  | none => (rotation x).head?

/-- The last flit that the hub holds in order from a site. -/
def lastFlit (x : Site) : Nat := (x.rxSeq + 2 ^ 14 - 1) % 2 ^ 14

/-- Credits that one flit can return to the chiplet (R298). -/
def creditsNow (x : Site) : List Nat := (List.range 5).map (fun i => min 63 (x.owed.getD i 0))

/-- A flit goes onto the bonds of module `k` of a site. -/
def putFlit (n k : Nat) (f : Flit) (s : State) : State :=
  emit (.flit n k (flitPayload f) (Config.flitCheck (flitPayload f))) s

/-- The credits that a flit returns are owed no more. -/
def paid (x : Site) : List Nat := (List.range 5).map (fun i => x.owed.getD i 0 - min 63 (x.owed.getD i 0))

/-- An IDLE flit: ACK or NAK with the last flit held in order, and credits (R298, R299). It leaves on the module that the
next sequenced flit takes (log entry 116). -/
def sendIdle (n : Nat) (nak : Bool) (s : State) : State :=
  let x := s.site n
  match nextModule? x with
  | none => s
  | some k =>
    putFlit n k { seq := 0, ack := lastFlit x, ftype := .idle, nak := nak, credits := creditsNow x, slots := [],
                  unit := 0, stream := [] } (updSite n (fun x => { x with owed := paid x }) s)

/-- A sequenced flit leaves on the next module in service (R299). -/
def placeFlit (n : Nat) (f : Flit) (s : State) : State :=
  match nextModule? (s.site n) with
  | none => s
  | some k => putFlit n k f (updSite n (fun x => { x with nextMod := k + 1 }) s)

/-- A message put in a flit on the next module in service and kept for a resend (R298, R299). -/
def transmit (n : Nat) (m : KMsg) (u : UnitData) (s : State) : State :=
  let x := s.site n
  let f : Flit :=
    { seq := x.txSeq, ack := lastFlit x, ftype := if kspHasUnit m.msg then .hdrData else .hdr, nak := false,
      credits := creditsNow x, slots := [m], unit := u, stream := [] }
  countEvent (blkSite n) 0x50 none none none 1 (countUnits (blkSite n) 0 (b2n (kspHasUnit m.msg))
    (placeFlit n f (updSite n (fun x =>
      { x with txSeq := (x.txSeq + 1) % 2 ^ 14, unacked := x.unacked ++ [f], owed := paid x }) s)))

/-- Messages that wait for a credit of their class, or for room among the unacknowledged flits, leave as
these allow, in order within each class (R299, R305). -/
def flushHeld (n : Nat) (s : State) : State :=
  forEach (s.site n).held (fun e s =>
    let x := s.site n
    let c := kspClass e.1.msg
    let first := (x.held.filter (fun h => kspClass h.1.msg == c)).head?
    if first == some e && 0 < x.credits.getD c 0 && decide (x.unacked.length < 4096) && (nextModule? x).isSome then
      transmit n e.1 e.2 (updSite n (fun x =>
        { x with credits := x.credits.set c (x.credits.getD c 0 - 1), held := x.held.erase e }) s)
    else s) s

/-- The site is in service and ON (R323, R326). -/
def State.siteServes (s : State) (n : Nat) : Bool :=
  s.inService uSite n && s.rf (rSiteNStatus n) 24 23 == 0

/-- The class of a request of a chiplet that is under way. -/
def State.siteReqClass (s : State) (n txn : Nat) : Nat :=
  match (s.site n).opens.find? (fun o => o.hdr.txn == txn) with
  | some o => o.hdr.cls
  | none => (((s.site n).agents.find? (fun a => a.txn == txn)).map (·.cls)).getD 0

/-- The class of a descriptor under way: CLASS of its first word. -/
def State.liveClass (s : State) (id : Nat) : Nat :=
  ((s.lives.find? (fun l => l.id == id)).map (fun l => bits (l.words.getD 0 0) 11 8)).getD 0

/-- The class of a function's accesses through the host port (R346). -/
def State.hostClass (s : State) (f : Nat) : Nat := if f = 0 then s.rff rQosHostClass 3 0 else s.rff rQosHostClass 7 4

/-- The site runs CXL. -/
def State.siteCxl (s : State) (n : Nat) : Bool := s.rb (rSiteNStatus n) 3
/-- The site caches (R230). -/
def State.siteCaching (s : State) (n : Nat) : Bool := s.rb (rSiteNStatus n) 4

/-- The main band is open: the site is in service and does not rejoin, or JOIN has been sent (R325). -/
def State.mainBand (s : State) (n : Nat) : Bool :=
  match (s.site n).join with
  | .none => s.inService uSite n
  | .join => true
  | .joined => true
  | _ => false

/-- A message for a KSP site: it leaves while the hub holds a credit of its class, and waits otherwise; one
for a site out of service is discarded (R253 step 2, R305, R325). -/
def toSite (n : Nat) (m : KMsg) (u : UnitData) (s : State) : State :=
  if s.inService uSite n && s.mainBand n then
    flushHeld n (updSite n (fun x => { x with held := x.held ++
      [({ m with colour := s.rf rSnapStatus 1 1, epoch := x.epoch, urg := 0 }, u)] }) s)
  else s

/-- The memory a site exposes reaches beyond `off` (R268, R313). -/
def State.siteExposes (s : State) (n off : Nat) : Bool := decide (off < 2 ^ 30 * s.rf (rSiteNCaps n) 13 3)

/-- The class of the work for which a requester of the hub accesses memory (R156, R346); 0 for traffic of the hub's own. -/
def State.whoClass (s : State) (w : Who) : Nat :=
  match w with
  | .tileFetch t => (s.tile t).cls
  | .tileDma t => (s.tile t).cls
  | .copy id => s.liveClass id
  | .reduce _ id => s.liveClass id
  | .site n txn => s.siteReqClass n txn
  | .fabWin p _ id => (((s.port p).winReqs.find? (fun r => r.id == id)).map (·.cls)).getD 0
  | .host fn _ => s.hostClass fn
  | _ => 0

/-- The class of the requester of a transaction (R310, R333). -/
def State.reqClass (s : State) (r : Req) : Nat :=
  match r with
  | .site n txn => s.siteReqClass n txn
  | .agent w _ => s.whoClass w
  | .none => 0

/-- A TGT request to a site (R313), by MEM_RD and MEM_WR or, for a CXL site, by CXL.mem (R314). -/
def tgtSend (n : Nat) (who : Who) (key : Tgt) (write : Bool) (d : UnitData) (mask : Nat) (m : Option Mark)
    (s : State) : State :=
  let txn := (s.site n).nextTxn % 4096
  let s1 := updSite n (fun x => { x with nextTxn := x.nextTxn + 1, late := x.late.filter (fun q => q.1 != txn), tgts := x.tgts ++
    [{ txn := txn, who := who, key := key, write := write, units := 1 }] }) s
  if s.siteCxl n then emit (.cxlMem n txn write (tgtOff key) d mask m.isSome) s1
  else
    let c := s.whoClass who
    let h := { KMsg.blank with msg := if write then 0x42 else 0x41, txn := txn, cls := c, addr := tgtOff key }
    let s2 := toSite n h 0 s1
    if write then
      toSite n { KMsg.blank with msg := 0x0A, txn := txn, cls := c, unit := tgtOff key / 64 % 2, poison := m.isSome,
                                 addr := mask % 2 ^ 32,
                                 w3 := (m.map markWord).getD (mask / 2 ^ 32) } d s2
    else s2

/-! ### The host's memory (R270, R395 to R399, R405) -/

/-- The window check of R270: the function and the bus address. -/
def State.hostWindow? (s : State) (w off len : Nat) (write : Bool) : Option (Nat × Nat) :=
  if w < 1024 ∧ s.rb (rHwinNCtrl w) 0 = true ∧ off + len ≤ 65536 * s.rf (rHwinNSize w) 23 0 ∧
      (write = false ∨ s.rb (rHwinNCtrl w) 8 = true) then
    some (s.rf (rHwinNCtrl w) 7 1,
      2 ^ 32 * s.reg (rHwinNHostHi w) + 65536 * s.rf (rHwinNHostLo w) 31 16 + off)
  else none

/-- One HOST_WINDOW_MISS record (R270, R292). -/
def windowMiss (raise : Raise) (w off : Nat) (write : Bool) (s : State) : State :=
  raise 0x0104 false ([w % 1024 + 2 ^ 10 * b2n write + 2 ^ 11 * s.rf (rHwinNCtrl w) 7 1, 0] ++
    words2 (targetPa (.host w off))) s

/-- The number of tags of the host port: 14 bits in Flit Mode, which 64 and 128 GT/s use, and 10 otherwise (R390). -/
def State.tagCount (s : State) : Nat := if 6 ≤ s.rf rHifStatus 3 1 then 2 ^ 14 else 2 ^ 10

/-- The first of `n` tags from `t` on, in rotation, that is not in use. -/
def freeTag (used : List Nat) (lim : Nat) : Nat → Nat → Option Nat
  | 0, _ => none
  | n + 1, t => if used.contains (t % lim) then freeTag used lim n (t + 1) else some (t % lim)

/-- The tag of the host port's next read: one that no read holds, and of these, while there is one, one that no FLR has
retired (R390, R406). -/
def State.readTag? (s : State) : Option Nat :=
  let held := s.host.reads.map (·.tag)
  let all := held ++ s.host.retired
  (freeTag all s.tagCount (min s.tagCount (all.length + 1)) s.host.nextTag).or
    (freeTag held s.tagCount (min s.tagCount (held.length + 1)) s.host.nextTag)

/-- A posted write of function `f` to the host: sent in order, or dropped and counted while the gate is shut
(R395, R405). -/
def hostPost (f addr : Nat) (bytes : List Byte) (poisoned : Bool) (s : State) : State :=
  if s.gateOpen f then
    let n := ceilDiv bytes.length 64
    countUnits blkHost 0 n (countEvent blkHost 0x71 none none none n (emit (.hostWrite f addr bytes poisoned) s))
  else
    countEvent blkHost 0x73 none none none 1 (rcCount (rHifFnFStatus f) 31 16 1 s)

/-- The runs of set bits of a byte mask below `n`: start and length, ascending. -/
def maskRuns (mask : Nat) : Nat → List (Nat × Nat)
  | 0 => []
  | n + 1 =>
    let l := maskRuns mask n
    if bit mask n then
      match l.getLast? with
      | some (a, k) => if a + k = n then l.dropLast ++ [(a, k + 1)] else l ++ [(n, 1)]
      | none => [(n, 1)]
    else l

/-- A write of part of a unit to the host; a poisoned unit goes in a write of its own, with zeros and EP set
(R395). -/
def hostUnit (raise : Raise) (w off : Nat) (d : UnitData) (mask : Nat) (m : Option Mark) (s : State) : State :=
  match s.hostWindow? w off 64 true with
  | none => windowMiss raise w off true s
  | some (f, addr) =>
    match m with
    | some _ => hostPost f addr (List.replicate 64 0) true s
    | none =>
      forEach (maskRuns mask 64) (fun r s =>
        hostPost f (addr + r.1) (natToBytes r.2 (d.toNat / 2 ^ (8 * r.1))) false s) s

/-! ### Other packages (R361, R365, R369 to R377) -/

/-- The credit counter a message uses (R361). -/
def kflIndex (msg vl : Nat) : Nat :=
  if msg < 0x10 then vl else if msg < 0x20 then 2 + vl else if msg < 0x30 then 4 else 6

/-- FAB_PORT_n_STATUS.STATE is DOWN. -/
def State.portDown (s : State) (n : Nat) : Bool := s.rf (rFabPortNStatus n) 1 0 == 2

/-- A routing entry (R372): OUT and VL_UP; OUT resets to 31. -/
def State.route (s : State) (table node : Nat) : Nat := Table.get 31 s.fab.routes (2 ^ 16 * table + node)

/-- Where the entry of a table sends a message: a port in service, local delivery as 16, or nowhere. -/
def State.routeOut? (s : State) (table node : Nat) : Option Nat :=
  let o := s.route table node % 32
  if o = 16 then some 16
  else if o < 16 ∧ s.portDown o = false then some o
  else none

/-- Where a message of this package goes (R369, R370, R372, R377). -/
def State.originOut? (s : State) (node : Nat) : Option Nat :=
  if s.rf rFabNode 15 0 = 0xFFFF then none
  else if node = s.rf rFabNode 15 0 then some 16
  else if s.rb rFabCtrl 14 then s.routeOut? 16 node
  else none

/-- The last flit that a port holds in order from its peer. -/
def State.lastFlit (s : State) (n : Nat) : Nat := ((s.port n).rxSeq + 2 ^ 16 - 1) % 2 ^ 16

/-- The credits that a flit returns: two counters, at most 4,095 units each (R359). -/
def fabCredits (x : FabPort) : List (Nat × Nat) := (x.owed.take 2).map (fun c => (c.1, min c.2 4095))

/-- The credits that the next flit returns are owed no more. -/
def fabPaid (x : FabPort) : List (Nat × Nat) :=
  ((x.owed.take 2).map (fun c => (c.1, c.2 - min c.2 4095)) ++ x.owed.drop 2).filter (fun c => c.2 != 0)

/-- Units of a counter are owed to the peer (R361). -/
def oweUnits (n c u : Nat) (s : State) : State :=
  updPort n (fun x =>
    let l := if x.owed.any (fun e => e.1 == c) then x.owed.map (fun e => if e.1 = c then (c, e.2 + u) else e)
      else x.owed ++ [(c, u)]
    { x with owed := l }) s

/-- An IDLE flit: ACK or NAK with the last flit held in order, and credits (R359, R360). -/
def sendFabIdle (n : Nat) (nak : Bool) (s : State) : State :=
  let x := s.port n
  let f : KflFlit := { seq := 0, ack := s.lastFlit n, idle := true, nak := nak, first := 0, credits := fabCredits x, slots := [], ends := [] }
  emit (.kfl n (kflFlitBytes f)) (updPort n (fun x => { x with owed := fabPaid x }) s)

/-- The next 39 slots leave in a MSG flit, with padding behind the last, and are kept for a resend (R359, R360). -/
def sendFabFlit (n : Nat) (s : State) : State :=
  let x := s.port n
  let l := x.tx.take 39
  let first := match l.findIdx? (·.head) with
    | some i => i
    | none => if l.length < 39 then l.length else 63
  let f : KflFlit :=
    { seq := x.txSeq, ack := s.lastFlit n, idle := false, nak := false, first := first, credits := fabCredits x,
      slots := l.map (·.word) ++ List.replicate (39 - l.length) 0, ends := l.filterMap (·.tail) }
  countEvent (blkPort n) 0x60 none none none 1
    (emit (.kfl n (kflFlitBytes f))
      (updPort n (fun x => { x with
        txSeq := (x.txSeq + 1) % 2 ^ 16, unacked := x.unacked ++ [f], tx := x.tx.drop 39, owed := fabPaid x }) s))

/-- Flits leave while there is room among the unacknowledged ones: as long as whole flits can be filled, or with `all` until
nothing is left (R359, R360 step 4). -/
def drainTx (n : Nat) (all : Bool) : Nat → State → State
  | 0, s => s
  | fuel + 1, s =>
    let x := s.port n
    if x.unacked.length < 2048 && (if all then !x.tx.isEmpty else decide (39 ≤ x.tx.length)) then
      drainTx n all fuel (sendFabFlit n s)
    else s

/-- A message joins the stream of slots (R359). -/
def kflTransmit (n : Nat) (m : KflMsg) (s : State) : State :=
  drainTx n false 2 (countUnits (blkPort n) 0 m.payload.length
    (updPort n (fun x => { x with
      tx := x.tx ++ kflStream m }) s))

/-- A held message may leave now: the port is UP, or retrains and it is the LANE_PLAN, its credits are held and it is the
first of its counter, and there is room for flits (R360, R361, R367). -/
def State.kflGoes (s : State) (n : Nat) (m : KflMsg) : Bool :=
  let x := s.port n
  let c := kflIndex m.msg m.vl
  let st := s.rf (rFabPortNStatus n) 1 0
  (st == 0 || (st == 1 && m.msg == 0x32)) &&
    (x.held.filter (fun h => kflIndex h.msg h.vl == c)).head? == some m && decide (1 + m.len ≤ x.credits.getD c 0) &&
    decide (x.unacked.length < 2048)

/-- Messages held by a port leave in order, counter by counter, as far as they can; a LANE_PLAN stands before the others
(R361, R367). -/
def kflFlush (n : Nat) (s : State) : State :=
  let s1 := drainTx n (s.rf (rFabPortNStatus n) 1 0 == 0) 2 s
  let s2 := forEach (s1.port n).held (fun m s =>
    let c := kflIndex m.msg m.vl
    if s.kflGoes n m then
      kflTransmit n m (updPort n (fun x =>
        { x with credits := x.credits.set c (x.credits.getD c 0 - (1 + m.len)), held := x.held.erase m }) s)
    else s) s1
  drainTx n true 2 s2

/-- A message sent on port `out`, or delivered locally when `out` is 16. -/
def kflSend (out : Nat) (m : KflMsg) (s : State) : State :=
  if out = 16 then { s with fab := { s.fab with arriving := s.fab.arriving ++ [(16, m)] } }
  else kflFlush out (updPort out (fun x => { x with held := x.held ++ [m] }) s)

/-- A KFL header of this package. -/
def State.kflHead (s : State) (msg len cls node w2 w3 : Nat) : KflMsg :=
  { msg := msg, len := len, cls := cls,
    vl := if msg < 0x20 ∧ bit (s.route 16 node) 5 = true then 1 else 0,
    fmt := 0, hops := 63, dst := node, src := s.rf rFabNode 15 0, w2 := w2, w3 := w3, payload := [],
    marks := [] }

/-- REMOTE_ERROR's DETAIL for a request that left by no port (R377). -/
def unreachableDetail : Nat := 0x107

/-- The mark of a failed remote access (R377). -/
def remoteMark (detail : Nat) : Mark := { cause := 0x25, detail := detail }

/-- A free entry of a port's request table (R365). -/
def FabPort.freeEntry? (p : FabPort) : Option Nat :=
  if p.table.length < 4096 then
    (List.range 4097).find? (fun i => (Table.find? p.table i).isNone)
  else none

/-- A request to another package: `none` where it counts as a drop, else whether it was sent; it waits while
the table of its port is full (R365, R374). -/
def remoteSend (who : Who) (node win off msg units cls : Nat) (payload : List UnitData) (m : List (Option Mark))
    (s : State) : Option (Bool × State) :=
  match s.originOut? node with
  | none => none
  | some out =>
    let p := out % 16
    match (s.port p).freeEntry? with
    | none => some (false, s)
    | some e =>
      let txn := p * 4096 + e
      let h := { s.kflHead msg units cls node (txn + 2 ^ 16 * win + 2 ^ 28 * (off % 16)) (off / 16) with
                 payload := payload, marks := m }
      let q : FabReq :=
        { who := who, key := .remote node win off, write := !payload.isEmpty && msg != 4, units := units }
      let s1 := updPort p (fun x => { x with table := Table.set x.table e q }) s
      some (true, kflSend out h s1)

/-! ### Reads by the hub's requesters -/

/-- A unit delivered to a requester that still waits for it. -/
def arrive (who : Who) (key : Tgt) (d : UnitData) (m : Option Mark) (s : State) : State :=
  if s.plz.asked.contains (who, key) then
    updPlz (fun p => { p with
      arrivals := p.arrivals ++ [{ who := who, key := key, data := d, mark := m }],
      asked := p.asked.filter (fun a => a != (who, key)) }) s
  else s

/-- A unit that has arrived for a requester is taken. -/
def takeArrival (who : Who) (key : Tgt) (s : State) : Option ((UnitData × Option Mark) × State) :=
  match s.plz.arrivals.find? (fun a => a.who == who && a.key == key) with
  | none => none
  | some a => some ((a.data, a.mark), updPlz (fun p => { p with arrivals := p.arrivals.erase a }) s)

/-- A requester has asked for units. -/
def askUnits (who : Who) (key : Tgt) (n : Nat) (s : State) : State :=
  updPlz (fun p => { p with asked := p.asked ++ (List.range n).map (fun i => (who, tgtAdd (64 * i) key)) }) s

/-- The context that a requester's work carries, if it carries one (R510). -/
def State.whoCtx? (s : State) : Who → Option Nat
  | .tileFetch t => some (s.tile t).ctx
  | .tileDma t => some (s.tile t).ctx
  | .copy id => (s.liveOf? id).map (·.ctx)
  | .reduce _ id => (s.liveOf? id).map (·.ctx)
  | .site n txn => ((s.site n).opens.find? (fun o => o.hdr.txn == txn && o.hdr.virt)).map (fun o => bits o.hdr.w3 27 16)
  | .fabWin p _ id => ((s.port p).winReqs.find? (fun r => r.id == id)).bind (·.ctx)
  | .host _ id => (s.host.apt.find? (fun q => q.id == id)).map (·.ctx)
  | .dispatcher r => some (s.ringCtx r)
  | .record c _ => some c
  | _ => none

/-- A request looks a line up in its plaza (R509): LOOKUP, and HIT or MISS. -/
def countLookup (ctx : Option Nat) (lk : Nat) (s : State) : State :=
  let b := blkPlaza (s.homePlaza lk)
  countEvent b (if (s.pline lk).held then 0x31 else 0x32) ctx none none 1 (countEvent b 0x30 ctx none none 1 s)

/-- The mark of a host-bound read that fails (R399). -/
def hostMark (detail : Nat) : Mark := { cause := cTargetAbsent, detail := detail }

/-- A read of the 64-byte unit `key` by a requester that caches nothing: its data, if it is there at once or
has arrived; otherwise the request is sent, if it has not been. `more` units follow it in the same request. -/
def agentRead (raise : Raise) (who : Who) (key : Tgt) (more cls : Nat) (s : State) :
    Option (UnitData × Option Mark) × State :=
  match takeArrival who key s with
  | some r => (some r.1, r.2)
  | none =>
    if s.plz.asked.contains (who, key) then (none, s)
    else match key with
      | .stacked k a =>
        let lk := lineKey k a
        if s.homeDead lk then (some (0, some absentMark), s)
        else if s.lineFree lk then
          if !s.memReady k a then (none, s)
          else
          let s0 := countLookup (s.whoCtx? who) lk s
          let r := homeRead raise lk (a / 64 % 2) s0
          (some r.1, countUnits (blkPlaza (s.homePlaza lk)) 1 1 r.2)
        else
          (none, askUnits who key 1 (postTxn (.rdOnce false) (.agent who (a / 64 % 2)) lk 0 0 none none 0 false s))
      | .site n o =>
        if s.siteServes n && s.siteExposes n o then (none, askUnits who key 1 (tgtSend n who key false 0 0 none s))
        else (some (0, some absentMark), s)
      | .host w o =>
        match s.hostWindow? w o 64 false with
        | none => (some (0, some (hostMark 0)), windowMiss raise w o false s)
        | some (f, addr) =>
          if s.gateOpen f then
            match s.readTag? with
            | none => (none, s)
            | some tag =>
              (none, countEvent blkHost 0x70 none none none 1 (askUnits who key 1
                (emit (.hostRead f tag addr 64)
                  { s with host := { s.host with
                      nextTag := (tag + 1) % s.tagCount, retired := s.host.retired.filter (· != tag),
                      reads := s.host.reads ++ [{ tag := tag, fn := f, who := who, key := key, units := 1 }] } })))
          else (some (0, some (hostMark (s.gateDetail f))), s)
      | .remote node win o =>
        let n := min (more + 1) ((512 - o % 512) / 64)
        match remoteSend who node win o 1 n cls [] [] s with
        | none => (some (0, some (remoteMark unreachableDetail)), s)
        | some (true, s1) => (none, askUnits who key n s1)
        | some (false, s1) => (none, s1)
      | .unassigned _ => (some (0, some absentMark), s)

/-- An atomic on memory of another package (R374): its answer, if it has come; otherwise the request is sent, if it
has not been. `payload` holds the operands as R363 lays them out. -/
def agentAtomic (who : Who) (node win o cls : Nat) (payload : UnitData) (s : State) :
    Option (UnitData × Option Mark) × State :=
  let key := Tgt.remote node win o
  match takeArrival who key s with
  | some r => (some r.1, r.2)
  | none =>
    if s.plz.asked.contains (who, key) then (none, s)
    else match remoteSend who node win o 4 1 cls [payload] [none] s with
      | none => (some (0, some (remoteMark unreachableDetail)), s)
      | some (true, s1) => (none, askUnits who key 1 s1)
      | some (false, s1) => (none, s1)

/-! ### Writes by the hub's requesters -/

/-- How a write of a requester stands: accepted, sent and awaiting its acknowledgement, waiting to be sent, or
failed with a DETAIL of R377. -/
inductive WRes where
  | done
  | posted
  | wait
  | failed (detail : Nat)
  deriving DecidableEq, Repr

/-- The 64-byte units of a line that a byte mask touches. -/
def maskUnits (mask : Nat) : Nat := b2n (mask % 2 ^ 64 != 0) + b2n (mask / 2 ^ 64 != 0)

/-- The home has every unit of a line that a masked write changes in part, or can read it, in the mirror too (R212). -/
def lineReady (lk mask : Nat) (mirror : Bool) (s : State) : Bool :=
  let one (lk : Nat) : Bool := [0, 1].all (fun u =>
    let m := mask / 2 ^ (64 * u) % 2 ^ 64
    m == 0 || m == fullMask || s.memReady (lineStack lk) (lineAddr lk + 64 * u))
  one lk && (if mirror then
    match s.mirrorOf? (lineStack lk) (lineAddr lk) with
    | some (_, k, a) => one (lineKey k a)
    | none => true
  else true)

/-- A write of one line of stacked memory by a requester: merged at once at a line that nothing holds, else
entered in the tracker of its home (R231, R236). -/
def storeLine (raise : Raise) (who : Who) (lk : Nat) (d : LineData) (mask : Nat) (m0 m1 : Option Mark)
    (hint : Nat) (mirror : Bool) (s : State) : WRes × State :=
  let free (l : Nat) : Bool := s.lineFree l && !(s.pline l).sharedOut && s.hasRoom l
  let all := free lk && (if mirror then
      match s.mirrorOf? (lineStack lk) (lineAddr lk) with
      | some (_, k, a) => free (lineKey k a)
      | none => true
    else true)
  if s.homeDead lk then (.done, homeWrite raise lk d mask m0 m1 hint mirror s)
  else if all && decide (hint < 8) && lineReady lk mask mirror s then
    let s0 := countUnits (blkPlaza (s.homePlaza lk)) 0 (maskUnits mask) (countLookup (s.whoCtx? who) lk s)
    (.done, homeWrite raise lk d mask m0 m1 hint mirror s0)
  else (.posted, postTxn (if mask = 2 ^ 128 - 1 then .wrFull else .wrPart) (.agent who 0) lk d
          (BitVec.ofNat 128 mask) m0 m1 hint mirror s)

/-- A write of part of one unit outside stacked memory. -/
def storeUnit (raise : Raise) (who : Who) (key : Tgt) (d : UnitData) (mask : Nat) (m : Option Mark) (cls : Nat)
    (s : State) : WRes × State :=
  match key with
  | .stacked _ _ => (.done, s)
  | .site n o =>
    if s.siteServes n && s.siteExposes n o then (.posted, tgtSend n who key true d mask m s) else (.done, s)
  | .host w o => (.done, hostUnit raise w o d mask m s)
  | .remote node win o =>
    let r := if mask = fullMask then remoteSend who node win o 2 1 cls [d] [m] s
             else remoteSend who node win o 3 2 cls [d, BitVec.ofNat 512 mask] [m, none] s
    match r with
    | none => (.failed unreachableDetail, s)
    | some (true, s1) => (.posted, s1)
    | some (false, s1) => (.wait, s1)
  | .unassigned _ => (.done, s)

/-- The requests that a write of `len` bytes at offset `o` of a remote window takes: whole units within a block of 512
bytes go together (R363). -/
def remoteCount : Nat → Nat → Nat → Nat
  | 0, _, _ => 0
  | fuel + 1, o, len =>
    if len = 0 then 0
    else
      let n := if o % 64 = 0 ∧ 64 ≤ len then 64 * min (len / 64) ((512 - o % 512) / 64) else min len (64 - o % 64)
      1 + remoteCount fuel (o + n) (len - n)

/-- `n` more requests to this target have to wait for free entries of its port's request table (R365). -/
def State.tableWaits (s : State) (key : Tgt) (n : Nat) : Bool :=
  match key with
  | .remote node _ _ =>
    match s.originOut? node with
    | some out => decide (4096 < (s.port (out % 16)).table.length + n)
    | none => false
  | _ => false

/-- A write of `len` bytes to this target has to wait until the request table of its port has room for all of it
(R365). -/
def State.storeWaits (s : State) (key : Tgt) (len : Nat) : Bool := s.tableWaits key (remoteCount (len + 1) (tgtOff key) len)

/-- A write hint as a requester other than a tile or a COPY gives it: reserved codes act as DEFAULT (R246). -/
def hintOf (h : Nat) : Nat := if h ≤ 2 ∨ (8 ≤ h ∧ h ≤ 13) then h else 0

/-- A write of `bytes` to a target by a requester, unit by unit, with the mark of each unit by its index from
the first: the number of writes whose acknowledgement is awaited, and the first failure. -/
def agentStore (raise : Raise) (who : Who) (mark : Nat → Option Mark) (hint cls : Nat) (mirror : Bool) :
    Nat → Nat → Tgt → List Byte → State → (Nat × Option Nat) × State
  | 0, _, _, _, s => ((0, none), s)
  | _, _, _, [], s => ((0, none), s)
  | fuel + 1, i, key, bytes, s =>
    let o := tgtOff key
    match key with
    | .stacked k a =>
      let st := o % 128
      let n := min bytes.length (128 - st)
      let d : LineData := BitVec.ofNat 1024 (bytesToNat (bytes.take n) * 2 ^ (8 * st))
      let mask := (2 ^ n - 1) * 2 ^ st
      let m0 := if st < 64 then mark i else none
      let m1 := if st < 64 then mark (i + 1) else mark i
      let r := storeLine raise who (lineKey k a) d mask m0 m1 hint mirror s
      let rest := agentStore raise who mark hint cls mirror fuel (i + (if st < 64 then 2 else 1))
        (tgtAdd n key) (bytes.drop n) r.2
      ((rest.1.1 + (if r.1 = .posted then 1 else 0), rest.1.2), rest.2)
    | .remote node win _ =>
      let whole := o % 64 = 0 ∧ 64 ≤ bytes.length
      let k := if whole then min (bytes.length / 64) ((512 - o % 512) / 64) else 1
      let n := if whole then 64 * k else min bytes.length (64 - o % 64)
      let units := (List.range k).map (fun j => BitVec.ofNat 512 (bytesToNat ((bytes.drop (64 * j)).take 64)))
      let r := if whole then
          match remoteSend who node win o 2 k cls units ((List.range k).map (fun j => mark (i + j))) s with
          | none => (WRes.failed unreachableDetail, s)
          | some (true, s1) => (.posted, s1)
          | some (false, s1) => (.wait, s1)
        else storeUnit raise who (tgtAlign 64 key) (BitVec.ofNat 512 (bytesToNat (bytes.take n) * 2 ^ (8 * (o % 64))))
          ((2 ^ n - 1) * 2 ^ (o % 64)) (mark i) cls s
      let rest := agentStore raise who mark hint cls mirror fuel (i + k) (tgtAdd n key) (bytes.drop n) r.2
      ((rest.1.1 + (if r.1 = .posted then 1 else 0),
        match r.1 with
        | .failed d => some d
        | _ => rest.1.2), rest.2)
    | _ =>
      let st := o % 64
      let n := min bytes.length (64 - st)
      let d : UnitData := BitVec.ofNat 512 (bytesToNat (bytes.take n) * 2 ^ (8 * st))
      let r := storeUnit raise who (tgtAlign 64 key) d ((2 ^ n - 1) * 2 ^ st) (mark i) cls s
      let rest := agentStore raise who mark hint cls mirror fuel (i + 1) (tgtAdd n key) (bytes.drop n) r.2
      ((rest.1.1 + (if r.1 = .posted then 1 else 0),
        match r.1 with
        | .failed d => some d
        | _ => rest.1.2), rest.2)

/-- A write of good bytes, whole. -/
def storeBytes (raise : Raise) (who : Who) (key : Tgt) (bytes : List Byte) (hint cls : Nat) (mirror : Bool)
    (s : State) : (Nat × Option Nat) × State :=
  agentStore raise who (fun _ => none) hint cls mirror (bytes.length + 1) 0 key bytes s

/-- A write of a requester has been acknowledged; `fail` is the DETAIL of a remote failure (R66, R172, R377,
R385). -/
def ackWrite (who : Who) (fail : Option Nat) (s : State) : State :=
  let s1 := match who with
    | .tileDma t => updTile t (fun x => { x with queues := vupd .init x.queues 3 (fun q =>
        { q with entries := q.entries.map (fun e => if e.started then { e with outst := e.outst - 1 } else e) }) }) s
    | .copy id => updLive id (fun l => { l with outst := l.outst - 1 }) s
    | .reduce _ id => { s with fab := { s.fab with groups := s.fab.groups.map (fun g =>
        if g.live = id then { g with outst := g.outst - 1 } else g) } }
    | .site n txn => updSite n (fun x => { x with opens := x.opens.map (fun o =>
        if o.hdr.txn = txn then { o with outst := o.outst - 1, fail := if fail.isSome then 3 else o.fail } else o) }) s
    | .fabWin p _ id => updPort p (fun x => { x with winReqs := x.winReqs.map (fun r =>
        if r.id = id then { r with outst := r.outst - 1, fail := if r.fail = 0 then (fail.getD 0) % 16 else r.fail }
        else r) }) s
    | _ => s
  let note (d : Nat) : State := updPlz (fun p => { p with failed := p.failed ++ [(who, d)] }) s1
  match fail, who with
  | some d, .tileDma _ => note d
  | some d, .copy _ => note d
  | some d, .reduce _ _ => note d
  | _, _ => s1

/-! ### What is under way -/

/-- The hub's own requesters that an answer or an acknowledgement is still to reach: from a home, a chiplet, another
package or the host. -/
def State.whosUnderway (s : State) : List Who :=
  let agent : Req → Option Who
    | .agent w _ => some w
    | _ => none
  s.plz.asked.map (·.1) ++ s.plz.txns.filterMap (fun t => agent t.req) ++
    s.plz.msgs.filterMap (fun m => match m with
      | .data r _ _ _ _ _ => agent r
      | .wrAck r _ _ => agent r
      | _ => none) ++
    (List.range 6).flatMap (fun n => (s.site n).tgts.map (·.who)) ++
    (List.range 16).flatMap (fun p => (s.port p).table.map (fun e => e.2.who)) ++ s.host.reads.map (·.who)

/-- Something is under way for a requester that satisfies `q`. -/
def State.underway (s : State) (q : Who → Bool) : Bool := s.whosUnderway.any q

end Sys2Proof.Machine
end

