-- ==== Sys2Proof/Machine/Records.lean ====
section
/-!
DEFINITION. Page-table entries and their checks (R263 to R268), the areas the hub holds translations of
(R163, R288), and the records of the fault rings: their layout, the operator ring with its kept store, the
context rings, service requests (R282, R288 to R292, R444).
-/
namespace Sys2Proof.Machine

/-! ### Page tables (R263 to R268) -/

/-- log2 of the page a leaf of a level maps. -/
def pageLog (level : Nat) : Nat := 16 + 13 * (3 - level)

/-- CTX_PT_ROOT. -/
def State.ptRoot (s : State) (c : Nat) : Nat :=
  2 ^ 32 * s.rf (rCtxPtRootHi c) 19 0 + 2 ^ 16 * s.rf (rCtxPtRootLo c) 31 16

/-- The page base or next table of an entry. -/
def entAddr (e : Nat) : Nat := 65536 * bits e 51 16
/-- TARGET of a leaf. -/
def entTarget (e : Nat) : Nat := bits e 8 7
/-- The MIRROR bit of a leaf. -/
def entMirror (e : Nat) : Bool := bit e 6

/-- The format rules of R265 (and LEAF at level 3, R264). -/
def formatOk (e level : Nat) : Bool :=
  let remote := bit e 1 && entTarget e == 3
  bits e 15 11 == 0 && (remote || bits e 63 52 == 0) &&
  (if bit e 1 then
    let base := if remote then 65536 * bits e 35 16 else entAddr e
    base % 2 ^ pageLog level == 0 &&
    (if entTarget e = 0 then bits e 10 9 == 1 || bits e 10 9 == 2 else bits e 10 9 == 0) &&
    !(bit e 5 && bit e 3) && !(bit e 6 && entTarget e != 0) && !(bit e 4 && entTarget e != 0)
  else level != 3 && bits e 10 2 == 0 && (aliasOf? (entAddr e)).isSome)

/-- The permission check of R267. -/
def accessFault? (e : Nat) (acc : AccKind) : Option XFault :=
  let w := if bit e 3 then none else if bit e 5 then some XFault.sharedRo else some .permission
  match acc with
  | .read => if bit e 2 then none else some .permission
  | .write => w
  | .exec => if bit e 4 then none else some .permission
  | .atomic => if bit e 2 then w else if bit e 5 then some .sharedRo else some .permission

/-- The access writes. -/
def accWrites : AccKind → Bool
  | .write => true
  | .atomic => true
  | _ => false

/-- The target check of R268: the target, or none for BAD_TARGET. -/
def State.targetCheck (s : State) (ctx e off : Nat) (acc : AccKind) : Option Tgt :=
  match entTarget e with
  | 0 =>
    match aliasOf? (entAddr e + off) with
    | some (al, _) => if (bits e 10 9 == 1) == (al == 0) then some (paTarget (entAddr e + off)) else none
    | none => none
  | 1 =>
    match paTarget (entAddr e + off) with
    | .site n o => if s.siteServes n && s.siteExposes n o then some (.site n o) else none
    | _ => none
  | 2 =>
    match paTarget (entAddr e + off) with
    | .host w o =>
      match s.hostWindow? w o 1 (accWrites acc) with
      | some (f, _) => if f = s.owner ctx then some (.host w o) else none
      | none => none
    | _ => none
  | _ =>
    let o := 65536 * bits e 35 16 + off
    if o < 2 ^ 36 then some (.remote (bits e 63 48) (bits e 47 36) o) else none

/-- What a translation gives. -/
inductive XRes where
  | ok (tgt : Tgt) (entry level : Nat)
  | fault (cause : XFault) (level : Nat)
  deriving DecidableEq, Repr

/-- A leaf of a level applied to an access (R266 to R268). -/
def State.useLeaf (s : State) (ctx e level va : Nat) (acc : AccKind) : XRes :=
  match accessFault? e acc with
  | some c => .fault c level
  | none =>
    match s.targetCheck ctx e (va % 2 ^ pageLog level) acc with
    | some t => .ok t e level
    | none => .fault .badTarget 0

/-- The address of the entry that a level of the walk reads. -/
def entryAt (table level va : Nat) : Nat := table + 8 * (va / 2 ^ pageLog level % 8192)

/-- An entry as its home would return it now: its value, or none for poison (R266). -/
def State.peekEntry (s : State) (pa : Nat) : Option Nat :=
  match paTarget pa with
  | .stacked k a =>
    let r := s.peekUnit k a
    match r.2 with
    | some _ => none
    | none => some (bits r.1.toNat (8 * (a % 64) + 63) (8 * (a % 64)))
  | _ => none

/-- The walk of R266 made at one instant from a level on, for the hub's own checks of R163 and R288. -/
def State.walkFrom (s : State) (ctx va : Nat) (acc : AccKind) : List Nat → Nat → XRes
  | [], _ => .fault .badEntry 3
  | level :: rest, table =>
    match s.peekEntry (entryAt table level va) with
    | none => .fault .tablePoison level
    | some e =>
      if !bit e 0 then .fault .notPresent level
      else if !formatOk e level then .fault .badEntry level
      else if bit e 1 then s.useLeaf ctx e level va acc
      else s.walkFrom ctx va acc rest (entAddr e)

/-- translate of R266, made at one instant. -/
def State.walkNow (s : State) (ctx va : Nat) (acc : AccKind) : XRes :=
  s.walkFrom ctx va acc [1, 2, 3] (s.ptRoot ctx)

/-! ### Areas and held translations (R163) -/

/-- A cached translation covers a virtual address. -/
def CacheEnt.hits (e : CacheEnt) (ctx va : Nat) : Bool :=
  e.ctx == ctx && e.base == va / 2 ^ pageLog e.level * 2 ^ pageLog e.level

/-- The mapping check of R163: the area, aligned to its size where `aligned` asks it, lies in a single page
that allows the access; the translation to hold. -/
def State.areaCheck (s : State) (aligned : Bool) (ctx va size : Nat) (acc : AccKind) : Option CacheEnt :=
  if aligned = true ∧ va % size ≠ 0 then none
  else match s.walkNow ctx va acc with
    | .ok _ e level =>
      if va % 2 ^ pageLog level + size ≤ 2 ^ pageLog level then
        some { ctx := ctx, base := va / 2 ^ pageLog level * 2 ^ pageLog level, level := level, entry := e }
      else none
    | .fault _ _ => none

/-- A 55-bit base from its LO and HI registers (R162). -/
def State.base55 (s : State) (lo hi : Nat) : Nat := 2 ^ 32 * s.rf hi 22 0 + s.rf lo 31 6 * 64

/-- The completion ring of a context passes (R163). -/
def State.checkCq (s : State) (c : Nat) : Option CacheEnt :=
  let z := s.rf (rCqCtrl c) 4 0
  if 6 ≤ z ∧ z ≤ 16 then s.areaCheck false c (s.base55 (rCqBaseLo c) (rCqBaseHi c)) (32 * 2 ^ z) .write else none

/-- The histogram area passes. -/
def State.checkHist (s : State) (c : Nat) : Option CacheEnt :=
  s.areaCheck false c (s.base55 (rCqHistBaseLo c) (rCqHistBaseHi c)) (320 * 2 ^ s.rf (rCqCtrl c) 4 0) .write

/-- The fault ring of a context passes (R288). -/
def State.checkFlt (s : State) (c : Nat) : Option CacheEnt :=
  let z := s.rf (rCtxFltCtrl c) 3 0
  if 6 ≤ z ∧ z ≤ 14 then s.areaCheck true c (s.base55 (rCtxFltBaseLo c) (rCtxFltBaseHi c)) (64 * 2 ^ z) .write
  else none

/-- The pieces of a range that lie in one 2 KiB granule each, at most `fuel` of them: address and length. Neighbouring
granules lie on different stacks (R196). -/
def granulePieces : Nat → Nat → Nat → List (Nat × Nat)
  | 0, _, _ => []
  | fuel + 1, va, len =>
    let n := min len (2048 - va % 2048)
    if len = 0 then [] else (va, n) :: granulePieces fuel (va + n) (len - n)

/-- Where an address leads through a held translation (R163), which was checked when it was made; what has changed at
the target since is met there (R270). -/
def heldTgt (e : CacheEnt) (va : Nat) : Tgt :=
  let off := va % 2 ^ pageLog e.level
  if entTarget e.entry = 3 then
    .remote (bits e.entry 63 48) (bits e.entry 47 36) (65536 * bits e.entry 35 16 + off)
  else paTarget (entAddr e.entry + off)

/-- Write through a held translation (R163). -/
def storeHeld (raise : Raise) (who : Who) (e : CacheEnt) (va : Nat) (bytes : List Byte) (s : State) : State :=
  forEach (granulePieces (bytes.length / 2048 + 2) va bytes.length) (fun p s =>
    (storeBytes raise who (heldTgt e p.1) ((bytes.drop (p.1 - va)).take p.2) 0 0 (entMirror e.entry) s).2) s

/-- Such a write of `len` bytes has to wait for room in a request table (R365). -/
def State.heldWaits (s : State) (e : CacheEnt) (va len : Nat) : Bool :=
  s.tableWaits (heldTgt e va)
    (((granulePieces (len / 2048 + 2) va len).map (fun p => remoteCount (p.2 + 1) (tgtOff (heldTgt e p.1)) p.2)).foldl (· + ·) 0)

/-! ### Records (R291, R292) -/

/-- The 64 bytes of a record. -/
def recordBytes (r : Rec) (phase overflow : Bool) (drops pos : Nat) : List Byte :=
  let w0 := r.code + 2 ^ 16 * b2n phase + 2 ^ 17 * b2n r.stalling + 2 ^ 18 * b2n overflow
  let w1 := (if r.device then 2 ^ 12 else r.ctx % 4096) + 2 ^ 16 * min drops 65535
  let ws := [w0, w1, pos, 0] ++ r.words
  (List.range 16).flatMap (fun i => natToBytes 4 (ws.getD i 0))

/-- PHASE of position `pos` in a ring of 2^z slots: 1 in the first pass (R180, R288). -/
def ringPhase (pos z : Nat) : Bool := pos / 2 ^ z % 2 = 0

/-- A ring of 2^z slots has room. -/
def ringRoom (tail head z : Nat) : Bool := (tail + 2 ^ 32 - head) % 2 ^ 32 < 2 ^ z

/-! ### The operator ring and the kept store (R288 to R290) -/

/-- FLT_OP_BASE: a device physical address. -/
def State.opBase (s : State) : Nat := 2 ^ 32 * s.rf rFltOpBaseHi 19 0 + s.rf rFltOpBaseLo 31 6 * 64

/-- The operator ring is enabled. -/
def State.opOn (s : State) : Bool := s.rb rFltOpCtrl 31

/-- The operator ring has room. -/
def State.opRoom (s : State) : Bool := ringRoom (s.reg rFltOpTail) (s.reg rFltOpHead) (s.rf rFltOpCtrl 3 0)

/-- An informational record is dropped from the operator ring and counted (R282, R289). -/
def dropOp (s : State) : State :=
  updXlt (fun x => { x with opDrops := min (x.opDrops + 1) 65535 })
    (rcCount rFltOpStatus 31 16 1 (rcFlag rFltOpStatus 0 s))

/-- KEPT_LOST (R290). -/
def lostRecord (n lo hi : Nat) : Rec :=
  { code := 0x0B01, stalling := false, device := true, ctx := 0, words := [n, lo, hi] }

/-- A kept record waits with Welore; one that finds the store full is counted for KEPT_LOST, which takes its
place before any later kept record once there is room (R290). -/
def keepRecord (r : Rec) (s : State) : State :=
  updXlt (fun x =>
    let lose (x : Xlt) : Xlt :=
      match x.kept.find? (fun k => k.code == 0x0B01) with
      | some k =>
        let n := lostRecord (min (k.words.getD 0 0 + 1) (2 ^ 32 - 1)) (min (k.words.getD 1 0) r.code)
          (max (k.words.getD 2 0) r.code)
        { x with kept := x.kept.map (fun y => if y.code = 0x0B01 then n else y) }
      | none =>
        { x with lost := min (x.lost + 1) (2 ^ 32 - 1),
                 lostLo := if x.lost = 0 then r.code else min x.lostLo r.code,
                 lostHi := if x.lost = 0 then r.code else max x.lostHi r.code }
    if 4096 ≤ x.kept.length then lose x
    else if x.lost = 0 then { x with kept := x.kept ++ [r] }
    else
      let x1 := { x with kept := x.kept ++ [lostRecord x.lost x.lostLo x.lostHi], lost := 0, lostLo := 0,
                         lostHi := 0 }
      if 4096 ≤ x1.kept.length then
        { x1 with kept := x1.kept.map (fun y => if y.code = 0x0B01 then
            lostRecord (x.lost + 1) (min x.lostLo r.code) (max x.lostHi r.code) else y) }
      else { x1 with kept := x1.kept ++ [r] }) s

/-- How a record raised while a record is being written is treated: a kept one waits with Welore, an
informational one is dropped (log entry 13). -/
def quietRaise : Raise := fun code kept words s =>
  if kept then keepRecord { code := code, stalling := false, device := true, ctx := 0, words := words } s
  else dropOp s

/-- A record written to the operator ring (R288). -/
def writeOp (r : Rec) (s : State) : State :=
  let tail := s.reg rFltOpTail
  let z := s.rf rFltOpCtrl 3 0
  let bytes := recordBytes r (ringPhase tail z) (s.xlt.opDrops != 0) s.xlt.opDrops tail
  let s1 := updXlt (fun x => { x with opDrops := 0 }) s
  let s2 := (storeBytes quietRaise .welore (paTarget (s.opBase + 64 * (tail % 2 ^ z))) bytes 0 0 false s1).2
  let s3 := setReg rFltOpTail ((tail + 1) % 2 ^ 32) s2
  if s3.rb rFltOpCtrl 4 then sendVector 0 (s3.rf rFltOpCtrl 16 5) s3 else s3

/-- Losses that have been counted become one KEPT_LOST record once the store has room (R290). -/
def placeLost (s : State) : State :=
  updXlt (fun x =>
    if x.lost = 0 ∨ 4096 ≤ x.kept.length then x
    else { x with kept := x.kept ++ [lostRecord x.lost x.lostLo x.lostHi], lost := 0, lostLo := 0, lostHi := 0 }) s

/-- Kept records that wait are written in order while the ring has room; `n` bounds their number. -/
def drainKept : Nat → State → State
  | 0, s => s
  | n + 1, s =>
    match s.xlt.kept with
    | [] => s
    | r :: l =>
      if s.opOn && s.opRoom then
        drainKept n (placeLost (writeOp r (updXlt (fun x => { x with kept := l }) s)))
      else s

/-- A record for the operator ring: kept records that wait go first; then it is written if the ring is
enabled and has room, and otherwise kept or dropped (R222, R282, R289, R290). -/
def opRecord (code : Nat) (kept : Bool) (words : List Nat) (s : State) : State :=
  let r : Rec := { code := code, stalling := false, device := true, ctx := 0, words := words }
  let s1 := drainKept (s.xlt.kept.length + 1) s
  if s1.opOn && s1.opRoom && s1.xlt.kept.isEmpty then writeOp r s1
  else if kept then keepRecord r s1
  else dropOp s1

/-- One service request (R444, R547): a kept record, SVC_STATUS and GPIO3. -/
def serviceRequest (ty id cause action : Nat) (s : State) : State :=
  let s1 := rcEvent rSvcStatus 18 16 (fun v => max v action) (rcCount rSvcStatus 15 0 1 s)
  let s2 := if 3 ≤ action then emit (.pin "GPIO3" 0) { s1 with pins := { s1.pins with gpio3Low := true } } else s1
  opRecord 0x0801 true [ty, id, cause, action] s2

/-! ### Context fault rings (R280, R282, R288) -/

/-- The fault ring of context `c` can be reached: its held translation, made again if it was removed; a
failure sets CFG_ERROR, and the ring is tried again only after an invalidation (R163). -/
def fltArea (c : Nat) (s : State) : Option CacheEnt × State :=
  match (s.context c).heldFlt with
  | some e => (some e, s)
  | none =>
    if (s.context c).fltFailed then (none, s)
    else match s.checkFlt c with
      | some e => (some e, updCtx c (fun x => { x with heldFlt := some e }) s)
      | none => (none, updCtx c (fun x => { x with fltFailed := true }) (rcFlag (rCtxStatus c) 3 s))

/-- The address of the next record of context `c`'s fault ring. -/
def State.fltSlot (s : State) (c : Nat) : Nat :=
  s.base55 (rCtxFltBaseLo c) (rCtxFltBaseHi c) + 64 * (s.reg (rCtxFltTail c) % 2 ^ s.rf (rCtxFltCtrl c) 3 0)

/-- The fault ring of context `c` has room. -/
def State.fltRoom (s : State) (c : Nat) : Bool :=
  ringRoom (s.reg (rCtxFltTail c)) (s.reg (rCtxFltHead c)) (s.rf (rCtxFltCtrl c) 3 0)

/-- A record written to the fault ring of context `c` through `e`. -/
def writeFlt (c : Nat) (e : CacheEnt) (r : Rec) (s : State) : State :=
  let tail := s.reg (rCtxFltTail c)
  let z := s.rf (rCtxFltCtrl c) 3 0
  let drops := (s.context c).fltDrops
  let bytes := recordBytes r (ringPhase tail z) (drops != 0) drops tail
  let s1 := storeHeld opRecord (.record c true) e (s.fltSlot c) bytes (updCtx c (fun x => { x with fltDrops := 0 }) s)
  let s2 := setReg (rCtxFltTail c) ((tail + 1) % 2 ^ 32) s1
  if s2.rb (rCtxFltCtrl c) 4 then sendVector (s2.owner c) (s2.rf (rCtxFltCtrl c) 16 5) s2 else s2

/-- An informational record is dropped from the ring of context `c` and counted (R282). -/
def dropFlt (c : Nat) (s : State) : State :=
  updCtx c (fun x => { x with fltDrops := min (x.fltDrops + 1) 65535 })
    (rcCount (rCtxFltStatus c) 31 16 1 (rcFlag (rCtxFltStatus c) 0 s))

/-- A stalling record of context `c` waits at some walker (R280). -/
def State.stallingWaits (s : State) (c : Nat) : Bool :=
  (List.range 3).any (fun p => (s.walker p).pft.any (fun e => e.2.st == .undelivered && e.2.ctx == c))

/-- The TRANSLATION_FAULT record of entry `i` of walker `p` (R292). -/
def faultRecord (p i : Nat) (e : Pft) : Rec :=
  { code := 0x0101, stalling := true, device := false, ctx := e.ctx,
    words := [e.seq, p + i * 4 + 2 ^ 10 * e.access + 2 ^ 13 * e.causes + 2 ^ 19 * e.level,
      65536 * (e.page % 65536), e.page / 65536] ++ (List.range 4).map (fun j => e.bitmap / 2 ^ (32 * j) % 2 ^ 32) }

/-- The record of the UNDELIVERED entry `i` of walker `p` is written, if its ring has room and its area holds (R280). -/
def deliverEntry (p i : Nat) (e : Pft) (s : State) : State :=
  let r := fltArea e.ctx s
  if s.fltRoom e.ctx then
    match r.1 with
    | some a =>
      if r.2.heldWaits a (r.2.fltSlot e.ctx) 64 then r.2
      else updWalker p (fun w => { w with
        pft := Table.set w.pft i { e with st := .delivered },
        order := w.order.filter (· != i) }) (writeFlt e.ctx a (faultRecord p i e) r.2)
    | none => r.2
  else s

/-- The stalling records of context `c` that wait are written while its ring has room, before any informational record
(R282). -/
def deliverWaiting (c : Nat) (s : State) : State :=
  forEach [0, 1, 2] (fun p s => forEach (s.walker p).order (fun i s =>
    match Table.find? (s.walker p).pft i with
    | some e => if e.ctx = c then deliverEntry p i e s else s
    | none => s) s) s

/-- An informational record for the fault ring of context `c`: written, or dropped when the ring is full, its
area has failed, a stalling record waits for it (R282, R163), or its write would have to wait (log entry 113). -/
def ctxRecord (c code : Nat) (words : List Nat) (s : State) : State :=
  let r : Rec := { code := code, stalling := false, device := false, ctx := c, words := words }
  let s0 := deliverWaiting c s
  if s0.fltRoom c && !s0.stallingWaits c then
    match fltArea c s0 with
    | (some e, s1) => if s1.heldWaits e (s1.fltSlot c) 64 then dropFlt c s1 else writeFlt c e r s1
    | (none, s1) => dropFlt c s1
  else dropFlt c s0

end Sys2Proof.Machine
end

