-- ==== Sys2Proof/Machine/Translate.lean ====
section
/-!
DEFINITION. The translation of the hub's requesters: caches, walks in progress, and how a fault stalls its
requester and how it leaves (R266, R272 to R274, R276 to R278, R286).
-/
namespace Sys2Proof.Machine

/-- What a requester's translation answers: a target with its leaf, a walk still under way, a stall on a
fault, or an abort of the stalled work (R284). -/
inductive XOut where
  | ok (tgt : Tgt) (entry : Nat)
  | wait
  | stalled
  | aborted
  deriving DecidableEq, Repr

/-! ### Requesters (R272, R276) -/

/-- The cluster whose engine serves a COPY. -/
def State.copyCluster (s : State) (id : Nat) : Nat := ((s.liveOf? id).map (·.cluster)).getD 0

/-- The walker that walks for a requester (R276). -/
def State.walkerOf (s : State) : Who → Nat
  | .tileFetch t => tilePart t
  | .tileDma t => tilePart t
  | .copy id => clusterPart (s.copyCluster id)
  | .site n _ => sitePart n
  | .fabWin p _ _ => portPart p
  | .reduce p _ => portPart p
  | .host _ _ => 1
  | .dispatcher _ => 1
  | .walker p _ => p
  | .record _ _ => 1
  | .welore => 1

/-- The position of a requester in the bitmap of R276. -/
def State.position (s : State) : Who → Nat
  | .tileFetch t => (s.logicalOf? t).getD 0
  | .tileDma t => (s.logicalOf? t).getD 0
  | .copy id => 72 + s.copyCluster id
  | .site n _ => 90 + n
  | .fabWin p _ _ => 96 + p
  | .reduce p _ => 96 + p
  | _ => 112

/-- The translation cache of a requester. -/
def State.cacheOf (s : State) (who : Who) : List CacheEnt :=
  match who with
  | .tileFetch t => vget [] s.xlt.ctc (tileCluster t)
  | .tileDma t => vget [] s.xlt.ctc (tileCluster t)
  | .copy id => vget [] s.xlt.ctc (s.copyCluster id)
  | .site n _ => vget [] s.xlt.siteCache n
  | .fabWin p _ _ => vget [] s.xlt.fabCache p
  | .reduce p _ => vget [] s.xlt.fabCache p
  | _ => s.xlt.hostCache

/-- The translation cache of a requester changed. -/
def updCache (who : Who) (f : List CacheEnt → List CacheEnt) (s : State) : State :=
  match who with
  | .tileFetch t => updXlt (fun x => { x with ctc := vupd [] x.ctc (tileCluster t) f }) s
  | .tileDma t => updXlt (fun x => { x with ctc := vupd [] x.ctc (tileCluster t) f }) s
  | .copy id => updXlt (fun x => { x with ctc := vupd [] x.ctc (s.copyCluster id) f }) s
  | .site n _ => updXlt (fun x => { x with siteCache := vupd [] x.siteCache n f }) s
  | .fabWin p _ _ => updXlt (fun x => { x with fabCache := vupd [] x.fabCache p f }) s
  | .reduce p _ => updXlt (fun x => { x with fabCache := vupd [] x.fabCache p f }) s
  | _ => updXlt (fun x => { x with hostCache := f x.hostCache }) s

/-- Entries of a requester's translation cache (R272). -/
def cacheSize : Who → Nat
  | .tileFetch _ => 4096
  | .tileDma _ => 4096
  | .copy _ => 4096
  | _ => 64

/-- An entry enters a cache of `n`; where there is no room the oldest leaves (log entry 112). -/
def pushEntry (n : Nat) (e : CacheEnt) (l : List CacheEnt) : List CacheEnt :=
  let l := l.filter (· != e) ++ [e]
  l.drop (l.length - n)

/-- Two requesters stall together (R276): the same one, but for a site whose requests of one context stall
together (the context is compared where this is used), a window of a fabric port, and a function of the host
port. -/
def sameRequester : Who → Who → Bool
  | .site n _, .site m _ => n == m
  | .fabWin p w _, .fabWin q v _ => p == q && w == v
  | .host f _, .host g _ => f == g
  | a, b => a == b

/-- The requester has an access that is stalled on a fault. -/
def State.isStalled (s : State) (who : Who) (ctx : Nat) : Bool :=
  s.xlt.stalled.any (fun e => sameRequester e.who who &&
    (match who with
     | .site _ _ => e.ctx == ctx
     | _ => true))

/-! ### Faults on their way (R273, R277) -/

/-- Entries that a translation used leave the caches (R273). -/
def forget (who : Who) (ctx va : Nat) (s : State) : State :=
  updWalker (s.walkerOf who) (fun w => { w with cache := w.cache.filter (fun e => !e.hits ctx va) })
    (updCache who (fun l => l.filter (fun e => !e.hits ctx va)) s)

/-- A translation faults: its requester stalls, and the fault goes to its fault-home walker (R276, R277). -/
def stallFault (who : Who) (ctx va : Nat) (acc : AccKind) (cause : XFault) (level : Nat) (s : State) : State :=
  let m : FaultMsg :=
    { src := s.walkerOf who, who := who, ctx := ctx, va := va, acc := acc, cause := cause, level := level }
  let s1 := updXlt (fun x => { x with stalled := x.stalled ++ [{ who := who, ctx := ctx, page := va / 65536 }] })
    (forget who ctx va s)
  updWalker (va / 65536 % 3) (fun w => { w with arriving := w.arriving ++ [m] }) s1

/-! ### Walks (R266, R272) -/

/-- Where a new walk starts: behind the lowest cached non-leaf entry that covers the address (R272). -/
def State.walkStart (s : State) (p ctx va : Nat) : Nat × Nat :=
  match (s.walker p).cache.find? (fun e => e.level == 2 && e.hits ctx va) with
  | some e => (3, entAddr e.entry)
  | none =>
    match (s.walker p).cache.find? (fun e => e.level == 1 && e.hits ctx va) with
    | some e => (2, entAddr e.entry)
    | none => (1, s.ptRoot ctx)

/-- A lookup of a cluster translation cache is counted (R509). -/
def countCtc (who : Who) (ctx ev : Nat) (s : State) : State :=
  match who with
  | .tileFetch t => countEvent (blkCluster (tileCluster t)) ev (some ctx) none none 1 s
  | .tileDma t => countEvent (blkCluster (tileCluster t)) ev (some ctx) none none 1 s
  | .copy id => countEvent (blkCluster (s.copyCluster id)) ev (some ctx) none none 1 s
  | _ => s

/-- A requester's translation (R266): from its cache, or by a walk, which it starts unless one is under way;
an abort released to it is reported once. -/
def xlate (who : Who) (ctx va : Nat) (acc : AccKind) (s : State) : XOut × State :=
  let page := va / 65536
  if s.xlt.aborted.contains (who, ctx, page) then
    (.aborted, updXlt (fun x => { x with aborted := x.aborted.erase (who, ctx, page) }) s)
  else if s.isStalled who ctx then (.stalled, s)
  else match (s.cacheOf who).find? (fun e => e.hits ctx va) with
    | some e =>
      let s0 := countCtc who ctx 0x22 s
      match s.useLeaf ctx e.entry e.level va acc with
      | .ok t ent _ => (.ok t ent, s0)
      | .fault c l => (.stalled, stallFault who ctx va acc c l s0)
    | none =>
      let p := s.walkerOf who
      if (s.walker p).walks.any (fun w => w.who == who && w.ctx == ctx && w.va / 65536 == page) then (.wait, s)
      else
        let st := s.walkStart p ctx va
        (.wait, updWalker p (fun w => { w with nextWalk := w.nextWalk + 1, walks := w.walks ++
          [{ num := w.nextWalk, who := who, ctx := ctx, va := va, acc := acc, level := st.1, table := st.2 }] })
          (countCtc who ctx 0x23 s))

/-- An entry has come back to walk `k` of walker `p`: the walk faults, finds its leaf, or goes down a level
(R266, R272). -/
def walkEntry (p k : Nat) (w : Walk) (e : Option Nat) (s : State) : State :=
  let done := updWalker p (fun x => { x with walks := x.walks.eraseIdx k }) s
  let fault (c : XFault) : State := stallFault w.who w.ctx w.va w.acc c w.level done
  match e with
  | none => fault .tablePoison
  | some e =>
    if !bit e 0 then fault .notPresent
    else if !formatOk e w.level then fault .badEntry
    else
      let ent : CacheEnt := { ctx := w.ctx, base := w.va / 2 ^ pageLog w.level * 2 ^ pageLog w.level,
                              level := w.level, entry := e }
      if bit e 1 then
        match s.useLeaf w.ctx e w.level w.va w.acc with
        | .ok _ _ _ => updCache w.who (pushEntry (cacheSize w.who) ent) done
        | .fault c l => stallFault w.who w.ctx w.va w.acc c l done
      else
        updWalker p (fun x => { x with
          cache := pushEntry 256 ent x.cache,
          walks := x.walks.set k { w with level := w.level + 1, table := entAddr e } }) s

/-! ### Pending-fault tables (R278, R286) -/

/-- The entries of a walker that are live (R278). -/
def Pft.live (e : Pft) : Bool := e.st == .undelivered || e.st == .delivered

/-- FLT_p_STATUS.LIVE follows the table (R293). -/
def syncLive (p : Nat) (s : State) : State :=
  setRf (rFltPStatus p) 8 0 ((s.walker p).pft.filter (fun e => e.2.live)).length s

/-- Entry `i` of walker `p` becomes FREE, and the faults that wait without a record are presented again, the one that
has waited longest first and all of them before newer ones (R281). -/
def freePft (p i : Nat) (s : State) : State :=
  syncLive p (updWalker p (fun w =>
    { w with
      pft := Table.erase w.pft i,
      order := w.order.filter (· != i),
      arriving := w.noRecord ++ w.arriving,
      noRecord := [] }) s)

/-- A requester's bit is still needed in an entry: another of its accesses of that context and page is stalled. -/
def State.bitNeeded (s : State) (ctx page pos : Nat) : Bool :=
  s.xlt.stalled.any (fun e => e.ctx == ctx && e.page == page && s.position e.who == pos)

/-- The bits of accesses that have left (context, page and position) go from the live entries of walker `p`,
and an entry without a bit becomes FREE (R286). -/
def clearBits (p : Nat) (gone : List (Nat × Nat × Nat)) (s : State) : State :=
  forEach (s.walker p).pft (fun e s =>
    let drop := (gone.filter (fun g => g.1 == e.2.ctx && g.2.1 == e.2.page && bit e.2.bitmap g.2.2 &&
      !s.bitNeeded g.1 g.2.1 g.2.2)).map (fun g => g.2.2)
    if e.2.live && !drop.isEmpty then
      let b := drop.eraseDups.foldl (fun b i => b - 2 ^ i) e.2.bitmap
      if b = 0 then freePft p e.1 s
      else updWalker p (fun w => { w with pft := Table.set w.pft e.1 { e.2 with bitmap := b } }) s
    else s) s

/-- A walk that is over takes nothing any more: what was read for it is dropped (R266, R274). -/
def trimWalks (s : State) : State :=
  let on : Who → Bool
    | .walker p n => (s.walker p).walks.any (fun w => w.num == n)
    | _ => true
  updPlz (fun p => { p with
    arrivals := p.arrivals.filter (fun a => on a.who),
    asked := p.asked.filter (fun a => on a.1) }) s

/-- The stalled accesses and walks of requesters that satisfy `q` end; their bits stay where they are. -/
def endStalls (q : Who → Nat → Bool) (s : State) : State :=
  trimWalks (forEach [0, 1, 2] (fun p s => updWalker p (fun w => { w with walks := w.walks.filter (fun k => !q k.who k.ctx) }) s)
    (updXlt (fun x => { x with
      stalled := x.stalled.filter (fun e => !q e.who e.ctx),
      aborted := x.aborted.filter (fun e => !q e.1 e.2.1) }) s))

/-- Stalled accesses that satisfy `q` end without a retry: their requesters leave the entries, the faults on
their way and the walks (R286). -/
def leaveStalls (q : Who → Nat → Bool) (s : State) : State :=
  let gone := (s.xlt.stalled.filter (fun e => q e.who e.ctx)).map (fun e => (e.ctx, e.page, s.position e.who))
  let s1 := forEach [0, 1, 2] (fun p s => updWalker p (fun w => { w with
    arriving := w.arriving.filter (fun k => !q k.who k.ctx),
    noRecord := w.noRecord.filter (fun k => !q k.who k.ctx) }) s) (endStalls q s)
  forEach [0, 1, 2] (fun p s => clearBits p gone s) s1

/-- Units that have arrived or are awaited for requesters that satisfy `q`, and failures of their writes, are
dropped. -/
def dropArrivals (q : Who → Bool) (s : State) : State :=
  updPlz (fun p => { p with
    arrivals := p.arrivals.filter (fun a => !q a.who),
    asked := p.asked.filter (fun a => !q a.1),
    failed := p.failed.filter (fun a => !q a.1) }) s

/-- The requesters that satisfy `q` are gone: their stalled accesses, walks and units with them. -/
def leaveFaults (q : Who → Nat → Bool) (s : State) : State := dropArrivals (fun w => q w 4096) (leaveStalls q s)

/-- A requester has units or acknowledgements outstanding. -/
def State.awaits (s : State) (q : Who → Bool) : Bool := s.plz.asked.any (fun a => q a.1)

/-- A requester whose work a drain stops by itself: it does not retry before that (R188 step 2). -/
def stopsAlone : Who → Bool
  | .tileFetch _ => true
  | .tileDma _ => true
  | .copy _ => true
  | .reduce _ _ => true
  | _ => false

/-- A drain ends the stalled accesses of the context, those of sites, windows and the host with the error of R284,
frees every live entry of the context and discards its undelivered records (R286). -/
def dropFaults (ctx : Nat) (s : State) : State :=
  let mine := s.xlt.stalled.filter (fun e => e.ctx == ctx)
  let s0 := leaveStalls (fun _ c => c == ctx) s
  let s1 := updXlt (fun x => { x with
    stalled := x.stalled ++ mine.filter (fun e => stopsAlone e.who),
    aborted := x.aborted ++ (mine.filter (fun e => !stopsAlone e.who)).map (fun e => (e.who, e.ctx, e.page)) }) s0
  forEach [0, 1, 2] (fun p s =>
    forEach ((s.walker p).pft.filter (fun e => e.2.live && e.2.ctx == ctx)) (fun e s => freePft p e.1 s) s) s1

end Sys2Proof.Machine
end

