-- ==== Sys2Proof/Machine/Coherence.lean ====
section
/-!
DEFINITION. The plazas: how a home starts, carries on and ends each transaction (R235 to R240, R244, R245,
R247), the snoops of the owners and of the Ring Road (R241, R242), the delivery of every coherence message,
the loss of a plaza (R256 to R258) and FLUSH_ALL (R260). Reads by the home find memory as the memory
controllers' reads (MRD) have left it.
-/
namespace Sys2Proof.Machine

/-! ### Transactions and lines (R235) -/

/-- The transaction with number `id`. -/
def State.txn? (s : State) (id : Nat) : Option Txn := s.plz.txns.find? (fun t => t.id == id)

/-- The transaction with number `id` changed. -/
def updTxn (id : Nat) (f : Txn → Txn) (s : State) : State :=
  updPlz (fun p => { p with txns := p.txns.map (fun t => if t.id = id then f t else t) }) s

/-- The transaction `t` ends; its line unblocks. -/
def endTxn (t : Txn) (s : State) : State := setTxns t.line (fun l => l.filter (fun x => x.id != t.id)) s

/-- The line is blocked by a transaction in progress (R235). -/
def State.blocked (s : State) (lk : Nat) : Bool :=
  s.plz.txns.any (fun t => t.line == lk && t.phase != .waiting)

/-- The line waits for a sweep of its owner's entries or of its stack (R253 step 4, R218). -/
def State.swept (s : State) (lk : Nat) : Bool :=
  s.plz.stackSweep.contains (lineStack lk) ||
    (match s.ownerSite? lk with
     | some n => s.plz.ownerSweep.contains n
     | none => false)

/-- The transaction has an entry of its plaza's tracker: it is in progress, it is one of the home's own, or fewer than 512
came before it. Any other waits at the door of the plaza (R235). -/
def State.inTracker (s : State) (t : Txn) : Bool :=
  t.phase != .waiting || t.req == .none ||
    decide (((s.plazaTxns (s.homePlaza t.line)).takeWhile (fun x => x.id != t.id)).length < 512)

/-- The oldest waiting transaction of a line that can start now (R235). -/
def State.ready? (s : State) (lk : Nat) : Option Txn :=
  if s.blocked lk || s.swept lk then none
  else match s.plz.txns.find? (fun t => t.line == lk) with
    | some t =>
      if !s.inTracker t then none
      else match t.after with
        | some a => if (s.txn? a).isSome then none else some t
        | none => some t
    | none => none

/-- A coherence message sent. -/
def sendMsg (m : CMsg) (s : State) : State := updPlz (fun p => { p with msgs := p.msgs ++ [m] }) s

/-- The site that is the requester of a transaction. -/
def reqSite? : Req → Option Nat
  | .site n _ => some n
  | _ => none

/-- The requester is a site in service that gives COMP_ACK; nothing is awaited of any other (R236). -/
def State.needsAck (s : State) (r : Req) : Bool :=
  match r with
  | .site n _ => s.inService uSite n
  | _ => false

/-! ### The owner table (R243) -/

/-- PLZ_n_OWNERS.IN_USE of the home of a line follows the table. -/
def syncOwners (p : Nat) (s : State) : State :=
  setRf (rPlzNOwners p) 14 0 (s.plz.owners.filter (fun e => s.homePlaza e.1 == p)).length s

/-- An entry allocated for a line. -/
def ownLine (lk n : Nat) (s : State) : State :=
  syncOwners (s.homePlaza lk) (updPlz (fun p => { p with
    owners := Table.set p.owners lk { site := n, order := p.order }, order := p.order + 1 }) s)

/-- The entry of a line freed. -/
def freeOwner (lk : Nat) (s : State) : State :=
  syncOwners (s.homePlaza lk) (updPlz (fun p => { p with owners := Table.erase p.owners lk }) s)

/-- One PROTOCOL_ERROR record (R259): site and message. -/
def protocolError (n msg : Nat) (s : State) : State := opRecord 0x0305 false [n, msg] s

/-! ### Storing a returned line (R201, R236, R253) -/

/-- One unit of a line stored in the plaza as an owner returned it; to a stack out of service it is
dropped (R218). -/
def storeReturn (lk u : Nat) (d : UnitData) (m : Option Mark) (dirty : Bool) (s : State) : State :=
  match s.stackOut? (lineStack lk) with
  | some _ => updStack (lineStack lk) (fun x => { x with droppedWrites := x.droppedWrites + 1 }) s
  | none => storeUnitAt opRecord lk u d m dirty s

/-- Both units of a line become poisoned and DIRTY in the plaza with source 4 (R253 step 4); where its set has no way free,
the line goes on to memory. -/
def poisonLine (lk : Nat) (s : State) : State :=
  let s1 := forEach [0, 1] (fun u s =>
    storeReturn lk u 0 (some (s.markFor (lineStack lk) (lineAddr lk + 64 * u) 4)) true s) s
  if s.hasRoom lk then s1 else dropLine lk (cleanLine opRecord lk s1)

/-! ### Serving a line that is not owned (R236) -/

/-- The units a transaction asks for. -/
def Txn.units (t : Txn) : List Nat :=
  match t.kind with
  | .rdOnce true => [0, 1]
  | .rdOnce false =>
    match t.req with
    | .agent _ tag => [tag % 2]
    | _ => [t.mask.toNat % 2]
  | .atomic off _ _ _ _ => [off / 64]
  | _ => [0, 1]

/-- The transaction needs units that its home cannot read yet: the controller of a retraining module, or any after a
thermal trip, issues nothing (R212, R501). -/
def State.memStops (s : State) (t : Txn) : Bool :=
  let ready (u : Nat) : Bool := s.memReady (lineStack t.line) (lineAddr t.line + 64 * u)
  !(match t.kind with
    | .rdShared => t.units.all ready
    | .rdUnique => t.units.all ready
    | .rdOnce _ => t.units.all ready
    | .atomic off w _ _ _ => t.units.all ready && lineReady t.line ((2 ^ w - 1) * 2 ^ off) t.mirror s
    | .wrFull => lineReady t.line t.mask.toNat t.mirror s
    | .wrPart => lineReady t.line t.mask.toNat t.mirror s && (decide (t.hint < 8) || t.units.all ready)
    | _ => true)

/-- Both units of a line as its home reads them, without allocation; units not asked for read as zero. -/
def readLine (lk : Nat) (us : List Nat) (s : State) :
    (UnitData × Option Mark) × (UnitData × Option Mark) × State :=
  let a := if us.contains 0 then homeRead opRecord lk 0 s else ((0, none), s)
  let b := if us.contains 1 then homeRead opRecord lk 1 a.2 else ((0, none), a.2)
  (a.1, b.1, b.2)

/-- The operation of R240 on `w` bytes: the new value, or none for a form that is UNSUPPORTED. -/
def atomicOp (op w old x cmp : Nat) : Option Nat :=
  let m := 2 ^ (8 * w)
  let small := w == 4 || w == 8
  let a := signed (8 * w) old
  let b := signed (8 * w) x
  if op = 2 then (if small || w == 16 then some (if old = cmp % m then x % m else old) else none)
  else if op = 10 then (if w = 4 then some (fp32Add old (x % m)) else none)
  else if !small then none
  else match op with
    | 0 => some ((old + x) % m)
    | 1 => some (x % m)
    | 3 => some (old &&& (x % m))
    | 4 => some (old ||| (x % m))
    | 5 => some (old ^^^ (x % m))
    | 6 => some (if a < b then x % m else old)
    | 7 => some (if b < a then x % m else old)
    | 8 => some (max old (x % m))
    | 9 => some (min old (x % m))
    | _ => none

/-- The atomic of R240 is supported: width, operation and alignment. -/
def atomicOk (off w op : Nat) : Bool := w != 0 && off % w == 0 && (atomicOp op w 0 0 0).isSome

/-- An ATOMIC at a line that the home holds alone (R240): the answer's unit and mark. Its write is a write of the bytes it
concerns, which the mirror bit sends to two places (R206). -/
def doAtomic (lk off w op x cmp : Nat) (mirror : Bool) (s : State) : (UnitData × Option Mark) × State :=
  let u := off / 64
  let o := off % 64
  let r := homeRead opRecord lk u s
  match r.1.2 with
  | some m => ((0, some m), r.2)
  | none =>
    let old := bits r.1.1.toNat (8 * (o + w) - 1) (8 * o)
    match (if off % w = 0 then atomicOp op w old x cmp else none) with
    | none => ((0, some { cause := 0x13, detail := 1 }), r.2)
    | some v =>
      ((BitVec.ofNat 512 old, none),
        homeWrite opRecord lk (BitVec.ofNat 1024 (v * 2 ^ (8 * off))) ((2 ^ w - 1) * 2 ^ off) none none 0 mirror r.2)

/-- The site that a write's hint pushes to, if it is caching and in service (R247). -/
def State.pushTo? (s : State) (hint : Nat) : Option Nat :=
  let n := hint - 8
  if 8 ≤ hint ∧ hint ≤ 13 ∧ s.inService uSite n ∧ s.siteCaching n then some n else none

/-- A write of a transaction merged, into the mirror too where the mirror bit asks it (R206, R238, R246). -/
def mergeTxn (t : Txn) (s : State) : State :=
  if t.mirror then
    match s.mirrorOf? (lineStack t.line) (lineAddr t.line) with
    | some (_, k', a') =>
      let l' := lineKey k' a'
      let s1 := homeWrite opRecord t.line t.data t.mask.toNat t.m0 t.m1 t.hint false s
      if s1.lineFree l' && !(s1.pline l').sharedOut then
        homeWrite opRecord l' t.data t.mask.toNat t.m0 t.m1 t.hint false s1
      else postTxn t.kind t.req l' t.data t.mask t.m0 t.m1 t.hint false s1
    | none => homeWrite opRecord t.line t.data t.mask.toNat t.m0 t.m1 t.hint true s
  else homeWrite opRecord t.line t.data t.mask.toNat t.m0 t.m1 t.hint false s

/-- The status with which a write ends: DENIED where every place it goes to is dead or isolated (R312, R341). -/
def State.ackStatus (s : State) (t : Txn) : Nat :=
  let lost (lk : Nat) : Bool := s.homeDead lk || s.stackOut? (lineStack lk) == some 2
  let other := if t.mirror then
      match s.mirrorOf? (lineStack t.line) (lineAddr t.line) with
      | some (_, k', a') => lost (lineKey k' a')
      | none => true
    else true
  if lost t.line && other then 3 else 0

/-- A mirrored write whose second write was posted to the mirror's home is acknowledged from there (R206). -/
def State.mirrorPosted (s : State) (t : Txn) : Bool :=
  t.mirror &&
    (match s.mirrorOf? (lineStack t.line) (lineAddr t.line) with
     | some (_, k', a') => s.plz.txns.any (fun x => x.line == lineKey k' a' && x.req == t.req && x.id != t.id)
     | none => false)

/-- The transaction waits for the memory controller's MEM_DONE. -/
def awaitMem (t : Txn) (s : State) : State :=
  sendMsg (.memDone t.line t.id) (updTxn t.id (fun x =>
    { x with
      phase := .closing
      rsp := false
      mem := true }) s)

/-- WR_ACK for a write, the push of R247, and the end of the transaction. -/
def ackTxn (t : Txn) (s : State) : State :=
  let s1 := if s.mirrorPosted t then s else sendMsg (.wrAck t.req t.line (s.ackStatus t)) s
  match s1.pushTo? t.hint with
  | some n =>
    let r := readLine t.line [0, 1] s1
    let s2 := setPline t.line { r.2.2.pline t.line with sharedOut := true } r.2.2
    let s3 := updTxn t.id (fun x => { x with phase := .closing, stash := some n }) s2
    sendMsg (.stash n t.line t.id (joinUnits r.1.1 r.2.1.1) r.1.2 r.2.1.2) s3
  | none => endTxn t s1

/-- An eviction of a DIRTY line writes to memory (R245, R509). -/
def evictLine (l : Nat) (s : State) : State :=
  let p := s.pline l
  let s1 := if p.d0 || p.d1 then countEvent (blkPlaza (s.homePlaza l)) 0x33 none none none 1 s else s
  dropLine l (cleanLine opRecord l s1)

/-- The transaction carried out on a line that no site owns and none shares where that matters; `fwd` says
that its request had been forwarded, so that COMP follows too (R236, R237). -/
def serveTxn (t : Txn) (fwd : Bool) (s : State) : State :=
  let lk := t.line
  let comp (s : State) : State := if fwd then sendMsg (.comp t.req lk t.id none) s else s
  let close (s : State) : State :=
    if s.needsAck t.req then updTxn t.id (fun x => { x with phase := .closing, rsp := false, ack := true }) s
    else endTxn t s
  match t.kind with
  | .rdShared =>
    let s1 := if (s.stackOut? (lineStack lk)).isSome then s else allocLine opRecord lk s
    let s2 := setPline lk { s1.pline lk with sharedOut := true } s1
    let r := readLine lk [0, 1] s2
    close (comp (sendMsg (.data t.req lk (joinUnits r.1.1 r.2.1.1) r.1.2 r.2.1.2 .s) r.2.2))
  | .rdUnique =>
    let l := s.pline lk
    let dirty := (l.v0 && l.d0) || (l.v1 && l.d1)
    let r := readLine lk [0, 1] s
    match reqSite? t.req with
    | some n =>
      if s.inService uSite n then
        let s1 := ownLine lk n (giveLine lk r.2.2)
        close (comp (sendMsg (.data t.req lk (joinUnits r.1.1 r.2.1.1) r.1.2 r.2.1.2
          (if dirty then .m else .e)) s1))
      else endTxn t s
    | none => endTxn t s
  | .rdOnce _ =>
    let held := t.units.all (fun u => ((s.pline lk).unit? u).isSome)
    let r := readLine lk t.units s
    let s1 := comp (sendMsg (.data t.req lk (joinUnits r.1.1 r.2.1.1) r.1.2 r.2.1.2 .none) r.2.2)
    if held || s.homeDead lk then endTxn t s1
    else awaitMem t s1
  | .wrFull =>
    let direct := t.hint == 1 && !(s.pline lk).held
    let s1 := mergeTxn t s
    if direct then
      awaitMem t s1
    else ackTxn t s1
  | .wrPart =>
    let direct := t.hint == 1 && !(s.pline lk).held
    let s1 := mergeTxn t s
    if direct then
      awaitMem t s1
    else ackTxn t s1
  | .atomic off w op x cmp =>
    let r := doAtomic lk off w op x cmp t.mirror s
    let d := if off / 64 = 0 then joinUnits r.1.1 0 else joinUnits 0 r.1.1
    let m (u : Nat) : Option Mark := if off / 64 = u then r.1.2 else none
    endTxn t (sendMsg (.data t.req lk d (m 0) (m 1) .none) r.2)
  | .writeback => endTxn t (sendMsg (.wbAck t.req lk false) s)
  | .evictClean => endTxn t (sendMsg (.wbAck t.req lk false) s)
  | .flushLine => endTxn t (sendMsg (.wrAck t.req lk (s.ackStatus t)) (dropLine lk (cleanLine opRecord lk s)))
  | .takeBack => endTxn t s
  | .evict => endTxn t (evictLine lk s)

/-- The requests that make the home the only holder of a line (R236, R245). -/
def needsInv (k : TKind) : Bool :=
  match k with
  | .rdShared => false
  | .rdOnce _ => false
  | .writeback => false
  | .evictClean => false
  | .takeBack => false
  | _ => true

/-- The line has no owner any more: an SNP_INV goes out where shared copies must go, and otherwise the
transaction is served (R236, R241). -/
def unowned (t : Txn) (fwd : Bool) (s : State) : State :=
  if needsInv t.kind && (s.pline t.line).sharedOut then
    let s1 := updTxn t.id (fun x => { x with phase := .invalidating, rsp := fwd, ring := true, inv := 0 }) s
    sendMsg (.snpInv t.line t.id ((reqSite? t.req).getD 6) none 0 0)
      (countEvent (blkPlaza (s.homePlaza t.line)) 0x34 none none none 1 s1)
  else serveTxn t fwd s

/-- A request of the site's agent changed. -/
def updAgentReq (n txn : Nat) (f : AgentReq → AgentReq) (s : State) : State :=
  updSite n (fun x => { x with agents := x.agents.map (fun a => if a.txn = txn then f a else a) }) s

/-! ### Starting (R235, R236, R244, R245, R256 to R258) -/

/-- The request of a line's transaction is counted at its plaza (R509): the lookup, the units it brings, and an atomic. -/
def countRequest (t : Txn) (s : State) : State :=
  let ctx := match t.req with
    | .agent w _ => s.whoCtx? w
    | .site n txn => s.whoCtx? (.site n txn)
    | .none => none
  let b := blkPlaza (s.homePlaza t.line)
  let s1 := countLookup ctx t.line s
  match t.kind with
  | .wrFull => countUnits b 0 2 s1
  | .wrPart => countUnits b 0 (maskUnits t.mask.toNat) s1
  | .writeback => countUnits b 0 2 s1
  | .atomic _ _ _ _ _ => countEvent b 0x37 ctx none none 1 s1
  | .takeBack => s
  | .evict => s
  | _ => s1

/-- The home forwards to the owner `k`, or recalls or drops its line (R236). -/
def snoopOwner (t : Txn) (k : Nat) (s : State) : State :=
  let go (wb : Bool) (m : CMsg) : State :=
    let ev := match m with
      | .snpRecall _ _ _ => 0x36
      | .snpDrop _ _ _ => 0
      | _ => 0x35
    sendMsg m (updTxn t.id (fun x => { x with
      phase := .snooping, owner := some k, rsp := true, wb := wb, invSeen := 0, noData := false })
      (countEvent (blkPlaza (s.homePlaza t.line)) ev none none none 1 s))
  let fwd (s : State) : State :=
    let f : Fwd :=
      { num := t.id % 4096, req := t.req, line := t.line, comp := false, got0 := none, got1 := none }
    let s1 := updPlz (fun p => { p with fwds := p.fwds ++ [f] }) s
    match t.req with
    | .site n txn => updAgentReq n txn (fun a => { a with needComp := true }) s1
    | _ => s1
  match t.kind with
  | .rdShared => fwd (go true (.snpFwdShared k t.line t.id t.req))
  | .rdUnique => fwd (go false (.snpFwdUnique k t.line t.id t.req))
  | .rdOnce _ => fwd (go false (.snpFwdOnce k t.line t.id t.req))
  | .wrFull => go false (.snpDrop k t.line t.id)
  | _ => go true (.snpRecall k t.line t.id)

/-- The used ways of a line's set that hold a line which nothing blocks: what the plaza may give up (R245). -/
def State.evictable (s : State) (lk : Nat) : List Nat :=
  (s.setUsed lk).filter (fun l => (s.pline l).held && !s.plz.txns.any (fun t => t.line == l))

/-- The line that is given up to make room for line `lk`: the choice that is named, if it may be taken, else the first that
may. Ways without KEEP go before ways with KEEP (R228, R245). -/
def State.victim? (s : State) (lk : Nat) (choice : Option Nat) : Option Nat :=
  let all := s.evictable lk
  let plain := all.filter (fun l => !(s.pline l).keep)
  let ok := if plain.isEmpty then all else plain
  match choice with
  | some l => if ok.contains l then some l else ok.head?
  | none => ok.head?

/-- The entries of the owner-table set of a line that are used or promised, but for transaction `t` (R243, R244). -/
def State.ownersUsed (s : State) (t : Txn) : List Nat :=
  let p := s.homePlaza t.line
  let promised := s.plz.txns.filterMap (fun x =>
    if x.kind == .rdUnique && x.id != t.id && (x.phase != .waiting || x.recalled) && (s.ownerSite? x.line).isNone &&
        s.homePlaza x.line == p then some x.line else none)
  (s.plz.owners.filter (fun e => s.homePlaza e.1 == p)).map (·.1) ++ promised

/-- The owner-table entry that a grant of ownership has recalled first: where the set is full, the one allocated longest ago
(R244). -/
def State.recall? (s : State) (t : Txn) : Option Nat :=
  let used := s.ownersUsed t
  if t.kind != .rdUnique || t.recalled || (s.ownerSite? t.line).isSome || decide (used.length < 16) then none
  else
    let same := used.filter (fun l => Config.ownerSet l == Config.ownerSet t.line)
    if same.length < 16 then none
    else
      let es := s.plz.owners.filter (fun e => same.contains e.1)
      let first := es.foldl (fun m e => min m e.2.order) s.plz.order
      (es.find? (fun e => e.2.order == first)).map (·.1)

/-- The plaza's data array yields an uncorrectable unit (R256). -/
def plazaUe (lk u : Nat) (s : State) : State :=
  let l := s.pline lk
  let k := lineStack lk
  let a := lineAddr lk + 64 * u
  match l.unit? u with
  | none => s
  | some r =>
    let p := s.homePlaza lk
    let s1 := addRf (rPlzNErrors p) 31 16 1 s
    let s2 :=
      if l.dirty u then
        storeUnitAt opRecord lk u r.1 (some (s.markFor k a 1)) true s1
      else setPline lk (if u = 0 then { l with v0 := false, d0 := false, u0 := 0, m0 := none }
                        else { l with v1 := false, d1 := false, u1 := 0, m1 := none }) s1
    opRecord 0x0301 false ([p] ++ words2 (targetPa (.stacked k a)) ++ [b2n (l.dirty u)]) s2

/-- The requester of the transaction has been sent what its request asks for. -/
def Txn.answered (t : Txn) : Bool :=
  t.phase == .closing &&
    (match t.kind with
     | .wrFull => !t.mem
     | .wrPart => !t.mem
     | _ => true)

/-- A transaction of a dead home is answered: reads with poison TARGET_ABSENT, writes as DENIED (R258, R341). -/
def absorbTxn (t : Txn) (s : State) : State :=
  if t.answered then endTxn t s
  else
    let z := sendMsg (.data t.req t.line 0 (some absentMark) (some absentMark) .none) s
    let fwd := t.phase == .snooping || (t.phase == .invalidating && t.rsp)
    let zc := if fwd then sendMsg (.comp t.req t.line t.id (some absentMark)) z else z
    endTxn t (match t.kind with
      | .rdShared => zc
      | .rdUnique => zc
      | .rdOnce _ => zc
      | .atomic _ _ _ _ _ => z
      | .writeback => sendMsg (.wbAck t.req t.line false) s
      | .evictClean => sendMsg (.wbAck t.req t.line false) s
      | .takeBack => s
      | .evict => s
      | _ => sendMsg (.wrAck t.req t.line 3) s)

/-- The message is a snoop of a line. -/
def CMsg.snoops? (m : CMsg) : Option Nat :=
  match m with
  | .snpFwdShared _ l _ _ => some l
  | .snpFwdUnique _ l _ _ => some l
  | .snpFwdOnce _ l _ _ => some l
  | .snpRecall _ l _ => some l
  | .snpDrop _ l _ => some l
  | .snpInv l _ _ _ _ _ => some l
  | _ => none

/-- A plaza fails after READY: its transactions are answered, and its lines are never snooped again (R258). -/
def failPlaza (p cause : Nat) (s : State) : State :=
  if s.status uPlaza p = stFailed then s
  else
    let s1 := setStatus uPlaza p stFailed cause s
    let s2 := forEach (s1.plz.txns.filter (fun t => s1.homePlaza t.line == p)) absorbTxn s1
    let s3 := updPlz (fun z => { z with
      snoops := z.snoops.filter (fun n => s1.homePlaza n.line != p),
      msgs := z.msgs.filter (fun m => match CMsg.snoops? m with
        | some l => s1.homePlaza l != p
        | none => true) }) s2
    serviceRequest uPlaza p cause 3 (opRecord 0x0303 true [p, cause] s3)

/-- The line of an atomic's mirror, where it is to be written too (R206). -/
def State.mirrorLine? (s : State) (t : Txn) : Option Nat :=
  match t.kind with
  | .atomic _ _ _ _ _ =>
    if t.mirror then
      match s.mirrorOf? (lineStack t.line) (lineAddr t.line) with
      | some (_, k', a') => if (s.stackOut? k').isSome || s.homeDead (lineKey k' a') then none else some (lineKey k' a')
      | none => none
    else none
  | _ => none

/-- That line, where the home does not hold it alone: it is flushed before the atomic is carried out at both places. -/
def State.mirrorBusy? (s : State) (t : Txn) : Option Nat :=
  (s.mirrorLine? t).filter (fun l => !(s.lineFree l && !(s.pline l).sharedOut))

/-- A request on another line goes before the transaction, which is looked at again once it has ended. -/
def putBefore (t : Txn) (kind : TKind) (l : Nat) (s : State) : State :=
  updTxn t.id (fun x => { x with after := some s.plz.nextTxn }) (postTxn kind .none l 0 0 none none 0 false s)

/-- The first line for which the transaction needs a way that its set does not have free: its own, its mirror's, or that of
the entry it recalls (R244, R245). -/
def State.noRoom? (s : State) (t : Txn) : Option Nat :=
  ((if s.allocates t then [t.line] else []) ++ (s.mirrorLine? t).toList ++ (s.recall? t).toList).find? (fun l => !s.hasRoom l)

/-- What a transaction finds in the plaza's arrays on its way (R256, R257, R509). -/
def lookUp (t : Txn) (ev : HomeEv) (s : State) : State :=
  let p := s.homePlaza t.line
  let s0 := countRequest t s
  let s1 := if ev.tagRepair then opRecord 0x0302 false [p] (addRf (rPlzNErrors p) 15 0 1 s0) else s0
  let s2 := if ev.ue0 then plazaUe t.line 0 s1 else s1
  if ev.ue1 then plazaUe t.line 1 s2 else s2

/-- The request goes to the owner, or is served as a line that is not owned (R236). -/
def unownedOrSnoop (t : Txn) (s : State) : State :=
  match s.ownerSite? t.line with
  | none => unowned t false s
  | some k =>
    if reqSite? t.req = some k then
      match t.kind with
      | .writeback =>
        let s1 := storeReturn t.line 0 (lineUnit t.data 0) t.m0 true (freeOwner t.line s)
        endTxn t (sendMsg (.wbAck t.req t.line true) (storeReturn t.line 1 (lineUnit t.data 1) t.m1 true s1))
      | .evictClean => endTxn t (sendMsg (.wbAck t.req t.line true) (freeOwner t.line s))
      | .rdUnique => unowned t false (protocolError k 2 (freeOwner t.line s))
      | .rdShared => unowned t false (protocolError k 1 (freeOwner t.line s))
      | .rdOnce _ => unowned t false (protocolError k 3 (freeOwner t.line s))
      | _ => snoopOwner t k s
    else match t.kind with
      | .writeback => endTxn t (sendMsg (.wbAck t.req t.line false) s)
      | .evictClean => endTxn t (sendMsg (.wbAck t.req t.line false) s)
      | .evict => unowned t false s
      | _ => snoopOwner t k s

/-- A request of the home's own starts at once on another line, and the transaction is looked at again once it has ended. -/
def startBefore (t : Txn) (kind : TKind) (l : Nat) (s : State) : State :=
  let id := s.plz.nextTxn
  let s1 := putBefore t kind l s
  match s1.txn? id with
  | some r => unownedOrSnoop r s1
  | none => s1

/-- The recall of an owner-table entry for a grant of ownership (R244). -/
def startRecall (t : Txn) (l : Nat) (s : State) : State :=
  startBefore t .takeBack l (updTxn t.id (fun x => { x with recalled := true }) (addRf (rPlzNOwners (s.homePlaza l)) 31 15 1 s))

/-- Room is made for line `l`: a line of its set without a shared copy leaves at once and the transaction goes on; one with
a shared copy leaves first. Where every way is blocked, the transaction waits (R245). -/
def makeRoom (t : Txn) (l : Nat) (choice : Option Nat) (go : State → State) (s : State) : State :=
  match s.victim? l choice with
  | none => s
  | some v => if (s.pline v).sharedOut then startBefore t .evict v s else go (evictLine v s)

/-- The transaction is carried out, once an entry that its grant needs has been recalled. -/
def carryOut (t : Txn) (s : State) : State :=
  match s.recall? t with
  | some l => if s.plz.txns.any (fun x => x.line == l) then s else startRecall t l s
  | none => unownedOrSnoop t s

/-- The transaction is carried out, once there is room for what it holds. -/
def beginTxn (t : Txn) (choice : Option Nat) (s : State) : State :=
  match s.noRoom? t with
  | some l => makeRoom t l choice (fun u => if (u.noRoom? t).isSome then u else carryOut t u) s
  | none => carryOut t s

/-- The home takes back a line from its owner on its own account (R218, R326). -/
def recallLine (lk : Nat) (s : State) : State :=
  if s.plz.txns.any (fun t => t.line == lk) then s
  else
    let id := s.plz.nextTxn
    let s1 := postTxn .takeBack .none lk 0 0 none none 0 false s
    match s1.txn? id with
    | some t => beginTxn t none s1
    | none => s1

/-- The oldest transaction of a line starts, with what the plaza's arrays do on the way. -/
def startTxn (t : Txn) (ev : HomeEv) (s : State) : State :=
  if s.homeDead t.line then absorbTxn t s
  else if ev.tagDead then failPlaza (s.homePlaza t.line) ccTag s
  else beginTxn t ev.evict (lookUp t ev s)

/-- A transaction of a given sort that heads its line starts, unless its home must wait for memory (R212, R501). -/
def startIf (q : TKind → Bool) (lk : Nat) (ev : HomeEv) (s : State) : State :=
  match s.ready? lk with
  | some t =>
    if !q t.kind || ((s.ownerSite? lk).isNone && s.memStops t) then s
    else match s.mirrorBusy? t with
      | some l => putBefore t .flushLine l s
      | none => startTxn t ev s
  | none => s

/-! ### Answers to snoops (R236, R237, R254) -/

/-- A forwarded request is past its snoop: its requester is told, by COMP OK or POISONED. -/
def compFwd (t : Txn) (m : Option Mark) (s : State) : State := sendMsg (.comp t.req t.line t.id m) s

/-- The owner has answered all that was asked of it: what follows (R236); `gone` says that it holds the line no more (R237). -/
def afterSnoop (t : Txn) (gone : Bool) (s : State) : State :=
  let fwdDone (s : State) : State :=
    updPlz (fun p => { p with fwds := p.fwds.filter (fun f => f.num != t.id % 4096) }) s
  if t.rsp || (t.wb && !t.noData) then s
  else match t.kind with
    | .rdShared =>
      let s1 := freeOwner t.line s
      if t.noData then serveTxn t true (fwdDone s1)
      else
        let s2 := compFwd t none (setPline t.line { s1.pline t.line with sharedOut := true } s1)
        if s2.needsAck t.req then updTxn t.id (fun x => { x with phase := .closing, ack := true }) s2
        else endTxn t s2
    | .rdUnique =>
      if t.noData then serveTxn t true (fwdDone (freeOwner t.line s))
      else match reqSite? t.req with
        | some q =>
          let s1 := compFwd t none (ownLine t.line q s)
          if s1.needsAck t.req then updTxn t.id (fun x => { x with phase := .closing, ack := true }) s1
          else endTxn t s1
        | none => endTxn t (freeOwner t.line s)
    | .rdOnce _ =>
      if t.noData then serveTxn t true (fwdDone (freeOwner t.line s))
      else endTxn t (compFwd t none (if gone then freeOwner t.line s else s))
    | .takeBack => endTxn t (freeOwner t.line s)
    | _ => unowned t false (freeOwner t.line s)

/-- One SNP_RSP reaches the home (R236, R242): site, number, whether data went to the requester and to the
home, and the state left (R234, coded as in R306). -/
def snpRsp (n txn : Nat) (toReq toHome : Bool) (left : Nat) (s : State) : State :=
  match s.plz.snoops.find? (fun x => x.site == n && x.txn % 4096 == txn) with
  | none => protocolError n 0x21 s
  | some x =>
    let s1 := updPlz (fun p => { p with snoops := p.snoops.erase x }) s
    match s1.txn? x.txn with
    | none => s1
    | some t =>
      match t.phase with
      | .snooping =>
        let none' := match t.kind with
          | .rdShared => !toReq && !toHome
          | .rdUnique => !toReq
          | .rdOnce _ => !toReq
          | .wrFull => false
          | _ => !toHome
        let t' := { t with rsp := false, noData := none', wb := t.wb && !none' }
        afterSnoop t' (left == 0) (updTxn t.id (fun _ => t') s1)
      | .invalidating =>
        let t' := { t with inv := if bit t.inv n then t.inv - 2 ^ n else t.inv }
        let s2 := updTxn t.id (fun _ => t') s1
        if t'.ring = false ∧ t'.inv = 0 then
          serveTxn t' t'.rsp (setPline t.line { s2.pline t.line with sharedOut := false } s2)
        else s2
      | _ => s1

/-- One unit of WB_DATA reaches the home: stored, DIRTY as the message says (R236); two of them complete
it. -/
def wbData (n txn u : Nat) (d : UnitData) (m : Option Mark) (dirty : Bool) (s : State) : State :=
  match s.plz.txns.find? (fun t => t.id % 4096 == txn && t.owner == some n && t.phase == .snooping) with
  | none => protocolError n 0x32 s
  | some t =>
    if !t.wb then protocolError n 0x32 s
    else
      let s1 := storeReturn t.line u d m dirty s
      let seen := t.invSeen ||| (if u = 0 then 1 else 2)
      let t' := { t with invSeen := seen, wb := seen != 3 }
      afterSnoop t' false (updTxn t.id (fun _ => t') s1)

/-! ### Delivery to requesters (R231, R236, R250) -/

/-- The target that a unit of a line is. -/
def unitTgt (lk u : Nat) : Tgt := .stacked (lineStack lk) (lineAddr lk + 64 * u)

/-- GRANT of R306. -/
def grantCode : Grant → Nat
  | .none => 0
  | .s => 1
  | .e => 2
  | .m => 3

/-- The grant of a GRANT field. -/
def codeGrant (c : Nat) : Grant :=
  match c with
  | 1 => .s
  | 2 => .e
  | 3 => .m
  | _ => .none

/-- One unit of DATA for a KSP chiplet, with the class of its request (R307, R310). -/
def kspUnit (n txn cls u : Nat) (d : UnitData) (m : Option Mark) (g : Grant) (s : State) : State :=
  toSite n { KMsg.blank with msg := 0x31, txn := txn, cls := cls, unit := u, grant := grantCode g, poison := m.isSome,
                             w3 := (m.map markWord).getD 0 } d s

/-- One unit of DATA for a request of a KSP chiplet that is under way. -/
def kspData (n txn u : Nat) (d : UnitData) (m : Option Mark) (g : Grant) (s : State) : State :=
  kspUnit n txn (s.siteReqClass n txn) u d m g s

/-- The requester has all it waits for and gives COMP_ACK; the line unblocks once nothing else is awaited
(R236). -/
def compAck (n txn : Nat) (s : State) : State :=
  match s.plz.txns.find? (fun t => t.req == .site n txn && t.ack && t.phase == .closing) with
  | none => protocolError n 0x23 s
  | some t =>
    let s1 := updSite n (fun x => { x with agents := x.agents.filter (fun a => a.txn != txn) }) s
    endTxn t s1

/-- The transaction at the home expects a COMP_ACK of the site. -/
def State.ackDue (s : State) (n txn : Nat) : Bool :=
  s.plz.txns.any (fun t => t.req == .site n txn && t.ack && t.phase == .closing)

/-- A KSP site's request leaves its agent once all its messages have been passed on and no COMP_ACK is due. -/
def retireAgent (n txn : Nat) (s : State) : State :=
  if s.ackDue n txn then s
  else updSite n (fun x => { x with agents := x.agents.filter (fun a =>
    !(a.txn == txn && a.gotData && (!a.needComp || a.gotComp))) }) s

/-- A CXL bridge passes data and GO to its device once it has DATA and, where due, COMP, and sends COMP_ACK
for the device (R250). -/
def cxlDeliver (n txn : Nat) (s : State) : State :=
  match (s.site n).agents.find? (fun a => a.txn == txn) with
  | none => s
  | some a =>
    if a.cxl && a.gotData && (!a.needComp || a.gotComp) then
      let go := match a.kind, a.grant with
        | .rdShared, _ => "GO-S"
        | .rdUnique, .m => "GO-M"
        | .rdUnique, _ => "GO-E"
        | _, _ => "GO-I"
      let s1 := if a.noData then s
                else emit (.cxl n (if a.m0.isSome || a.m1.isSome then "DATA-POISON" else "DATA") a.line a.data) s
      let s2 := emit (.cxl n go a.line 0) s1
      let s3 := updSite n (fun x => { x with agents := x.agents.filter (fun b => b.txn != txn) }) s2
      if s3.ackDue n txn then compAck n txn s3 else s3
    else s

/-- The units of a KSP read in the order they travel: both for a line, one for RD_ONCE of 64 bytes. -/
def AgentReq.units (a : AgentReq) : List Nat :=
  match a.kind with
  | .rdOnce false => [a.unit % 2]
  | .atomic off _ _ _ _ => [off / 64]
  | _ => [0, 1]

/-- DATA from a home or from the hub itself reaches its requester (R236). -/
def deliverData (req : Req) (lk : Nat) (d : LineData) (m0 m1 : Option Mark) (g : Grant) (s : State) : State :=
  match req with
  | .agent who tag => arrive who (unitTgt lk (tag % 2)) (lineUnit d (tag % 2)) (if tag % 2 = 0 then m0 else m1) s
  | .site n txn =>
    match (s.site n).agents.find? (fun a => a.txn == txn && !a.gotData) with
    | none => s
    | some a =>
      let s1 := updAgentReq n txn (fun a => { a with gotData := true, data := d, m0 := m0, m1 := m1, grant := g }) s
      if a.cxl then cxlDeliver n txn s1
      else
        retireAgent n txn
          (forEach a.units (fun u s => kspData n txn u (lineUnit d u) (if u = 0 then m0 else m1) g s) s1)
  | .none => s

/-- A forwarded request of a requester of the hub has its data and its COMP: the units arrive. -/
def settleFwd (f : Fwd) (s : State) : State :=
  match f.req with
  | .agent who tag =>
    let g := if tag % 2 = 0 then f.got0 else f.got1
    match g with
    | some r =>
      if f.comp then
        arrive who (unitTgt f.line (tag % 2)) r.1 r.2
          (updPlz (fun p => { p with fwds := p.fwds.filter (fun x => x.num != f.num) }) s)
      else s
    | none => s
  | _ => s

/-- DEST of a requester: the type and identity of the attachment that its DATA goes to, as the hub codes them (R307). -/
def reqDest (r : Req) : Nat :=
  match r with
  | .site q _ => unitKey uSite q
  | .agent (.tileFetch t) _ => unitKey uTile t
  | .agent (.tileDma t) _ => unitKey uTile t
  | .agent (.fabWin p _ _) _ => unitKey uPort p
  | .agent (.reduce p _) _ => unitKey uPort p
  | _ => unitKey uHost 0

/-- One unit that an owner sends on a forwarding snoop is routed by DEST (R308); a CXL bridge and the hub's
own requesters hold it until COMP. -/
def routeData (num u : Nat) (d : UnitData) (m : Option Mark) (g : Grant) (s : State) : Option State :=
  match s.plz.fwds.find? (fun f => f.num == num) with
  | none => none
  | some f =>
    let f' := if u = 0 then { f with got0 := some (d, m) } else { f with got1 := some (d, m) }
    let s1 := updPlz (fun p => { p with fwds := p.fwds.map (fun x => if x.num = num then f' else x) }) s
    match f.req with
    | .site n txn =>
      match (s1.site n).agents.find? (fun a => a.txn == txn && !a.gotData) with
      | none => some s1
      | some a =>
        let s2 := if a.cxl then s1 else kspData n txn u d m g s1
        let all := a.units.all (fun i => if i = 0 then f'.got0.isSome else f'.got1.isSome)
        if all then
          let z : UnitData × Option Mark := (0, none)
          let s3 := updAgentReq n txn (fun a => { a with
            gotData := true, grant := g, data := joinUnits (f'.got0.getD z).1 (f'.got1.getD z).1,
            m0 := (f'.got0.getD z).2, m1 := (f'.got1.getD z).2 }) s2
          let s4 := updPlz (fun p => { p with fwds := p.fwds.filter (fun x => x.num != num) }) s3
          some (if a.cxl then cxlDeliver n txn s4 else retireAgent n txn s4)
        else some s2
    | _ => some (settleFwd f' s1)

/-- COMP reaches its requester (R236); with COMP POISONED it completes without DATA (R254). -/
def deliverComp (req : Req) (id : Nat) (m : Option Mark) (s : State) : State :=
  match req with
  | .site n txn =>
    match (s.site n).agents.find? (fun a => a.txn == txn) with
    | none => s
    | some a =>
      let s1 := updAgentReq n txn (fun a => { a with
        gotComp := true, gotData := a.gotData || m.isSome,
        m0 := if m.isSome then m else a.m0, m1 := if m.isSome then m else a.m1,
        grant := match m, a.kind with
          | some _, .rdShared => .s
          | some _, .rdUnique => .e
          | _, _ => a.grant }) s
      if a.cxl then cxlDeliver n txn s1
      else
        let s2 := toSite n { KMsg.blank with msg := 0x22, txn := txn, cls := a.cls, status := b2n m.isSome, poison := m.isSome,
                                             w3 := (m.map markWord).getD 0 } 0 s1
        retireAgent n txn s2
  | .agent who tag =>
    match s.plz.fwds.find? (fun f => f.num == id % 4096) with
    | none => s
    | some f =>
      match m with
      | some k => arrive who (unitTgt f.line (tag % 2)) 0 (some k)
          (updPlz (fun p => { p with fwds := p.fwds.filter (fun x => x.num != f.num) }) s)
      | none =>
        let f' := { f with comp := true }
        settleFwd f' (updPlz (fun p => { p with fwds := p.fwds.map (fun x => if x.num = f.num then f' else x) }) s)
  | .none => s

/-- WR_ACK reaches the writer, completing its write (R231); a CXL device gets GO-I, or GO-Err for a write that failed (R314). -/
def deliverWrAck (req : Req) (status : Nat) (s : State) : State :=
  match req with
  | .site n txn =>
    let cxl := (s.site n).agents.any (fun a => a.txn == txn && a.cxl)
    let cls := s.siteReqClass n txn
    let s1 := updSite n (fun x => { x with agents := x.agents.filter (fun b => b.txn != txn) }) s
    if cxl then emit (.cxl n (if status = 0 then "GO-I" else "GO-Err") 0 0) s1
    else toSite n { KMsg.blank with msg := 0x24, txn := txn, cls := cls, status := status } 0 s1
  | .agent who _ => ackWrite who none s
  | .none => s

/-- WB_ACK reaches the site (R236). -/
def deliverWbAck (req : Req) (ok : Bool) (s : State) : State :=
  match req with
  | .site n txn =>
    let cxl := (s.site n).agents.any (fun a => a.txn == txn && a.cxl)
    let cls := s.siteReqClass n txn
    let s1 := updSite n (fun x => { x with agents := x.agents.filter (fun b => b.txn != txn) }) s
    if cxl then emit (.cxl n "GO-I" 0 0) s1
    else toSite n { KMsg.blank with msg := 0x25, txn := txn, cls := cls, status := if ok then 0 else 2 } 0 s1
  | _ => s

/-- A memory controller's MEM_DONE: the read or the write without allocation is finished (R236, R246). -/
def memDone (id : Nat) (s : State) : State :=
  match s.txn? id with
  | none => s
  | some t =>
    if !t.mem then s
    else match t.kind with
      | .wrFull => ackTxn t (updTxn id (fun x => { x with mem := false }) s)
      | .wrPart => ackTxn t (updTxn id (fun x => { x with mem := false }) s)
      | _ => endTxn t s

/-- STASH_ACK, or DECLINED on behalf of a lost site (R247, R254). -/
def stashAck (n txn : Nat) (s : State) : State :=
  match s.plz.txns.find? (fun t => t.stash == some n && t.id % 4096 == txn) with
  | none => protocolError n 0x26 s
  | some t => endTxn t s

/-- A message of the hub's own list, by sort. -/
inductive MSort where
  | snp (code n : Nat) | inv (txn : Nat) | data | comp | wrAck | wbAck | memDone | stash (n : Nat)
  deriving DecidableEq, Repr

/-- Does a message have that sort? -/
def CMsg.is (m : CMsg) (k : MSort) : Bool :=
  match m, k with
  | .snpFwdShared n _ _ _, .snp 0x11 k => n == k
  | .snpFwdUnique n _ _ _, .snp 0x12 k => n == k
  | .snpFwdOnce n _ _ _, .snp 0x13 k => n == k
  | .snpRecall n _ _, .snp 0x14 k => n == k
  | .snpDrop n _ _, .snp 0x15 k => n == k
  | .snpInv _ t _ _ _ _, .inv k => t == k
  | .data _ _ _ _ _ _, .data => true
  | .comp _ _ _ _, .comp => true
  | .wrAck _ _ _, .wrAck => true
  | .wbAck _ _ _, .wbAck => true
  | .memDone _ _, .memDone => true
  | .stash n _ _ _ _ _, .stash k => n == k
  | _, _ => false

/-- The requester that a message is for. -/
def CMsg.req? : CMsg → Option Req
  | .data r _ _ _ _ _ => some r
  | .comp r _ _ _ => some r
  | .wrAck r _ _ => some r
  | .wbAck r _ _ => some r
  | _ => none

/-- The unit that a requester of the hub's belongs to. -/
def State.whoUnit (s : State) (w : Who) : Nat :=
  match w with
  | .tileFetch t => unitKey uTile t
  | .tileDma t => unitKey uTile t
  | .copy id => unitKey uCluster (((s.liveOf? id).map (·.cluster)).getD 0)
  | .site n _ => unitKey uSite n
  | .fabWin p _ _ => unitKey uPort p
  | .reduce p _ => unitKey uPort p
  | .host _ _ => unitKey uHost 0
  | .dispatcher _ => unitKey 12 0
  | .walker p _ => unitKey 11 p
  | .record _ _ => unitKey 13 0
  | .welore => unitKey 14 0

/-- The unit of a requester at a home. -/
def State.reqUnit (s : State) (r : Req) : Nat :=
  match r with
  | .site n _ => unitKey uSite n
  | .agent w _ => s.whoUnit w
  | .none => 0

/-- The class, the source and the destination of a message, in that order: those that keep the order of messages between
units (R231, R232). An SNP_INV travels on the ring. -/
def State.msgRoute (s : State) (m : CMsg) : Nat × Nat × Nat :=
  let plaza (lk : Nat) : Nat := unitKey uPlaza (s.homePlaza lk)
  match m with
  | .snpFwdShared n lk _ _ => (2, plaza lk, unitKey uSite n)
  | .snpFwdUnique n lk _ _ => (2, plaza lk, unitKey uSite n)
  | .snpFwdOnce n lk _ _ => (2, plaza lk, unitKey uSite n)
  | .snpRecall n lk _ => (2, plaza lk, unitKey uSite n)
  | .snpDrop n lk _ => (2, plaza lk, unitKey uSite n)
  | .snpInv _ t _ _ _ _ => (5, t, 0)
  | .data r lk _ _ _ _ => (4, plaza lk, s.reqUnit r)
  | .comp r lk _ _ => (3, plaza lk, s.reqUnit r)
  | .wrAck r lk _ => (3, plaza lk, s.reqUnit r)
  | .wbAck r lk _ => (3, plaza lk, s.reqUnit r)
  | .memDone lk _ => (3, unitKey uStack (lineStack lk), plaza lk)
  | .stash n lk _ _ _ _ => (4, plaza lk, unitKey uSite n)

/-- Message `i` among those of a sort, provided none of its class goes before it from the same source to the same
destination (R231). -/
def State.msgAt? (s : State) (k : MSort) (i : Nat) : Option CMsg :=
  match (s.plz.msgs.zipIdx.filter (fun e => e.1.is k))[i]? with
  | none => none
  | some e => if (s.plz.msgs.take e.2).any (fun x => s.msgRoute x == s.msgRoute e.1) then none else some e.1

/-- The message taken from the list. -/
def takeMsg (m : CMsg) (s : State) : State := updPlz (fun p => { p with msgs := p.msgs.erase m }) s

/-! ### Snoops at a site (R233, R242, R251, R253) -/

/-- The device physical address by which a snoop names a line. -/
def linePa (lk : Nat) : Nat := targetPa (.stacked (lineStack lk) (lineAddr lk))

/-- The CXL snoop that a hub snoop becomes (R251). -/
def cxlSnoop (code : Nat) : String :=
  if code = 0x11 then "SnpData" else if code = 0x13 then "SnpCur" else "SnpInv"

/-- A snoop passes to the site's chiplet, or is answered at the stop of a site out of service (R253). -/
def snoopSite (n code lk txn : Nat) (req : Req) (s : State) : State :=
  let s1 := updPlz (fun p => { p with snoops := p.snoops ++ [{ site := n, line := lk, txn := txn }] }) s
  if s.inService uSite n then
    let s1 := countEvent (blkSite n) 0x55 none none none 1 s1
    if s.siteCxl n then emit (.cxl n (cxlSnoop code) lk 0) s1
    else
      let fwd := code ≤ 0x13
      let whole := match s.txn? txn with
        | some t => decide (t.units.length = 2)
        | none => false
      toSite n { KMsg.blank with msg := code, txn := txn % 4096, addr := linePa lk,
                                 cls := ((s.txn? txn).map (fun t => s.reqClass t.req)).getD 0,
                                 w3 := if fwd then reqDest req + 2 ^ 16 * (txn % 4096) +
                                   (if code = 0x13 then 2 ^ 28 * b2n whole else 0) else 0 } 0 s1
  else snpRsp n (txn % 4096) false false 0 s1

/-- A directed snoop reaches its site agent. -/
def directedSnoop (code n : Nat) (s : State) : State :=
  match s.msgAt? (.snp code n) 0 with
  | some m =>
    let s1 := takeMsg m s
    match m with
    | .snpFwdShared _ lk t r => snoopSite n code lk t r s1
    | .snpFwdUnique _ lk t r => snoopSite n code lk t r s1
    | .snpFwdOnce _ lk t r => snoopSite n code lk t r s1
    | .snpRecall _ lk t => snoopSite n code lk t .none s1
    | .snpDrop _ lk t => snoopSite n code lk t .none s1
    | _ => s1
  | none => s

/-- The oldest message of a class that a KSP site has delivered, with the message taken from the inbox, whose room
is owed to the chiplet as a credit (R305). -/
def takeInbox (n cls : Nat) (q : KMsg → Bool) (s : State) : Option ((KMsg × UnitData) × State) :=
  match (s.site n).inbox.find? (fun e => kspClass e.1.msg == cls) with
  | none => none
  | some e => if q e.1 then some (e, updSite n (fun x => { x with
    inbox := x.inbox.erase e, owed := x.owed.set cls (x.owed.getD cls 0 + 1) }) s) else none

/-- The mark that a unit from a site carries; a chiplet's own uncorrectable data takes the mark of R201
(R311). -/
def State.unitMark (s : State) (m : KMsg) (lk u : Nat) : Option Mark :=
  if !m.poison then none
  else if m.w3 = 0 then some (s.markFor (lineStack lk) (lineAddr lk + 64 * u) 1)
  else some (wordMark m.w3)

/-! ### The commands -/

/-- A line named by stack and line number. -/
def lineOf (k l : Nat) : Nat := 2 ^ 29 * k + l

/-- TRACKER_START: the oldest waiting transaction of the line starts (R235). -/
def execTrackerStart (k : Fin 12) (l : Fin (2 ^ 29)) (ev : HomeEv) (s : State) :
    Host.Outcome State Fault Refusal :=
  .next (startIf (fun _ => true) (lineOf k l) ev s)

/-- RD_SHARED starts at its home (R236). -/
def execRdShared (k : Fin 12) (l : Fin (2 ^ 29)) (ev : HomeEv) (s : State) :
    Host.Outcome State Fault Refusal :=
  .next (startIf (fun t => t == .rdShared) (lineOf k l) ev s)

/-- RD_UNIQUE starts at its home (R236). -/
def execRdUnique (k : Fin 12) (l : Fin (2 ^ 29)) (ev : HomeEv) (s : State) :
    Host.Outcome State Fault Refusal :=
  .next (startIf (fun t => t == .rdUnique) (lineOf k l) ev s)

/-- RD_ONCE starts at its home (R236). -/
def execRdOnce (k : Fin 12) (l : Fin (2 ^ 29)) (ev : HomeEv) (s : State) :
    Host.Outcome State Fault Refusal :=
  .next (startIf (fun t => match t with
    | .rdOnce _ => true
    | _ => false) (lineOf k l) ev s)

/-- WR_FULL starts at its home (R236). -/
def execWrFull (k : Fin 12) (l : Fin (2 ^ 29)) (ev : HomeEv) (s : State) :
    Host.Outcome State Fault Refusal :=
  .next (startIf (fun t => t == .wrFull) (lineOf k l) ev s)

/-- WR_PART starts at its home (R236). -/
def execWrPart (k : Fin 12) (l : Fin (2 ^ 29)) (ev : HomeEv) (s : State) :
    Host.Outcome State Fault Refusal :=
  .next (startIf (fun t => t == .wrPart) (lineOf k l) ev s)

/-- ATOMIC starts at its home (R236, R240). -/
def execAtomic (k : Fin 12) (l : Fin (2 ^ 29)) (ev : HomeEv) (s : State) :
    Host.Outcome State Fault Refusal :=
  .next (startIf (fun t => match t with
    | .atomic _ _ _ _ _ => true
    | _ => false) (lineOf k l) ev s)

/-- No event in the plaza's arrays. -/
def noEv : HomeEv :=
  { evict := Option.none, ue0 := false, ue1 := false, tagRepair := false, tagDead := false }

/-- WRITEBACK starts at its home (R236). -/
def execWriteback (k : Fin 12) (l : Fin (2 ^ 29)) (s : State) : Host.Outcome State Fault Refusal :=
  .next (startIf (fun t => t == .writeback) (lineOf k l) noEv s)

/-- EVICT_CLEAN starts at its home (R236). -/
def execEvictClean (k : Fin 12) (l : Fin (2 ^ 29)) (s : State) : Host.Outcome State Fault Refusal :=
  .next (startIf (fun t => t == .evictClean) (lineOf k l) noEv s)

/-- FLUSH_LINE starts at its home (R236). -/
def execFlushLine (k : Fin 12) (l : Fin (2 ^ 29)) (s : State) : Host.Outcome State Fault Refusal :=
  .next (startIf (fun t => t == .flushLine) (lineOf k l) noEv s)

/-- SNP_FWD_SHARED reaches site `n` (R236). -/
def execSnpFwdShared (n : Fin 6) (s : State) : Host.Outcome State Fault Refusal := .next (directedSnoop 0x11 n s)
/-- SNP_FWD_UNIQUE reaches site `n`. -/
def execSnpFwdUnique (n : Fin 6) (s : State) : Host.Outcome State Fault Refusal := .next (directedSnoop 0x12 n s)
/-- SNP_FWD_ONCE reaches site `n`. -/
def execSnpFwdOnce (n : Fin 6) (s : State) : Host.Outcome State Fault Refusal := .next (directedSnoop 0x13 n s)
/-- SNP_RECALL reaches site `n`. -/
def execSnpRecall (n : Fin 6) (s : State) : Host.Outcome State Fault Refusal := .next (directedSnoop 0x14 n s)
/-- SNP_DROP reaches site `n`. -/
def execSnpDrop (n : Fin 6) (s : State) : Host.Outcome State Fault Refusal := .next (directedSnoop 0x15 n s)

/-! ### The Ring Road (R23, R241, R242) -/

/-- The stop of plaza `p` (R23). -/
def plazaStop (p : Nat) : Nat := 14 * (p / 12) + p % 12 + p % 12 / 4

/-- The stop of site `n` (R23). -/
def siteStop (n : Nat) : Nat := 14 * (n / 2) + 4 + 5 * (n % 2)

/-- The stops from one to another in ascending order, closing from stop 41 to stop 0. -/
def stopsTo (a b : Nat) : Nat := (b + 42 - a) % 42

/-- The messages of a slot. -/
def State.slotLoad (s : State) (i : Nat) : Nat :=
  (s.plz.msgs.filter (fun m => match m with
    | .snpInv _ _ _ (some j) _ _ => i == j
    | _ => false)).length

/-- The slot into which a stop injects: the one it has marked, once that has room, else the first with a free quarter that
no other stop has marked (R241; which of them passes first is not modelled, log entry 115). -/
def State.freeSlot? (s : State) (stop : Nat) : Option Nat :=
  let mine := s.plz.ringMarks.filter (fun e => e.1 == stop)
  match mine.find? (fun e => decide (s.slotLoad e.2 < 4)) with
  | some e => some e.2
  | none => (List.range 42).find? (fun i => decide (s.slotLoad i < 4) && !s.plz.ringMarks.any (fun e => e.2 == i))

/-- An SNP_INV that waits at a stop to be injected. -/
def State.waitsAt (s : State) (m : CMsg) (stop : Nat) : Bool :=
  match m with
  | .snpInv lk _ _ none _ _ => plazaStop (s.homePlaza lk) == stop
  | _ => false

/-- The SNP_INV of a transaction, on the ring: it is injected at its home's stop if no other waits there before it and a slot
has room (R241). -/
def State.onRing? (s : State) (txn : Nat) : Option (CMsg × CMsg × Nat) :=
  match s.msgAt? (.inv txn) 0 with
  | some (.snpInv lk t skip slot d mask) =>
    let m := CMsg.snpInv lk t skip slot d mask
    let stop := plazaStop (s.homePlaza lk)
    match slot with
    | some i => some (m, m, i)
    | none =>
      match s.plz.msgs.find? (fun x => s.waitsAt x stop) with
      | some x => if x == m then (s.freeSlot? stop).map (fun i => (m, .snpInv lk t skip (some i) d mask, i)) else none
      | none => none
  | _ => none

/-- A message changed as it stands in the list; a mark is used up with the injection that it was for. -/
def moveOnRing (m x : CMsg) (stop slot : Nat) (s : State) : State :=
  updPlz (fun p => { p with
    msgs := p.msgs.map (fun y => if y = m then x else y),
    ringMarks := if m = x then p.ringMarks else p.ringMarks.filter (fun e => !(e.1 == stop && e.2 == slot)) }) s

/-- SNP_INV of transaction `txn` passes the stop of site `n`, the next site's stop on its way round (R23, R242). -/
def execSnpInvPass (n : Fin 6) (txn : Nat) (s : State) : Host.Outcome State Fault Refusal :=
  .next (match s.onRing? txn with
    | some (m, .snpInv lk t skip slot d mask, i) =>
      let stop := plazaStop (s.homePlaza lk)
      let far := stopsTo stop (siteStop n)
      if far ≤ d || (List.range 6).any (fun k => decide (d < stopsTo stop (siteStop k) ∧ stopsTo stop (siteStop k) < far)) then s
      else
        let hit := s.siteServes n && s.siteCaching n && skip != n.val && (s.site n).join == .none
        let s1 := moveOnRing m (.snpInv lk t skip slot far (if hit then mask + 2 ^ n.val else mask)) stop i s
        if hit then snoopSite n 0x16 lk t .none s1 else s1
    | _ => s)

/-- SNP_INV returns to its origin stop, having passed every site's stop (R241, R242). -/
def execSnpInvReturn (txn : Nat) (s : State) : Host.Outcome State Fault Refusal :=
  .next (match s.onRing? txn with
    | some (m, .snpInv lk t _ _ d mask, _) =>
      let stop := plazaStop (s.homePlaza lk)
      if (List.range 6).any (fun k => decide (d < stopsTo stop (siteStop k))) || (match s.txn? t with
          | some x => s.memStops x
          | none => false) then s
      else
        let s1 := takeMsg m s
        match s1.txn? t with
        | none => s1
        | some x =>
          let left := (List.range 6).foldl (fun v n =>
            if bit mask n && s1.plz.snoops.any (fun y => y.site == n && y.txn == t) then v + 2 ^ n else v) 0
          let x' := { x with ring := false, inv := left }
          let s2 := updTxn t (fun _ => x') s1
          if left = 0 then serveTxn x' x'.rsp (setPline lk { s2.pline lk with sharedOut := false } s2) else s2
    | _ => s)

/-- RING_SLOT_MARK: a stop that has waited 128 cycles to inject marks the next slot that passes it (R241). -/
def execRingSlotMark (stop : Fin 42) (s : State) : Host.Outcome State Fault Refusal :=
  .next (if s.plz.ringMarks.any (fun e => e.1 == stop.val) || !s.plz.msgs.any (fun m => s.waitsAt m stop.val) then s
    else match (List.range 42).find? (fun i => !s.plz.ringMarks.any (fun e => e.2 == i)) with
      | some i => updPlz (fun p => { p with ringMarks := p.ringMarks ++ [(stop.val, i)] }) s
      | none => s)

/-- What the answer to a snoop leads to has to wait for memory (R212, R501). -/
def State.answerStops (s : State) (n txn : Nat) : Bool :=
  match s.plz.snoops.find? (fun x => x.site == n && x.txn % 4096 == txn) with
  | none => false
  | some x =>
    match s.txn? x.txn with
    | some t => s.memStops t
    | none => false

/-- SNP_RSP from the chiplet of site `n` reaches the home (R236). -/
def execSnpRsp (n : Fin 6) (s : State) : Host.Outcome State Fault Refusal :=
  .next (match takeInbox n 3 (fun m => m.msg == 0x21 && !s.answerStops n m.txn) s with
    | some (e, s1) => snpRsp n e.1.txn e.1.toReq e.1.toHome e.1.grant s1
    | none => s)

/-- COMP_ACK from the chiplet of site `n` reaches the home (R236). -/
def execCompAck (n : Fin 6) (s : State) : Host.Outcome State Fault Refusal :=
  .next (match takeInbox n 3 (fun m => m.msg == 0x23) s with
    | some (e, s1) => compAck n e.1.txn s1
    | none => s)

/-- WB_DATA from the chiplet of site `n` reaches the home (R236). -/
def execWbData (n : Fin 6) (s : State) : Host.Outcome State Fault Refusal :=
  .next (match takeInbox n 4 (fun m => m.msg == 0x32) s with
    | some (e, s1) =>
      let lk := match s1.plz.txns.find? (fun t => t.id % 4096 == e.1.txn && t.owner == some n.val) with
        | some t => t.line
        | none => 0
      wbData n e.1.txn e.1.unit e.2 (s1.unitMark e.1 lk e.1.unit) e.1.dirty s1
    | none => s)

/-- STASH_ACK from the chiplet of site `n` reaches the home (R247). -/
def execStashAck (n : Fin 6) (s : State) : Host.Outcome State Fault Refusal :=
  .next (match takeInbox n 3 (fun m => m.msg == 0x26) s with
    | some (e, s1) => stashAck n e.1.txn s1
    | none => s)

/-- MEM_DONE reaches the home (R236). -/
def execMemDone (i : Nat) (s : State) : Host.Outcome State Fault Refusal :=
  .next (match s.msgAt? .memDone i with
    | some (.memDone lk id) =>
      if (match s.txn? id with
          | some t => [0, 1].any (fun u => (s.heldWrite? (lineStack t.line) (lineAddr t.line + 64 * u)).isSome)
          | none => false) then s
      else memDone id (takeMsg (.memDone lk id) s)
    | _ => s)

/-- The push of a write leaves: STASH_DATA in two units with their poison marks to a KSP site; a CXL bridge, which
has no message for it, declines (R247, R249). -/
def pushStash (n : Nat) (s : State) : State :=
  match s.msgAt? (.stash n) 0 with
  | some (.stash _ lk t d m0 m1) =>
    let s1 := takeMsg (.stash n lk t d m0 m1) s
    if s1.siteCxl n || !s1.inService uSite n then stashAck n (t % 4096) s1
    else
      let h (u : Nat) (m : Option Mark) : KMsg := { KMsg.blank with
        msg := 0x33, txn := t % 4096, cls := ((s.txn? t).map (fun x => s.reqClass x.req)).getD 0, addr := linePa lk, unit := u, poison := m.isSome, w3 := (m.map markWord).getD 0 }
      toSite n (h 1 m1) (lineUnit d 1) (toSite n (h 0 m0) (lineUnit d 0) s1)
  | _ => s

/-- The WR_ACK of a pushed write has left before its push does (R247). -/
def State.stashFree (s : State) (n : Nat) : Bool :=
  match s.msgAt? (.stash n) 0 with
  | some (.stash _ lk t _ _ _) =>
    match s.txn? t with
    | some x => !s.plz.msgs.contains (.wrAck x.req lk 0)
    | none => true
  | _ => false

/-- Every push that may leave does. -/
def pushStashes (s : State) : State := forEach (List.range 6) (fun n s => if s.stashFree n then pushStash n s else s) s

/-- DATA reaches a requester: message `i` of the hub's own, or the head of a chiplet's DATA, routed by DEST
(R236, R308). -/
def dataEvent (src : Option (Fin 6)) (i : Nat) (s : State) : Host.Outcome State Fault Refusal :=
  .next (match src with
    | none =>
      match s.msgAt? .data i with
      | some (.data r lk d m0 m1 g) => pushStashes (deliverData r lk d m0 m1 g (takeMsg (.data r lk d m0 m1 g) s))
      | _ => s
    | some n =>
      match takeInbox n 4 (fun m => m.msg == 0x31) s with
      | some (e, s1) =>
        let f := s1.plz.fwds.find? (fun f => f.num == e.1.txn && reqDest f.req == e.1.addr % 2 ^ 16)
        let lk := (f.map (·.line)).getD 0
        if f.isNone then protocolError n 0x31 s1
        else match routeData e.1.txn e.1.unit e.2 (s1.unitMark e.1 lk e.1.unit) (codeGrant e.1.grant) s1 with
        | some s2 => s2
        | none => protocolError n 0x31 s1
      | none => s)

/-- COMP reaches a requester (R236). -/
def compEvent (i : Nat) (s : State) : Host.Outcome State Fault Refusal :=
  .next (match s.msgAt? .comp i with
    | some (.comp r lk id m) => deliverComp r id m (takeMsg (.comp r lk id m) s)
    | _ => s)

/-- WR_ACK reaches the writer (R231), and a push that followed it leaves (R247). -/
def wrAckEvent (i : Nat) (s : State) : Host.Outcome State Fault Refusal :=
  .next (match s.msgAt? .wrAck i with
    | some (.wrAck r lk st) => pushStashes (deliverWrAck r st (takeMsg (.wrAck r lk st) s))
    | _ => s)

/-- WB_ACK reaches the site (R236). -/
def execWbAck (i : Nat) (s : State) : Host.Outcome State Fault Refusal :=
  .next (match s.msgAt? .wbAck i with
    | some (.wbAck r lk ok) => deliverWbAck r ok (takeMsg (.wbAck r lk ok) s)
    | _ => s)

/-- FLUSH_ALL begins, unless one is in progress (R260). -/
def flushAll (s : State) : State :=
  if s.rb rPlzCtrl 15 then s else setRf rPlzCtrl 15 15 1 (updPlz (fun p => { p with flushing := true }) s)

/-- A write of PLZ_CTRL.FLUSH_ALL by the physical function (R260). -/
def execFlushAll (s : State) : Host.Outcome State Fault Refusal := .next (flushAll s)

/-- The DIRTY units of a line cannot be written to memory yet, or writes of its stack are held (R212, R501). -/
def State.cleanStops (s : State) (lk : Nat) : Bool :=
  let k := lineStack lk
  (s.stackOut? k).isNone && ([0, 1].any (fun u => !s.issues k (lineAddr lk + 64 * u)) || !(s.stack k).retry.isEmpty)

/-- FLUSH_ALL ends: every DIRTY unit of a line that no site owns is in memory, and its line CLEAN (R260). -/
def execFlushAllDone (s : State) : Host.Outcome State Fault Refusal :=
  .next (if s.plz.flushing && !s.plz.lines.any (fun e => (e.2.d0 || e.2.d1) && (s.blocked e.1 || s.cleanStops e.1)) then
      let s1 := forEach (s.plz.lines.map (·.1)) (fun lk s =>
        if (s.ownerSite? lk).isNone then cleanLine opRecord lk s else s) s
      setRf rPlzCtrl 15 15 0 (updPlz (fun p => { p with flushing := false }) s1)
    else s)

end Sys2Proof.Machine
end

