-- ==== Sys2Proof/Machine/Shared.lean ====
section
/-!
DEFINITION. What several chapters do to shared units: capacities and guarantees (R350, R351), the ceilings of
the tile clocks (R216, R217, R496), the thermal trip (R501), shared regions that lose a stack (R218, R219) and
the isolation of a stack (R218).
-/
namespace Sys2Proof.Machine

/-! ### Capacities (R350) -/

/-- The capacity of resource `r` now; a change makes the guarantees due to be computed again (R351). -/
def setCap (r c : Nat) (s : State) : State :=
  if s.rf (rQosCapR r) 15 0 = c then s
  else
    let s1 := setRf (rQosCapR r) 15 0 c s
    { s1 with net := { s1.net with guarDue := true } }

/-- The capacity of a stack's port. -/
def syncStackCap (k : Nat) (s : State) : State :=
  setCap k (if s.inService uStack k then (64 - (s.stack k).retired.length) * 225 else 0) s

/-! ### Ceilings (R216, R217, R496) -/

/-- The ceiling that stack `k` sets, in 100 MHz steps; none where it is OFF, the floor while it is ISOLATED
or in QUARANTINE. -/
def State.stackCeiling (s : State) (k : Nat) : Nat :=
  let st := s.status uStack k
  if (Table.get .init s.pwr.units (unitKey uStack k)).now = 3 && st != stQuarantine then 17
  else if st = stIsolated ∨ st = stQuarantine then s.rf rMemCtrl 16 12
  else (s.stack k).ceiling

/-- A cluster's partition failed with its tile PLL: its clock is held at its last frequency (R499). -/
def State.clockHeld (s : State) (c : Nat) : Bool :=
  s.status uPartition (clusterPart c) == stFailed && (s.unit uPartition (clusterPart c)).cause == ccClock

/-- The clusters beneath a stack take their clock, but where it is held, and STK_STATUS, PWR_CLK_c and the
THROTTLE_CHANGE records follow (R216, R496, R499). -/
def syncClocks (k : Nat) (s : State) : State :=
  let c := s.stackCeiling k
  let cs := stackClusters k
  let hit := cs.any (fun x => decide (c < s.rf (rPwrClkC x) 4 0))
  let s1 := forEach (cs.filter (fun x => !s.clockHeld x)) (fun x s =>
    setRf (rPwrClkC x) 10 5 (min c (s.rf (rPwrClkC x) 4 0) + b2n (decide (c < s.rf (rPwrClkC x) 4 0)) * 32) s) s
  let s2 := setRf (rStkStatus k) 23 19 (b2n hit + (17 - c) * 2) s1
  let was := (s2.stack k).restrains
  let s3 := updStack k (fun x => { x with restrains := hit }) s2
  if was != hit then opRecord 0x020A false [k, 17 - c] s3 else s3

/-! ### The thermal trip (R501) -/

/-- Fields, each a value with its width, from the lowest bit up. -/
def packFields (l : List (Nat × Nat)) : Nat := l.foldr (fun x v => x.1 % 2 ^ x.2 + 2 ^ x.2 * v) 0

/-- A management message to the chiplet (R318): the first payload word holds MTYPE, LEN, MSEQ and the first fields, and the
payload words `rest` follow. -/
def sideband (n mtype : Nat) (fields : List (Nat × Nat)) (rest : List Nat) (s : State) : State :=
  emit (.sideband n ((mtype + 2 ^ 8 * rest.length + 2 ^ 14 * (s.site n).sbSeq + 2 ^ 23 * packFields fields) :: rest))
    (updSite n (fun x => { x with sbSeq := (x.sbSeq + 1) % 512 }) s)

/-- Bytes as payload words of 64 bits, the first lowest. -/
def sbWords (bs : List Byte) : List Nat :=
  (List.range (ceilDiv bs.length 8)).map (fun i => bytesToNat ((bs.drop (8 * i)).take 8))

/-- BUDGET (R318): the budget in 0.25 W, the CLAMP flag and the sequence number. -/
def sendBudget (n watts : Nat) (clamp : Bool) (s : State) : State :=
  sideband n 0x05 [(watts, 11), (b2n clamp, 1), ((s.site n).budgetSeq, 9)] [] s

/-- PWR_TRIP.TRIPPED: tile clocks and the memory controllers' issue are stopped. -/
def State.tripped (s : State) : Bool := s.rb rPwrTrip 0

/-- The hub trips: THERMTRIP_N low, clocks and issue stopped, a budget of 0 W to every site, one record. -/
def thermalTrip (sensor stack die temp : Nat) (s : State) : State :=
  if s.tripped then s
  else
    let s1 := setRf rPwrTrip 10 0 (1 + sensor * 2 + (if sensor = 63 then stack * 128 else 0)) s
    let s2 := emit (.pin "I3C_IBI" 1) <| emit (.pin "THERMTRIP_N" 0) { s1 with pins := { s1.pins with thermtripLow := true } }
    let s3 := forEach (List.range 6) (fun n s =>
      sendBudget n 0 false
        (updSite n (fun x => { x with budgetSeq := (x.budgetSeq + 1) % 512, curBudget := 0 }) s)) s2
    opRecord 0x0A05 true [if sensor = 63 then stack else sensor, die, temp] s3

/-! ### Ranges of stacked memory (R204, R205, R218) -/

/-- The alias and offset of a range that lies wholly within one alias (R204 check 1). -/
def rangeIn? (base size : Nat) : Option (Nat × Nat) :=
  match aliasOf? base with
  | some (al, o) => if size ≠ 0 ∧ o + size ≤ aliasSize al then some (al, o) else none
  | none => none

/-- The rows of 2 KiB granules that `n` granules from `g` on place on the stack with index `i` of `m`
interleaved stacks: first row and first row beyond. -/
def rowsOf (g n i m : Nat) : Nat × Nat := (ceilDiv (g - i) m, if i < g + n then ceilDiv (g + n - i) m else 0)

/-- The indices of the stacks of an alias with their identities. -/
def aliasStacks (al : Nat) : List (Nat × Nat) :=
  if al = 0 then (List.range 12).map (fun i => (i, i)) else (List.range 4).map (fun i => (i, localStack (al - 1) i))

/-- Rows of stack `k` that a range of an alias covers. -/
def rangeRows (al o size k : Nat) : Nat × Nat :=
  match (aliasStacks al).find? (fun e => e.2 == k) with
  | some (i, _) => rowsOf (o / 2048) (size / 2048) i (if al = 0 then 12 else 4)
  | none => (0, 0)

/-- The number of 64-byte units of a range on stack `k`. -/
def unitsOn (base size k : Nat) : Nat :=
  match aliasOf? base with
  | some (al, o) => let r := rangeRows al o size k; (r.2 - r.1) * 32
  | none => 0

/-- Two ranges overlap in the bytes of the stacks (R204 check 2). -/
def rangesOverlap (b1 z1 b2 z2 : Nat) : Bool :=
  match aliasOf? b1, aliasOf? b2 with
  | some (a1, o1), some (a2, o2) =>
    (List.range 12).any (fun k =>
      let r := rangeRows a1 o1 z1 k
      let q := rangeRows a2 o2 z2 k
      decide (max r.1 q.1 < min r.2 q.2))
  | _, _ => false

/-- The stack that holds the counterparts of a region's units on stack `k`, where `b` is the base of the copy on
`k` and `b'` that of the other copy. -/
def peerStack? (b b' size k : Nat) : Option Nat :=
  match (List.range 12).find? (fun j => decide (j * 2048 < size) && (match paTarget (b + j * 2048) with
    | .stacked x _ => x == k
    | _ => false)) with
  | some j =>
    match paTarget (b' + j * 2048) with
    | .stacked x _ => some x
    | _ => none
  | none => none

/-- A region fails over (R219). -/
def failOver (n k : Nat) (s : State) : State :=
  if s.rb (rSrtNStatus n) 2 then s else opRecord 0x0205 true [n, k] (setRf (rSrtNStatus n) 2 2 1 s)

/-- A region loses `u` units (R208, R218). -/
def poisonRegion (n u : Nat) (s : State) : State :=
  if u = 0 then s
  else
    let s1 := setRf (rSrtNStatus n) 1 1 1
      (setReg (rSrtNPoisonUnits n) (min (s.reg (rSrtNPoisonUnits n) + u) (2 ^ 32 - 1)) s)
    if s.rb (rSrtNStatus n) 1 then s1 else opRecord 0x0203 true [n] s1

/-- What the loss of stack `k` does to the VALID regions (R218, R219). -/
def regionsLose (k : Nat) (s : State) : State :=
  forEach s.regions (fun n s =>
    let b := s.srtBase n
    let z := s.srtSize n
    if s.srtMirrored n then
      let m := s.srtMirror n
      let one (b b' : Nat) (s : State) : State :=
        if unitsOn b z k = 0 then s
        else match peerStack? b b' z k with
          | some p => if s.inService uStack p then failOver n k s else poisonRegion n (unitsOn b z k) s
          | none => s
      one m b (one b m s)
    else poisonRegion n (unitsOn b z k) s) s

/-! ### Isolating a stack (R218) -/

/-- The owners of the lines of a stack are recalled; what they return is dropped (R218 step 3). -/
def recallStack (k : Nat) (s : State) : State :=
  forEach (s.plz.owners.filter (fun e => lineStack e.1 == k)) (fun e s =>
    if s.blocked e.1 then s
    else
      let id := s.plz.nextTxn
      let s1 := postTxn .takeBack .none e.1 0 0 none none 0 false s
      match s1.txn? id with
      | some t => beginTxn t none s1
      | none => s1) s

/-- The held request is a write. -/
def HeldMem.isWrite (h : HeldMem) : Bool :=
  match h with
  | .mrd _ _ _ => false
  | _ => true

/-- A stack is isolated: ISOLATED at once, the requests it held complete, regions fail over or are lost, and the plazas begin to sweep its
lines (R218 steps 1 to 3). -/
def isolateStack (k cause : Nat) (s : State) : State :=
  let st := s.status uStack k
  if st = stIsolated ∨ (st ≠ stGood ∧ st ≠ stDegraded ∧ st ≠ stQuarantine) then s
  else
    let s1 := markUnit uStack k stIsolated s
    let s2 := { s1 with
      boot := { s1.boot with quar := Table.erase s1.boot.quar (unitKey uStack k) },
      net := { s1.net with tags := Table.erase s1.net.tags (unitKey uStack k) } }
    let s3 := updStack k (fun x => { x with
      isoCause := cause, swept := false, rejoining := false, retrainDue := [], retraining := [], retry := [],
      droppedWrites := x.droppedWrites + (x.retry.filter HeldMem.isWrite).length, clampBudget := none }) s2
    let s4 := setRf (rPwrStkSPower k) 18 18 0 (regionsLose k s3)
    let s5 := updPlz (fun p => { p with
      stackSweep := if p.stackSweep.contains k then p.stackSweep else p.stackSweep ++ [k] }) s4
    syncClocks k (syncStackCap k (recallStack k s5))

end Sys2Proof.Machine
end

