-- ==== Sys2Proof/Machine/Sites.lean ====
section
/-!
DEFINITION. Chiplet sites, the shared part: the sideband, the window table (R315, R316), the loss of a site
(R253, R254, R322), module retirement (R302), and how an admitted request of a chiplet is carried on until it
is answered (R307 to R314).
-/
namespace Sys2Proof.Machine

/-! ### Sideband and capacity -/

/-- The capacities of a site's two directions (R350). -/
def syncSiteCap (n : Nat) (s : State) : State :=
  let c := if s.inService uSite n then (64 - (s.site n).retired.length) * 125 else 0
  setCap (18 + n) c (setCap (12 + n) c s)

/-- The budget of a site, at most 350 W and what it has declared (R319), in 0.25 W; 0 in IDLE and RETAIN (R489) and
after a trip (R501). -/
def State.siteBudget (s : State) (n : Nat) : Nat :=
  let p := s.rf (rSiteNStatus n) 24 23
  if s.tripped ∨ p = 1 ∨ p = 2 then 0
  else min (min (s.rf (rSiteNBudget n) 10 0) 0x578) (s.rf (rSiteNCaps n) 22 14 * 4)

/-- BUDGET to a site (R319, R320). -/
def sendSiteBudget (n : Nat) (s : State) : State :=
  let b := match (s.site n).clampBudget with
    | some c => c
    | none => s.siteBudget n
  let s1 := sendBudget n b (s.site n).clampBudget.isSome s
  updSite n (fun x => { x with curBudget := b, budgetSeq := (x.budgetSeq + 1) % 512 }) s1

/-- A site's power state, with no transition in progress (R482). -/
def setSitePower (n p : Nat) (s : State) : State :=
  setRf (rSiteNStatus n) 24 23 p { s with pwr := { s.pwr with
    units := Table.set s.pwr.units (unitKey uSite n) { target := p, now := p, moving := none, held := none } } }

/-! ### Joining (R324) -/

/-- A rejoin ends with one SITE_REJOIN_FAILED record (R324). -/
def endRejoin (n step cause : Nat) (s : State) : State :=
  let s1 := updSite n (fun x => { x with join := .none }) s
  opRecord 0x0407 true [n, step, cause]
    { s1 with boot := { s1.boot with quar := Table.erase s1.boot.quar (unitKey uSite n) } }

/-- A step of a rejoin fails: the site stays ABSENT (R324). -/
def rejoinFail (n step cause : Nat) (s : State) : State :=
  endRejoin n step cause (if s.status uSite n = stAbsent then s else setStatus uSite n stAbsent (s.site n).absCause s)

/-- What the chiplet declares or proves keeps it out: the site stays ABSENT with that as its cause (R303, R321). -/
def rejoinRefuse (n step cause : Nat) (s : State) : State :=
  endRejoin n step cause (setStatus uSite n stAbsent cause s)

/-! ### Losing a site (R253, R254, R322) -/

/-- What becomes of one transaction when site `n` is lost (R254): as its requester, as the owner it was
forwarded to, and as a sharer that owes an answer. -/
def loseTxn (n : Nat) (t : Txn) (s : State) : State :=
  match s.txn? t.id with
  | none => s
  | some t =>
    if t.phase = .waiting then
      if reqSite? t.req = some n then
        match t.kind with
        | .rdShared => endTxn t s
        | .rdUnique => endTxn t s
        | .rdOnce _ => endTxn t s
        | _ => s
      else s
    else if t.phase = .snooping ∧ t.owner = some n ∧ t.rsp = true then
      let s1 := updSite n (fun x => { x with poisoned := x.poisoned + 1 }) (poisonLine t.line s)
      let s2 := updPlz (fun p => { p with snoops := p.snoops.filter (fun x => !(x.site == n && x.txn == t.id)) }) s1
      let m := s.markFor (lineStack t.line) (lineAddr t.line) 4
      let t' := { t with rsp := false, wb := false, noData := false }
      let s3 := updTxn t.id (fun _ => t') s2
      let close (s : State) : State :=
        if s.needsAck t.req && reqSite? t.req != some n then
          updTxn t.id (fun x => { x with phase := .closing, ack := true }) s
        else endTxn t s
      match t.kind with
      | .rdShared =>
        let s4 := freeOwner t.line s3
        close (compFwd t' (some m) (if reqSite? t.req = some n then s4
          else setPline t.line { s4.pline t.line with sharedOut := true } s4))
      | .rdUnique =>
        match reqSite? t.req with
        | some q => close (compFwd t' (some m) (ownLine t.line q s3))
        | none => endTxn t (freeOwner t.line s3)
      | .rdOnce _ => endTxn t (compFwd t' (some m) (freeOwner t.line s3))
      | .takeBack => endTxn t (freeOwner t.line s3)
      | _ => unowned t' false (freeOwner t.line s3)
    else if t.phase = .snooping ∧ t.owner = some n ∧ t.wb = true then
      afterSnoop { t with wb := false, noData := false } true
        (updTxn t.id (fun x => { x with wb := false, noData := false })
          (updSite n (fun x => { x with poisoned := x.poisoned + 1 }) (poisonLine t.line s)))
    else if t.phase = .invalidating ∧ bit t.inv n then
      let t' := { t with inv := t.inv - 2 ^ n }
      let s1 := updPlz (fun p => { p with snoops := p.snoops.filter (fun x => !(x.site == n && x.txn == t.id)) })
        (updTxn t.id (fun _ => t') s)
      if t'.ring = false ∧ t'.inv = 0 then
        serveTxn t' t'.rsp (setPline t.line { s1.pline t.line with sharedOut := false } s1)
      else s1
    else if t.stash = some n then endTxn t s
    else if reqSite? t.req = some n ∧ t.ack = true then endTxn t s
    else s

/-- A write of a requester has gone to a dead target: dropped, and for a chiplet or another package a failure (R312, R364). -/
def ackDead (who : Who) (s : State) : State :=
  match who with
  | .site _ _ => ackWrite who (some 3) s
  | .fabWin _ _ _ => ackWrite who (some 3) s
  | _ => ackWrite who none s

/-- The hub's own requests to a lost site are answered at once: reads with poison TARGET_ABSENT, writes as
dropped (R323). -/
def answerTgts (n : Nat) (s : State) : State :=
  let l := (s.site n).tgts
  forEach l (fun q s =>
    if q.write then ackDead q.who s else arrive q.who q.key 0 (some absentMark) s)
    (updSite n (fun x => { x with tgts := [] }) s)

/-- Where a message goes to site `n`. -/
def CMsg.forSite (m : CMsg) (n : Nat) : Bool :=
  (match m.req? with
   | some (.site k _) => k == n
   | _ => false) ||
  (match m with
   | .snpFwdShared k _ _ _ => k == n
   | .snpFwdUnique k _ _ _ => k == n
   | .snpFwdOnce k _ _ _ => k == n
   | .snpRecall k _ _ => k == n
   | .snpDrop k _ _ => k == n
   | .stash k _ _ _ _ _ => k == n
   | _ => false)

/-- A site is declared ABSENT (R253 steps 1 to 3, R286, R322, R323); in the middle of a rejoin, the rejoin
fails. -/
def loseSite (n cause : Nat) (s : State) : State :=
  let st := s.status uSite n
  if st = stQuarantine ∨ (s.site n).join ≠ .none ∧ st = stAbsent then
    rejoinFail n (s.site n).lastStep cause (updSite n (fun x => { x with absCause := cause }) s)
  else if st ≠ stGood ∧ st ≠ stDegraded then s
  else
    let s1 := markUnit uSite n stAbsent s
    let s2 := updSite n (fun x => { x with
      absCause := cause, poisoned := 0, inbox := [], held := [], early := [], unacked := [], opens := [],
      agents := [], due := [], late := [], stream := [], credits := [0, 0, 0, 0, 0], owed := [0, 0, 0, 0, 0], naks := 0, naksRx := 0, gap := false,
      repairing := [], failing := [], join := .none, clampBudget := none, flushing := false, certLen := 0, cert := [] }) s1
    let s3 := setRf (rSiteNCtrl n) 11 11 0 (setRf (rSiteNStatus n) 22 22 0 s2)
    let s4 := { s3 with net := { s3.net with tags := Table.erase s3.net.tags (unitKey uSite n) } }
    let s5 := leaveFaults (fun w _ => match w with
      | .site m _ => m == n
      | _ => false) (answerTgts n s4)
    let s6 := updPlz (fun p => { p with
      msgs := p.msgs.filter (fun m => !m.forSite n),
      ownerSweep := if p.ownerSweep.contains n then p.ownerSweep else p.ownerSweep ++ [n] }) s5
    let s7 := forEach s6.plz.txns (loseTxn n) s6
    let s8 := updPlz (fun p => { p with
      snoops := p.snoops.filter (fun x => x.site != n),
      fwds := p.fwds.filter (fun f => reqSite? f.req != some n) }) s7
    syncSiteCap n s8

/-! ### Modules (R301, R302) -/

/-- STATUS.MODULES follows the retired modules. -/
def syncModules (n : Nat) (s : State) : State :=
  setRf (rSiteNStatus n) 12 6 (64 - (s.site n).retired.length) s

/-- The spares of a module that its bonds have not taken for good: those unused and those of a repair under way (R301
step 5, R302). -/
def spareRoom (x : Site) (m : Nat) : Nat :=
  4 - Table.get 0 x.sparesUsed m + (x.repairing.filter (fun r => r.1 == m && r.2.1 != 96)).length

/-- A module is retired (R302). -/
def retireSiteModule (n m : Nat) (s : State) : State :=
  if (s.site n).retired.contains m then s
  else
    let unused := spareRoom (s.site n) m
    let s1 := updSite n (fun x => { x with
      retired := x.retired ++ [m], repairing := x.repairing.filter (fun r => r.1 != m),
      failing := x.failing.filter (fun f => f.1 != m), sparesUsed := Table.set x.sparesUsed m 4 }) s
    let s2 := setRf (rSiteNStatus n) 21 13 (s.rf (rSiteNStatus n) 21 13 - unused) (syncModules n s1)
    if s2.inService uSite n then
      let s3 := rewriteUnits [(unitKey uSite n, fun r =>
        { r with status := stDegraded, cause := ccModule, width := r.width - 1, spares := r.spares - unused })] s2
      let s4 := serviceRequest uSite n ccModule 2 (syncSiteCap n (opRecord 0x0402 true [n, m] s3))
      if 64 - (s4.site n).retired.length < 32 then loseSite n ccWidth s4 else s4
    else s2

/-- A training of the link starts: values that wait for it take effect (R301, R324, R527). -/
def siteTraining (n : Nat) (s : State) : State :=
  applyKey .linkRetrain (rSiteNPolicy n) (applyKey .linkRetrain (rSiteNCtrl n) s)

/-- The hub sends NAK with the last flit it holds in order; the sixteenth in succession ends the link
(R299). -/
def sendNak (n : Nat) (s : State) : State :=
  let s1 := countEvent (blkSite n) 0x52 none none none 1 (addRf (rSiteNErrors n) 11 0 1
    (sendIdle n true (updSite n (fun x => { x with naks := x.naks + 1, early := [], gap := true }) s)))
  if 16 ≤ (s1.site n).naks then loseSite n ccLink s1 else s1

/-- A module leaves the rotation for a repair: a flit that is missing by then is asked for on the other modules (R301
step 2). -/
def stopModule (n : Nat) (s : State) : State := if (s.site n).gap then sendNak n s else s

/-- A failing bond leaves the rotation with its module and a REPAIR that moves the bond to the lowest unused spare goes out,
or the module is retired when no spare is left (R301 steps 2 and 3, R302). -/
def repairBond (n m b : Nat) (s : State) : State :=
  let used := Table.get 0 (s.site n).sparesUsed m
  if (s.site n).retired.contains m then s
  else if 4 ≤ used then retireSiteModule n m s
  else
    let s1 := sideband n 0x08 [(m, 6), (b, 7), (used, 2)] [] (updSite n (fun x => { x with
      failing := if x.failing.contains (m, b) then x.failing else x.failing ++ [(m, b)],
      repairing := x.repairing ++ [(m, b, used)],
      spareMap := Table.set x.spareMap (128 * m + b) used,
      corr := Table.erase x.corr (128 * m + b), corrRun := Table.erase x.corrRun (128 * m + b),
      sparesUsed := Table.set x.sparesUsed m (used + 1) }) (siteTraining n s))
    stopModule n s1

/-! ### The window table (R315, R316) -/

/-- The window entries of a site that have ever been written: index and CTRL word. -/
def State.siteWins (s : State) (n : Nat) : List (Nat × Nat) :=
  s.regs.val.filterMap (fun e =>
    if rSiteNWinMCtrl n 0 ≤ e.1 ∧ e.1 ≤ rSiteNWinMCtrl n 255 ∧ (e.1 - rSiteNWinMCtrl n 0) % 16 = 0 then
      some ((e.1 - rSiteNWinMCtrl n 0) / 16, e.2.toNat)
    else none)

/-- A physical range that an entry may name: within one alias, the host window space, or another site's
aperture (R315). -/
def physRange (n base size : Nat) : Bool :=
  size != 0 &&
  (match aliasOf? base with
   | some (al, o) => decide (o + size ≤ aliasSize al)
   | none =>
     match paTarget base with
     | .site m o => m != n && decide (o + size ≤ 2 ^ 40)
     | .host _ _ => decide (base + size ≤ 0x4000000000000 + 1024 * 2 ^ 40)
     | _ => false)

/-- A single PHYS entry covers the `len` bytes at `pa`, a whole unit or line where that is what is asked for, and grants the
rights `need` (bits READ, WRITE, ATOMIC, OWN). -/
def State.physPass (s : State) (n pa len need : Nat) : Bool :=
  let lo := if len = 64 ∨ len = 128 then pa / len * len else pa
  (match paTarget pa with
   | .site m _ => m != n
   | _ => true) &&
  (s.siteWins n).any (fun w =>
    let base := 2 ^ 32 * s.rf (rSiteNWinMBaseHi n w.1) 19 0 + 2 ^ 16 * s.rf (rSiteNWinMBaseLo n w.1) 31 16
    let size := 65536 * bits w.2 31 8
    bits w.2 1 0 == 1 && physRange n base size && decide (base ≤ lo ∧ lo + len ≤ base + size) &&
      (need &&& bits w.2 5 2) == need)

/-- A CONTEXT entry names the context. -/
def State.ctxPass (s : State) (n ctx : Nat) : Bool :=
  (s.siteWins n).any (fun w => bits w.2 1 0 == 2 && bits w.2 31 8 == ctx)

/-- The rights that a request needs (R316); none for those never checked. -/
def kspRights (msg : Nat) : Option Nat :=
  match msg with
  | 1 => some 9
  | 2 => some 11
  | 3 => some 1
  | 4 => some 2
  | 5 => some 2
  | 6 => some 4
  | 9 => some 1
  | _ => none

/-- The bytes a request names. -/
def kspLen (m : KMsg) : Nat :=
  if m.msg = 3 then (if bit m.w3 9 then 128 else 64) else if m.msg = 6 then bits m.w3 8 4 else 128

/-- CONTEXT of a virtual request. -/
def kmsgCtx (m : KMsg) : Nat := bits m.w3 27 16

/-! ### Answering a chiplet (R307, R312, R314) -/

/-- An open request leaves. -/
def closeOpen (n txn : Nat) (s : State) : State :=
  updSite n (fun x => { x with opens := x.opens.filter (fun o => o.hdr.txn != txn) }) s

/-- One unit read for a chiplet: DATA, or the CXL bridge's data. -/
def siteData (n txn cls u : Nat) (d : UnitData) (m : Option Mark) (s : State) : State :=
  if s.siteCxl n then
    emit (.cxl n (if m.isSome then "DATA-POISON" else "DATA") u (BitVec.ofNat 1024 d.toNat)) s
  else kspUnit n txn cls u d m .none s

/-- The end of a write of a chiplet: WR_ACK with a status, or GO-I, or GO-Err for one that fails (R312,
R314). -/
def siteWrAck (n txn cls status : Nat) (s : State) : State :=
  if s.siteCxl n then emit (.cxl n (if status = 0 then "GO-I" else "GO-Err") 0 0) s
  else toSite n { KMsg.blank with msg := 0x24, txn := txn, cls := cls, status := status } 0 s

/-- The request reads (R312): its failure is answered with poisoned data. -/
def kspReads (msg : Nat) : Bool := msg == 1 || msg == 2 || msg == 3 || msg == 6

/-- The units a read asks for. -/
def kspUnits (m : KMsg) : List Nat :=
  if m.msg = 6 then [m.addr / 64 % 2] else if kspLen m = 64 then [m.addr / 64 % 2] else [0, 1]

/-- The mark of a failed request by its status (R312): 3 denied by the window table, 4 UNSUPPORTED, 5 aborted,
8 target absent. -/
def failMark (f : Nat) : Mark :=
  match f with
  | 3 => { cause := 0x13, detail := 0 }
  | 4 => { cause := 0x13, detail := 1 }
  | 5 => { cause := 0x24, detail := 0 }
  | _ => absentMark

/-- A request that fails is answered (R312). -/
def failOpen (n : Nat) (o : OpenReq) (s : State) : State :=
  let t := o.hdr.txn
  let s1 := closeOpen n t s
  if kspReads o.hdr.msg then
    if s1.siteCxl n then emit (.cxl n "GO-Err" o.hdr.addr 0) s1
    else forEach (kspUnits o.hdr) (fun u s => siteData n t o.hdr.cls u 0 (some (failMark o.fail)) s) s1
  else siteWrAck n t o.hdr.cls (if o.fail = 8 then 3 else o.fail) s1

/-- The request kind that a KSP message becomes at a home, with its operand read from its data (R307). -/
def kspKind (o : OpenReq) : TKind :=
  match o.hdr.msg with
  | 1 => .rdShared
  | 2 => .rdUnique
  | 3 => .rdOnce (kspLen o.hdr == 128)
  | 4 => .wrFull
  | 5 => .wrPart
  | 6 => .atomic (o.hdr.addr % 128) (bits o.hdr.w3 8 4) (bits o.hdr.w3 3 0)
      (bits (lineUnit o.data (o.hdr.unit % 2)).toNat 127 0) (bits (lineUnit o.data (o.hdr.unit % 2)).toNat 255 128)
  | 7 => .writeback
  | 8 => .evictClean
  | _ => .flushLine

/-- The mark of a unit from a chiplet as a home stores it: its own uncorrectable data takes the mark of R201 (R311). -/
def State.ownMark (s : State) (lk u : Nat) (m : Option Mark) : Option Mark :=
  match m with
  | some w => if markWord w = 0 then some (s.markFor (lineStack lk) (lineAddr lk + 64 * u) 1) else m
  | none => none

/-- A request for stacked memory goes to its home, and the agent keeps it (R236). -/
def postOpen (n : Nat) (o : OpenReq) (k a : Nat) (mirror : Bool) (s : State) : State :=
  let lk := lineKey k a
  let kind := match kspKind { o with hdr := { o.hdr with addr := a } } with
    | .atomic _ w op x c => TKind.atomic (a % 128) w op x c
    | q => q
  let mask : BitVec 128 := match o.hdr.msg with
    | 3 => BitVec.ofNat 128 (a / 64 % 2)
    | 5 => o.mask
    | _ => BitVec.ofNat 128 (2 ^ 128 - 1)
  let g : AgentReq :=
    { txn := o.hdr.txn, line := lk, kind := kind, cxl := s.siteCxl n, needComp := false, gotComp := false,
      gotData := false, noData := o.hdr.virt && s.siteCxl n, data := 0, m0 := none, m1 := none, grant := .none,
      unit := a / 64 % 2, cls := o.hdr.cls, urg := o.hdr.urg, fenced := o.fenced }
  let s1 := updSite n (fun x => { x with agents := x.agents ++ [g] }) (closeOpen n o.hdr.txn s)
  postTxn kind (.site n o.hdr.txn) lk o.data mask (s.ownMark lk 0 o.m0) (s.ownMark lk 1 o.m1) (hintOf o.hdr.hint) mirror s1

/-- The open request of a site by its number. -/
def State.openOf? (s : State) (n txn : Nat) : Option OpenReq := (s.site n).opens.find? (fun o => o.hdr.txn == txn)

/-- The open request changed. -/
def updOpen (n txn : Nat) (f : OpenReq → OpenReq) (s : State) : State :=
  updSite n (fun x => { x with opens := x.opens.map (fun o => if o.hdr.txn = txn then f o else o) }) s

/-- A read outside stacked memory goes on: each unit is asked for, and the answer leaves when all have come. -/
def readOpen (n : Nat) (o : OpenReq) (t : Tgt) (s : State) : State :=
  let txn := o.hdr.txn
  let us := kspUnits o.hdr
  let s1 := forEach us (fun u s =>
    match s.openOf? n txn with
    | none => s
    | some o =>
      if bit o.mask.toNat u then s
      else
        let key := tgtAdd (64 * u) (tgtAlign 128 t)
        let r := agentRead opRecord (.site n txn) key 0 o.hdr.cls s
        match r.1 with
        | none => r.2
        | some v => updOpen n txn (fun o => { o with
            mask := BitVec.ofNat 128 (o.mask.toNat + 2 ^ u),
            data := if u = 0 then joinUnits v.1 (lineUnit o.data 1) else joinUnits (lineUnit o.data 0) v.1,
            m0 := if u = 0 then v.2 else o.m0, m1 := if u = 0 then o.m1 else v.2 }) r.2) s
  match s1.openOf? n txn with
  | none => s1
  | some o =>
    if us.all (fun u => bit o.mask.toNat u) then
      let s2 := forEach us (fun u s =>
        siteData n txn o.hdr.cls u (lineUnit o.data u) (if u = 0 then o.m0 else o.m1) s) (closeOpen n txn s1)
      if s2.siteCxl n then emit (.cxl n "GO-I" o.hdr.addr 0) s2 else s2
    else s1

/-- The target of a write is absent or dead, or lies where the host admits no write (R312). -/
def State.writeDead (s : State) (t : Tgt) : Bool :=
  match t with
  | .site m o => !(s.siteServes m && s.siteExposes m o)
  | .host w o => (s.hostWindow? w o 64 true).isNone
  | .unassigned _ => true
  | _ => false

/-- A write to such a target is dropped; one that a host window refuses is recorded (R270). -/
def dropDead (t : Tgt) (s : State) : State :=
  match t with
  | .host w o => windowMiss opRecord w o true s
  | _ => s

/-- A write outside stacked memory goes on: its units are sent once, and WR_ACK follows their
acknowledgements. -/
def writeOpen (n : Nat) (o : OpenReq) (t : Tgt) (s : State) : State :=
  let txn := o.hdr.txn
  let s1 :=
    if o.sent then s
    else
      let base := tgtAlign 128 t
      let s1 := forEach [0, 1] (fun u s =>
        match s.openOf? n txn with
        | none => s
        | some o =>
          let mask := bits o.mask.toNat (64 * u + 63) (64 * u)
          if mask = 0 then s
          else
            let key := tgtAdd (64 * u) base
            if s.writeDead key then updOpen n txn (fun o => { o with fail := 8, mask := 0 }) (dropDead key s)
            else
              let r := storeUnit opRecord (.site n txn) key (lineUnit o.data u) mask
                (if u = 0 then o.m0 else o.m1) o.hdr.cls s
              match r.1 with
              | .wait => r.2
              | .failed _ => updOpen n txn (fun o => { o with fail := 8, mask := 0 }) r.2
              | .posted => updOpen n txn (fun o => { o with
                  mask := BitVec.ofNat 128 (o.mask.toNat - mask * 2 ^ (64 * u)), outst := o.outst + 1 }) r.2
              | .done => updOpen n txn (fun o => { o with
                  mask := BitVec.ofNat 128 (o.mask.toNat - mask * 2 ^ (64 * u)) }) r.2) s
      updOpen n txn (fun o => { o with sent := o.mask == 0 }) s1
  match s1.openOf? n txn with
  | none => s1
  | some o =>
    if o.sent && o.outst == 0 then
      if o.fail = 0 then siteWrAck n txn o.hdr.cls 0 (closeOpen n txn s1) else failOpen n o s1
    else s1

/-- The access that a virtual request makes (R309). -/
def kspAccess (msg : Nat) : AccKind := if msg = 3 then .read else if msg = 6 then .atomic else .write

/-- The target lies in the site's own aperture (R316). -/
def tgtOwn (n : Nat) (t : Tgt) : Bool :=
  match t with
  | .site m _ => m == n
  | _ => false

/-- A request has failed the window table: counted, with one SITE_WINDOW_MISS record (R316). -/
def windowDenied (n : Nat) (h : KMsg) (s : State) : State :=
  let right := match kspRights h.msg with
    | some 2 => 1
    | some 4 => 2
    | _ => 0
  opRecord 0x0403 false ([n] ++ words2 h.addr ++ [right])
    (countEvent (blkSite n) 0x54 none none none 1 (addRf (rSiteNErrors n) 31 22 1 s))

/-- An open request of a chiplet goes on as far as it can (R309, R312, R316). -/
def serveOpen (n txn : Nat) (s : State) : State :=
  match s.openOf? n txn with
  | none => s
  | some o =>
    if o.need ≠ 0 then s
    else if o.fail ≠ 0 ∧ o.sent = false ∧ o.outst = 0 then failOpen n o s
    else
      let go (t : Tgt) (mirror : Bool) (s : State) : State :=
        if tgtOwn n t then failOpen n { o with fail := 3 } (windowDenied n o.hdr s)
        else match t with
        | .stacked k a =>
          if o.hdr.msg = 6 ∧ atomicOk (a % 128) (bits o.hdr.w3 8 4) (bits o.hdr.w3 3 0) = false then
            failOpen n { o with fail := 4 } s
          else postOpen n o k a mirror s
        | .remote node win off =>
          if o.hdr.msg = 6 then
            let w := bits o.hdr.w3 8 4
            let u : UnitData := lineUnit o.data (o.hdr.unit % 2)
            let pay : UnitData := BitVec.ofNat 512 (bits u.toNat 255 0 + 2 ^ 256 * bits o.hdr.w3 3 0 + 2 ^ 264 * w)
            match agentAtomic (.site n txn) node win off o.hdr.cls pay s with
            | (some r, s1) => siteData n txn o.hdr.cls (o.hdr.addr / 64 % 2) r.1 r.2 (closeOpen n txn s1)
            | (none, s1) => s1
          else if kspReads o.hdr.msg then readOpen n o t s
          else writeOpen n o t s
        | _ =>
          if o.hdr.msg = 6 then failOpen n { o with fail := if tgtUnassigned t then 8 else 4 } s
          else if o.hdr.msg = 7 ∨ o.hdr.msg = 8 then
            toSite n { KMsg.blank with msg := 0x25, txn := txn, cls := o.hdr.cls, status := 2 } 0 (closeOpen n txn s)
          else if o.hdr.msg = 9 then siteWrAck n txn o.hdr.cls 3 (closeOpen n txn s)
          else if kspReads o.hdr.msg then readOpen n o t s
          else writeOpen n o t s
      if o.hdr.virt && !s.siteCxl n then
        match xlate (.site n txn) (kmsgCtx o.hdr) o.hdr.addr (kspAccess o.hdr.msg) s with
        | (.ok t e, s1) => go t (entMirror e) s1
        | (.aborted, s1) => failOpen n { o with fail := 5 } s1
        | (_, s1) => s1
      else go (paTarget o.hdr.addr) false s

/-- Every open request of every chiplet goes on. -/
def serveSites (s : State) : State :=
  forEach (List.range 6) (fun n s => forEach ((s.site n).opens.map (·.hdr.txn)) (fun t s => serveOpen n t s) s) s

/-- A request of a chiplet is admitted or denied (R309, R310, R316, R230). -/
def admitReq (n : Nat) (h0 : KMsg) (data : LineData) (mask : BitVec 128) (m0 m1 : Option Mark) (need : Nat)
    (s : State) : State :=
  let denied := !bit (s.rff (rSiteNPolicy n) 15 0) h0.cls
  let h1 := { h0 with cls := if denied then s.rff (rSiteNPolicy n) 19 16 else h0.cls }
  let s0 := if denied then countEvent (blkSite n) 0x53 none none none 1 s else s
  let bad := h1.virt && !s.siteCxl n && !(h1.msg == 3 || h1.msg == 4 || h1.msg == 5 || h1.msg == 6)
  let pass :=
    !bad &&
    (match kspRights h1.msg with
     | none => true
     | some r => if h1.virt && !s.siteCxl n then s.ctxPass n (kmsgCtx h1) else s.physPass n h1.addr (kspLen h1) r)
  let stacked := (aliasOf? h1.addr).isSome
  let own := h1.msg == 1 || h1.msg == 2
  let h2 := if own && (!s.siteCaching n || !stacked) then { h1 with msg := 3, w3 := 2 ^ 9, virt := false } else h1
  let s1 := if bad || (own && !s.siteCaching n) then protocolError n h1.msg s0 else s0
  let s2 :=
    if pass || bad then s1 else windowDenied n h1 s1
  let o : OpenReq :=
    { hdr := h2, data := data, mask := mask, m0 := m0, m1 := m1, need := need, fenced := false,
      fail := if pass then 0 else 3, sent := false, outst := 0 }
  serveOpen n h2.txn (updSite n (fun x => { x with opens := x.opens ++ [o] }) s2)

end Sys2Proof.Machine
end

