-- ==== Sys2Proof/Machine/SiteCmds.lean ====
section
/-!
DEFINITION. The commands of the chiplet sites: the bond link (R296 to R302), KSP (R304 to R313), the
management transport (R318 to R321), loss and return (R322 to R325) and power (R326).
-/
namespace Sys2Proof.Machine

/-! ### The bond link (R299, R300) -/

/-- Unacknowledged flits up to and including `ack` are forgotten. -/
def ackFlits (ack : Nat) (l : List Flit) : List Flit :=
  match l.findIdx? (fun f => f.seq == ack) with
  | some i => l.drop (i + 1)
  | none => l

/-- The chiplet reports `ack`: the flits up to it are forgotten (R299). -/
def dropAcked (n ack : Nat) (s : State) : State :=
  updSite n (fun x => { x with
    unacked := ackFlits ack x.unacked,
    naksRx := if (ackFlits ack x.unacked).length < x.unacked.length then 0 else x.naksRx }) s

/-- Credits that the chiplet returns, and the messages that waited for them (R298, R305). -/
def takeCredits (n : Nat) (credits : List Nat) (s : State) : State :=
  flushHeld n (updSite n (fun x => { x with
    credits := (List.range 5).map (fun i => x.credits.getD i 0 + credits.getD i 0) }) s)

/-- The chiplet reports `ack`, which may make room for flits that waited (R298, R299). -/
def takeAck (n ack : Nat) (s : State) : State := flushHeld n (dropAcked n ack s)

/-- Messages that a chiplet may send (R307). -/
def kspFromChiplet (m : Nat) : Bool :=
  (decide (1 ≤ m) && decide (m ≤ 0x0A)) || [0x21, 0x23, 0x26, 0x27, 0x31, 0x32, 0x34].contains m

/-- Room for a message of a class is free again: a credit is owed to the chiplet (R305). -/
def oweCredit (n cls : Nat) (s : State) : State :=
  updSite n (fun x => { x with owed := x.owed.set cls (x.owed.getD cls 0 + 1) }) s

/-- One message of a chiplet is accepted into the inbox (R307, R325); one that the hub does not know frees its room at once. -/
def acceptMsg (n : Nat) (m : KMsg) (u : UnitData) (s : State) : State :=
  if m.msg = 0 then s
  else if m.epoch ≠ (s.site n).epoch then addRf (rSiteNErrors n) 21 12 1 s
  else if kspFromChiplet m.msg then
    countUnits (blkSite n) 1 (b2n (kspHasUnit m.msg)) (updSite n (fun x => { x with inbox := x.inbox ++ [(m, u)] }) s)
  else protocolError n m.msg s

/-- The bytes of a STREAM flit join those before them; a whole CXL flit of 256 bytes leaves for the CXL link layer (R298,
R314), whose flits the spec leaves to CXL (log entry 116). -/
def takeStream (n : Nat) (bs : List Byte) (s : State) : State :=
  updSite n (fun x => { x with stream := (x.stream ++ bs).drop ((x.stream ++ bs).length / 256 * 256) }) s

/-- A sequenced flit in its turn is delivered, with the credits it returns (R298, R299). -/
def deliverFlit (n : Nat) (f : Flit) (s : State) : State :=
  let s1 := updSite n (fun x => { x with rxSeq := (x.rxSeq + 1) % 2 ^ 14, naks := 0, gap := false }) s
  let s2 := countEvent (blkSite n) 0x51 none none none 1 (takeCredits n f.credits s1)
  let s3 := if (s2.site n).rxSeq % 64 = 0 then sendIdle n false s2 else s2
  match f.ftype with
  | .hdr => forEach (f.slots.take 5) (fun m s => acceptMsg n m 0 s) s3
  | .hdrData => forEach (f.slots.take 1) (fun m s => acceptMsg n m f.unit s) s3
  | .stream => takeStream n f.stream s3
  | _ => s3

/-- Early flits whose turn has come are delivered too; `fuel` bounds their number. -/
def deliverEarly (n : Nat) : Nat → State → State
  | 0, s => s
  | fuel + 1, s =>
    match (s.site n).early.find? (fun f => f.seq == (s.site n).rxSeq) with
    | some f => deliverEarly n fuel (deliverFlit n f (updSite n (fun x => { x with early := x.early.erase f }) s))
    | none => s

/-- A NAK from the chiplet: every flit after `ack` is sent again on the modules in service, with the ACK of now (R299). -/
def takeNak (n ack : Nat) (s : State) : State :=
  let s1 := countEvent (blkSite n) 0x52 none none none 1 (addRf (rSiteNErrors n) 11 0 1 (dropAcked n ack s))
  let s2 := updSite n (fun x => { x with naksRx := x.naksRx + 1 }) s1
  if 16 ≤ (s2.site n).naksRx then loseSite n ccLink s2
  else flushHeld n (forEach (s2.site n).unacked (fun f s => placeFlit n { f with ack := lastFlit (s.site n) } s) s2)

/-- Corrected symbols of a flit are counted to their logical bonds; a bond at its threshold, or corrected in
16 consecutive flits of its module, is failing and its repair starts (R300, R301). -/
def countSiteBonds (n m : Nat) (corrected : List Nat) (s : State) : State :=
  let th := s.rff (rSiteNCtrl n) 19 12
  let s1 := updSite n (fun x => { x with
    corrRun := x.corrRun.filter (fun e => e.1 / 128 != m || corrected.contains (e.1 % 128)) }) s
  forEach corrected (fun j s =>
    let b := m * 128 + j
    let c := Table.get 0 (s.site n).corr b + 1
    let r := Table.get 0 (s.site n).corrRun b + 1
    let s2 := updSite n (fun x => { x with corr := Table.set x.corr b c, corrRun := Table.set x.corrRun b r }) s
    if (th ≤ c ∨ 16 ≤ r) ∧ (s.site n).failing.contains (m, j) = false then repairBond n m j s2 else s2) s1

/-- A flit that has decoded arrives on module `m`, with the logical bonds corrected (R298 to R301). A gap in SEQ is asked
for at once while a module is under repair, and after 64 flit times otherwise. -/
def receiveFlit (n m : Nat) (corrected : List Nat) (f : Flit) (s : State) : State :=
  let s1 := countSiteBonds n m corrected s
  let s2 := if f.nak then takeNak n f.ack s1 else takeAck n f.ack s1
  match f.ftype with
  | .idle => takeCredits n f.credits s2
  | .reserved => s2
  | _ =>
    let x := s2.site n
    if f.seq = x.rxSeq then deliverEarly n x.early.length (deliverFlit n f s2)
    else if x.naks = 0 ∧ (f.seq + 2 ^ 14 - x.rxSeq) % 2 ^ 14 < 2 ^ 13 then
      let s3 := updSite n (fun x => { x with gap := true, early := x.early ++ [f] }) s2
      if x.repairing.isEmpty then s3 else sendNak n s3
    else s2

/-- SITE_FLIT: a bond flit arrives on module `m`, sent with the payload given, `errors` being what its physical bonds add to
their symbols (R297 to R300). A module out of the rotation carries none (R301, R302). -/
def siteFlitEvent (n : Fin 6) (m : Fin 64) (payload : BitVec 704) (errors : List (Fin 100 × BitVec 8)) (s : State) :
    Host.Outcome State Fault Refusal :=
  .next (if !s.mainBand n || !(rotation (s.site n)).contains m.val then s
    else match decodeFlit (s.site n) m payload errors with
    | .bad => sendNak n s
    | .ok p corrected => receiveFlit n m corrected (flitOf p) s)

/-- SITE_NAK: the chiplet asks for a resend from ACK + 1. -/
def siteNakEvent (n : Fin 6) (ack : BitVec 14) (s : State) : Host.Outcome State Fault Refusal :=
  .next (if s.mainBand n then takeNak n ack.toNat s else s)

/-- SITE_SEQ_GAP_TIMEOUT: a gap in SEQ has persisted for 64 flit times. -/
def siteSeqGapTimeoutEvent (n : Fin 6) (s : State) : Host.Outcome State Fault Refusal :=
  .next (if s.mainBand n && (s.site n).gap then sendNak n s else s)

/-- SITE_ACK_TIMER: ACK is reported. -/
def execSiteAckTimer (n : Fin 6) (s : State) : Host.Outcome State Fault Refusal :=
  .next (if s.mainBand n then sendIdle n false s else s)

/-- SITE_MONITOR_WINDOW: the correction count of a bond restarts (R300). -/
def execSiteMonitorWindow (n : Fin 6) (m : Fin 64) (b : Fin 96) (s : State) : Host.Outcome State Fault Refusal :=
  .next (updSite n (fun x => { x with corr := Table.erase x.corr (m.val * 128 + b.val) }) s)

/-! ### KSP (R307, R313, R316) -/

/-- The number of WDATA units that follow a request's header (R307). -/
def wdataDue (m : Nat) : Nat := if m = 4 ∨ m = 7 then 2 else if m = 5 ∨ m = 6 then 1 else 0

/-- KSP_REQ_ADMISSION: requests that wait go on, and the head REQ is checked and forwarded or answered
(R316). While the site is not ON its requests are not accepted (R326). -/
def execKspReqAdmission (n : Fin 6) (s : State) : Host.Outcome State Fault Refusal :=
  let s0 := serveSites s
  .next (if !s0.siteServes n then s0
    else match takeInbox n 0 (fun _ => true) s0 with
      | some (e, s1) => admitReq n e.1 0 0 none none (wdataDue e.1.msg) s1
      | none => s0)

/-- WDATA: a unit of a write's data arrives (R307). `last` says that the unit of a WR_PART is its last. -/
def execWdata (n : Fin 6) (last : Bool) (s : State) : Host.Outcome State Fault Refusal :=
  .next (match takeInbox n 4 (fun m => m.msg == 0x0A) s with
    | none => s
    | some (e, s1) =>
      match s1.openOf? n e.1.txn with
      | none => protocolError n 0x0A s1
      | some o =>
        if o.need = 0 then protocolError n 0x0A s1
        else
          let u := e.1.unit
          let bytes := e.1.addr % 2 ^ 32 + 2 ^ 32 * (if e.1.poison then 2 ^ 32 - 1 else e.1.w3 % 2 ^ 32)
          let full := o.hdr.msg == 4 || o.hdr.msg == 7
          let mk := if e.1.poison then some (wordMark e.1.w3) else none
          serveOpen n e.1.txn (updOpen n e.1.txn (fun o => { o with
            hdr := if o.hdr.msg = 6 then { o.hdr with unit := u } else o.hdr,
            data := if u = 0 then joinUnits e.2 (lineUnit o.data 1) else joinUnits (lineUnit o.data 0) e.2,
            mask := BitVec.ofNat 128 (o.mask.toNat ||| ((if full then 2 ^ 64 - 1 else bytes) * 2 ^ (64 * u))),
            m0 := if u = 0 then mk else o.m0, m1 := if u = 0 then o.m1 else mk,
            need := if o.hdr.msg = 5 then (if last then 0 else 1) else o.need - 1 }) s1))

/-- The chiplet's answer to a TGT request finds it (R313). -/
def takeTgt (n txn : Nat) (write : Bool) (s : State) : Option (TgtReq × State) :=
  match (s.site n).tgts.find? (fun q => q.txn == txn && q.write == write) with
  | none => none
  | some q => some (q, updSite n (fun x => { x with tgts := x.tgts.erase q }) s)

/-- A message that answers no TGT request under way: the late answer to one that has timed out is discarded, any other is a
protocol error (R307, R313). -/
def strayTgt (n txn : Nat) (write : Bool) (code : Nat) (s : State) : State :=
  if (s.site n).late.contains (txn, write) then updSite n (fun x => { x with late := x.late.erase (txn, write) }) s
  else protocolError n code s

/-- A write of a requester has been turned away by the chiplet (R307): DENIED to a chiplet and to another package (R312,
R364). -/
def ackDenied (who : Who) (s : State) : State :=
  match who with
  | .site _ _ => ackWrite who (some 3) s
  | .fabWin _ _ _ => ackWrite who (some 2) s
  | _ => ackWrite who none s

/-- MEM_DATA answers a MEM_RD (R313); poisoned data carries TARGET_ABSENT (R311). -/
def memDataEvent (n : Fin 6) (s : State) : Host.Outcome State Fault Refusal :=
  .next (match takeInbox n 4 (fun m => m.msg == 0x34) s with
    | none => s
    | some (e, s1) =>
      match takeTgt n e.1.txn false s1 with
      | none => strayTgt n e.1.txn false 0x34 s1
      | some (q, s2) => serveSites (arrive q.who q.key e.2 (if e.1.poison then some absentMark else none) s2))

/-- MEM_ACK answers a MEM_WR (R313). -/
def memAckEvent (n : Fin 6) (s : State) : Host.Outcome State Fault Refusal :=
  .next (match takeInbox n 3 (fun m => m.msg == 0x27) s with
    | none => s
    | some (e, s1) =>
      match takeTgt n e.1.txn true s1 with
      | none => strayTgt n e.1.txn true 0x27 s1
      | some (q, s2) => serveSites (if e.1.status = 3 then ackDenied q.who s2 else ackWrite q.who none s2))

/-- TGT_TIMEOUT: a TGT request has gone 100 µs without an answer (R313). -/
def tgtTimeoutEvent (n : Fin 6) (txn : Fin 4096) (s : State) : Host.Outcome State Fault Refusal :=
  .next (match (s.site n).tgts.find? (fun q => q.txn == txn.val) with
    | none => s
    | some q =>
      let s1 := updSite n (fun x => { x with tgts := x.tgts.erase q, late := x.late ++ [(q.txn, q.write)] }) s
      let s2 := protocolError n (if q.write then 0x42 else 0x41) s1
      serveSites (if q.write then ackDead q.who s2 else arrive q.who q.key 0 (some absentMark) s2))

/-- CXL_MEM_RESPONSE: a CXL device answers the hub's read or write of its aperture (R314). -/
def cxlMemResponseEvent (n : Fin 6) (txn : Fin 4096) (data : UnitData) (poison : Bool) (s : State) :
    Host.Outcome State Fault Refusal :=
  .next (if !s.siteCxl n then s
    else match (s.site n).tgts.find? (fun q => q.txn == txn.val) with
    | none => s
    | some q =>
      let s1 := updSite n (fun x => { x with tgts := x.tgts.erase q }) s
      serveSites (if q.write then ackWrite q.who none s1
        else arrive q.who q.key data (if poison then some absentMark else none) s1))

/-! ### Declaration and certificate (R303, R321) -/

/-- A site of stage S3 is kept out: EMPTY with the cause (R295, R321); at a rejoin the rejoin fails. -/
def keepOut (n step cause : Nat) (s : State) : State :=
  if (s.site n).join = .none ∨ s.ready = false then
    setStatus uSite n stEmpty cause (updSite n (fun x => { x with join := .none }) s)
  else rejoinRefuse n step cause s

/-- The declaration and the digest have passed: at S3 the site is GOOD, at a rejoin it enters QUARANTINE
(R324 step 4). -/
def siteAccepted (n : Nat) (s : State) : State :=
  let dig (s : State) (d : List Byte) : State :=
    forEach (List.range 12) (fun k s => setReg (rSiteNDigestK n k) (bytesToNat ((d.drop (4 * k)).take 4)) s) s
  if s.ready then
    updSite n (fun x => { x with join := .quarantine, lastStep := 4 }) (enterQuar [(uSite, n)]
      (if (Table.get PUnit.init s.pwr.units (unitKey uSite n)).moving.isSome then ccPower else ccRejoin) s)
  else
    let x := s.site n
    let d := if x.cert.isEmpty then List.replicate 48 0 else natToBytes 48 (Config.sha384 x.cert).toNat
    let s1 := updSite n (fun x => { x with join := .none, firstDigest := some d, everAccepted := true }) (dig s d)
    setStatus uSite n (if x.retired.isEmpty then stGood else stDegraded)
      (if x.retired.isEmpty then ccNone else ccModule) s1

/-- The digest of the certificate at hand, or zeros without one (R321). -/
def Site.digest (x : Site) : List Byte :=
  if x.cert.isEmpty then List.replicate 48 0 else natToBytes 48 (Config.sha384 x.cert).toNat

/-- The identity is settled: at a rejoin it must be the one taken at S3, or the site is kept out until the next bring-up
(R321). -/
def checkIdentity (n : Nat) (s : State) : State :=
  if s.ready ∧ (s.site n).firstDigest ≠ some (s.site n).digest then
    rejoinRefuse n 3 ccIdentity (updSite n (fun x => { x with barred := true }) s)
  else siteAccepted n s

/-- CAPS: the chiplet's declaration (R303). `supported` says that the hub supports its rate and options
(R295). -/
def execCaps (n : Fin 6) (cxl caching rate supported : Bool) (aperture : BitVec 16) (power : BitVec 16)
    (vendor part certLen : BitVec 16) (s : State) : Host.Outcome State Fault Refusal :=
  let x := s.site n
  let p := s.inForce (rSiteNPolicy n)
  let ok := supported && bit p (if cxl then 21 else 20) && decide (aperture.toNat ≤ 1024) &&
    decide (power.toNat ≤ 350) && decide (certLen.toNat ≤ 8192)
  let same := !s.ready || !x.everAccepted ||
    (s.rb (rSiteNCaps n) 0 == cxl && s.rb (rSiteNCaps n) 1 == caching && s.rf (rSiteNCaps n) 13 3 == aperture.toNat)
  .next (if !((s.stage == 3 && !s.ready) || x.join == .caps) then s
    else if !ok then keepOut n 2 ccCapsRejected s
    else if !same then rejoinRefuse n 2 ccCapsChanged s
    else
      let s1 := setReg (rSiteNCaps n) (b2n cxl + b2n caching * 2 + b2n rate * 4 + aperture.toNat * 8 +
        2 ^ 14 * power.toNat + 2 ^ 23 * b2n (decide (certLen ≠ 0))) s
      let s2 := setReg (rSiteNId n) (vendor.toNat + 2 ^ 16 * part.toNat) s1
      let s3 := setRf (rSiteNStatus n) 5 3 (b2n cxl + b2n caching * 2 + b2n rate * 4) s2
      let s4 := updSite n (fun x => { x with certLen := certLen.toNat, cert := [], lastStep := 3, join := .cert }) s3
      if certLen.toNat ≠ 0 then sideband n 0x0A [(0, 13)] [] s4
      else if bit p 22 then keepOut n 3 ccCertMissing s4
      else checkIdentity n s4)

/-- The site's certificate is awaited: at S3 or in a rejoin. -/
def State.joining (s : State) (n : Nat) (j : JoinStep) : Bool := (s.site n).join == j

/-- A nonce from the random source: 48 bytes, free values (R321, R452). -/
def nonce (s : State) : List Byte × State :=
  ((List.range 6).flatMap (fun i => natToBytes 8 (Config.freeWord (s.free + i)).toNat), { s with free := s.free + 6 })

/-- CERT_DATA: at most 256 bytes of the certificate (R318, R321); after the last, CHALLENGE goes out. -/
def execCertData (n : Fin 6) (bytes : List Byte) (s : State) : Host.Outcome State Fault Refusal :=
  if 256 < bytes.length then .fault .illFormed
  else .next (if !s.joining n .cert then s
    else
      let x := s.site n
      let c := (x.cert ++ bytes).take x.certLen
      let s1 := updSite n (fun x => { x with cert := c }) s
      if c.length < x.certLen then sideband n 0x0A [(c.length, 13)] [] s1
      else if s1.sec.rngFailed then keepOut n 3 ccCertFailed s1
      else
        let r := nonce s1
        sideband n 0x0C [] (sbWords r.1)
          (updSite n (fun x => { x with join := .challenge, nonce := r.1 }) r.2))

/-- RESPONSE: the 96-byte signature over SHA-384(nonce ‖ digest) is verified (R321). -/
def execResponse (n : Fin 6) (sig : List Byte) (s : State) : Host.Outcome State Fault Refusal :=
  if sig.length ≠ 96 then .fault .illFormed
  else .next (if !s.joining n .challenge then s
    else
      let x := s.site n
      if Config.ecdsaVerify x.cert (x.nonce ++ x.digest) sig then checkIdentity n s
      else keepOut n 3 ccCertFailed s)

/-- JOIN to the chiplet with its epoch tag, the bond threshold and the budget (R318, R324 step 5). -/
def sendJoin (n : Nat) (s : State) : State :=
  let tag := (s.unit uSite n).epoch % 16
  sideband n 0x02 [(tag, 4), (s.rff (rSiteNCtrl n) 19 12, 8), (s.siteBudget n, 11)] []
    (updSite n (fun x => { x with
      join := .join, lastStep := 5, epoch := tag, txSeq := 0, rxSeq := 0, unacked := [], early := [], naks := 0,
      naksRx := 0, gap := false, nextMod := 0, inbox := [], held := [], stream := [],
      credits := [0, 0, 0, 0, 0], owed := [0, 0, 0, 0, 0], curBudget := s.siteBudget n }) s)

/-- The hub's initial credits leave in the first flits after JOIN, at most 63 of a class in each (R298, R305). -/
def grantCredits (n : Nat) (s : State) : State :=
  if s.siteCxl n then s else forEach (List.range 9) (fun _ s => sendIdle n false s) s

/-- JOINED: the chiplet has joined; the hub grants its credits (R305, R324 step 5). After READY a site that has
never left service is simply joined; in a rejoin Welore sets its status next. -/
def execJoined (n : Fin 6) (s : State) : Host.Outcome State Fault Refusal :=
  .next (if !s.joining n .join then s
    else
      grantCredits n (updSite n (fun x => { x with
        join := if s.inService uSite n then .none else .joined, lastStep := 6,
        owed := if s.siteCxl n then [0, 0, 0, 0, 0] else [256, 0, 0, 256, 512] }) s))

/-- SITE_REJOINED: Welore returns the site to service (R324 step 6). -/
def execSiteRejoined (n : Fin 6) (s : State) : Host.Outcome State Fault Refusal :=
  .next (if !s.joining n .joined then s
    else
      let ok := (s.site n).retired.isEmpty
      let s1 := setStatus uSite n (if ok then stGood else stDegraded) (if ok then ccNone else ccModule)
        (unisolate uSite n (updSite n (fun x => { x with join := .none }) s))
      let s2 := { s1 with boot := { s1.boot with quar := Table.erase s1.boot.quar (unitKey uSite n) } }
      opRecord 0x0406 true [n] (opRecord 0x0804 false [uSite, n, (s2.unit uSite n).epoch] (syncSiteCap n s2)))

/-- SITE_REJOIN_FAILED: a step fails or 50 ms pass (R324); the cause of a failed retrain is TRAIN_FAILED. -/
def execSiteRejoinFailed (n : Fin 6) (s : State) : Host.Outcome State Fault Refusal :=
  .next (if s.joining n .none || !s.ready then s
    else rejoinFail n (s.site n).lastStep (if (s.site n).lastStep ≤ 1 then ccTrain else ccNone) s)

/-! ### Reports of the chiplet (R318, R319) -/

/-- An MTYPE of the table (R318). -/
def knownMtype (m : Nat) : Bool := decide (1 ≤ m) && decide (m ≤ 0x13)

/-- STATUS: the chiplet's periodic report of its PLL, its first field; a message of a reserved MTYPE is ignored and counted
(R318). -/
def execStatus (n : Fin 6) (word : BitVec 64) (s : State) : Host.Outcome State Fault Refusal :=
  .next (if bits word.toNat 7 0 = 4 then updSite n (fun x => { x with pll := bit word.toNat 23 }) s
    else if knownMtype (bits word.toNat 7 0) then s
    else addRf (rSiteNErrors n) 21 12 1 s)

/-- POWER_REPORT: mean power in 0.25 W, in answer to a BUDGET (R319). -/
def execPowerReport (n : Fin 6) (watts : BitVec 11) (seq : BitVec 9) (s : State) :
    Host.Outcome State Fault Refusal :=
  .next (if seq.toNat < 512 then setRf (rSiteNPower n) 10 0 watts.toNat s else s)

/-- BOND_FAIL: the chiplet finds a bond of its receive direction failing (R300, R301). -/
def bondFailEvent (n : Fin 6) (m : Fin 64) (b : Fin 96) (s : State) : Host.Outcome State Fault Refusal :=
  .next (if s.inService uSite n && !(s.site n).failing.contains (m.val, b.val) then repairBond n m b s else s)

/-- REPAIR_DONE: the module returns to the rotation, SPARES_LEFT falls in one revision, and one SITE_BOND_SPARED record is
raised for each bond moved (R301 steps 4 and 5, R39). -/
def execRepairDone (n : Fin 6) (m : Fin 64) (s : State) : Host.Outcome State Fault Refusal :=
  let l := (s.site n).repairing.filter (fun r => r.1 == m.val && r.2.1 != 96)
  let s1 := updSite n (fun x => { x with
    repairing := x.repairing.filter (fun r => r.1 != m.val),
    failing := x.failing.filter (fun f => f.1 != m.val) }) s
  let s2 := if l.isEmpty then s1 else
    setRf (rSiteNStatus n) 21 13 (s.rf (rSiteNStatus n) 21 13 - l.length)
      (rewriteUnits [(unitKey uSite n, fun u => { u with spares := u.spares - l.length })] s1)
  .next (flushHeld n (forEach l (fun r s => opRecord 0x0401 false [n, m, r.2.1] s) s2))

/-- SITE_REPAIR_TIMEOUT: the module is not back within 10 µs (R301, R302). -/
def siteRepairTimeoutEvent (n : Fin 6) (m : Fin 64) (s : State) : Host.Outcome State Fault Refusal :=
  .next (if (s.site n).repairing.any (fun r => r.1 == m.val) then retireSiteModule n m s else s)

/-- SITE_n_CTRL.RETRAIN: the module retrains, and every bond of it already marked failing is spared (R301). -/
def retrainSite (n m : Nat) (s : State) : State :=
  let bad := (s.site n).failing.filter (fun f => f.1 == m)
  if !s.inService uSite n || (s.site n).retired.contains m then s
  else
    let s1 := siteTraining n s
    if bad.isEmpty then stopModule n (updSite n (fun x => { x with repairing := x.repairing ++ [(m, 96, 4)] }) s1)
    else forEach bad (fun f s =>
      if (s.site n).repairing.any (fun r => r.1 == f.1 && r.2.1 == f.2) then s else repairBond n f.1 f.2 s) s1

/-- SITE_RETRAIN. -/
def execSiteRetrain (n : Fin 6) (m : Fin 64) (s : State) : Host.Outcome State Fault Refusal := .next (retrainSite n m s)

/-! ### Loss (R322) -/

/-- RESET_NOTICE. -/
def resetNoticeEvent (n : Fin 6) (s : State) : Host.Outcome State Fault Refusal :=
  .next (loseSite n ccChipletReset s)
/-- PLL_UNLOCK. -/
def pllUnlockEvent (n : Fin 6) (s : State) : Host.Outcome State Fault Refusal :=
  .next (loseSite n ccChipletClock (updSite n (fun x => { x with pll := false }) s))
/-- SIDEBAND_LOST: no sideband message for 1 ms. -/
def sidebandLostEvent (n : Fin 6) (s : State) : Host.Outcome State Fault Refusal :=
  .next (loseSite n ccSideband s)
/-- SITE_CLOCK_LOST: the forwarded clocks of the modules `mods` stop; on all modules in service the site is
lost, on others these modules are retired, as are those of `valid`, both of whose valid bonds fail (R322, R302). -/
def siteClockLostEvent (n : Fin 6) (mods valid : BitVec 64) (s : State) : Host.Outcome State Fault Refusal :=
  let live := (List.range 64).filter (fun m => !(s.site n).retired.contains m)
  .next (if live.all (fun m => mods.getLsbD m) then loseSite n ccClock s
    else forEach (live.filter (fun m => mods.getLsbD m || valid.getLsbD m)) (fun m s =>
      if s.inService uSite n then retireSiteModule n m s else s) s)
/-- SITE_n_CTRL.ISOLATE. -/
def siteIsolateEvent (n : Fin 6) (s : State) : Host.Outcome State Fault Refusal :=
  .next (loseSite n ccOperator s)
/-- SNOOP_TIMEOUT: a snoop of the site has gone unanswered for PLZ_CTRL.SNP_TIMEOUT (R233). -/
def snoopTimeoutEvent (n : Fin 6) (s : State) : Host.Outcome State Fault Refusal :=
  .next (if s.plz.snoops.any (fun x => x.site == n.val) then loseSite n ccSnoop s else s)

/-- A rejoin starts: the modules retrain with the spares already in use, and CAPS is awaited (R324). A site that has shown
another identity stays out (R321). The site is ON again, whatever state it had been commanded to (log entry 116). -/
def startRejoin (n : Nat) (s : State) : State :=
  if s.status uSite n = stAbsent ∧ (s.site n).join = .none ∧ (s.site n).barred = false then
    siteTraining n (updSite n (fun x => { x with join := .caps, lastStep := 1 }) (setSitePower n 0 s))
  else s

/-- SITE_n_CTRL.REJOIN. -/
def execSiteRejoin (n : Fin 6) (s : State) : Host.Outcome State Fault Refusal := .next (startRejoin n s)

/-- SITE_n_CTRL.RESET: the site is declared ABSENT, RESET is sent, and the rejoin starts (R324). An EMPTY site stays EMPTY and
does not rejoin, though RESET is sent (DESIGN CHOICE, log entry 116). -/
def resetSite (n : Nat) (s : State) : State :=
  startRejoin n (sideband n 0x0E [] [] (loseSite n ccOperator s))

/-- SITE_RESET. -/
def siteResetEvent (n : Fin 6) (s : State) : Host.Outcome State Fault Refusal := .next (resetSite n s)

/-- SITE_OWNER_SWEEP_DONE: every owner-table entry of the lost site has become a poisoned line, and Welore
records SITE_ABSENT with a service request (R253 steps 4 and 5). -/
def execSiteOwnerSweepDone (n : Fin 6) (s : State) : Host.Outcome State Fault Refusal :=
  let busy := s.plz.txns.any (fun t => t.phase != .waiting &&
    (reqSite? t.req == some n.val && (match t.kind with
      | .rdUnique => true
      | _ => false)))
  .next (if !s.plz.ownerSweep.contains n.val || busy then s
    else
      let es := s.plz.owners.filter (fun e => e.2.site == n.val)
      let s1 := forEach es (fun e s => freeOwner e.1 (poisonLine e.1 s)) s
      let s2 := updPlz (fun p => { p with ownerSweep := p.ownerSweep.filter (· != n.val) }) s1
      let c := (s2.site n).absCause
      serviceRequest uSite n c 1
        (opRecord 0x0304 true [n, c, (s2.site n).poisoned + es.length] (recordMarked uSite n c s2)))

/-! ### Window fence (R317) -/

/-- WIN_FENCE: WIN_BUSY is set, and every request already admitted is awaited. -/
def winFence (n : Nat) (s : State) : State :=
  setRf (rSiteNCtrl n) 11 11 1 (updSite n (fun x => { x with
    opens := x.opens.map (fun o => { o with fenced := true }),
    agents := x.agents.map (fun a => { a with fenced := true }) }) s)

/-- SITE_n_CTRL.WIN_FENCE. -/
def execSiteWinFence (n : Fin 6) (s : State) : Host.Outcome State Fault Refusal := .next (winFence n s)

/-- SITE_WIN_FENCE_DONE: every request admitted before the fence has completed. -/
def execSiteWinFenceDone (n : Fin 6) (s : State) : Host.Outcome State Fault Refusal :=
  let x := s.site n
  .next (if s.rb (rSiteNCtrl n) 11 && !x.opens.any (·.fenced) && !x.agents.any (·.fenced) then
      setRf (rSiteNCtrl n) 11 11 0 s
    else s)

/-! ### Budgets and power (R319, R320, R326) -/

/-- SITE_BUDGET_TIMER. -/
def execSiteBudgetTimer (n : Fin 6) (s : State) : Host.Outcome State Fault Refusal :=
  .next (if s.inService uSite n then sendSiteBudget n s else s)

/-- A write of SITE_n_BUDGET: the budget is sent, unless a clamp makes it wait (R319, R320). -/
def wrSiteBudget (n v : Nat) (s : State) : State :=
  if s.status uSite n = stQuarantine then toShadow (rSiteNBudget n) (bits v 10 0) s
  else
  let s1 := setRf (rSiteNBudget n) 10 0 (bits v 10 0) s
  if s1.inService uSite n && (s1.site n).clampBudget.isNone then sendSiteBudget n s1 else s1

/-- SITE_BUDGET_WRITE. -/
def execSiteBudgetWrite (n : Fin 6) (w : BitVec 11) (s : State) : Host.Outcome State Fault Refusal :=
  .next (wrSiteBudget n w.toNat s)

/-- SITE_OVERPOWER: the power over 10 µs exceeds 350 W, and the hub clamps the budget (R320 steps 1 and 2). -/
def execSiteOverpower (n : Fin 6) (w : BitVec 11) (s : State) : Host.Outcome State Fault Refusal :=
  let s1 := setRf (rSiteNPower n) 21 11 w.toNat s
  .next (if 1400 < w.toNat ∧ s.inService uSite n = true ∧ (s.site n).clampBudget = none then
      let b := (s.site n).curBudget * 9 / 10
      let s2 := sendSiteBudget n (updSite n (fun x => { x with clampBudget := some b }) s1)
      opRecord 0x0404 true [n, b] (setRf (rSiteNStatus n) 22 22 1 s2)
    else s1)

/-- SITE_CLAMP_TIMEOUT: still above 350 W 100 µs after the clamp; the site loses its power (R320 step 3). -/
def siteClampTimeoutEvent (n : Fin 6) (w : BitVec 11) (s : State) : Host.Outcome State Fault Refusal :=
  .next (if 1400 < w.toNat ∧ (s.site n).clampBudget ≠ none then
      let s1 := loseSite n ccOvercurrent (setRf (rSiteNPower n) 21 11 w.toNat s)
      setSitePower n 3 s1
    else s)

/-- SITE_UNCLAMP: the power has stayed below the clamped budget for 1 ms (R320 step 4). -/
def execSiteUnclamp (n : Fin 6) (s : State) : Host.Outcome State Fault Refusal :=
  .next (if (s.site n).clampBudget = none ∨ s.inService uSite n = false then s
    else
      let s1 := setRf (rSiteNStatus n) 22 22 0 (updSite n (fun x => { x with clampBudget := none }) s)
      opRecord 0x0405 true [n] (sendSiteBudget n s1))

/-- The owner-table entries of a site that remain are recalled (R326 step 3). -/
def recallSite (n : Nat) (s : State) : State :=
  forEach (s.plz.owners.filter (fun e => e.2.site == n)) (fun e s => recallLine e.1 s) s

/-- FLUSHED: the chiplet holds no line any more; the hub recalls what its tables still show (R326). -/
def execFlushed (n : Fin 6) (s : State) : Host.Outcome State Fault Refusal :=
  .next (if (s.site n).flushing then recallSite n (updSite n (fun x => { x with flushing := false }) s) else s)

end Sys2Proof.Machine
end

