-- ==== Sys2Proof/Machine/Cxl.lean ====
section
/-!
DEFINITION. The bridge of a CXL site (R250 to R252, R314): device-to-host requests, snoop responses and
device-to-host data.
-/
namespace Sys2Proof.Machine

/-- A device-to-host request becomes a request of the hub; it is checked against the window table and carries
the site's default class and CXL_URG (R250, R314, R316). `virt` marks a request whose data the bridge
discards. -/
def cxlReq (n tag pa msg w3 : Nat) (nodata : Bool) (data : LineData) (mask : BitVec 128) (poison : Bool)
    (s : State) : State :=
  if s.siteCxl n && s.siteServes n then
    let lk := match paTarget pa with
      | .stacked k a => lineKey k a
      | _ => 0
    let mk (u : Nat) : Option Mark :=
      if poison then some (s.markFor (lineStack lk) (lineAddr lk + 64 * u) 1) else none
    let h := { KMsg.blank with msg := msg, txn := tag, addr := pa / 64 * 64, w3 := w3, virt := nodata,
                               cls := s.rff (rSiteNPolicy n) 19 16, urg := s.rff (rSiteNCtrl n) 21 20,
                               epoch := (s.site n).epoch }
    let h' := if msg = 3 ∨ msg = 6 then h else { h with addr := pa / 128 * 128 }
    admitReq n h' data mask (mk 0) (mk 1) 0 s
  else s

/-- A write of a CXL device: WR_FULL where all bytes are written, else WR_PART, with hint DEFAULT (R250). -/
def cxlWrite (n tag pa : Nat) (data : LineData) (mask : BitVec 128) (poison : Bool) (s : State) : State :=
  if mask = 0 then s
  else cxlReq n tag pa (if mask = BitVec.ofNat 128 (2 ^ 128 - 1) then 4 else 5) 0 false data mask poison s

/-- RdShared: RD_SHARED, answered with data and GO-S. -/
def execCxlRdshared (n : Fin 6) (tag : Fin 4096) (pa : BitVec 52) (s : State) :
    Host.Outcome State Fault Refusal :=
  .next (cxlReq n tag pa.toNat 1 0 false 0 0 false s)
/-- RdAny: RD_SHARED. -/
def execCxlRdany (n : Fin 6) (tag : Fin 4096) (pa : BitVec 52) (s : State) : Host.Outcome State Fault Refusal :=
  .next (cxlReq n tag pa.toNat 1 0 false 0 0 false s)
/-- RdOwn: RD_UNIQUE, answered with data and GO-E or GO-M. -/
def execCxlRdown (n : Fin 6) (tag : Fin 4096) (pa : BitVec 52) (s : State) : Host.Outcome State Fault Refusal :=
  .next (cxlReq n tag pa.toNat 2 0 false 0 0 false s)
/-- RdOwnNoData: RD_UNIQUE, the data discarded at the bridge. -/
def execCxlRdownnodata (n : Fin 6) (tag : Fin 4096) (pa : BitVec 52) (s : State) :
    Host.Outcome State Fault Refusal :=
  .next (cxlReq n tag pa.toNat 2 0 true 0 0 false s)
/-- RdCurr: RD_ONCE, answered with data and GO-I. -/
def execCxlRdcurr (n : Fin 6) (tag : Fin 4096) (pa : BitVec 52) (s : State) : Host.Outcome State Fault Refusal :=
  .next (cxlReq n tag pa.toNat 3 0 false 0 0 false s)
/-- ItoMWr: a write, GO-I after WR_ACK. -/
def execCxlItomwr (n : Fin 6) (tag : Fin 4096) (pa : BitVec 52) (data : LineData) (mask : BitVec 128)
    (poison : Bool) (s : State) : Host.Outcome State Fault Refusal :=
  .next (cxlWrite n tag pa.toNat data mask poison s)
/-- WrCur: a write. -/
def execCxlWrcur (n : Fin 6) (tag : Fin 4096) (pa : BitVec 52) (data : LineData) (mask : BitVec 128)
    (poison : Bool) (s : State) : Host.Outcome State Fault Refusal :=
  .next (cxlWrite n tag pa.toNat data mask poison s)
/-- WrInv: a write. -/
def execCxlWrinv (n : Fin 6) (tag : Fin 4096) (pa : BitVec 52) (data : LineData) (mask : BitVec 128)
    (poison : Bool) (s : State) : Host.Outcome State Fault Refusal :=
  .next (cxlWrite n tag pa.toNat data mask poison s)
/-- WOWrInv: a write. -/
def execCxlWowrinv (n : Fin 6) (tag : Fin 4096) (pa : BitVec 52) (data : LineData) (mask : BitVec 128)
    (poison : Bool) (s : State) : Host.Outcome State Fault Refusal :=
  .next (cxlWrite n tag pa.toNat data mask poison s)
/-- WOWrInvF: a write of a whole line. -/
def execCxlWowrinvf (n : Fin 6) (tag : Fin 4096) (pa : BitVec 52) (data : LineData) (mask : BitVec 128)
    (poison : Bool) (s : State) : Host.Outcome State Fault Refusal :=
  .next (cxlWrite n tag pa.toNat data mask poison s)
/-- DirtyEvict: GO-WritePull; the data that follows becomes WRITEBACK. -/
def execCxlDirtyevict (n : Fin 6) (tag : Fin 4096) (pa : BitVec 52) (s : State) :
    Host.Outcome State Fault Refusal :=
  .next (match paTarget pa.toNat with
    | .stacked k a =>
      if s.siteCxl n && s.inService uSite n then
        emit (.cxl n "GO-WritePull" (lineKey k a) 0) (updSite n (fun x => { x with
          due := x.due ++ [{ line := lineKey k a, txn := tag, code := 0, modified := true }] }) s)
      else s
    | _ => if s.siteCxl n && s.inService uSite n then emit (.cxl n "GO-Err" 0 0) s else s)

/-- A clean eviction of a CXL device: EVICT_CLEAN, no data pulled. -/
def cxlCleanEvict (n tag pa : Nat) (s : State) : State :=
  match paTarget pa with
  | .stacked k a =>
    if s.siteCxl n && s.inService uSite n then
      let o : OpenReq :=
        { hdr := { KMsg.blank with msg := 8, txn := tag, addr := pa / 128 * 128 }, data := 0, mask := 0, m0 := none,
          m1 := none, need := 0, fenced := false, fail := 0, sent := false, outst := 0 }
      postOpen n o k a false s
    else s
  | _ => if s.siteCxl n && s.inService uSite n then emit (.cxl n "GO-Err" 0 0) s else s

/-- CleanEvict. -/
def execCxlCleanevict (n : Fin 6) (tag : Fin 4096) (pa : BitVec 52) (s : State) :
    Host.Outcome State Fault Refusal :=
  .next (cxlCleanEvict n tag pa.toNat s)
/-- CleanEvictNoData. -/
def execCxlCleanevictnodata (n : Fin 6) (tag : Fin 4096) (pa : BitVec 52) (s : State) :
    Host.Outcome State Fault Refusal :=
  .next (cxlCleanEvict n tag pa.toNat s)
/-- CLFlush: FLUSH_LINE, GO-I after WR_ACK. -/
def execCxlClflush (n : Fin 6) (tag : Fin 4096) (pa : BitVec 52) (s : State) : Host.Outcome State Fault Refusal :=
  .next (cxlReq n tag pa.toNat 9 0 false 0 0 false s)
/-- CacheFlushed: accepted, no effect. -/
def execCxlCacheflushed (_n : Fin 6) (s : State) : Host.Outcome State Fault Refusal := .next s
/-- Any other device-to-host request: GO-Err, no effect. -/
def execCxlOtherRequest (n : Fin 6) (s : State) : Host.Outcome State Fault Refusal :=
  .next (if s.siteCxl n && s.inService uSite n then emit (.cxl n "GO-Err" 0 0) s else s)

/-- The code of the snoop of transaction `txn` on a line (R236, R251). -/
def snoopCode (t : Txn) : Nat :=
  if t.phase = .invalidating then 0x16
  else match t.kind with
    | .rdShared => 0x11
    | .rdUnique => 0x12
    | .rdOnce _ => 0x13
    | .wrFull => 0x15
    | _ => 0x14

/-- CXL_SNOOP_RESPONSE: the bridge derives SNP_RSP from the device's response, and awaits the data that the
response forwards (R251). -/
def execCxlSnoopResponse (n : Fin 6) (k : Fin 12) (l : Fin (2 ^ 29)) (r : CxlRsp) (s : State) :
    Host.Outcome State Fault Refusal :=
  let lk := lineOf k l
  .next (if !s.siteCxl n then s
    else match s.plz.snoops.find? (fun x => x.site == n.val && x.line == lk) with
    | none => protocolError n 0x21 s
    | some x =>
      match s.txn? x.txn with
      | none => snpRsp n (x.txn % 4096) false false 0 s
      | some t =>
        let data := match r with
          | .rspSFwdM => true
          | .rspIFwdM => true
          | .rspVFwdV => true
          | _ => false
        let code := snoopCode t
        let s1 := if data then updSite n (fun y => { y with
            due := y.due ++ [{ line := lk, txn := x.txn % 4096, code := code, modified := r != .rspVFwdV }] }) s
          else s
        let onward := data && code != 0x15 && code != 0x16
        let left := match r with
          | .rspSHitSE => 1
          | .rspSFwdM => 1
          | .rspVHitV => 2
          | .rspVFwdV => 2
          | _ => 0
        snpRsp n (x.txn % 4096) (onward && code ≤ 0x13) (onward && (code == 0x11 || code == 0x14)) left s1)

/-- CXL_D2H_DATA: the data of a DirtyEvict or of a snoop response, passed on as WRITEBACK, DATA or WB_DATA
(R250, R251); the device's poison is handled as in R311. -/
def execCxlD2hData (n : Fin 6) (k : Fin 12) (l : Fin (2 ^ 29)) (data : LineData) (poison : Bool) (s : State) :
    Host.Outcome State Fault Refusal :=
  let lk := lineOf k l
  .next (match (s.site n).due.find? (fun d => d.line == lk) with
    | none => s
    | some d =>
      let s1 := updSite n (fun x => { x with due := x.due.erase d }) s
      let mk (u : Nat) : Option Mark :=
        if poison then some (s.markFor (lineStack lk) (lineAddr lk + 64 * u) 1) else none
      let route (g : Grant) (s : State) : State :=
        forEach [0, 1] (fun u s => (routeData d.txn u (lineUnit data u) (mk u) g s).getD s) s
      let home (s : State) : State :=
        forEach [0, 1] (fun u s =>
          if s.plz.txns.any (fun t => t.id % 4096 == d.txn && t.owner == some n.val && t.wb) then
            wbData n d.txn u (lineUnit data u) (mk u) d.modified s
          else s) s
      match d.code with
      | 0 =>
        let o : OpenReq :=
          { hdr := { KMsg.blank with msg := 7, txn := d.txn, addr := linePa lk }, data := data,
            mask := BitVec.ofNat 128 (2 ^ 128 - 1), m0 := mk 0, m1 := mk 1, need := 0, fenced := false, fail := 0,
            sent := false, outst := 0 }
        postOpen n o (lineStack lk) (lineAddr lk) false s1
      | 0x11 => home (route .s s1)
      | 0x12 => route (if d.modified then .m else .e) s1
      | 0x13 => route .none s1
      | 0x14 => home s1
      | _ => s1)

end Sys2Proof.Machine
end

