-- ==== Sys2Proof/Machine/Elementary.lean ====
section
/-!
DEFINITION. The elementary functions of the vector engine (R157, R158). The true value of eˣ, ln x, tanh x and erf x is
enclosed between two fixed-point numbers; the result is one of the FP32 encodings within the bound of R157 of a value
between them, and which of these it is stays open (log entry 15).
-/
namespace Sys2Proof.Machine

/-- The canonical NaN and the infinities of FP32. -/
abbrev nan32 : Nat := 0x7FC00000
/-- +∞. -/
abbrev inf32 : Nat := 0x7F800000

/-! ### Enclosures in units of 2⁻²⁵⁶ -/

/-- A real number from `lo` to `hi`, in units of 2⁻²⁵⁶. -/
structure Encl where
  lo : Nat
  hi : Nat
  deriving DecidableEq, Repr

/-- The unit's reciprocal. -/
abbrev fxOne : Nat := 2 ^ 256

/-- m · 2^e, exact for every finite FP32 value. -/
def fxOf (m : Nat) (e : Int) : Nat := m * 2 ^ (e + 256).toNat

/-- A rational number. -/
def Encl.ofRatio (n d : Nat) : Encl := { lo := n * fxOne / d, hi := ceilDiv (n * fxOne) d }
/-- One number. -/
def Encl.of (v : Nat) : Encl := { lo := v, hi := v }
def Encl.add (a b : Encl) : Encl := { lo := a.lo + b.lo, hi := a.hi + b.hi }
def Encl.mul (a b : Encl) : Encl := { lo := a.lo * b.lo / fxOne, hi := ceilDiv (a.hi * b.hi) fxOne }
/-- Divided by a natural number. -/
def Encl.div (a : Encl) (k : Nat) : Encl := { lo := a.lo / k, hi := ceilDiv a.hi k }
/-- The reciprocal of a positive number. -/
def Encl.inv (a : Encl) : Encl := { lo := fxOne * fxOne / a.hi, hi := ceilDiv (fxOne * fxOne) a.lo }

/-- 1 + y + y²/2! + …, with the term `t` = yⁱ⁻¹/(i−1)! last added; what is left out is below that term for y below 1/2. -/
def expTerms (y : Encl) : Nat → Nat → Encl → Encl → Encl
  | 0, _, t, s => { lo := s.lo, hi := s.hi + t.hi + 1 }
  | fuel + 1, i, t, s =>
    let u := (t.mul y).div i
    expTerms y fuel (i + 1) u (s.add u)

/-- A number squared `n` times. -/
def squarings : Nat → Encl → Encl
  | 0, a => a
  | n + 1, a => squarings n (a.mul a)

/-- e^x for x from 0 to 128: the series at x/2¹⁰, squared ten times. -/
def enclExp (x : Encl) : Encl := squarings 10 (expTerms (x.div 1024) 40 1 (Encl.of fxOne) (Encl.of fxOne))

/-- z + z³/3 + z⁵/5 + … for z up to 1/3; `p` is the next power. -/
def atanhTerms (z2 : Encl) : Nat → Nat → Encl → Encl → Encl
  | 0, _, p, s => { lo := s.lo, hi := s.hi + p.hi }
  | fuel + 1, k, p, s => atanhTerms z2 fuel (k + 2) (p.mul z2) (s.add (p.div k))

/-- 2 · artanh z. -/
def enclAtanh2 (z : Encl) : Encl :=
  let s := atanhTerms (z.mul z) 90 1 z (Encl.of 0)
  s.add s

/-- ln(m · 2^e), m not zero, as its two ends: the exponent's multiple of ln 2 and the logarithm of the mantissa in
[1, 2). -/
def enclLn (m : Nat) (e : Int) : Int × Int :=
  let w := 2 ^ Nat.log2 m
  let a := enclAtanh2 (Encl.ofRatio (m - w) (m + w))
  let l2 := enclAtanh2 (Encl.ofRatio 1 3)
  let k := exOf m e
  if 0 ≤ k then (k * l2.lo + a.lo, k * l2.hi + a.hi) else (k * l2.hi + a.lo, k * l2.lo + a.hi)

/-- tanh x for x ≥ 0: 1 − 2/(e^2x + 1), and from 64 on just below 1. -/
def enclTanh (x : Nat) : Encl :=
  if 64 * fxOne ≤ x then { lo := fxOne - 2 ^ 156, hi := fxOne }
  else
    let r := ((enclExp (Encl.of (2 * x))).add (Encl.of fxOne)).inv
    { lo := fxOne - 2 * r.hi, hi := fxOne - 2 * r.lo }

/-- x · (1 + 2x²/3 + (2x²)²/(3·5) + …), with `y` = 2x² and the term `t` last added. -/
def erfTerms (y : Encl) : Nat → Nat → Encl → Encl → Encl
  | 0, _, t, s => { lo := s.lo, hi := s.hi + t.hi + 1 }
  | fuel + 1, k, t, s =>
    let u := (t.mul y).div k
    erfTerms y fuel (k + 2) u (s.add u)

/-- ⌊2/√π · 2²⁵⁶⌋. -/
abbrev twoOverRootPi : Nat := 0x120dd750429b6d11ae3a914fed7fd8688281341d7587cea2e7342b06199cc4161

/-- erf x for x ≥ 0: 2/√π · e^−x² · the series, and from 10 on just below 1. -/
def enclErf (x : Nat) : Encl :=
  if 10 * fxOne ≤ x then { lo := fxOne - 2 ^ 112, hi := fxOne }
  else
    let x2 := (Encl.of x).mul (Encl.of x)
    let s := erfTerms (x2.add x2) 450 3 (Encl.of x) (Encl.of x)
    (s.mul (enclExp x2).inv).mul { lo := twoOverRootPi, hi := twoOverRootPi + 1 }

/-! ### The encodings that the bound allows -/

/-- A unit in the last place of FP32 at a value; subnormals keep the least one. -/
def ulpAt (v : Nat) : Nat := 2 ^ (max ((Nat.log2 v : Int) - 256) (-126) - 23 + 256).toNat

/-- The value of a finite FP32 magnitude. -/
def fxMag (c : Nat) : Nat :=
  match Fmt.fp32.decode c with
  | .fin _ m e => fxOf m e
  | _ => 0

/-- The magnitudes within `bound` units in the last place of an enclosed value: an encoding next to the one that the value
truncates to. -/
def nearMags (bound : Nat) (v : Encl) : List Nat :=
  let t := Fmt.fp32.magEnc { mode := .rtz, draw := 0 } v.lo (-256)
  ((List.range 9).filterMap (fun i => if 4 ≤ t + i then some (t + i - 4) else none)).filter (fun c =>
    decide (c ≤ Fmt.fp32.maxEnc ∧ v.lo ≤ fxMag c + bound * ulpAt v.lo ∧ fxMag c ≤ v.hi + bound * ulpAt v.hi))

/-- The magnitude of a result: infinite above the largest finite value, zero below 2⁻¹⁵⁰, else one that the bound allows. -/
def openMag (pick bound : Nat) (v : Encl) : Nat :=
  if fxMag Fmt.fp32.maxEnc < v.lo then inf32
  else if v.hi < 2 ^ 106 then 0
  else (nearMags bound v).getD (pick % (nearMags bound v).length) 0

/-! ### Reciprocals -/

/-- ⌊√n⌋, found bit by bit from bit `k` down. -/
def isqrtFrom (n : Nat) : Nat → Nat → Nat
  | 0, r => r
  | k + 1, r => isqrtFrom n k (if (r + 2 ^ k) * (r + 2 ^ k) ≤ n then r + 2 ^ k else r)

/-- An FP32 magnitude within one unit in the last place of `q` · 2^e (or just above it, where `exact` is false),
which of those the spec allows being open. -/
def nearUlp (pick q : Nat) (exact : Bool) (e : Int) : Nat :=
  let t := Fmt.fp32.magEnc { mode := .rtz, draw := 0 } (2 * q + b2n (!exact)) (e - 1)
  let r := if exact ∧ Fmt.fp32.decode t = .fin false q e then t + pick % 3 - 1 else t + pick % 2
  if Fmt.fp32.maxEnc < t then inf32 else min r inf32

/-- 1/|x| for x = ±m · 2^e, m not zero. -/
def rcpMag (pick m : Nat) (e : Int) : Nat :=
  let k := 64 + Nat.log2 m
  nearUlp pick (2 ^ k / m) (decide (2 ^ k % m = 0)) (-(k : Int) - e)

/-- 1/√x for x = m · 2^e, m not zero. -/
def rsqrtMag (pick m : Nat) (e : Int) : Nat :=
  let m' := if e % 2 = 0 then m else 2 * m
  let f := (if e % 2 = 0 then e else e - 1) / 2
  let k := 96
  let q := isqrtFrom (2 ^ (2 * k) / m') (k + 1) 0
  nearUlp pick q (decide (q * q * m' = 2 ^ (2 * k))) (-(k : Int) - f)

/-! ### The function operations -/

/-- ln x of a finite x > 0 other than 1. -/
def lnResult (pick m : Nat) (e : Int) : Nat :=
  let r := enclLn m e
  if 0 ≤ r.1 then openMag pick 1 { lo := r.1.toNat, hi := r.2.toNat }
  else Fmt.fp32.withSign true (openMag pick 1 { lo := (-r.2).toNat, hi := (-r.1).toNat })

/-- e^x of a finite x; beyond ±128 the result leaves FP32's range. -/
def expResult (pick : Nat) (neg : Bool) (m : Nat) (e : Int) : Nat :=
  let x := fxOf m e
  if 128 * fxOne ≤ x then (if neg then 0 else inf32)
  else openMag pick 1 (if neg then (enclExp (Encl.of x)).inv else enclExp (Encl.of x))

/-- The function operations 0x09 to 0x0E on an FP32 encoding: the special inputs of R157, the results beyond
FP32's range, and otherwise a value within its bound (log entry 15). -/
def elementary (op c : Nat) : Nat :=
  let pick := (Config.elementary op c).toNat
  let sgn (n : Bool) (v : Nat) : Nat := Fmt.fp32.withSign n v
  match op, Fmt.fp32.decode c with
  | _, .nan => nan32
  | 0x09, .inf n => if n then 0 else inf32
  | 0x09, .fin n m e => expResult pick n m e
  | 0x0A, .inf n => if n then nan32 else inf32
  | 0x0A, .fin n m e =>
    if m = 0 then sgn true inf32 else if n then nan32 else if c = 0x3F800000 then 0 else lnResult pick m e
  | 0x0B, .inf n => sgn n 0
  | 0x0B, .fin n m e => if m = 0 then sgn n inf32 else sgn n (rcpMag pick m e)
  | 0x0C, .inf n => if n then nan32 else 0
  | 0x0C, .fin n m e => if m = 0 then sgn n inf32 else if n then nan32 else rsqrtMag pick m e
  | _, .inf n => sgn n 0x3F800000
  | op, .fin n m e =>
    if m = 0 then c else sgn n (openMag pick 2 (if op = 0x0D then enclTanh (fxOf m e) else enclErf (fxOf m e)))

end Sys2Proof.Machine
end

