-- ==== Sys2Proof/Machine/Rv.lean ====
section
/-!
DEFINITION. The control core's instruction set (R43): RV64I with M, A and C, Zicsr, Zifencei and Zicntr, and
Xkolgil (R54, R55). Decoding of 32-bit words, expansion of the compressed forms into 32-bit words, and the
integer results. R43 names the RISC-V specifications for everything here but Xkolgil: the encodings and
results are taken from them (PRESUMED, log entry 10).
-/
namespace Sys2Proof

/-- What a fetched word asks of the core; one constructor per group that a row of the table executes. -/
inductive RvClass where
  | alu | load | store | amo | fence | fenceI | ebreak | wfi | csr | ecall | mret
  | xkIssue | xkWait | xkTest | xkQfence | xkBput | xkBget | xkBar | illegal
  deriving DecidableEq, Repr

def rvOp (w : Nat) : Nat := bits w 6 0
def rvRd (w : Nat) : Nat := bits w 11 7
def rvF3 (w : Nat) : Nat := bits w 14 12
def rvRs1 (w : Nat) : Nat := bits w 19 15
def rvRs2 (w : Nat) : Nat := bits w 24 20
def rvF7 (w : Nat) : Nat := bits w 31 25

/-- Immediates, sign-extended to 64 bits. -/
def rvImmI (w : Nat) : W64 := BitVec.ofInt 64 (signed 12 (bits w 31 20))
def rvImmS (w : Nat) : W64 := BitVec.ofInt 64 (signed 12 (bits w 31 25 * 32 + bits w 11 7))
def rvImmB (w : Nat) : W64 :=
  BitVec.ofInt 64 (signed 13 (bits w 31 31 * 4096 + bits w 7 7 * 2048 + bits w 30 25 * 32 + bits w 11 8 * 2))
def rvImmU (w : Nat) : W64 := BitVec.ofInt 64 (signed 32 (bits w 31 12 * 4096))
def rvImmJ (w : Nat) : W64 :=
  BitVec.ofInt 64 (signed 21 (bits w 31 31 * 1048576 + bits w 19 12 * 4096 + bits w 20 20 * 2048
    + bits w 30 21 * 2))

/-- The Xkolgil group of a word of major opcode 0b0001011 (R54, R55): a field listed as zero must be zero
and funct3 0b111 is reserved. -/
def xkClass (w : Nat) : RvClass :=
  let rs1 := rvRs1 w; let rs2 := rvRs2 w; let rd := rvRd w; let f7 := rvF7 w
  match rvF3 w with
  | 0 => if f7 < 4 ∧ rs2 = 0 then .xkIssue else .illegal
  | 1 => if f7 < 4 ∧ rs2 = 0 then .xkWait else .illegal
  | 2 => if f7 < 4 ∧ rs2 = 0 then .xkTest else .illegal
  | 3 => if f7 < 16 ∧ rs1 = 0 ∧ rs2 = 0 ∧ rd = 0 then .xkQfence else .illegal
  | 4 => if f7 < 2 ∧ rs2 = 0 ∧ rd = 0 then .xkBput else .illegal
  | 5 => if f7 < 2 ∧ rs1 = 0 ∧ rs2 = 0 then .xkBget else .illegal
  | 6 => if f7 < 4 ∧ rs1 = 0 ∧ rs2 = 0 ∧ rd = 0 then .xkBar else .illegal
  | _ => .illegal

/-- The group of a 32-bit word. -/
def rvClass (w : Nat) : RvClass :=
  let f3 := rvF3 w; let f7 := rvF7 w
  match rvOp w with
  | 0x37 | 0x17 | 0x6F => .alu
  | 0x67 => if f3 = 0 then .alu else .illegal
  | 0x63 => if f3 = 2 ∨ f3 = 3 then .illegal else .alu
  | 0x03 => if f3 = 7 then .illegal else .load
  | 0x23 => if f3 ≤ 3 then .store else .illegal
  | 0x13 =>
    if f3 = 1 then (if bits w 31 26 = 0 then .alu else .illegal)
    else if f3 = 5 then (if bits w 31 26 = 0 ∨ bits w 31 26 = 16 then .alu else .illegal)
    else .alu
  | 0x1B =>
    if f3 = 0 then .alu
    else if f3 = 1 then (if f7 = 0 then .alu else .illegal)
    else if f3 = 5 then (if f7 = 0 ∨ f7 = 32 then .alu else .illegal)
    else .illegal
  | 0x33 =>
    if f7 = 0 ∨ f7 = 1 then .alu
    else if f7 = 32 ∧ (f3 = 0 ∨ f3 = 5) then .alu else .illegal
  | 0x3B =>
    if f7 = 0 ∧ (f3 = 0 ∨ f3 = 1 ∨ f3 = 5) then .alu
    else if f7 = 32 ∧ (f3 = 0 ∨ f3 = 5) then .alu
    else if f7 = 1 ∧ (f3 = 0 ∨ 4 ≤ f3) then .alu else .illegal
  | 0x2F =>
    if f3 = 2 ∨ f3 = 3 then
      (let f5 := bits w 31 27
       if f5 = 2 then (if rvRs2 w = 0 then .amo else .illegal)
       else if f5 ∈ [0, 1, 3, 4, 8, 12, 16, 20, 24, 28] then .amo else .illegal)
    else .illegal
  | 0x0F => if f3 = 0 then .fence else if f3 = 1 then .fenceI else .illegal
  | 0x73 =>
    if f3 = 0 then
      if w = 0x00000073 then .ecall
      else if w = 0x00100073 then .ebreak
      else if w = 0x10500073 then .wfi
      else if w = 0x30200073 then .mret
      else .illegal
    else if f3 = 4 then .illegal else .csr
  | 0x0B => xkClass w
  | _ => .illegal

/-- Word of R type. -/
def encR (op rd f3 rs1 rs2 f7 : Nat) : Nat :=
  op + 2 ^ 7 * rd + 2 ^ 12 * f3 + 2 ^ 15 * rs1 + 2 ^ 20 * rs2 + 2 ^ 25 * f7
/-- Word of I type. -/
def encI (op rd f3 rs1 imm : Nat) : Nat :=
  op + 2 ^ 7 * rd + 2 ^ 12 * f3 + 2 ^ 15 * rs1 + 2 ^ 20 * (imm % 4096)
/-- Word of S type. -/
def encS (op f3 rs1 rs2 imm : Nat) : Nat :=
  op + 2 ^ 7 * bits imm 4 0 + 2 ^ 12 * f3 + 2 ^ 15 * rs1 + 2 ^ 20 * rs2 + 2 ^ 25 * bits imm 11 5
/-- Word of B type. -/
def encB (f3 rs1 rs2 imm : Nat) : Nat :=
  0x63 + 2 ^ 7 * (bits imm 11 11 + bits imm 4 1 * 2) + 2 ^ 12 * f3 + 2 ^ 15 * rs1 + 2 ^ 20 * rs2
    + 2 ^ 25 * (bits imm 10 5 + bits imm 12 12 * 64)
/-- Word of J type. -/
def encJ (rd imm : Nat) : Nat :=
  0x6F + 2 ^ 7 * rd + 2 ^ 12 * bits imm 19 12 + 2 ^ 20 * bits imm 11 11 + 2 ^ 21 * bits imm 10 1
    + 2 ^ 31 * bits imm 20 20

/-- A field of `w` bits sign-extended into `n` bits. -/
def sext (w n v : Nat) : Nat := if v % 2 ^ w < 2 ^ (w - 1) then v % 2 ^ w else v % 2 ^ w + 2 ^ n - 2 ^ w

/-- The 32-bit word a compressed instruction stands for; `none` where it is illegal (the all-zero word,
reserved forms, and the floating-point forms, whose extensions R43 leaves out). -/
def expandC (h : Nat) : Option Nat :=
  let f3 := bits h 15 13
  let rdF := bits h 11 7
  let rs2F := bits h 6 2
  let rdC := bits h 4 2 + 8
  let rs1C := bits h 9 7 + 8
  let imm6 := bits h 12 12 * 32 + bits h 6 2
  match bits h 1 0, f3 with
  | 0, 0 =>
    let imm := bits h 10 7 * 64 + bits h 12 11 * 16 + bits h 5 5 * 8 + bits h 6 6 * 4
    if imm = 0 then none else some (encI 0x13 rdC 0 2 imm)
  | 0, 2 => some (encI 0x03 rdC 2 rs1C (bits h 5 5 * 64 + bits h 12 10 * 8 + bits h 6 6 * 4))
  | 0, 3 => some (encI 0x03 rdC 3 rs1C (bits h 6 5 * 64 + bits h 12 10 * 8))
  | 0, 6 => some (encS 0x23 2 rs1C rdC (bits h 5 5 * 64 + bits h 12 10 * 8 + bits h 6 6 * 4))
  | 0, 7 => some (encS 0x23 3 rs1C rdC (bits h 6 5 * 64 + bits h 12 10 * 8))
  | 1, 0 => some (encI 0x13 rdF 0 rdF (sext 6 12 imm6))
  | 1, 1 => if rdF = 0 then none else some (encI 0x1B rdF 0 rdF (sext 6 12 imm6))
  | 1, 2 => some (encI 0x13 rdF 0 0 (sext 6 12 imm6))
  | 1, 3 =>
    if rdF = 2 then
      let imm := bits h 12 12 * 512 + bits h 4 3 * 128 + bits h 5 5 * 64 + bits h 2 2 * 32 + bits h 6 6 * 16
      if imm = 0 then none else some (encI 0x13 2 0 2 (sext 10 12 imm))
    else if imm6 = 0 then none
    else some (0x37 + 2 ^ 7 * rdF + 2 ^ 12 * sext 6 20 imm6)
  | 1, 4 =>
    match bits h 11 10 with
    | 0 => some (encI 0x13 rs1C 5 rs1C imm6)
    | 1 => some (encI 0x13 rs1C 5 rs1C (imm6 + 0x400))
    | 2 => some (encI 0x13 rs1C 7 rs1C (sext 6 12 imm6))
    | _ =>
      match bits h 12 12, bits h 6 5 with
      | 0, 0 => some (encR 0x33 rs1C 0 rs1C rdC 32)
      | 0, 1 => some (encR 0x33 rs1C 4 rs1C rdC 0)
      | 0, 2 => some (encR 0x33 rs1C 6 rs1C rdC 0)
      | 0, _ => some (encR 0x33 rs1C 7 rs1C rdC 0)
      | _, 0 => some (encR 0x3B rs1C 0 rs1C rdC 32)
      | _, 1 => some (encR 0x3B rs1C 0 rs1C rdC 0)
      | _, _ => none
  | 1, 5 =>
    let imm := bits h 12 12 * 2048 + bits h 8 8 * 1024 + bits h 10 9 * 256 + bits h 6 6 * 128
      + bits h 7 7 * 64 + bits h 2 2 * 32 + bits h 11 11 * 16 + bits h 5 3 * 2
    some (encJ 0 (sext 12 21 imm))
  | 1, 6 =>
    let imm := bits h 12 12 * 256 + bits h 6 5 * 64 + bits h 2 2 * 32 + bits h 11 10 * 8 + bits h 4 3 * 2
    some (encB 0 rs1C 0 (sext 9 13 imm))
  | 1, 7 =>
    let imm := bits h 12 12 * 256 + bits h 6 5 * 64 + bits h 2 2 * 32 + bits h 11 10 * 8 + bits h 4 3 * 2
    some (encB 1 rs1C 0 (sext 9 13 imm))
  | 2, 0 => some (encI 0x13 rdF 1 rdF imm6)
  | 2, 2 =>
    if rdF = 0 then none
    else some (encI 0x03 rdF 2 2 (bits h 3 2 * 64 + bits h 12 12 * 32 + bits h 6 4 * 4))
  | 2, 3 =>
    if rdF = 0 then none
    else some (encI 0x03 rdF 3 2 (bits h 4 2 * 64 + bits h 12 12 * 32 + bits h 6 5 * 8))
  | 2, 4 =>
    if bits h 12 12 = 0 then
      if rs2F = 0 then (if rdF = 0 then none else some (encI 0x67 0 0 rdF 0))
      else some (encR 0x33 rdF 0 0 rs2F 0)
    else if rs2F = 0 then (if rdF = 0 then some 0x00100073 else some (encI 0x67 1 0 rdF 0))
    else some (encR 0x33 rdF 0 rdF rs2F 0)
  | 2, 6 => some (encS 0x23 2 2 rs2F (bits h 8 7 * 64 + bits h 12 9 * 4))
  | 2, 7 => some (encS 0x23 3 2 rs2F (bits h 9 7 * 64 + bits h 12 10 * 8))
  | _, _ => none

/-- Sign extension of the low 32 bits. -/
def sext32 (v : W64) : W64 := (v.setWidth 32).signExtend 64

/-- The register-register and register-immediate operations; `alt` is bit 30 of the word. -/
def aluOp (f3 : Nat) (alt : Bool) (a b : W64) : W64 :=
  match f3 with
  | 0 => if alt then a - b else a + b
  | 1 => a <<< (b.toNat % 64)
  | 2 => if a.toInt < b.toInt then 1 else 0
  | 3 => if a.toNat < b.toNat then 1 else 0
  | 4 => a ^^^ b
  | 5 => if alt then BitVec.sshiftRight a (b.toNat % 64) else a >>> (b.toNat % 64)
  | 6 => a ||| b
  | _ => a &&& b

/-- The 32-bit operations, whose results are sign-extended. -/
def aluOpW (f3 : Nat) (alt : Bool) (a b : W64) : W64 :=
  let x : W32 := a.setWidth 32; let y : W32 := b.setWidth 32
  let r : W32 :=
    match f3 with
    | 0 => if alt then x - y else x + y
    | 1 => x <<< (y.toNat % 32)
    | _ => if alt then BitVec.sshiftRight x (y.toNat % 32) else x >>> (y.toNat % 32)
  r.signExtend 64

/-- The M extension on 64 bits: division by zero gives all ones and the dividend as remainder, and the
most negative value over minus one gives itself and remainder zero. -/
def mulOp (f3 : Nat) (a b : W64) : W64 :=
  match f3 with
  | 0 => a * b
  | 1 => BitVec.ofInt 64 (a.toInt * b.toInt / 2 ^ 64)
  | 2 => BitVec.ofInt 64 (a.toInt * b.toNat / 2 ^ 64)
  | 3 => BitVec.ofNat 64 (a.toNat * b.toNat / 2 ^ 64)
  | 4 => if b = 0 then BitVec.allOnes 64 else BitVec.ofInt 64 (a.toInt.tdiv b.toInt)
  | 5 => if b = 0 then BitVec.allOnes 64 else BitVec.ofNat 64 (a.toNat / b.toNat)
  | 6 => if b = 0 then a else BitVec.ofInt 64 (a.toInt.tmod b.toInt)
  | _ => if b = 0 then a else BitVec.ofNat 64 (a.toNat % b.toNat)

/-- The M extension on 32 bits, results sign-extended. -/
def mulOpW (f3 : Nat) (a b : W64) : W64 :=
  let x : W32 := a.setWidth 32; let y : W32 := b.setWidth 32
  let r : W32 :=
    match f3 with
    | 0 => x * y
    | 4 => if y = 0 then BitVec.allOnes 32 else BitVec.ofInt 32 (x.toInt.tdiv y.toInt)
    | 5 => if y = 0 then BitVec.allOnes 32 else BitVec.ofNat 32 (x.toNat / y.toNat)
    | 6 => if y = 0 then x else BitVec.ofInt 32 (x.toInt.tmod y.toInt)
    | _ => if y = 0 then x else BitVec.ofNat 32 (x.toNat % y.toNat)
  r.signExtend 64

/-- Is the branch of `f3` taken? -/
def branchTaken (f3 : Nat) (a b : W64) : Bool :=
  match f3 with
  | 0 => decide (a = b)
  | 1 => decide (a ≠ b)
  | 4 => decide (a.toInt < b.toInt)
  | 5 => decide (b.toInt ≤ a.toInt)
  | 6 => decide (a.toNat < b.toNat)
  | _ => decide (b.toNat ≤ a.toNat)

/-- The result of an ALU-group instruction: the value for rd (if it writes one) and the next pc. `len`
is 2 for a compressed instruction, else 4. With the C extension every target is 2-byte aligned, so a
branch or jump raises no misaligned-fetch exception. -/
def aluResult (w len : Nat) (pc a b : W64) : Option W64 × W64 :=
  let nxt := pc + BitVec.ofNat 64 len
  let alt := bit w 30
  match rvOp w with
  | 0x37 => (some (rvImmU w), nxt)
  | 0x17 => (some (pc + rvImmU w), nxt)
  | 0x6F => (some nxt, pc + rvImmJ w)
  | 0x67 => (some nxt, (a + rvImmI w) &&& ~~~(1 : W64))
  | 0x63 => (none, if branchTaken (rvF3 w) a b then pc + rvImmB w else nxt)
  | 0x13 =>
    if rvF3 w = 1 ∨ rvF3 w = 5 then
      (some (aluOp (rvF3 w) alt a (BitVec.ofNat 64 (bits w 25 20))), nxt)
    else (some (aluOp (rvF3 w) false a (rvImmI w)), nxt)
  | 0x1B =>
    if rvF3 w = 0 then (some (aluOpW 0 false a (rvImmI w)), nxt)
    else (some (aluOpW (rvF3 w) alt a (BitVec.ofNat 64 (bits w 24 20))), nxt)
  | 0x33 => (some (if rvF7 w = 1 then mulOp (rvF3 w) a b else aluOp (rvF3 w) alt a b), nxt)
  | 0x3B => (some (if rvF7 w = 1 then mulOpW (rvF3 w) a b else aluOpW (rvF3 w) alt a b), nxt)
  | _ => (none, nxt)

/-- Bytes a load or store of `f3` moves. -/
def rvSize (f3 : Nat) : Nat := 2 ^ (f3 % 4)

/-- The value a load of `f3` writes, from the little-endian value of its bytes. -/
def loadExtend (f3 v : Nat) : W64 :=
  if f3 < 3 then BitVec.ofNat 64 (sext (8 * rvSize f3) 64 v) else BitVec.ofNat 64 v

/-- The new memory value of an AMO with funct5 `f5`, on `sz` bytes. -/
def amoOp (f5 sz : Nat) (old rs2 : Nat) : Nat :=
  let m := 2 ^ (8 * sz)
  let o := old % m; let r := rs2 % m
  let so := signed (8 * sz) o; let sr := signed (8 * sz) r
  match f5 with
  | 0 => (o + r) % m
  | 1 => r
  | 4 => o ^^^ r
  | 8 => o ||| r
  | 12 => o &&& r
  | 16 => if so < sr then o else r
  | 20 => if so < sr then r else o
  | 24 => if o < r then o else r
  | 28 => if o < r then r else o
  | _ => o

end Sys2Proof
end

