-- ==== Sys2Proof/Machine/Tiles.lean ====
section
/-!
DEFINITION. What the commands of a tile share: its registers and stores, how a task stops on a tile (R51 to R53,
R63, R84, R85, R102), the command queues with their tickets and flags (R56 to R58), the records of the sample ring
(R513, R514), and the histogram (R131, R132).
-/
namespace Sys2Proof.Machine

/-! ### Registers and words -/

/-- General register `r`; x0 reads zero. -/
def Tile.gpr (x : Tile) (r : Nat) : W64 := if r = 0 then 0 else vget 0 x.x r

/-- General register `r` set; a write of x0 is discarded. -/
def Tile.setGpr (x : Tile) (r : Nat) (v : W64) : Tile :=
  if r = 0 then x else { x with x := x.x.setIfInBounds r v }

/-- Word `i` of a list of 32-bit words; a missing word is zero. -/
def wd (ws : List Nat) (i : Nat) : Nat := ws.getD i 0

/-- Field [hi:lo] of word `i`. -/
def wf (ws : List Nat) (i hi lo : Nat) : Nat := bits (wd ws i) hi lo

/-- The 55-bit address in words `i` (low) and `j` [22:0] (high). -/
def wva (ws : List Nat) (i j : Nat) : Nat := wd ws i % 2 ^ 32 + 2 ^ 32 * wf ws j 22 0

/-- Words of a block of bytes, little-endian. -/
def wordsOf (bs : List Byte) : Nat → List Nat
  | 0 => []
  | n + 1 => bytesToNat (bs.take 4) :: wordsOf (bs.drop 4) n

/-! ### The sample ring (R514) -/

/-- A record of the sample ring: written at SMP_TAIL, or dropped and counted. `w0` lacks PHASE. -/
def sampleRecord (w0 : Nat) (ws : List Nat) (s : State) : State :=
  let tail := s.reg rSmpTail
  let z := s.rf rSmpCtrl 5 1
  if ringRoom tail (s.reg rSmpHead) z then
    let base := 2 ^ 32 * s.rf rSmpBaseHi 19 0 + s.rf rSmpBaseLo 31 6 * 64
    let bytes := ((setBits w0 2 2 (b2n (ringPhase tail z))) :: ws).flatMap (natToBytes 4)
    setReg rSmpTail ((tail + 1) % 2 ^ 32)
      (storeBytes opRecord .welore (paTarget (base + 32 * (tail % 2 ^ z))) bytes 0 0 false s).2
  else rcCount rSmpStatus 31 0 1 s

/-! ### Tasks on a tile -/

/-- The descriptor of the task that tile `t` runs. -/
def State.liveAt (s : State) (t : Nat) : Option Live := (s.tile t).live.bind s.liveOf?

/-- The tile runs a user program that nothing has ended. -/
def Tile.running (x : Tile) : Bool := x.live.isSome && x.mode == .user && x.ending.isNone

/-- The core may execute: its user program runs, or it is in machine mode. -/
def Tile.awake (x : Tile) : Bool := x.running || x.mode == .machine

/-! ### Traps and the return from them (R45, R46, R67) -/

/-- mstatus with MIE (bit 3), MPIE (bit 7) and MPP (bits 12:11) set. -/
def MCsr.setStatus (c : MCsr) (mie mpie : Bool) (mpp : Nat) : MCsr :=
  let v := setBits (setBits (setBits c.mstatus.toNat 3 3 (b2n mie)) 7 7 (b2n mpie)) 12 11 mpp
  { c with mstatus := BitVec.ofNat 64 v }

/-- mcause of the machine external interrupt. -/
abbrev causeMei : W64 := 0x800000000000000B

/-- The core traps to machine mode: mepc, mcause and mtval are written, MIE goes to MPIE and the mode to MPP, and pc to the
address of mtvec, for an interrupt with vectoring to its entry. -/
def Tile.trap (x : Tile) (cause mtval : W64) : Tile :=
  let st := x.csr.mstatus.toNat
  let base := x.csr.mtvec &&& ~~~(3 : W64)
  { x with
    mode := .machine, stall := .none, ir := none,
    pc := if bit x.csr.mtvec.toNat 0 && cause.msb then base + 4 * (cause &&& 0xFFF) else base,
    csr := { x.csr.setStatus false (bit st 3) (if x.mode == .machine then 3 else 0) with
             mepc := x.pc, mcause := cause, mtval := mtval } }

/-- mret: the mode and MIE that the trap saved come back, and pc goes to mepc; leaving machine mode clears MPRV (bit 17). -/
def Tile.mret (x : Tile) : Tile :=
  let st := x.csr.mstatus.toNat
  let c := x.csr.setStatus (bit st 7) true 0
  if bits st 12 11 = 3 then { x with pc := x.csr.mepc, csr := c }
  else { x with mode := .user, pc := x.csr.mepc,
                csr := { c with mstatus := BitVec.ofNat 64 (setBits c.mstatus.toNat 17 17 0) } }

/-- The monitor enters a program in user mode at `pc` (R50 step 4). -/
def Tile.enterUser (x : Tile) (pc : W64) : Tile :=
  let st := x.csr.mstatus.toNat
  { x with csr := { x.csr.setStatus (bit st 3) (bit st 7) 0 with mepc := pc } }.mret

/-- The machine external interrupt is pending and enabled where the core stands. -/
def Tile.interruptDue (x : Tile) : Bool :=
  bit x.csr.mip.toNat 11 && bit x.csr.mie.toNat 11 && (x.mode == .user || bit x.csr.mstatus.toNat 3)

/-- Partition control raises or withdraws the machine external interrupt (R46). -/
def Tile.setMeip (x : Tile) (on : Bool) : Tile :=
  { x with csr := { x.csr with mip := BitVec.ofNat 64 (setBits x.csr.mip.toNat 11 11 (b2n on)) } }

/-- The finished-tile queue and the accumulator banks emptied (R102). -/
def emptyFtq (x : Tile) : Tile :=
  { x with ftq := Vector.replicate 8 .init, ftqHead := 0, ftqTail := 0, accs := [] }

/-- MXE_PATH.NATIVE of tile `t` equals FORCE_NATIVE in force or FAULTED (R94). -/
def syncNative (t : Nat) (s : State) : State :=
  setRf (rMxePath t) 0 0 (b2n (bit (s.inForce (rMxePath t)) 1 || s.rb (rMxePath t) 2)) s

/-- The requester is tile `t`. -/
def isTile (t : Nat) : Who → Bool
  | .tileFetch u => u == t
  | .tileDma u => u == t
  | _ => false

/-- Tile `t` stops its task (R63): a core in user mode takes the abort interrupt (R46) and so leaves every stall, unstarted
commands are discarded, running commands stop, and a DMA command only waits for what is outstanding. -/
def stopTile (t : Nat) (r : Report) (s : State) : State :=
  if (s.tile t).ending.isSome then s
  else
    endStalls (fun w _ => isTile t w) (updTile t (fun x =>
      let y := if x.mode == .user then (x.setMeip true).trap causeMei 0 else x
      emptyFtq { y with
        ending := some r, stall := .none, ir := none, reserv := none,
        queues := Vector.ofFn (fun (q : Fin 4) =>
          let d := vget .init x.queues q
          { d with entries := if q.val = 3 then d.entries.filter (·.started) else [] }) }) s)

/-- The task of tile `t` fails with a cause of R183 (R51, R53, R85). -/
def failTile (t cause detail : Nat) (s : State) : State := stopTile t (.failed cause detail) s

/-- The cause that an exception gives the task (R53). -/
def exceptionCause (mcause : Nat) : Nat :=
  match mcause with
  | 0 => 0x12
  | 4 => 0x12
  | 6 => 0x12
  | 1 => 0x13
  | 5 => 0x13
  | 7 => 0x13
  | 2 => 0x14
  | 3 => 0x15
  | 24 => 0x16
  | 25 => 0x17
  | _ => 0x20

/-- An exception of the user program traps to the tile monitor, which places one record and ends the task
(R45, R53). -/
def userException (t mcause : Nat) (mtval : W64) (s : State) : State :=
  let x := s.tile t
  let s1 := updTile t (fun x => x.trap (BitVec.ofNat 64 mcause) mtval) s
  let (tag, ring) := match s.liveAt t with
    | some l => (wd l.words 2, l.ring)
    | none => (0, 0)
  let s2 := ctxRecord x.ctx 0x0102
    ([x.logical % 2 ^ 16 + 2 ^ 16 * mcause, 0] ++ words2 mtval.toNat ++ words2 x.pc.toNat ++ [tag, ring]) s1
  failTile t (exceptionCause mcause) 0 s2

/-- An exception of the core: in machine mode it traps and nothing else happens. -/
def coreException (t mcause : Nat) (mtval : W64) (s : State) : State :=
  if (s.tile t).mode == .user then userException t mcause mtval s
  else updTile t (fun x => x.trap (BitVec.ofNat 64 mcause) mtval) s

/-- An illegal instruction; what mtval holds is open (log entry 3). -/
def illegalInstr (t : Nat) (s : State) : State :=
  let r := fresh s
  coreException t 2 r.1 r.2

/-- The instruction at pc, `len` bytes long, retires: pc moves to `nxt`. -/
def retire (t : Nat) (nxt : W64) (s : State) : State :=
  countEvent (blkTile t) 0x02 (some (s.tile t).ctx) none none 1
    (updTile t (fun x => { x with pc := nxt, ir := none, stall := .none, instret := x.instret + 1 }) s)

/-- The word fetched for tile `t`, if the core may execute it: no stall but those `st` allows, and a word of a
class that `ok` takes. -/
def State.instrAt? (s : State) (t : Nat) (st : Stall → Bool) (ok : RvClass → Bool) : Option (Nat × Nat) :=
  let x := s.tile t
  match x.ir with
  | some (w, len) => if x.awake && st x.stall && !s.tripped && ok (rvClass w) then some (w, len) else none
  | none => none

/-- No stall. -/
def noStall (k : Stall) : Bool := k == .none

/-! ### The local map (R47, R49) -/

/-- Where a load or store of the core lands. -/
inductive Area where
  | store (off : Nat)
  | dmem (off : Nat)
  | block (off : Nat)
  | mon (off : Nat)
  deriving DecidableEq, Repr

/-- The mode in which loads and stores are checked: with MPRV (bit 17) set, that of MPP. -/
def Tile.memMode (x : Tile) : CoreMode :=
  let st := x.csr.mstatus.toNat
  if x.mode == .machine && bit st 17 && bits st 12 11 != 3 then .user else x.mode

/-- The local map as a mode reaches it: the monitor's part of DMEM, a write of the task block and monitor memory are for
machine mode. -/
def localArea? (mode : CoreMode) (a n : Nat) (write : Bool) : Option Area :=
  let m : Bool := mode == .machine
  if a + n ≤ 0x400000 then some (.store a)
  else if 0x10000000 ≤ a ∧ a + n ≤ (if m then 0x10010000 else 0x1000C000) then some (.dmem (a - 0x10000000))
  else if (write = false ∨ m = true) ∧ 0x20000000 ≤ a ∧ a + n ≤ 0x20000040 then some (.block (a - 0x20000000))
  else if m = true ∧ 0x30000000 ≤ a ∧ a + n ≤ 0x30008000 then some (.mon (a - 0x30000000))
  else none

/-- The byte at an offset of monitor memory: what has been written there, or the image's (R45). -/
def Tile.monByte (x : Tile) (o : Nat) : Byte :=
  match Table.find? x.monMem o with
  | some b => b
  | none => match x.monImage with
    | some d => Config.monitorByte d o
    | none => 0

/-- The bytes of the task block. -/
def Tile.blockBytes (x : Tile) : List Byte := ((List.range 16).map (fun i => wd x.block i)).flatMap (natToBytes 4)

/-! ### Accesses that R61 does not order (R62) -/

/-- The write that left `w` behind is ordered before a read of the core (none), or of a command of a queue: the core's own
stores, those before the issue, the queue's own commands, and what the reader depends on or the core had observed
complete. -/
def Tile.ordered (x : Tile) (r : Option (Nat × QCmd)) (w : Stale) : Bool :=
  match r with
  | none => w.writer == 4 || decide (w.ticket ≤ vget 0 x.seen w.writer)
  | some (q, e) =>
    let dep (en qq tk : Nat) : Bool := bit (wd e.words 0) en && qq == w.writer && decide (w.ticket ≤ tk)
    if w.writer = 4 then decide (w.ticket < e.order)
    else w.writer == q || decide (w.ticket ≤ vget 0 e.seen w.writer) || dep 18 (wf e.words 0 17 16) (wd e.words 1) ||
      dep 21 (wf e.words 0 20 19) (wd e.words 2)

/-- What a unit held before each of the latest writes that are not ordered before the read. -/
def Tile.olds (x : Tile) (r : Option (Nat × QCmd)) (u : Nat) : List Stale :=
  (x.unord.filter (fun w => w.unit == u)).takeWhile (fun w => !x.ordered r w)

/-- The tile with a unit as it was. -/
def Tile.putOld (x : Tile) (w : Stale) : Tile :=
  { x with store := Mem.writeNat x.store (64 * w.unit) 64 w.old.toNat,
           storeMarks := match w.mark with
             | some m => Table.set x.storeMarks w.unit m
             | none => Table.erase x.storeMarks w.unit }

/-- Some byte range of a list meets unit `u`. -/
def rangesHit (ranges : List (Nat × Nat)) (u : Nat) : Bool :=
  ranges.any (fun r => decide (0 < r.2 ∧ r.1 / 64 ≤ u ∧ u ≤ (r.1 + r.2 - 1) / 64))

/-- One unit as a reader sees it: as it stands or, where writes are not ordered before the read, as it stood before one of
them, chosen freely (R62). -/
def viewUnit (x : Tile) (r : Option (Nat × QCmd)) (p : Tile × State) (u : Nat) : Tile × State :=
  match x.olds r u with
  | [] => p
  | os =>
    let f := fresh p.2
    match (none :: os.map some).getD (f.1.toNat % (os.length + 1)) none with
    | some w => (p.1.putOld w, f.2)
    | none => (p.1, f.2)

/-- Tile `t` as a reader of byte ranges of its store sees it, each unit for itself. -/
def viewTile (t : Nat) (r : Option (Nat × QCmd)) (ranges : List (Nat × Nat)) (s : State) : Tile × State :=
  ((((s.tile t).unord.map (·.unit)).eraseDups).filter (rangesHit ranges)).foldl (viewUnit (s.tile t) r) (s.tile t, s)

/-- Units of the tile store that two tiles hold differently. -/
def storeDiff (x y : Tile) : List Nat :=
  let cells : Mem := x.store.filter (fun c => !y.store.contains c) ++ y.store.filter (fun c => !x.store.contains c)
  let marks : Table Mark := x.storeMarks.filter (fun c => !y.storeMarks.contains c) ++
    y.storeMarks.filter (fun c => !x.storeMarks.contains c)
  (cells.map (fun c : Nat × Byte => c.1 / 64) ++ marks.map (fun c : Nat × Mark => c.1)).eraseDups

/-- The tile `y` that a writer has made of `x`, with what the changed units held before (R62). -/
def noteWrites (writer ticket : Nat) (x y : Tile) : Tile :=
  { y with unord := (storeDiff x y).map (fun u =>
      { unit := u, writer := writer, ticket := ticket, old := BitVec.ofNat 512 (Mem.readNat x.store (64 * u) 64),
        mark := Table.find? x.storeMarks u }) ++ y.unord }

/-- The core has observed ticket `n` of queue `q` complete (R61). -/
def Tile.observe (x : Tile) (q n : Nat) : Tile := { x with seen := vupd 0 x.seen q (max n) }

/-! ### Loads and stores of the core -/

/-- The little-endian value of `n` bytes of an area; what a unit with a poison mark reads as is open. -/
def readArea (t : Nat) (a : Area) (n : Nat) (s : State) : Nat × State :=
  match a with
  | .store o =>
    let v := viewTile t none [(o, n)] s
    if (Table.find? v.1.storeMarks (o / 64)).isSome then
      let r := fresh v.2
      (r.1.toNat % 2 ^ (8 * n), r.2)
    else (Mem.readNat v.1.store o n, v.2)
  | .dmem o => (Mem.readNat (s.tile t).dmem o n, s)
  | .block o => (bytesToNat (((s.tile t).blockBytes.drop o).take n), s)
  | .mon o => (bytesToNat ((List.range n).map (fun i => (s.tile t).monByte (o + i))), s)

/-- The bytes of `v` stored in an area; a write of a whole word of DMEM gives it good check bits. -/
def Tile.writeAt (x : Tile) (a : Area) (n v : Nat) : Tile :=
  match a with
  | .store o => noteWrites 4 x.issues x { x with store := Mem.writeNat x.store o n v }
  | .dmem o => { x with dmem := Mem.writeNat x.dmem o n v,
                        dmemUe := if n = 8 then x.dmemUe.filter (· != o / 8) else x.dmemUe }
  | .block o =>
    let bs := x.blockBytes
    { x with block := wordsOf (bs.take o ++ natToBytes n v ++ bs.drop (o + n)) 16 }
  | .mon o => { x with monMem := forEach ((natToBytes n v).zipIdx) (fun b m => Table.set m (o + b.2) b.1) x.monMem }

/-- The core of tile `t` stores. -/
def writeArea (t : Nat) (a : Area) (n v : Nat) (s : State) : State := updTile t (fun x => x.writeAt a n v) s

/-- A unit of the tile store or a word of DMEM becomes uncorrectable (R49). -/
def spoil (t : Nat) (a : Area) (s : State) : State :=
  updTile t (fun x =>
    match a with
    | .store o => { x with storeUe := (o / 64) :: x.storeUe.filter (· != o / 64) }
    | .dmem o => { x with dmemUe := (o / 8) :: x.dmemUe.filter (· != o / 8) }
    | _ => x) s

/-- Reading an area meets an uncorrectable result. -/
def State.areaBad (s : State) (t : Nat) (a : Area) : Bool :=
  match a with
  | .store o => (s.tile t).storeUe.contains (o / 64)
  | .dmem o => (s.tile t).dmemUe.contains (o / 8)
  | _ => false

/-- Environment: the unit or word an access touches has gone bad before it. -/
def maySpoil (t : Nat) (ue : Bool) (a : Area) (s : State) : State := if ue then spoil t a s else s

/-! ### The tile store as the engines see it -/

/-- What an engine's read of tile-store units meets: nothing bad, an uncorrectable unit, or a mark (R85). -/
inductive UnitRead where
  | good
  | bad (cause detail : Nat)
  deriving DecidableEq, Repr

/-- An engine reads the units of byte ranges of the tile store (R85, R146). Of a read that meets both an uncorrectable unit and
a poisoned one the spec does not say which decides the cause: the uncorrectable one does, and of several poisoned units the
lowest (DESIGN CHOICE, log entry 111). -/
def Tile.engineRead (x : Tile) (ranges : List (Nat × Nat)) : UnitRead :=
  if x.storeUe.any (rangesHit ranges) then .bad 0x20 0
  else match List.find? (fun e => rangesHit ranges e.1) x.storeMarks with
    | some e => .bad e.2.cause e.2.detail
    | none => .good

/-- Bytes written by an engine: units covered whole lose their mark and their bad check bits. -/
def Tile.engineWrite (x : Tile) (a : Nat) (bs : List Byte) : Tile :=
  let whole (u : Nat) : Bool := decide (a ≤ 64 * u ∧ 64 * u + 64 ≤ a + bs.length)
  { x with store := Mem.writeBytes x.store a bs,
           storeUe := x.storeUe.filter (fun u => !whole u),
           storeOnce := x.storeUe.filter whole ++ x.storeOnce,
           storeMarks := x.storeMarks.filter (fun e => !whole e.1) }

/-- Element `i` of `w` bits in an operand that begins at byte `a` (packing of R86). -/
def Tile.elem (x : Tile) (a w i : Nat) : Nat :=
  let b := i * w
  bits (Mem.readNat x.store (a + b / 8) (ceilDiv (b % 8 + w) 8)) (b % 8 + w - 1) (b % 8)

/-- Element `i` of `w` bits set. -/
def Tile.setElem (x : Tile) (a w i v : Nat) : Tile :=
  let b := i * w
  let n := ceilDiv (b % 8 + w) 8
  let old := Mem.readNat x.store (a + b / 8) n
  { x with store := Mem.writeNat x.store (a + b / 8) n (setBits old (b % 8 + w - 1) (b % 8) v) }

/-- Elements of `w` bits packed into bytes, the first lowest. -/
def packElems (w : Nat) (vs : List Nat) : Nat := vs.foldr (fun v acc => v % 2 ^ w + acc * 2 ^ w) 0

/-- Elements `start`, `start` + 1, … of an operand that begins at byte `a` written; none leaves an element as it
is. -/
def Tile.writeElems (x : Tile) (a w start : Nat) (vs : List (Option Nat)) : Tile :=
  if vs.all (·.isSome) && (start * w) % 8 == 0 && (vs.length * w) % 8 == 0 then
    x.engineWrite (a + start * w / 8) (natToBytes (vs.length * w / 8) (packElems w (vs.map (·.getD 0))))
  else
    (vs.foldl (fun (st : Tile × Nat) v =>
      (match v with
       | some c => st.1.setElem a w st.2 c
       | none => st.1, st.2 + 1)) (x, start)).1

/-! ### Queues (R56 to R58) -/

/-- Entries of each queue (R56). -/
def queueCap (q : Nat) : Nat := if q = 2 then 8 else if q = 3 then 32 else 16

/-- Queue `q` of tile `x`. -/
def Tile.queue (x : Tile) (q : Nat) : TQueue := vget .init x.queues q

/-- Queue `q` changed. -/
def Tile.updQueue (x : Tile) (q : Nat) (f : TQueue → TQueue) : Tile := { x with queues := vupd .init x.queues q f }

/-- Every queue of a tile is empty. -/
def Tile.idle (x : Tile) : Bool := (List.range 4).all (fun q => (x.queue q).entries.isEmpty)

/-- A ticket has completed; ticket 0 counts as complete. -/
def TQueue.complete (d : TQueue) (n : Nat) : Bool := decide (n ≤ d.done)

/-- The status word of a completed ticket (R58). -/
def TQueue.statusWord (d : TQueue) (n : Nat) : Nat :=
  if n = 0 then 1
  else match d.flags[d.done - n]? with
    | some (sat, nan) => 1 + 2 * b2n sat + 4 * b2n nan + 8
    | none => 1

/-- The running command of a queue: its head, once started. -/
def TQueue.running? (d : TQueue) : Option QCmd := d.entries.head?.bind (fun e => if e.started then some e else none)

/-- The head command changed. -/
def TQueue.updHead (d : TQueue) (f : QCmd → QCmd) : TQueue :=
  match d.entries with
  | [] => d
  | e :: l => { d with entries := f e :: l }

/-- The command that queue `q` of tile `t` runs, while the hub has not tripped. -/
def State.runningCmd? (s : State) (t q : Nat) : Option QCmd :=
  let x := s.tile t
  if x.running && !s.tripped then (x.queue q).running? else none

/-- The flags of a running command raised, and its progress set. -/
def Tile.progress (x : Tile) (q pos : Nat) (sat nan : Bool) : Tile :=
  let y := x.updQueue q (fun d => d.updHead (fun e =>
    { e with pos := pos, sat := e.sat || sat, nan := e.nan || nan }))
  { y with sat := y.sat || sat, nan := y.nan || nan }

/-! ### Conversion and the histogram -/

/-- How a task rounds (R112), for a logical index. -/
def Tile.rnd (x : Tile) (index : Nat) : Rnd :=
  match x.round with
  | 0 => { mode := .rne, draw := 0 }
  | 1 => { mode := .rtz, draw := 0 }
  | _ => { mode := .sr, draw := srDraw x.seed index }

/-- The logical index of R78 and R135. -/
def logicalIndex (row col : Nat) : Nat := 2 ^ 32 * (row % 2 ^ 32) + col % 2 ^ 32

/-- A count of a histogram saturates at 2³² − 1 (R132). -/
def satCount (v n : Nat) : Nat := min (v + n) (2 ^ 32 - 1)

/-- An element written with HIST = 1 (R131). -/
def Hist.count (h : Hist) (f : Fmt) (c : Nat) (sat : Bool) : Hist :=
  let r := histClass f c
  let h1 := match r.1 with
    | .bin i => { h with bins := Table.set h.bins i (satCount (Table.get 0 h.bins i) 1) }
    | .zero => { h with zero := satCount h.zero 1 }
    | .inf => { h with infinity := satCount h.infinity 1 }
    | .nan => { h with nan := satCount h.nan 1 }
  { h1 with subnormal := satCount h1.subnormal (b2n r.2), saturation := satCount h1.saturation (b2n sat) }

/-- Two tiles' contributions together (R132). -/
def Hist.merge (h k : Hist) : Hist :=
  { bins := forEach k.bins (fun e b => Table.set b e.1 (satCount (Table.get 0 b e.1) e.2)) h.bins,
    zero := satCount h.zero k.zero, subnormal := satCount h.subnormal k.subnormal,
    infinity := satCount h.infinity k.infinity, nan := satCount h.nan k.nan,
    saturation := satCount h.saturation k.saturation }

/-- Encoding `c` is a NaN of format `f`. -/
def isNanCode (f : Fmt) (c : Nat) : Bool := f.decode c == .nan

end Sys2Proof.Machine
end

