-- ==== Sys2Proof/Machine/Issue.lean ====
section
/-!
DEFINITION. The checks that xk.issue makes on a command block (R59, R60, R65, R77 to R81, R137 to R142, R149, R150)
and the instruction itself (R56, R57, R60, R61, R513).
-/
namespace Sys2Proof.Machine

/-! ### Extents -/

/-- An extent: its first byte and its length; a length of zero touches nothing. -/
abbrev Extent := Nat × Nat

/-- Two extents overlap. -/
def Extent.overlaps (a b : Extent) : Bool :=
  decide (0 < a.2 ∧ 0 < b.2 ∧ a.1 < b.1 + b.2 ∧ b.1 < a.1 + a.2)

/-- An extent stays below 0x40_0000. -/
def Extent.fits (a : Extent) : Bool := decide (a.1 + a.2 ≤ 0x400000)

/-- The extent of `rows` rows of `n` bytes from unit `u` on, `stride` units apart. -/
def rowsExtent (u rows stride n : Nat) : Extent := (64 * u, (rows - 1) * (64 * stride) + n)

/-- Rows of one operand overlap each other. -/
def rowsClash (rows stride n : Nat) : Bool := decide (1 < rows ∧ 64 * stride < n)

/-! ### The header (R59, R60) -/

/-- The header's reserved fields are zero, and its enabled dependencies are tickets already issued. -/
def headerOk (x : Tile) (ws : List Nat) : Bool :=
  wf ws 0 31 22 == 0 && wd ws 3 == 0 &&
  (!bit (wd ws 0) 18 || decide (wd ws 1 ≤ (x.queue (wf ws 0 17 16)).issued)) &&
  (!bit (wd ws 0) 21 || decide (wd ws 2 ≤ (x.queue (wf ws 0 20 19)).issued))

/-! ### Tile DMA commands (R64, R65) -/

/-- The signed 48-bit stride in words `i` (low) and `j` [15:0] (high). -/
def stride48 (ws : List Nat) (i j : Nat) : Int := signed 48 (wd ws i % 2 ^ 32 + 2 ^ 32 * wf ws j 15 0)

/-- The operand checks of a DMA command; COPY_OUT alone has a hint, and not a reserved one (R65, R246). -/
def dmaOk (x : Tile) (ws : List Nat) : Bool :=
  let op := wf ws 0 15 0
  let cs := op == 3 || op == 4
  let rb := wf ws 7 22 0
  let rows := wf ws 8 15 0
  let st := stride48 ws 9 10
  let inWin (i : Nat) : Bool :=
    let o : Int := (wd ws 4 : Int) + (i : Int) * st
    decide (0 ≤ o ∧ o + (rb : Int) ≤ (x.cswSize : Int))
  (op == 1 || op == 2 || cs) &&
  wf ws 5 31 23 == 0 && wf ws 6 31 22 == 0 && wf ws 7 31 23 == 0 && wf ws 8 31 16 == 0 &&
  wf ws 10 31 16 == 0 && wf ws 11 31 23 == 0 && wf ws 12 31 4 == 0 &&
  wd ws 13 == 0 && wd ws 14 == 0 && wd ws 15 == 0 &&
  (!cs || wd ws 5 == 0) && (if op = 2 then hintKnown (wf ws 12 3 0) else wf ws 12 3 0 == 0) &&
  decide (64 ≤ rb ∧ rb ≤ 0x400000 ∧ 1 ≤ rows) &&
  wd ws 4 % 64 == 0 && wf ws 6 21 0 % 64 == 0 && rb % 64 == 0 && wd ws 9 % 64 == 0 && wf ws 11 22 0 % 64 == 0 &&
  decide (wf ws 6 21 0 + (rows - 1) * wf ws 11 22 0 + rb ≤ 0x400000) &&
  (!cs || (inWin 0 && inWin (rows - 1)))

/-! ### MATMUL (R77 to R81) -/

/-- Width in bits of a format code of R79. -/
def codeBits (c : Nat) : Nat := ((Fmt.ofCode? c).map Fmt.bits).getD 0

/-- The formats of a MATMUL may stand together (R79, R80). -/
def matmulPairs (a b out : Nat) (amx bmx p9 : Bool) : Bool :=
  let opnd (c : Nat) (mx : Bool) : Bool := decide (1 ≤ c ∧ c ≤ 0xA) && (!mx || decide (4 ≤ c ∧ c ≤ 9))
  let isInt (c : Nat) (mx : Bool) : Bool := (c == 9 || c == 0xA) && !mx
  opnd a amx && opnd b bmx &&
  (if isInt a amx || isInt b bmx then
    isInt a amx && isInt b bmx && (out == 0xB || out == 1) && !p9
  else
    (a == 9) == (b == 9) && (a == 1) == (b == 1) && (!p9 || a == 1) && decide (1 ≤ out ∧ out ≤ 5))

/-- The element blocks of a MATMUL: row blocks R of R81. -/
def matmulR (ws : List Nat) : Nat :=
  if bit (wd ws 11) 12 then wf ws 9 15 0 else ceilDiv (wf ws 9 15 0) 32

/-- The extents of A, B, C, SA and SB (R81). -/
def matmulExtents (ws : List Nat) : Extent × Extent × Extent × Extent × Extent :=
  let thin := bit (wd ws 11) 12
  let m := wf ws 9 15 0
  let n64 := wf ws 9 31 16
  let k32 := wf ws 10 11 0
  let r := matmulR ws
  let wa := codeBits (wf ws 11 3 0)
  let wb := codeBits (wf ws 11 7 4)
  let wc := codeBits (wf ws 11 11 8)
  (rowsExtent (wf ws 4 15 0) r (wf ws 7 15 0) (if thin then 32 * k32 * wa / 8 else 32 * k32 * 32 * wa / 8),
   rowsExtent (wf ws 4 31 16) n64 (wf ws 7 31 16) (32 * k32 * 64 * wb / 8),
   rowsExtent (wf ws 5 15 0) m (wf ws 8 15 0) (n64 * 64 * wc / 8),
   rowsExtent (wf ws 6 15 0) r (wf ws 8 31 16) (k32 * (if thin then 1 else 32)),
   rowsExtent (wf ws 6 31 16) n64 (wf ws 7 31 16) (k32 * 64))

/-- The operand checks of a MATMUL (R81). -/
def matmulOk (ws : List Nat) : Bool :=
  let m := wf ws 9 15 0
  let n64 := wf ws 9 31 16
  let k32 := wf ws 10 11 0
  let out := wf ws 11 11 8
  let f (i : Nat) : Bool := bit (wd ws 11) i
  let (ea, eb, ec, esa, esb) := matmulExtents ws
  wf ws 0 15 0 == 1 &&
  wf ws 5 31 16 == 0 && wf ws 10 31 12 == 0 && wf ws 11 31 19 == 0 && wd ws 14 == 0 && wd ws 15 == 0 &&
  (f 16 || wf ws 6 15 0 == 0) && (f 17 || wf ws 6 31 16 == 0) &&
  matmulPairs (wf ws 11 3 0) (wf ws 11 7 4) out (f 16) (f 17) (f 15) &&
  (!f 12 || decide (m ≤ 4)) &&
  decide (1 ≤ m ∧ 1 ≤ n64 ∧ n64 ≤ 1024 ∧ 1 ≤ k32 ∧ k32 ≤ 2048) &&
  (!f 13 || out == 1 || out == 0xB) && (!f 14 || out == 1 || out == 0xB) && !(f 18 && out == 0xB) &&
  ea.fits && eb.fits && ((f 13 && !f 14) || ec.fits) && (!f 16 || esa.fits) && (!f 17 || esb.fits) &&
  (f 13 || !(ec.overlaps ea || ec.overlaps eb || (f 16 && ec.overlaps esa) || (f 17 && ec.overlaps esb)))

/-! ### Vector commands (R137 to R142, R149) -/

/-- The sources a VOP uses (R140): X, Y, Z; none for an operation that does not exist. -/
def vopSources? (op : Nat) : Option (Bool × Bool × Bool) :=
  if op = 0 ∨ (7 ≤ op ∧ op ≤ 0x0E) then some (true, false, false)
  else if op = 1 ∨ op = 2 ∨ op = 3 ∨ op = 5 ∨ op = 6 ∨ op = 0x10 ∨ op = 0x11 ∨ op = 0x12 ∨ op = 0x13 then
    some (true, true, false)
  else if op = 4 then some (true, true, true)
  else if op = 0x14 then some (false, false, false)
  else none

/-- Width in bits of a vector format code: MASK counts one. -/
def vecBits (c : Nat) : Nat := if c = 0xC then 1 else codeBits c

/-- LEN and ROWS of a vector command. -/
def vecLen (ws : List Nat) : Nat := wf ws 9 16 0
def vecRows (ws : List Nat) : Nat := wf ws 10 15 0
/-- Source mode, format, unit and stride of source `i` (0 X, 1 Y, 2 Z). -/
def vecMode (ws : List Nat) (i : Nat) : Nat := wf ws 11 (18 + 3 * i) (16 + 3 * i)
def vecFmt (ws : List Nat) (i : Nat) : Nat := wf ws 11 (3 + 4 * i) (4 * i)
def vecUnit (ws : List Nat) (i : Nat) : Nat :=
  if i = 0 then wf ws 4 15 0 else if i = 1 then wf ws 4 31 16 else wf ws 5 15 0
def vecStride (ws : List Nat) (i : Nat) : Nat :=
  if i = 0 then wf ws 6 15 0 else if i = 1 then wf ws 6 31 16 else wf ws 7 15 0
/-- The fields of an unused source are zero (R138). -/
def vecUnused (ws : List Nat) (i : Nat) : Bool :=
  vecMode ws i == 0 && vecFmt ws i == 0 && vecUnit ws i == 0 && vecStride ws i == 0

/-- A command of the vector queue reads its mask: M_EN, or the operation does always (R141). -/
def vecMask (ws : List Nat) : Bool :=
  let op := wf ws 0 15 0
  bit (wd ws 11) 25 || op == 2 || op == 3 || (op == 1 && wf ws 10 31 24 == 0x13)

/-- Items 1 to 5 of R142: operations, modes, formats, ranges and the mask. -/
def vecFieldsOk (ws : List Nat) : Bool :=
  let op := wf ws 0 15 0
  let vop := wf ws 10 31 24
  let out := wf ws 11 15 12
  let mEn := bit (wd ws 11) 25
  let hist := bit (wd ws 11) 26
  let x := vecMode ws 0
  let fl (c : Nat) : Bool := decide (1 ≤ c ∧ c ≤ 5)
  let src (i : Nat) (f : Nat → Bool) : Bool :=
    decide (1 ≤ vecMode ws i ∧ vecMode ws i ≤ 5) && (i == 0 || vecMode ws i != 5) && f (vecFmt ws i) &&
      (vecMode ws i != 4 || vecStride ws i == 0)
  let used (b : Bool) (i : Nat) (f : Nat → Bool) : Bool := if b then src i f else vecUnused ws i
  wf ws 9 31 17 == 0 && wf ws 11 31 27 == 0 && wd ws 14 == 0 && wd ws 15 == 0 &&
  decide (1 ≤ vecLen ws ∧ vecLen ws ≤ 65536 ∧ 1 ≤ vecRows ws) &&
  (if x = 5 then decide (1 ≤ wf ws 10 23 16) && vecLen ws == 64 && vecRows ws == 32 * wf ws 10 23 16 &&
      (vecFmt ws 0 == 1 || vecFmt ws 0 == 0xB)
   else wf ws 10 23 16 == 0) &&
  (match op with
   | 1 =>
     match vopSources? vop with
     | none => false
     | some (ux, uy, uz) =>
       used ux 0 (fun c => fl c || (vop == 0 && c == 0xB)) && used uy 1 fl && used uz 2 fl &&
       (if vop = 0x10 ∨ vop = 0x11 ∨ vop = 0x12 then out == 0xC
        else if vop = 0x14 then out == 1
        else fl out || (vop == 0 && out == 0xB && vecFmt ws 0 == 0xB))
   | 2 =>
     vop == 0 && x == 1 && (fl (vecFmt ws 0) || vecFmt ws 0 == 0xB) && out == vecFmt ws 0 &&
     (vecUnused ws 1 || (vecMode ws 1 == 1 && vecFmt ws 1 == 0xB)) && vecMode ws 2 == 1 && vecFmt ws 2 == 0xB
   | 3 =>
     vop == 0 && x == 1 && (fl (vecFmt ws 0) || vecFmt ws 0 == 0xB) && out == vecFmt ws 0 &&
     (vecUnused ws 1 || src 1 (· == vecFmt ws 0)) && vecUnused ws 2
   | 4 =>
     vop == 0 && src 0 fl && vecUnused ws 1 && vecMode ws 2 == 1 && vecFmt ws 2 == 0 &&
     decide (4 ≤ out ∧ out ≤ 9) && vecLen ws % 32 == 0
   | _ => false) &&
  !(mEn && (out == 0xC || op == 2 || op == 3 || (op == 1 && vop == 0x13))) &&
  (vecMask ws || (wf ws 8 15 0 == 0 && wf ws 8 31 16 == 0)) &&
  !(hist && (out == 0xC || out == 0xB))

/-- The destinations of a vector command: D, and what else its opcode writes. -/
def vecDests (ws : List Nat) : List Extent :=
  let len := vecLen ws
  let rows := vecRows ws
  let d := rowsExtent (wf ws 5 31 16) rows (wf ws 7 31 16) (ceilDiv (len * vecBits (wf ws 11 15 12)) 8)
  match wf ws 0 15 0 with
  | 2 => [d, (64 * vecUnit ws 2, 4 * rows)] ++
      (if vecMode ws 1 = 1 then [rowsExtent (vecUnit ws 1) rows (vecStride ws 1) (4 * len)] else [])
  | 4 => [d, rowsExtent (vecUnit ws 2) rows (vecStride ws 2) (len / 32)]
  | _ => [d]

/-- The tile-store extents that a vector command reads; the first of the pair is the source number, 3 the
mask. -/
def vecReads (ws : List Nat) : List (Nat × Extent) :=
  let op := wf ws 0 15 0
  let len := vecLen ws
  let rows := vecRows ws
  let one (i : Nat) : List (Nat × Extent) :=
    if vecMode ws i = 1 then
      [(i, rowsExtent (vecUnit ws i) rows (vecStride ws i) (ceilDiv (len * vecBits (vecFmt ws i)) 8))]
    else if vecMode ws i = 4 then [(i, (64 * vecUnit ws i, ceilDiv (rows * vecBits (vecFmt ws i)) 8))]
    else []
  one 0 ++ (if op = 2 then [] else one 1) ++ (if op = 2 ∨ op = 4 then [] else one 2) ++
  (if vecMask ws then [(3, rowsExtent (wf ws 8 15 0) rows (wf ws 8 31 16) (ceilDiv len 8))] else [])

/-- Two of a list of extents overlap. -/
def clash : List Extent → Bool
  | [] => false
  | e :: l => l.any e.overlaps || clash l

/-- The operand checks of a vector command (R142). -/
def vectorOk (ws : List Nat) : Bool :=
  let op := wf ws 0 15 0
  let len := vecLen ws
  let rows := vecRows ws
  let wD := vecBits (wf ws 11 15 12)
  let inPlace (r : Nat × Extent) (i : Nat) : Bool :=
    op == 1 && i == 0 && r.1 == 0 && vecMode ws 0 == 1 && vecUnit ws 0 == wf ws 5 31 16 &&
      vecStride ws 0 == wf ws 7 31 16 && vecBits (vecFmt ws 0) == wD
  vecFieldsOk ws &&
  (vecDests ws).all Extent.fits && (vecReads ws).all (fun r => r.2.fits) &&
  !rowsClash rows (wf ws 7 31 16) (ceilDiv (len * wD) 8) &&
  !(op == 2 && vecMode ws 1 == 1 && rowsClash rows (vecStride ws 1) (4 * len)) &&
  !(op == 4 && rowsClash rows (vecStride ws 2) (len / 32)) &&
  !clash (vecDests ws) &&
  ((vecDests ws).zipIdx).all (fun d => (vecReads ws).all (fun r => !d.1.overlaps r.2 || inPlace r d.2))

/-! ### Reduction commands (R150) -/

/-- The outputs of a reduction command: values, and indices for RARGMAX and RTOPK. -/
def redDests (ws : List Nat) : List Extent :=
  let op := wf ws 0 15 0
  let len := wf ws 8 16 0
  let rows := wf ws 9 15 0
  let k := wf ws 9 22 16
  let v (u : Nat) : Extent :=
    if op = 5 then rowsExtent u rows (wf ws 6 15 0) (4 * k)
    else if op = 1 ∧ wf ws 10 6 5 ≠ 0 then rowsExtent u rows (wf ws 6 15 0) (4 * len)
    else (64 * u, 4 * rows)
  v (wf ws 5 15 0) :: (if op = 4 ∨ op = 5 then [v (wf ws 5 31 16)] else [])

/-- What a reduction command reads: X, and J with JSRC. -/
def redReads (ws : List Nat) : List Extent :=
  let len := wf ws 8 16 0
  let rows := wf ws 9 15 0
  rowsExtent (wf ws 4 15 0) rows (wf ws 4 31 16) (ceilDiv (len * codeBits (wf ws 10 3 0)) 8) ::
  (if bit (wd ws 10) 4 then [rowsExtent (wf ws 6 31 16) rows (wf ws 7 15 0) (4 * len)] else [])

/-- The operand checks of a reduction command (R150). -/
def reductionOk (ws : List Nat) : Bool :=
  let op := wf ws 0 15 0
  let len := wf ws 8 16 0
  let rows := wf ws 9 15 0
  let k := wf ws 9 22 16
  let jsrc := bit (wd ws 10) 4
  let scan := wf ws 10 6 5
  let strided := op == 5 || scan != 0
  decide (1 ≤ op ∧ op ≤ 5) &&
  wf ws 7 31 16 == 0 && wf ws 8 31 17 == 0 && wf ws 9 31 23 == 0 && wf ws 10 31 7 == 0 &&
  wd ws 12 == 0 && wd ws 13 == 0 && wd ws 14 == 0 && wd ws 15 == 0 &&
  (op == 4 || op == 5 || (wf ws 5 31 16 == 0 && !jsrc)) &&
  (scan == 0 || (op == 1 && decide (scan ≤ 2))) &&
  (strided || wf ws 6 15 0 == 0) &&
  (jsrc || (wf ws 6 31 16 == 0 && wf ws 7 15 0 == 0)) &&
  decide (1 ≤ len ∧ len ≤ 65536 ∧ 1 ≤ rows) &&
  (if op = 5 then decide (1 ≤ k ∧ k ≤ 64 ∧ k ≤ len) else k == 0) &&
  decide (1 ≤ wf ws 10 3 0 ∧ wf ws 10 3 0 ≤ 5) &&
  (redDests ws).all Extent.fits && (redReads ws).all Extent.fits &&
  (redDests ws).all (fun d => (redReads ws).all (fun r => !d.overlaps r)) && !clash (redDests ws) &&
  !(op == 5 && rowsClash rows (wf ws 6 15 0) (4 * k)) &&
  !(op == 1 && scan != 0 && rowsClash rows (wf ws 6 15 0) (4 * len))

/-! ### xk.issue -/

/-- Every check of R60 on the words of a block for queue `q`. -/
def commandOk (x : Tile) (q : Nat) (ws : List Nat) : Bool :=
  headerOk x ws &&
  (if q = 0 then matmulOk ws else if q = 1 then vectorOk ws else if q = 2 then reductionOk ws else dmaOk x ws)

/-- Whether the command being issued is tagged, and the generator's next state (R513). -/
def sampleTag (x : Tile) (q : Nat) (s : State) : Bool × Nat :=
  if s.rb rSmpCtrl 0 && s.rb rSmpCtrl (11 + q) then
    let g := Config.sampleStep x.sampleGen
    (decide (g % 2 ^ s.rf rSmpCtrl 10 6 = 0), g)
  else (false, x.sampleGen)

/-- The 8-byte words of the user part of DMEM that the 64 bytes from an address on touch, the lowest first: what xk.issue
reads before any check. -/
def blockWords (a : Nat) : List Nat :=
  ((List.range 9).map (fun i => a / 8 + i)).filterMap (fun w =>
    if 0x2000000 ≤ w ∧ w < 0x2001800 ∧ 8 * w < a + 64 then some (w - 0x2000000) else none)

/-- XK_ISSUE (R60): the block is read as it stands, checked, given the next ticket of its queue and queued; the
core stalls while the queue is full. `ue` names a word of DMEM in the block that has gone bad before the read. -/
def execXkIssue (t : Fin 72) (ue : Option (Fin 8)) (s : State) : Host.Outcome State Fault Refusal :=
  .next (
    match s.instrAt? t (fun k => match k with
        | .none => true
        | .issue _ => true
        | _ => false) (· == .xkIssue) with
    | some (w, len) =>
      let x := s.tile t
      let q := rvF7 w % 4
      let a := x.gpr (rvRs1 w)
      let off := a.toNat - 0x10000000
      let words := blockWords a.toNat
      let s1 := match ue with
        | some i => match words[i.val]? with
          | some k => spoil t (.dmem (8 * k)) s
          | none => s
        | none => s
      let x1 := s1.tile t
      match words.find? x1.dmemUe.contains with
      | some k => coreException t 26 (BitVec.ofNat 64 (0x10000000 + 8 * k)) s1
      | none =>
        if a.toNat < 0x10000000 ∨ 0x1000C000 < a.toNat + 64 ∨ a.toNat % 64 ≠ 0 then coreException t 24 a s1
        else
          let ws := wordsOf (Mem.readBytes x1.dmem off 64) 16
          let d := x1.queue q
          if !commandOk x1 q ws || d.issued == 2 ^ 32 - 1 then coreException t 24 a s1
          else if queueCap q ≤ d.entries.length then updTile t (fun x => { x with stall := .issue q }) s1
          else
            let g := sampleTag x1 q s1
            let e : QCmd :=
              { ticket := d.issued + 1, words := ws, port0 := vget 0 x1.ports 0, port1 := vget 0 x1.ports 1,
                started := false, pos := 0, sat := false, nan := false, outst := 0, tagged := g.1,
                order := x1.issues + 1, seen := x1.seen }
            retire t (x1.pc + BitVec.ofNat 64 len) (updTile t (fun x =>
              ({ x with sampleGen := g.2, issues := x.issues + 1 }.setGpr (rvRd w) (BitVec.ofNat 64 (d.issued + 1))).updQueue q
                (fun d => { d with entries := d.entries ++ [e], issued := d.issued + 1 })) s1)
    | none => s)

end Sys2Proof.Machine
end

