-- ==== Sys2Proof/Machine/Matrix.lean ====
section
/-!
DEFINITION. The start and completion of queued commands (R56 to R59), the matrix engine's MATMUL, one output tile at
a time (R71 to R94), and the finished-tile queue (R98 to R103).
-/
namespace Sys2Proof.Machine

/-! ### MATMUL: operands (R86 to R90) -/

/-- The value of an operand element; in a NaN block it is NaN, and an INT8 element of an MX block counts in units
of 2⁻⁶ (R109, R119). -/
def operandVal (f : Fmt) (mx : Bool) (scale c : Nat) : Val :=
  if mx && scale == 0xFF then .nan
  else (f.decode c).scale (if mx && f == .int8 then -6 else 0)

/-- What a MATMUL's words say, read once. -/
structure MatCfg where
  thin : Bool
  ftq : Bool
  acc : Bool
  p9 : Bool
  amx : Bool
  bmx : Bool
  hist : Bool
  m : Nat
  n64 : Nat
  k32 : Nat
  fa : Fmt
  fb : Fmt
  fo : Fmt
  ws : List Nat

/-- The configuration of a MATMUL. -/
def matCfg (ws : List Nat) : MatCfg :=
  let f (i : Nat) : Bool := bit (wd ws 11) i
  { thin := f 12, ftq := f 13, acc := f 14, p9 := f 15, amx := f 16, bmx := f 17, hist := f 18,
    m := wf ws 9 15 0, n64 := wf ws 9 31 16, k32 := wf ws 10 11 0,
    fa := (Fmt.ofCode? (wf ws 11 3 0)).getD .fp32, fb := (Fmt.ofCode? (wf ws 11 7 4)).getD .fp32,
    fo := (Fmt.ofCode? (wf ws 11 11 8)).getD .fp32, ws := ws }

/-- Where the panel of A for output row `m` begins. -/
def MatCfg.aBase (c : MatCfg) (m : Nat) : Nat :=
  64 * wf c.ws 4 15 0 + (if c.thin then m else m / 32) * (64 * wf c.ws 7 15 0)

/-- Where weight panel `j` begins. -/
def MatCfg.bBase (c : MatCfg) (j : Nat) : Nat := 64 * wf c.ws 4 31 16 + j * (64 * wf c.ws 7 31 16)

/-- Where the scale arrays of A for row `m` and of panel `j` begin (R89). -/
def MatCfg.saBase (c : MatCfg) (m : Nat) : Nat :=
  64 * wf c.ws 6 15 0 + (if c.thin then m else m / 32) * (64 * wf c.ws 8 31 16)
def MatCfg.sbBase (c : MatCfg) (j : Nat) : Nat := 64 * wf c.ws 6 31 16 + j * (64 * wf c.ws 7 31 16)

/-- Where row `m` of C begins (R90). -/
def MatCfg.cBase (c : MatCfg) (m : Nat) : Nat := 64 * wf c.ws 5 15 0 + m * (64 * wf c.ws 8 15 0)

/-- Element A[m][k] and B[k][64j + c] as encodings (R86 to R88). -/
def MatCfg.aElem (c : MatCfg) (x : Tile) (m k : Nat) : Nat :=
  x.elem (c.aBase m) c.fa.bits (if c.thin then k else 32 * k + m % 32)
def MatCfg.bElem (c : MatCfg) (x : Tile) (j col k : Nat) : Nat := x.elem (c.bBase j) c.fb.bits (64 * k + col)

/-- The scale codes for k-chunk `t` (R89). -/
def MatCfg.aScale (c : MatCfg) (x : Tile) (m t : Nat) : Nat :=
  x.elem (c.saBase m) 8 (if c.thin then t else 32 * t + m % 32)
def MatCfg.bScale (c : MatCfg) (x : Tile) (j col t : Nat) : Nat := x.elem (c.sbBase j) 8 (64 * t + col)

/-- The command is an integer one (R80). -/
def MatCfg.int (c : MatCfg) : Bool := c.fa.isInt && !c.amx

/-! ### MATMUL: one output element (R76, R117 to R128) -/

/-- One chunk of `n` products from `k0` on added to the FP32 accumulator. -/
def MatCfg.chunk (c : MatCfg) (x : Tile) (m j col n k0 acc : Nat) : Nat :=
  let t := k0 / 32
  let sa := if c.amx then c.aScale x m t else 127
  let sb := if c.bmx then c.bScale x j col t else 127
  let sc : Int := (sa : Int) - 127 + ((sb : Int) - 127)
  let ks := (List.range n).map (· + k0)
  if c.fa == .fp32 then
    let xs := ks.map (fun k => (c.aElem x m k, c.bElem x j col k))
    if x.dotFast then fp32FastChunk (!c.thin) c.p9 acc xs sc
    else fp32Add acc (exactChunk (xs.flatMap (fun p => fp32Products c.p9 p.1 p.2)) sc)
  else
    let xs : List (Opnd × Opnd) := ks.map (fun k =>
      ({ v := operandVal c.fa c.amx sa (c.aElem x m k), p := c.fa.prec },
       { v := operandVal c.fb c.bmx sb (c.bElem x j col k), p := c.fb.prec }))
    if x.dotFast then fastGroup (!c.thin) acc xs sc
    else fp32Add acc (exactChunk (xs.map (fun p => Val.mul p.1.v p.2.v)) sc)

/-- Output element (m, 64j + col): its encoding in OUT_FMT and whether it saturated. -/
def MatCfg.output (c : MatCfg) (x : Tile) (m j col : Nat) : Nat × Bool :=
  let r := x.rnd (logicalIndex (wd c.ws 12 + m) (wd c.ws 13 + 64 * j + col))
  let old := x.elem (c.cBase m) c.fo.bits (64 * j + col)
  if c.int then
    let sum : Int := (List.range (32 * c.k32)).foldl (fun s k =>
      s + signed c.fa.bits (c.aElem x m k) * signed c.fb.bits (c.bElem x j col k)) 0
    if c.fo == .int32 then
      c.fo.convert r (Val.ofInt (sum + if c.acc then signed 32 old else 0))
    else c.fo.convert r (if c.acc then Val.add (Fmt.fp32.decode old) (Val.ofInt sum) else Val.ofInt sum)
  else
    let n := if c.fa.bits ≤ 8 ∧ c.fb.bits ≤ 8 then 32 else 16
    let init := if c.acc then old else 0
    let acc := (List.range (32 * c.k32 / n)).foldl (fun acc i => c.chunk x m j col n (n * i) acc) init
    if c.fo == .fp32 then (roundFp32 .rne (Fmt.fp32.decode acc), false)
    else c.fo.convert r (Fmt.fp32.decode acc)

/-! ### MATMUL: output tiles (R82 to R85, R99, R101) -/

/-- Column blocks of a thin output tile: G of R84. -/
def MatCfg.g (c : MatCfg) : Nat := 32 / c.m

/-- Output tiles of the command (R84). -/
def MatCfg.tiles (c : MatCfg) : Nat := if c.thin then ceilDiv c.n64 c.g else ceilDiv c.m 32 * c.n64

/-- The rows of output tile `i`, as pairs of output row and column block in slot-row order (R99). -/
def MatCfg.rows (c : MatCfg) (i : Nat) : List (Nat × Nat) :=
  if c.thin then
    ((List.range c.g).map (· + c.g * i)).flatMap (fun j =>
      if j < c.n64 then (List.range c.m).map (fun b => (b, j)) else [])
  else
    let rb := i / c.n64
    (List.range (min 32 (c.m - 32 * rb))).map (fun r => (32 * rb + r, i % c.n64))

/-- The tile-store bytes that output tile `i` reads. -/
def MatCfg.reads (c : MatCfg) (i : Nat) : List Extent :=
  let k := 32 * c.k32
  (c.rows i).flatMap (fun p =>
    (if c.thin ∨ p.1 % 32 = 0 then
      [(c.aBase p.1, k * c.fa.bits * (if c.thin then 1 else 32) / 8)] ++
      (if c.amx then [(c.saBase p.1, c.k32 * (if c.thin then 1 else 32))] else [])
     else []) ++
    (if p.1 % 32 = 0 then
      [(c.bBase p.2, k * 64 * c.fb.bits / 8)] ++ (if c.bmx then [(c.sbBase p.2, c.k32 * 64)] else [])
     else []) ++
    (if c.acc then [(c.cBase p.1 + 64 * p.2 * c.fo.bits / 8, 64 * c.fo.bits / 8)] else []))

/-- An expander mismatch (R92 to R94): the tile goes over to the native path, and the operator gets one record. -/
def expanderFault (t : Nat) (s : State) : State :=
  let s1 := setRf (rMxePath t) 0 0 1 (setRf (rMxePath t) 2 2 1 (addRf (rMxePath t) 15 8 1 s))
  opRecord 0x0103 false [t + 2 ^ 16 * s1.rf (rMxePath t) 15 8]
    (countEvent (blkTile t) 0x10 none none none 1 s1)

/-- An engine read of tile `t` failed: the task ends with the cause (R85, R146). -/
def engineStop (t : Nat) (r : UnitRead) (s : State) : State :=
  match r with
  | .good => s
  | .bad c d => failTile t c d s

/-- Environment: a unit of the tile store has gone bad before an engine reads it. -/
def mayGoBad (t : Nat) (bad : Option (Fin 65536)) (s : State) : State :=
  match bad with
  | some u => spoil t (.store (64 * u.val)) s
  | none => s

/-- A finished output tile of a MATMUL with DEST 1 goes from its accumulator bank into the next slot in ring order, if that slot
is EMPTY (R99). -/
def Tile.placeAcc (x : Tile) : Tile :=
  match x.accs with
  | [] => x
  | f :: l =>
    if (vget .init x.ftq x.ftqHead).st == .empty then
      { x with ftq := x.ftq.setIfInBounds x.ftqHead f, ftqHead := (x.ftqHead + 1) % 8, accs := l }
    else x

/-- Both accumulator banks are served, the older first. -/
def Tile.drainAccs (x : Tile) : Tile := x.placeAcc.placeAcc

/-- The slot that output tile `i` with the values `vals` will fill; of TILE_INDEX, which may exceed 16 bits, the low ones are
kept (R101, log entry 111). -/
def MatCfg.slot (c : MatCfg) (ticket i : Nat) (vals : List ((Nat × Nat) × List (Nat × Bool))) : FtqSlot :=
  { st := .filling, fp32 := c.fo == .fp32, ticket := ticket, index := i % 2 ^ 16, thin := c.thin,
    batch := if c.thin then c.m else 0, rows := vals.length, hist := c.hist,
    data := (List.range 32).flatMap (fun r => match vals[r]? with
      | some v => v.2.map (fun w => BitVec.ofNat 32 w.1)
      | none => List.replicate 64 0) }

/-- The rows of an output tile written to C (R90), and counted with HIST (R83). -/
def MatCfg.write (c : MatCfg) (vals : List ((Nat × Nat) × List (Nat × Bool))) (x : Tile) : Tile :=
  let y := vals.foldl (fun y r => y.writeElems (c.cBase r.1.1) c.fo.bits (64 * r.1.2) (r.2.map (fun v => some v.1))) x
  let h := if c.hist then vals.foldl (fun h r => r.2.foldl (fun h v => h.count c.fo v.1 v.2) h) y.hist else y.hist
  { y with hist := h, histUsed := y.histUsed || c.hist }

/-- One step of a MATMUL (R77, R84): the running command computes and writes its next output tile; with DEST 1 it stalls only
while both accumulator banks hold finished tiles (R96). `bad` names a unit that has gone bad, `mismatch` says that the
expander's check failed. -/
def matmulStep (t : Nat) (bad : Option (Fin 65536)) (mismatch : Bool) (s : State) : State :=
  match s.runningCmd? t 0 with
  | none => s
  | some e =>
    let c := matCfg e.words
    if c.tiles ≤ e.pos || (c.ftq && decide (2 ≤ (s.tile t).accs.length)) then s
    else
      let p := viewTile t (some (0, e)) (c.reads e.pos) (mayGoBad t bad s)
      match p.1.engineRead (c.reads e.pos) with
      | .bad k d => engineStop t (.bad k d) p.2
      | .good =>
        let s1 := if mismatch && (c.fb == .e2m1 || c.fb == .int4) && !p.2.rb (rMxePath t) 0 then
            expanderFault t p.2 else p.2
        let vals := (c.rows e.pos).map (fun q => (q, (List.range 64).map (fun col => c.output p.1 q.1 q.2 col)))
        let sat := vals.any (fun r => r.2.any (·.2))
        let nan := vals.any (fun r => r.2.any (fun v => isNanCode c.fo v.1))
        updTile t (fun x =>
          if c.ftq then
            { x.progress 0 (e.pos + 1) sat nan with
              accs := x.accs ++ [c.slot e.ticket e.pos vals] }.drainAccs
          else (noteWrites 0 e.ticket x (c.write vals x)).progress 0 (e.pos + 1) sat nan) s1

/-- FTQ_SLOT_FULL (R99): the oldest FILLING slot becomes FULL, and its elements go into the histogram. -/
def execFtqSlotFull (t : Fin 72) (s : State) : Host.Outcome State Fault Refusal :=
  .next (
    let x := s.tile t
    match ((List.range 8).map (fun i => (x.ftqTail + i) % 8)).find? (fun i => (vget .init x.ftq i).st == .filling) with
    | none => s
    | some i =>
      let f := vget .init x.ftq i
      updTile t (fun x => { x with
        ftq := x.ftq.setIfInBounds i { f with st := .full },
        hist := if f.hist then
          (f.data.take (64 * f.rows)).foldl (fun h v => h.count .fp32 v.toNat false) x.hist else x.hist,
        histUsed := x.histUsed || f.hist }) s)

/-! ### Commands of every queue (R56 to R59) -/

/-- Blocks of 32 rows by 64 positions of a vector command (R146). -/
def vecBlocks (ws : List Nat) : Nat := ceilDiv (vecRows ws) 32 * ceilDiv (vecLen ws) 64

/-- The same of a reduction command. -/
def redBlocks (ws : List Nat) : Nat := ceilDiv (wf ws 9 15 0) 32 * ceilDiv (wf ws 8 16 0) 64

/-- 64-byte units that a DMA command moves. -/
def dmaUnits (ws : List Nat) : Nat := wf ws 8 15 0 * (wf ws 7 22 0 / 64)

/-- The work of a started command is done (R66, R82). -/
def State.commandDone (s : State) (t q : Nat) (e : QCmd) : Bool :=
  let x := s.tile t
  match q with
  | 0 => decide ((matCfg e.words).tiles ≤ e.pos) && x.accs.isEmpty &&
      !(List.range 8).any (fun i => let f := vget .init x.ftq i
        f.st == .filling && f.ticket == e.ticket)
  | 1 => decide (vecBlocks e.words ≤ e.pos)
  | 2 => decide (redBlocks e.words ≤ e.pos)
  | _ => decide (dmaUnits e.words ≤ e.pos) && e.outst == 0 && !s.awaits (isTile t)

/-- The dependencies of a command have completed (R59). -/
def Tile.depsMet (x : Tile) (e : QCmd) : Bool :=
  (!bit (wd e.words 0) 18 || (x.queue (wf e.words 0 17 16)).complete (wd e.words 1)) &&
  (!bit (wd e.words 0) 21 || (x.queue (wf e.words 0 20 19)).complete (wd e.words 2))

/-- COMMAND_START (R59): the engine takes the head of its queue once its dependencies are met. -/
def execCommandStart (t : Fin 72) (q : Fin 4) (s : State) : Host.Outcome State Fault Refusal :=
  .next (
    let x := s.tile t
    match (x.queue q).entries.head? with
    | some e =>
      if x.running && !s.tripped && !e.started && x.depsMet e then
        updTile t (fun x => x.updQueue q (fun d => d.updHead (fun e => { e with started := true }))) s
      else s
    | none => s)

/-- The sample record of a tagged command (R513, R514): its stamps and stalls are cycle counts, which are open. -/
def commandSample (t q : Nat) (e : QCmd) (s : State) : State :=
  let x := s.tile t
  let a := fresh s
  let b := fresh a.2
  let c := fresh b.2
  let d := fresh c.2
  let k := fresh d.2
  sampleRecord (1 + q * 2 ^ 3 + 2 ^ 5 * wf e.words 0 15 0)
    ([t + 2 ^ 8 * x.ctx + 2 ^ 20 * x.cls, e.ticket] ++
      [a.1, b.1, c.1, d.1, k.1].map (fun v => v.toNat % 2 ^ 32)) k.2

/-- COMMAND_COMPLETE (R57, R58): the running command, its work done, completes. -/
def execCommandComplete (t : Fin 72) (q : Fin 4) (s : State) : Host.Outcome State Fault Refusal :=
  .next (
    match s.runningCmd? t q with
    | some e =>
      if s.commandDone t q e then
        let s1 := if e.tagged && s.rb rSmpCtrl 0 then commandSample t q e s else s
        let ev := if q.val = 0 then 3 else if q.val = 1 then 5 else if q.val = 2 then 7 else 8
        countEvent (blkTile t) ev (some (s.tile t).ctx) none none 1
          (updTile t (fun x => x.updQueue q (fun d =>
            { d with entries := d.entries.drop 1, done := d.done + 1,
                     flags := ((e.sat, e.nan) :: d.flags).take 256 })) s1)
      else s
    | none => s)

/-! ### Deadlock (R103) -/

/-- The head of queue `q` can start or continue. -/
def State.canProgress (s : State) (t q : Nat) : Bool :=
  let x := s.tile t
  let filling := (List.range 8).any (fun i => (vget .init x.ftq i).st == .filling)
  match (x.queue q).entries.head? with
  | none => false
  | some e =>
    if !e.started then x.depsMet e
    else match q with
      | 0 =>
        let c := matCfg e.words
        !c.ftq || filling || (if c.tiles ≤ e.pos then x.accs.isEmpty else decide (x.accs.length < 2))
      | 1 =>
        vecMode e.words 0 != 5 || decide (vecBlocks e.words ≤ e.pos) || filling ||
          (vget .init x.ftq x.ftqTail).st == .full || (vget .init x.ftq x.ftqTail).st == .draining
      | _ => true

/-- The core of tile `x` is held in xk.wait, xk.qfence or TASK_END by commands that have not completed (R103). -/
def Tile.held (x : Tile) : Bool :=
  match x.stall with
  | .wait q n _ => !(x.queue q).complete n
  | .qfence mask => (List.range 4).any (fun q => bit mask q && !(x.queue q).entries.isEmpty)
  | .taskEnd => !x.idle
  | _ => false

/-- FTQ_DEADLOCK (R103): the core is held and no queued command can start or continue. -/
def execFtqDeadlock (t : Fin 72) (s : State) : Host.Outcome State Fault Refusal :=
  .next (
    let x := s.tile t
    if x.running && x.held && !x.idle && !(List.range 4).any (s.canProgress t) && !s.tripped then
      failTile t 0x18 0 s
    else s)

end Sys2Proof.Machine
end

