-- ==== Sys2Proof/Machine/Vector.lean ====
section
/-!
DEFINITION. The vector engine, one block of 32 rows by 64 positions at a time (R133 to R149, R157 to R159).
-/
namespace Sys2Proof.Machine

/-! ### Element operations (R134, R140) -/

/-- Where an FP32 encoding stands in the order −∞ … −0, +0 … +∞ (R155); NaN is the highest. -/
def rankOf (c : Nat) : Int :=
  if Fmt.fp32.decode c = .nan then 2 ^ 33
  else if c < 2 ^ 31 then (c : Int) else -((c - 2 ^ 31 : Nat) : Int) - 1

/-- X < Y, X = Y of two FP32 encodings that are not NaN, +0 equal to −0. -/
def fpLt (a b : Nat) : Bool :=
  if a % 2 ^ 31 = 0 ∧ b % 2 ^ 31 = 0 then false else decide (rankOf a < rankOf b)
def fpEq (a b : Nat) : Bool := a == b || (a % 2 ^ 31 == 0 && b % 2 ^ 31 == 0)

/-- A VOP on FP32 encodings: the FP32 result; a compare answers 0 or 1. `mask` is the element's mask bit. -/
def vopResult (op x y z : Nat) (mask : Bool) : Nat :=
  let v (c : Nat) : Val := Fmt.fp32.decode c
  let isNan (c : Nat) : Bool := v c == .nan
  match op with
  | 0x00 => roundFp32 .rne (v x)
  | 0x01 => roundFp32 .rne (Val.add (v x) (v y))
  | 0x02 => roundFp32 .rne (Val.add (v x) (v y).neg)
  | 0x03 => roundFp32 .rne (Val.mul (v x) (v y))
  | 0x04 => roundFp32 .rne (Val.add (Val.mul (v x) (v y)) (v z))
  | 0x05 => if isNan x || isNan y then nan32 else if rankOf x < rankOf y then y else x
  | 0x06 => if isNan x || isNan y then nan32 else if rankOf y < rankOf x then y else x
  | 0x07 => if isNan x then nan32 else x % 2 ^ 31
  | 0x08 => if isNan x then nan32 else if x < 2 ^ 31 then x + 2 ^ 31 else x - 2 ^ 31
  | 0x10 => b2n (!isNan x && !isNan y && fpLt x y)
  | 0x11 => b2n (!isNan x && !isNan y && (fpLt x y || fpEq x y))
  | 0x12 => b2n (!isNan x && !isNan y && fpEq x y)
  | 0x13 => roundFp32 .rne (v (if mask then x else y))
  | _ => elementary op x

/-! ### Sources, masks and destinations (R137, R138, R141, R143) -/

/-- A format of the vector engine by its code. -/
def vecFormat (c : Nat) : Fmt := (Fmt.ofCode? c).getD .fp32

/-- Element `e` of row `i` of source `k` as an encoding (R138). -/
def vecElem (x : Tile) (cmd : QCmd) (k i e : Nat) : Nat :=
  let ws := cmd.words
  let w := (vecFormat (vecFmt ws k)).bits
  match vecMode ws k with
  | 1 => x.elem (64 * vecUnit ws k + i * (64 * vecStride ws k)) w e
  | 2 => cmd.port0.toNat % 2 ^ w
  | 3 => cmd.port1.toNat % 2 ^ w
  | 4 => x.elem (64 * vecUnit ws k) w i
  | 5 => ((vget .init x.ftq x.ftqTail).data.getD (i % 32 * 64 + e) 0).toNat
  | _ => 0

/-- The same converted exactly to FP32 (R134). -/
def vecVal (x : Tile) (cmd : QCmd) (k i e : Nat) : Nat :=
  roundFp32 .rne ((vecFormat (vecFmt cmd.words k)).decode (vecElem x cmd k i e))

/-- Mask bit `e` of row `i` (R141). -/
def maskBit (x : Tile) (ws : List Nat) (i e : Nat) : Bool :=
  x.elem (64 * wf ws 8 15 0 + i * (64 * wf ws 8 31 16)) 1 e == 1

/-- Set bits of mask row `i` below position `e`. -/
def maskCount (x : Tile) (ws : List Nat) (i e : Nat) : Nat :=
  ((List.range e).filter (maskBit x ws i)).length

/-- Where row `i` of the destination begins. -/
def vecDest (ws : List Nat) (i : Nat) : Nat := 64 * wf ws 5 31 16 + i * (64 * wf ws 7 31 16)

/-- Rows and positions of block `b` (R146). -/
def blockRows (ws : List Nat) (b : Nat) : List Nat :=
  let r := 32 * (b / ceilDiv (vecLen ws) 64)
  (List.range (min 32 (vecRows ws - r))).map (· + r)
def blockCols (ws : List Nat) (b : Nat) : List Nat :=
  let p := 64 * (b % ceilDiv (vecLen ws) 64)
  (List.range (min 64 (vecLen ws - p))).map (· + p)

/-- The tile-store bytes that a block reads. -/
def blockReads (x : Tile) (ws : List Nat) (b : Nat) : List Extent :=
  let cols := blockCols ws b
  let c0 := cols.head?.getD 0
  let op := wf ws 0 15 0
  (blockRows ws b).flatMap (fun i =>
    ((List.range 3).flatMap (fun k =>
      let w := (vecFormat (vecFmt ws k)).bits
      let dest : Bool := (op == 2 && k != 0) || (op == 4 && k == 2)
      if dest then []
      else match vecMode ws k with
        | 1 =>
          let a := 64 * vecUnit ws k + i * (64 * vecStride ws k)
          if op = 3 ∧ k = 0 then
            let lo := maskCount x ws i c0
            let n := (cols.filter (maskBit x ws i)).length
            [(a + lo * w / 8, if n = 0 then 0 else ceilDiv (lo * w % 8 + n * w) 8)]
          else [(a + c0 * w / 8, ceilDiv (cols.length * w) 8)]
        | 4 => [(64 * vecUnit ws k + i * w / 8, w / 8)]
        | _ => [])) ++
    (if vecMask ws then
      [(64 * wf ws 8 15 0 + i * (64 * wf ws 8 31 16) + c0 / 8, ceilDiv cols.length 8)] else []))

/-- The logical index of element `e` of row `i` (R135). -/
def vecIndex (ws : List Nat) (i e : Nat) : Nat := logicalIndex (wd ws 12 + i) (wd ws 13 + e)

/-! ### One block -/

/-- What a block has written: the tile, and its flags. -/
structure BlockRes where
  tile : Tile
  sat : Bool
  nan : Bool

/-- One row's elements written from position `p` on, with their saturation; a histogram counts those written. -/
def putRow (hist : Bool) (f : Fmt) (a p : Nat) (vs : List (Option (Nat × Bool))) (r : BlockRes) : BlockRes :=
  let t := r.tile.writeElems a f.bits p (vs.map (fun v => v.map (·.1)))
  let put (h : Hist) (v : Option (Nat × Bool)) : Hist :=
    match v with
    | some c => h.count f c.1 c.2
    | none => h
  let t1 : Tile := if hist then { t with hist := vs.foldl put t.hist, histUsed := true } else t
  { tile := t1,
    sat := r.sat || vs.any (fun v => (v.map (·.2)).getD false),
    nan := r.nan || vs.any (fun v => (v.map (fun c => isNanCode f c.1)).getD false) }

/-- The result of a VOP at element `e` of row `i`. -/
def vopElem (x : Tile) (cmd : QCmd) (i e : Nat) : Nat × Bool :=
  let ws := cmd.words
  let op := wf ws 10 31 24
  let out := wf ws 11 15 12
  let r := x.rnd (vecIndex ws i e)
  if out = 0xC then
    (vopResult op (vecVal x cmd 0 i e) (vecVal x cmd 1 i e) 0 false, false)
  else if op = 0x14 then
    (roundFp32 .rne (.fin false (srDraw x.seed (vecIndex ws i e) / 256) (-24)), false)
  else if vecFmt ws 0 = 0xB then
    (vecFormat out).convert r (Fmt.int32.decode (vecElem x cmd 0 i e))
  else
    let c := vopResult op (vecVal x cmd 0 i e) (vecVal x cmd 1 i e) (vecVal x cmd 2 i e) (maskBit x ws i e)
    if out = 1 then (roundFp32 .rne (Fmt.fp32.decode c), false)
    else (vecFormat out).convert r (Fmt.fp32.decode c)

/-- A block of a VOP (R140, R141): its sources are read from the view `v` and its results written to the tile `x`. -/
def vopBlock (v x : Tile) (cmd : QCmd) : BlockRes :=
  let ws := cmd.words
  let out := wf ws 11 15 12
  let mEn := bit (wd ws 11) 25
  let cols := blockCols ws cmd.pos
  let p := cols.head?.getD 0
  let cells := (blockRows ws cmd.pos).map (fun i => (i, cols.map (fun e =>
    if mEn && !maskBit v ws i e then none else some (vopElem v cmd i e))))
  cells.foldl (fun r row =>
    if out = 0xC then
      let pad : List (Option Nat) := List.replicate ((8 - row.2.length % 8) % 8) (some 0)
      let t := r.tile.writeElems (vecDest ws row.1) 1 p (row.2.map (fun v => v.map (·.1)) ++ pad)
      { r with tile := t }
    else putRow (bit (wd ws 11) 26) (vecFormat out) (vecDest ws row.1) p row.2 r)
    { tile := x, sat := false, nan := false }

/-- A block of COMPRESS (R147); the count of a row is written with its last block. -/
def compressBlock (v x : Tile) (cmd : QCmd) : BlockRes :=
  let ws := cmd.words
  let f := vecFormat (wf ws 11 15 12)
  let cols := blockCols ws cmd.pos
  let c0 := cols.head?.getD 0
  (blockRows ws cmd.pos).foldl (fun r i =>
    let sel := cols.filter (maskBit v ws i)
    let p := maskCount v ws i c0
    let r1 := putRow (bit (wd ws 11) 26) f (vecDest ws i) p (sel.map (fun e => some (vecElem v cmd 0 i e, false))) r
    let t2 := if vecMode ws 1 = 1 then
        r1.tile.writeElems (64 * vecUnit ws 1 + i * (64 * vecStride ws 1)) 32 p
          (sel.map (fun e => some ((wd ws 13 + e) % 2 ^ 32)))
      else r1.tile
    let t3 := if c0 + cols.length = vecLen ws then
        t2.writeElems (64 * vecUnit ws 2) 32 i [some (p + sel.length)] else t2
    { r1 with tile := t3 }) { tile := x, sat := false, nan := false }

/-- A block of EXPAND (R148). -/
def expandBlock (v x : Tile) (cmd : QCmd) : BlockRes :=
  let ws := cmd.words
  let f := vecFormat (wf ws 11 15 12)
  let cols := blockCols ws cmd.pos
  (blockRows ws cmd.pos).foldl (fun r i =>
    putRow (bit (wd ws 11) 26) f (vecDest ws i) (cols.head?.getD 0) (cols.map (fun e =>
      some (if maskBit v ws i e then vecElem v cmd 0 i (maskCount v ws i e)
            else if vecMode ws 1 = 0 then 0 else vecElem v cmd 1 i e, false))) r)
    { tile := x, sat := false, nan := false }

/-- A block of MXPACK (R111, R149). -/
def mxpackBlock (v x : Tile) (cmd : QCmd) : BlockRes :=
  let ws := cmd.words
  let f := vecFormat (wf ws 11 15 12)
  let mEn := bit (wd ws 11) 25
  let cols := blockCols ws cmd.pos
  let groups := (List.range (cols.length / 32)).map (fun g => cols.head?.getD 0 + 32 * g)
  (blockRows ws cmd.pos).foldl (fun r i =>
    groups.foldl (fun r p =>
      let es := ((List.range 32).map (· + p))
      let sel := es.filter (fun e => !mEn || maskBit v ws i e)
      if sel.isEmpty then r
      else
        let enc := mxEncode f (sel.map (fun e =>
          (Fmt.fp32.decode (vecVal v cmd 0 i e), v.rnd (vecIndex ws i e))))
        let cells := es.map (fun e => (sel.findIdx? (· == e)).bind (fun k => enc.2[k]?))
        let r1 := putRow false f (vecDest ws i) p cells r
        { tile := r1.tile.writeElems (64 * vecUnit ws 2 + i * (64 * vecStride ws 2)) 8 (p / 32) [some enc.1],
          sat := r1.sat, nan := r1.nan || enc.1 == 0xFF }) r) { tile := x, sat := false, nan := false }

/-- The slot that a command takes from the finished-tile queue becomes DRAINING (R100). -/
def Tile.takeSlot (x : Tile) : Tile :=
  { x with ftq := vupd .init x.ftq x.ftqTail (fun f => { f with st := .draining }) }

/-- The slot that has been read returns to EMPTY, and a tile that waits in an accumulator bank takes its place (R99, R100). -/
def Tile.freeSlot (x : Tile) : Tile :=
  { x with ftq := x.ftq.setIfInBounds x.ftqTail .init, ftqTail := (x.ftqTail + 1) % 8 }.drainAccs

/-- The running vector command does its next block, if it is `want` (R146). Of the finished-tile queue it first takes the
oldest slot once it is FULL, and a slot of another TYPE ends the task (R100, R143). -/
def vectorStep (t : Nat) (want : List Nat → Bool) (block : Tile → Tile → QCmd → BlockRes) (bad : Option (Fin 65536))
    (s : State) : State :=
  match s.runningCmd? t 1 with
  | none => s
  | some e =>
    if !want e.words || vecBlocks e.words ≤ e.pos then s
    else
      let ftq := vecMode e.words 0 == 5
      let slot := vget .init (s.tile t).ftq (s.tile t).ftqTail
      if ftq && slot.st == .full then
        if slot.fp32 != (vecFmt e.words 0 == 1) then failTile t 0x19 0 s else updTile t Tile.takeSlot s
      else if ftq && slot.st != .draining then s
      else
        let s0 := mayGoBad t bad s
        let p := viewTile t (some (1, e)) (blockReads (s0.tile t) e.words e.pos) s0
        match p.1.engineRead (blockReads p.1 e.words e.pos) with
        | .bad c d => engineStop t (.bad c d) p.2
        | .good =>
          updTile t (fun x =>
            let r := block p.1 x e
            let y := (noteWrites 1 e.ticket x r.tile).progress 1 (e.pos + 1) r.sat r.nan
            if ftq then y.freeSlot else y) p.2

/-- A VOP of operation `op` does its next block. -/
def vopStep (t op : Nat) (bad : Option (Fin 65536)) (s : State) : State :=
  vectorStep t (fun ws => wf ws 0 15 0 == 1 && wf ws 10 31 24 == op) vopBlock bad s

end Sys2Proof.Machine
end

