-- ==== Sys2Proof/Machine/Reduce.lean ====
section
/-!
DEFINITION. The reduction unit, one block of 32 rows by 64 positions at a time (R146, R150 to R155): the results of a row
are written when the row is complete.
-/
namespace Sys2Proof.Machine

/-! ### Row functions on FP32 encodings -/

/-- The largest power of two below `n`, for n above 1. -/
def halfBelow (n : Nat) : Nat := 2 ^ Nat.log2 (n - 1)

/-- tree of R153; `fuel` bounds its depth. -/
def treeSum : Nat → List Nat → Nat
  | 0, l => l.head?.getD 0
  | fuel + 1, l =>
    if l.length ≤ 1 then l.head?.getD 0
    else
      let h := halfBelow l.length
      fp32Add (treeSum fuel (l.take h)) (treeSum fuel (l.drop h))

/-- fast_row_sum of R153. -/
def fastRowSum (xs : List Nat) : Nat :=
  match chunks 64 xs.length xs with
  | [] => 0
  | g :: gs => gs.foldl (fun acc c => fp32Add acc (treeSum 64 c)) (treeSum 64 g)

/-- The inclusive prefix sums of a row (R153, R154). -/
def inclusiveScan (fast : Bool) (xs : List Nat) : List Nat :=
  if fast then
    (xs.foldl (fun (st : Option Nat × List Nat) x =>
      let v := match st.1 with
        | none => x
        | some a => fp32Add a x
      (some v, st.2 ++ [v])) (none, [])).2
  else (List.range xs.length).map (fun e => exactSum ((xs.take (e + 1)).map Fmt.fp32.decode))

/-- The exclusive prefix sums: +0.0, then the inclusive ones (R153). -/
def exclusiveScan (fast : Bool) (xs : List Nat) : List Nat := 0 :: (inclusiveScan fast xs).dropLast

/-- The sum of a row. -/
def rowSum (fast : Bool) (xs : List Nat) : Nat :=
  if fast then fastRowSum xs else exactSum (xs.map Fmt.fp32.decode)

/-- A candidate of R155: its value, its index and its position. -/
abbrev Cand := Nat × Nat × Nat

/-- `a` ranks before `b`: higher value, then lower index, then lower position (R155). -/
def candBefore (a b : Cand) : Bool :=
  if rankOf a.1 ≠ rankOf b.1 then decide (rankOf b.1 < rankOf a.1)
  else if a.2.1 ≠ b.2.1 then decide (a.2.1 < b.2.1)
  else decide (a.2.2 < b.2.2)

/-- A candidate put in its place. -/
def candInsert (c : Cand) : List Cand → List Cand
  | [] => [c]
  | d :: l => if candBefore c d then c :: d :: l else d :: candInsert c l

/-- The candidates in descending order, at most `k` of them. -/
def topK (k : Nat) (cs : List Cand) : List Cand := cs.foldl (fun l c => (candInsert c l).take k) []

/-! ### One row -/

/-- Elements of row `i` of X in FP32 (R152). -/
def redRow (x : Tile) (ws : List Nat) (i : Nat) : List Nat :=
  let f := vecFormat (wf ws 10 3 0)
  (List.range (wf ws 8 16 0)).map (fun e =>
    roundFp32 .rne (f.decode (x.elem (64 * wf ws 4 15 0 + i * (64 * wf ws 4 31 16)) f.bits e)))

/-- The index of each element of row `i` (R150). -/
def redIndex (x : Tile) (ws : List Nat) (i e : Nat) : Nat :=
  if bit (wd ws 10) 4 then x.elem (64 * wf ws 6 31 16 + i * (64 * wf ws 7 15 0)) 32 e
  else (wd ws 11 + e) % 2 ^ 32

/-- The candidates of row `i`. -/
def redCands (x : Tile) (ws : List Nat) (i : Nat) : List Cand :=
  ((redRow x ws i).zipIdx).map (fun p => (p.1, redIndex x ws i p.2, p.2))

/-- Rows of block `b` of a reduction command. -/
def redRows (ws : List Nat) (b : Nat) : List Nat :=
  let r := 32 * (b / ceilDiv (wf ws 8 16 0) 64)
  (List.range (min 32 (wf ws 9 15 0 - r))).map (· + r)

/-- Block `b` is the last of its rows. -/
def redLast (ws : List Nat) (b : Nat) : Bool := b % ceilDiv (wf ws 8 16 0) 64 + 1 == ceilDiv (wf ws 8 16 0) 64

/-- What block `b` of a reduction reads: up to 64 elements of each of its rows, and their indices with JSRC. -/
def redReadsAt (ws : List Nat) (b : Nat) : List Extent :=
  let p := 64 * (b % ceilDiv (wf ws 8 16 0) 64)
  let n := min 64 (wf ws 8 16 0 - p)
  let w := codeBits (wf ws 10 3 0)
  (redRows ws b).flatMap (fun i =>
    [(64 * wf ws 4 15 0 + i * (64 * wf ws 4 31 16) + p * w / 8, ceilDiv (n * w) 8)] ++
    (if bit (wd ws 10) 4 then [(64 * wf ws 6 31 16 + i * (64 * wf ws 7 15 0) + 4 * p, 4 * n)] else []))

/-- A reduction command's rows are written: `row` gives the values and the indices; `strided` rows go to D and I at their
stride, others to byte 4i (R152). The flag says whether a value is NaN. -/
def redWrite (strided : Bool) (ws : List Nat) (rs : List (Nat × List Nat × List Nat)) (x : Tile) : Tile :=
  rs.foldl (fun x r =>
    let base (u : Nat) : Nat := 64 * u + (if strided then r.1 * (64 * wf ws 6 15 0) else 0)
    let at0 := if strided then 0 else r.1
    let y := x.writeElems (base (wf ws 5 15 0)) 32 at0 (r.2.1.map some)
    if r.2.2.isEmpty then y else y.writeElems (base (wf ws 5 31 16)) 32 at0 (r.2.2.map some)) x

/-- The running reduction command, if it is `want`, does its next block; with the last block of its rows their results are
computed and written. -/
def reduceStep (t : Nat) (want : List Nat → Bool) (strided : Bool) (row : Tile → List Nat → Nat → List Nat × List Nat)
    (bad : Option (Fin 65536)) (s : State) : State :=
  match s.runningCmd? t 2 with
  | none => s
  | some e =>
    let ws := e.words
    if !want ws || redBlocks ws ≤ e.pos then s
    else
      let p := viewTile t (some (2, e)) (redReadsAt ws e.pos) (mayGoBad t bad s)
      match p.1.engineRead (redReadsAt ws e.pos) with
      | .bad c d => engineStop t (.bad c d) p.2
      | .good =>
        let rs := if redLast ws e.pos then (redRows ws e.pos).map (fun i => (i, row p.1 ws i)) else []
        updTile t (fun x =>
          (noteWrites 2 e.ticket x (redWrite strided ws rs x)).progress 2 (e.pos + 1) false
            (rs.any (fun r => r.2.1.any (isNanCode .fp32)))) p.2

/-- RSUM with a given SCAN. -/
def isRsum (scan : Nat) (ws : List Nat) : Bool := wf ws 0 15 0 == 1 && wf ws 10 6 5 == scan

/-- The opcode of a reduction command. -/
def isRed (op : Nat) (ws : List Nat) : Bool := wf ws 0 15 0 == op

/-- The lowest of a row, or the canonical NaN if the row holds a NaN. -/
def rowMin (xs : List Nat) : Nat :=
  if xs.any (isNanCode .fp32) then nan32
  else (xs.foldl (fun (m : Option Nat) v => match m with
    | none => some v
    | some w => some (if rankOf v < rankOf w then v else w)) none).getD 0

end Sys2Proof.Machine
end

