-- ==== Sys2Proof/Machine/Dma.lean ====
section
/-!
DEFINITION. The cluster DMA engine: the transfer units of the tiles' DMA commands and of COPY descriptors, in round
robin (R64 to R66, R172), at most 2 KiB and within one row.
-/
namespace Sys2Proof.Machine

/-! ### Positions -/

/-- 64-byte units of a row, and where unit `pos` lies: its row and its byte offset in the row. -/
def rowPos (rowBytes pos : Nat) : Nat × Nat := (pos / (rowBytes / 64), pos % (rowBytes / 64) * 64)

/-- A device virtual address with a signed row stride, modulo 2⁵⁵ (R65). -/
def strided55 (base : Nat) (st : Int) (row off : Nat) : Nat :=
  (((base : Int) + st * (row : Int) + (off : Int)) % (2 ^ 55 : Nat)).toNat

/-- The place in a cluster store of offset `o` of a window with the granules `gs` (R187). -/
def windowAddr (gs : List Nat) (o : Nat) : Nat := 65536 * gs.getD (o / 65536) 0 + o % 65536

/-! ### Tile commands (R64 to R66) -/

/-- The next units of tile `t`'s running DMA command, at most `budget`, moved: how many, and the state after. -/
def tileUnits (t budget : Nat) (e : QCmd) (s : State) : Nat × State :=
  let x := s.tile t
  let ws := e.words
  let op := wf ws 0 15 0
  let rb := wf ws 7 22 0
  let (row, off) := rowPos rb e.pos
  let left := (rb - off) / 64
  let ts := wf ws 6 21 0 + row * wf ws 11 22 0 + off
  let who := Who.tileDma t
  let c := tileCluster t
  let done (n ev port : Nat) (s : State) : Nat × State :=
    (n, countUnits (blkTile t) port n (countEvent (blkTile t) ev (some x.ctx) none none n
      (updTile t (fun x => x.updQueue 3 (fun d => d.updHead (fun e => { e with pos := e.pos + n }))) s)))
  let putStore (d : UnitData) (m : Option Mark) (s : State) : State :=
    updTile t (fun x =>
      let y := x.engineWrite ts (natToBytes 64 d.toNat)
      noteWrites 3 e.ticket x (match m with
        | some k => { y with storeMarks := Table.set y.storeMarks (ts / 64) k }
        | none => y)) s
  if op ≤ 2 then
    let va := strided55 (wva ws 4 5) (stride48 ws 9 10) row off
    if op = 1 then
      match xlate who x.ctx va .read s with
      | (.ok tgt _, s1) =>
        match agentRead opRecord who tgt (left - 1) x.cls s1 with
        | (some (d, m), s2) => done 1 9 0 (putStore d m s2)
        | (none, s2) => (0, s2)
      | (.aborted, s1) => (0, failTile t 0x24 0 s1)
      | (_, s1) => (0, s1)
    else
      let n := min (min budget left) ((512 - va % 512) / 64)
      match xlate who x.ctx va .write s with
      | (.ok tgt ent, s1) =>
        if s1.storeWaits tgt (64 * n) then (0, s1)
        else if x.storeUe.any (fun u => decide (ts / 64 ≤ u ∧ u < ts / 64 + n)) then (0, failTile t 0x20 0 s1)
        else
          let v := viewTile t (some (3, e)) [(ts, 64 * n)] s1
          let r := agentStore opRecord who (fun i => Table.find? v.1.storeMarks (ts / 64 + i)) (hintOf (wf ws 12 3 0))
            x.cls (entMirror ent) (64 * n + 1) 0 tgt (Mem.readBytes v.1.store ts (64 * n)) v.2
          let s2 := updTile t (fun x => x.updQueue 3 (fun d => d.updHead (fun e =>
            { e with outst := e.outst + r.1.1 }))) r.2
          match r.1.2 with
          | some d => (0, failTile t 0x25 d s2)
          | none => done n 10 1 s2
      | (.aborted, s1) => (0, failTile t 0x24 0 s1)
      | (_, s1) => (0, s1)
  else
    let gs := match s.liveAt t with
      | some l => Table.get [] l.windows c
      | none => []
    let o := ((wd ws 4 : Int) + stride48 ws 9 10 * (row : Int) + (off : Int)).toNat
    let a := windowAddr gs o
    if op = 3 then
      let k := s.cluster c
      let s1 := putStore (BitVec.ofNat 512 (Mem.readNat k.store a 64)) (Table.find? k.marks (a / 64)) s
      done 1 9 0 (countUnits (blkCluster c) 0 1 (countEvent (blkCluster c) 0x20 none none none 1 s1))
    else if x.storeUe.contains (ts / 64) then (0, failTile t 0x20 0 s)
    else
      let v := viewTile t (some (3, e)) [(ts, 64)] s
      let s1 := updCluster c (fun k => { k with
        store := Mem.writeBytes k.store a (Mem.readBytes v.1.store ts 64),
        marks := match Table.find? v.1.storeMarks (ts / 64) with
          | some m => Table.set k.marks (a / 64) m
          | none => Table.erase k.marks (a / 64) }) v.2
      done 1 10 1 (countUnits (blkCluster c) 1 1 (countEvent (blkCluster c) 0x21 none none none 1 s1))

/-- Units are moved until the budget, the row or the data at hand ends; `fuel` bounds their number. -/
def tileLoop (t row : Nat) : Nat → Nat → State → State
  | 0, _, s => s
  | _, 0, s => s
  | fuel + 1, budget, s =>
    match s.runningCmd? t 3 with
    | none => s
    | some e =>
      if dmaUnits e.words ≤ e.pos || (rowPos (wf e.words 7 22 0) e.pos).1 ≠ row then s
      else
        let r := tileUnits t budget e s
        if r.1 = 0 then r.2 else tileLoop t row fuel (budget - r.1) r.2

/-- A transfer unit of tile `t`'s DMA command. -/
def tileTransfer (t : Nat) (s : State) : State :=
  match s.runningCmd? t 3 with
  | none => s
  | some e => tileLoop t (rowPos (wf e.words 7 22 0) e.pos).1 32 32 s

/-! ### COPY descriptors (R172) -/

/-- Units that a COPY moves. -/
def copyUnits (ws : List Nat) : Nat := wf ws 10 15 0 * (wf ws 9 22 0 / 64)

/-- Units `i` to `n` of a row of the source, if all are at hand; those that are wait for the others. -/
def copyRead (id ctx cls : Nat) (src : Nat → Nat) (n : Nat) : Nat → Nat → List (UnitData × Option Mark) → State →
    Option (List (UnitData × Option Mark)) × State
  | 0, _, got, s => (some got, s)
  | fuel + 1, i, got, s =>
    let who := Who.copy id
    let keep (s : State) : State :=
      forEach (got.zipIdx) (fun g s =>
        match xlate who ctx (src g.2) .read s with
        | (.ok tgt _, s1) => updPlz (fun p => { p with arrivals := p.arrivals ++
            [{ who := who, key := tgt, data := g.1.1, mark := g.1.2 }] }) s1
        | (_, s1) => s1) s
    match xlate who ctx (src i) .read s with
    | (.ok tgt _, s1) =>
      match agentRead opRecord who tgt (n - 1 - i) cls s1 with
      | (some u, s2) => copyRead id ctx cls src n fuel (i + 1) (got ++ [u]) s2
      | (none, s2) => (none, keep s2)
    | (.aborted, s1) =>
      (none, updLive id (fun l => { l with firstFail := some { cause := 0x24, detail := 0, tile := 0xFFFF },
                                           stopping := true }) s1)
    | (_, s1) => (none, keep s1)

/-- A COPY's first failure in transfer order (R172). -/
def copyFail (id cause detail : Nat) (s : State) : State :=
  updLive id (fun l => { l with firstFail := l.firstFail.or (some { cause := cause, detail := detail, tile := 0xFFFF }) }) s

/-- A write of a COPY to another package has failed: it comes before poison met behind the first byte that it was to
write (R172). -/
def copyWriteFail (id detail : Nat) (s : State) : State :=
  updLive id (fun l =>
    let f : FirstFail := { cause := 0x25, detail := detail, tile := 0xFFFF }
    { l with firstFail := if l.later then some f else l.firstFail.or (some f), later := false }) s

/-- The failures that a transfer unit of a COPY meets, as far as they show at once (R172): poison in the units `us`,
and a write that leaves by no port; `sent` says that its write is still to be answered. -/
def copyFaults (id : Nat) (us : List (UnitData × Option Mark)) (lost : Option Nat) (sent : Bool) (s : State) : State :=
  match us.findIdx? (·.2.isSome), (us.filterMap (·.2)).head?, lost with
  | some 0, some m, _ => copyFail id m.cause m.detail s
  | _, _, some d => copyFail id 0x25 d s
  | _, some m, none =>
    copyFail id m.cause m.detail (updLive id (fun l => { l with later := sent && l.firstFail.isNone }) s)
  | _, none, none => s

/-- A transfer unit of COPY `id`: up to 512 bytes, written before the next are read. -/
def copyTransfer (id : Nat) (s : State) : State :=
  match s.liveOf? id with
  | none => s
  | some l =>
    let ws := l.words
    let rb := wf ws 9 22 0
    let (row, off) := rowPos rb l.progress
    let cls := wf ws 0 11 8
    let who := Who.copy id
    let src (i : Nat) : Nat :=
      strided55 (wva ws 5 6) (signed 48 (wd ws 11 % 2 ^ 32 + 2 ^ 32 * wf ws 12 15 0)) row (off + 64 * i)
    let dst := strided55 (wva ws 7 8) (signed 48 (wd ws 13 % 2 ^ 32 + 2 ^ 32 * wf ws 12 31 16)) row off
    let n := min ((rb - off) / 64) ((512 - dst % 512) / 64)
    match xlate who l.ctx dst .write s with
    | (.ok tgt ent, s1) =>
      if s1.storeWaits tgt (64 * n) then s1
      else match copyRead id l.ctx cls src n n 0 [] s1 with
        | (none, s2) => s2
        | (some us, s2) =>
          let r := agentStore opRecord who (fun i => (us[i]?).bind (·.2)) (hintOf (wf ws 14 3 0)) cls (entMirror ent)
            (64 * n + 1) 0 tgt (us.flatMap (fun u => natToBytes 64 u.1.toNat)) s2
          let s4 := copyFaults id us r.1.2 (r.1.1 != 0) r.2
          countEvent (blkCluster l.cluster) 0x24 (some l.ctx) none none n
            (updLive id (fun l => { l with progress := l.progress + n, outst := l.outst + r.1.1, started := true }) s4)
    | (.aborted, s1) =>
      updLive id (fun l => { l with firstFail := some { cause := 0x24, detail := 0, tile := 0xFFFF },
                                    stopping := true }) s1
    | (_, s1) => s1

/-! ### The round robin (R64, R172) -/

/-- A COPY has something to transfer. -/
def State.copyReady (s : State) (id : Nat) : Bool :=
  match s.liveOf? id with
  | some l => !l.stopping && decide (l.progress < copyUnits l.words) && l.outst == 0 &&
      !s.isStalled (.copy id) l.ctx
  | none => false

/-- Participant `p` of cluster `c` (its four tiles, then its COPYs) has something to transfer. -/
def State.partReady (s : State) (c p : Nat) : Bool :=
  if p < 4 then
    match s.runningCmd? (4 * c + p) 3 with
    | some e => decide (e.pos < dmaUnits e.words) && !s.isStalled (.tileDma (4 * c + p)) (s.tile (4 * c + p)).ctx
    | none => false
  else (s.cluster c).copies.any s.copyReady && !s.tripped

/-- The participant whose turn it is. -/
def State.dmaTurn? (s : State) (c : Nat) : Option Nat :=
  if !s.inService uCluster c then none
  else ((List.range 5).map (fun i => ((s.cluster c).turn + i) % 5)).find? (s.partReady c)

/-- The COPY of cluster `c` that transfers next. -/
def State.nextCopy? (s : State) (c : Nat) : Option Nat := (s.cluster c).copies.find? s.copyReady

/-- Cluster `c` serves participant `p`, and the turn passes on; its COPYs take turns among themselves. -/
def dmaServe (c p : Nat) (s : State) : State :=
  let s1 := if p < 4 then tileTransfer (4 * c + p) s
    else match s.nextCopy? c with
      | some id => copyTransfer id (updCluster c (fun k => { k with copies := k.copies.erase id ++ [id] }) s)
      | none => s
  updCluster c (fun k => { k with turn := (p + 1) % 5 }) s1

/-- DMA_TRANSFER_UNIT (R64): the cluster's engine takes a transfer unit from the next participant. -/
def execDmaTransferUnit (c : Fin 18) (s : State) : Host.Outcome State Fault Refusal :=
  .next (match s.dmaTurn? c with
    | some p => dmaServe c p s
    | none => s)

/-- Tile `t`'s DMA command of opcode `op` takes a transfer unit, if it is its turn. -/
def dmaStep (t op : Nat) (s : State) : State :=
  match s.runningCmd? t 3 with
  | some e =>
    if wf e.words 0 15 0 == op && s.dmaTurn? (tileCluster t) == some (t % 4) then dmaServe (tileCluster t) (t % 4) s
    else s
  | none => s

/-- COPY_IN (R65). -/
def execCopyIn (t : Fin 72) (s : State) : Host.Outcome State Fault Refusal := .next (dmaStep t 1 s)
/-- COPY_OUT (R65). -/
def execCopyOut (t : Fin 72) (s : State) : Host.Outcome State Fault Refusal := .next (dmaStep t 2 s)
/-- CS_IN (R64). -/
def execCsIn (t : Fin 72) (s : State) : Host.Outcome State Fault Refusal := .next (dmaStep t 3 s)
/-- CS_OUT (R64). -/
def execCsOut (t : Fin 72) (s : State) : Host.Outcome State Fault Refusal := .next (dmaStep t 4 s)

/-- COPY (R172): the descriptor moves its next transfer unit, if it is its turn. -/
def execCopy (id : Nat) (s : State) : Host.Outcome State Fault Refusal :=
  .next (match s.liveOf? id with
    | some l =>
      if l.opcode == 2 && s.dmaTurn? l.cluster == some 4 && s.nextCopy? l.cluster == some id then
        dmaServe l.cluster 4 s
      else s
    | none => s)

end Sys2Proof.Machine
end

