-- ==== Sys2Proof/Machine/Cairn.lean ====
section
/-!
DEFINITION. Reductions across packages: the reduction descriptor, arming, the chunks that travel up and down the
tree, and how a group ends (R173, R380 to R387).
-/
namespace Sys2Proof.Machine

/-! ### Reading and writing a range of a context -/

/-- A ranged access of a requester: its bytes with the mark of the first poisoned unit, a translation or data still
awaited, or an abort. -/
inductive RangeRes where
  | ok (bytes : List Byte) (mark : Option Mark)
  | wait
  | aborted
  deriving DecidableEq, Repr

/-- The units from `unit` on, `fuel` of them, read by a requester; those that are at hand wait for the others. -/
def readUnits (who : Who) (ctx cls : Nat) : Nat → Nat → List (Tgt × UnitData × Option Mark) → State →
    RangeRes × State
  | 0, _, got, s => (.ok (got.flatMap (fun g => natToBytes 64 g.2.1.toNat)) (got.filterMap (·.2.2)).head?, s)
  | fuel + 1, unit, got, s =>
    let back : List Arrival := got.map (fun g => { who := who, key := g.1, data := g.2.1, mark := g.2.2 })
    let keep (s : State) : State := updPlz (fun p => { p with arrivals := p.arrivals ++ back }) s
    match xlate who ctx (unit % 2 ^ 49 * 64) .read s with
    | (.ok tgt _, s1) =>
      match agentRead opRecord who tgt fuel cls s1 with
      | (some u, s2) => readUnits who ctx cls fuel (unit + 1) (got ++ [(tgt, u)]) s2
      | (none, s2) => (.wait, keep s2)
    | (.aborted, s1) => (.aborted, s1)
    | (_, s1) => (.wait, keep s1)

/-- `len` bytes from a device virtual address, read by a requester. -/
def readRange (who : Who) (ctx cls va len : Nat) (s : State) : RangeRes × State :=
  let n := (va + len - 1) / 64 - va / 64 + 1
  match readUnits who ctx cls n (va / 64) [] s with
  | (.ok bs m, s1) => (.ok ((bs.drop (va % 64)).take len) m, s1)
  | r => r

/-- The pieces of a chunk's range that lie in one 2 KiB granule each: address and length. -/
def chunkPieces (va len : Nat) : List (Nat × Nat) :=
  (granulePieces 2 va len).map (fun p => (p.1 % 2 ^ 55, p.2))

/-- The targets of the pieces of a range for a write, if all translate and none has to wait for room in a request
table (R365): none while one waits, and whether one was aborted. -/
def writeTargets (who : Who) (ctx : Nat) : List (Nat × Nat) → State → Option (List (Tgt × Nat × Nat)) × Bool × State
  | [], s => (some [], false, s)
  | (va, n) :: l, s =>
    match xlate who ctx va .write s with
    | (.ok tgt ent, s1) =>
      if s1.storeWaits tgt n then (none, false, s1)
      else match writeTargets who ctx l s1 with
        | (some ts, b, s2) => (some ((tgt, ent, n) :: ts), b, s2)
        | r => r
    | (.aborted, s1) => (none, true, s1)
    | (_, s1) => (none, false, s1)

/-! ### The reduction descriptor (R380, R381) -/

/-- STATUS FORMAT and its fellows of R364. -/
abbrev fsPoisoned : Nat := 1
/-- DENIED. -/
abbrev fsDenied : Nat := 2
/-- ABSENT. -/
abbrev fsAbsent : Nat := 3
/-- ABORTED. -/
abbrev fsAborted : Nat := 4
/-- UNSUPPORTED. -/
abbrev fsUnsupported : Nat := 5
/-- TIMEOUT. -/
abbrev fsTimeout : Nat := 6
/-- UNREACHABLE. -/
abbrev fsUnreachable : Nat := 7
/-- GROUP_MISMATCH. -/
abbrev fsMismatch : Nat := 8
/-- FORMAT. -/
abbrev fsFormat : Nat := 9

/-- Word `i` of a descriptor. -/
def dword (ws : List Nat) (i : Nat) : Nat := ws.getD i 0
/-- EXEC_PORT. -/
def rdExec (ws : List Nat) : Nat := bits (dword ws 0) 3 0
/-- ROOT. -/
def rdRoot (ws : List Nat) : Bool := bit (dword ws 0) 4
/-- PARENT_PORT. -/
def rdParent (ws : List Nat) : Nat := bits (dword ws 0) 8 5
/-- NIN. -/
def rdNin (ws : List Nat) : Nat := bits (dword ws 0) 13 9
/-- The ports of CHILD_MASK, ascending. -/
def rdChildren (ws : List Nat) : List Nat := (List.range 16).filter (fun p => bit (dword ws 1) p)
/-- The entries of ORDER. -/
def rdOrder (ws : List Nat) : List Nat :=
  (List.range (rdNin ws)).map (fun i => bits (dword ws (2 + i / 6)) (5 * (i % 6) + 4) (5 * (i % 6)))
/-- SEED. -/
def rdSeed (ws : List Nat) : W64 := BitVec.ofNat 64 (dword ws 6 + 2 ^ 32 * dword ws 7)
/-- The ports of the tree. -/
def rdTree (ws : List Nat) : List Nat := rdChildren ws ++ (if rdRoot ws then [] else [rdParent ws])

/-- The checks of R381 but for the ports' state. -/
def rdescOk (ws : List Nat) : Bool :=
  let reserved := [bits (dword ws 0) 31 14, bits (dword ws 1) 31 16, bits (dword ws 2) 31 30, bits (dword ws 3) 31 30,
    bits (dword ws 4) 31 25, bits (dword ws 5) 31 20] ++ (List.range 8).map (fun i => dword ws (8 + i))
  let named := rdChildren ws ++ [16]
  reserved.all (· == 0) && rdNin ws == named.length && named.all (rdOrder ws).contains &&
    (rdRoot ws || !(rdChildren ws).contains (rdParent ws))

/-- The DETAIL of REMOTE_ERROR for a status and a port (R377). -/
def remoteDetail (status port : Nat) : Nat := status + port * 16

/-! ### Groups -/

/-- The reduction group of a REDUCE. -/
def State.groupOf? (s : State) (id : Nat) : Option Group := s.fab.groups.find? (fun g => g.live == id)

/-- The group changed. -/
def updGroup (id : Nat) (f : Group → Group) (s : State) : State :=
  { s with fab := { s.fab with groups := s.fab.groups.map (fun g => if g.live = id then f g else g) } }

/-- FAB_PORT_n_STATUS.GROUPS follows the groups armed at the cairn. -/
def syncGroups (p : Nat) (s : State) : State :=
  setRf (rFabPortNStatus p) 18 15 (s.fab.groups.filter (fun g => g.armed && g.port == p)).length s

/-- ELEMS of a REDUCE. -/
def redElems (l : Live) : Nat := bits (dword l.words 9) 27 0
/-- The chunks of a REDUCE (R383). -/
def redChunks (l : Live) : Nat := ceilDiv (redElems l) 128
/-- The elements of chunk `c`. -/
def chunkElems (l : Live) (c : Nat) : Nat := min 128 (redElems l - 128 * c)
/-- IN_FMT is FP32. -/
def redIn32 (l : Live) : Bool := bits (dword l.words 10) 3 0 == 1
/-- OUT_FMT is FP32. -/
def redOut32 (l : Live) : Bool := bits (dword l.words 10) 7 4 == 1
/-- GROUP_ID. -/
def redGid (l : Live) : Nat := bits (dword l.words 13) 15 0
/-- A virtual address of a REDUCE from two of its words. -/
def redVa (l : Live) (i : Nat) : Nat := bits (dword l.words i) 31 0 + 2 ^ 32 * bits (dword l.words (i + 1)) 22 0
/-- CLASS of a REDUCE. -/
def redClass (l : Live) : Nat := bits (dword l.words 0) 11 8
/-- ROUND of a REDUCE. -/
def redRound (l : Live) : Nat := bits (dword l.words 0) 15 13

/-- A RED message to the neighbour at a port. -/
def State.redHead (s : State) (p msg len cls w2 w3 : Nat) : KflMsg :=
  { msg := msg, len := len, cls := cls, vl := 0, fmt := 0, hops := 63, dst := s.rf (rFabPortNPeer p) 15 0,
    src := s.rf rFabNode 15 0, w2 := w2, w3 := w3, payload := [], marks := [] }

/-- A RED message sent on a port that is not DOWN. -/
def redSend (p : Nat) (m : KflMsg) (s : State) : State := if s.portDown p then s else kflSend p m s

/-- Bytes cut into the units of a message. -/
def msgUnits (bs : List Byte) : List UnitData :=
  (List.range (ceilDiv bs.length 64)).map (fun i => BitVec.ofNat 512 (bytesToNat ((bs.drop (64 * i)).take 64)))

/-- RED_DATA of chunk `c` on a port. -/
def redData (p : Nat) (l : Live) (down fp32 : Bool) (c : Nat) (bs : List Byte) (m : Option Mark) (s : State) : State :=
  let us := msgUnits bs
  let h := s.redHead p 0x21 us.length (redClass l) (redGid l + 2 ^ 16 * b2n down) c
  redSend p { h with fmt := b2n (!fp32), payload := us, marks := us.map (fun _ => m) } s

/-- The LIMIT a node has given its children (R383). -/
def Group.limit (g : Group) : Nat := 32 + 16 * (g.formed / 16)

/-- RED_READY to a child, with the group parameters (R383). -/
def redReady (p : Nat) (l : Live) (g : Group) (s : State) : State :=
  let par := redElems l + 2 ^ 32 * bits (dword l.words 10) 7 4 +
    2 ^ 40 * (b2n l.dotFast + redRound l * 2) + 2 ^ 64 * (rdSeed g.words).toNat
  redSend p { s.redHead p 0x22 1 (redClass l) (redGid l) (g.limit % 2 ^ 21) with
    payload := [BitVec.ofNat 512 par], marks := [none] } s

/-- The group parameters that an armed node expects in RED_READY. -/
def readyParams (l : Live) (g : Group) : Nat :=
  redElems l + 2 ^ 32 * bits (dword l.words 10) 7 4 + 2 ^ 40 * (b2n l.dotFast + redRound l * 2) +
    2 ^ 64 * (rdSeed g.words).toNat

/-! ### Ending a group (R386) -/

/-- The messages of a group leave the buffers: its REDUCE is over, with RED_ABORT on every port of the tree but
`from?`, and one REDUCE_ABORTED record. `ff` is the cause and DETAIL of its record, none where a drain gives
them. -/
def endGroup (id status port : Nat) (ff : Option (Nat × Nat)) (from? : Option Nat) (s : State) : State :=
  match s.groupOf? id, s.liveOf? id with
  | some g, some l =>
    let s1 := forEach (rdTree g.words) (fun p s =>
      if g.armed && from? != some p then
        redSend p (s.redHead p 0x23 0 (redClass l) (redGid l + 2 ^ 16 * status) 0) s
      else s) s
    let s2 := syncGroups g.port (updGroup id (fun g => { g with armed := false, inputs := [] }) s1)
    let s3 := updLive id (fun l => { l with
      stopping := true,
      firstFail := l.firstFail.or (ff.map (fun k => { cause := k.1, detail := k.2, tile := 0xFFFF })) }) s2
    opRecord 0x0607 false [l.ctx, redGid l, status, port] (leaveFaults (fun w _ => match w with
      | .reduce _ i => i == id
      | _ => false) s3)
  | _, _ => s

/-- A group ends with REMOTE_ERROR. -/
def failGroup (id status port : Nat) (from? : Option Nat) (s : State) : State :=
  endGroup id status port (some (0x25, remoteDetail status port)) from? s

/-- The groups of a context end when it drains (R386). -/
def drainGroups (c : Nat) (s : State) : State :=
  forEach s.fab.groups (fun g s =>
    match s.liveOf? g.live with
    | some l => if l.ctx = c ∧ l.finished = none ∧ l.stopping = false then endGroup g.live fsAborted g.port none none s else s
    | none => s) s

/-- The REDUCE met a RESUME_PAGE with ABORT 1 (R284, R386). -/
def abortReduce (id : Nat) (s : State) : State :=
  match s.groupOf? id with
  | some g => endGroup id fsAborted g.port (some (0x24, 0)) none (updLive id (fun l => { l with firstFail := none }) s)
  | none => updLive id (fun l => { l with finished := some (0x24, 0) }) s

/-- The groups that use a port end when it goes DOWN (R368, R386). -/
def portGroups (p : Nat) (s : State) : State :=
  forEach s.fab.groups (fun g s =>
    let gone := match s.liveOf? g.live with
      | some l => l.stopping || l.finished.isSome
      | none => true
    if !gone && (g.port == p || (rdTree g.words).contains p) then failGroup g.live fsUnreachable p none s else s) s

/-! ### The values of a chunk (R384, R385, R387) -/

/-- Elements of a chunk as FP32 encodings (R115). -/
def chunkFp32 (fp32 : Bool) (bs : List Byte) : List Nat :=
  if fp32 then (chunks 4 bs.length bs).map bytesToNat
  else (chunks 2 bs.length bs).map (fun b => (Fmt.fp32.convert .rne (Fmt.bf16.decode (bytesToNat b))).1)

/-- The value of a node for one element from its inputs in ORDER (R384). -/
def nodeValue (fast : Bool) (xs : List Nat) : Nat :=
  if fast then
    match xs with
    | [] => 0
    | x :: l => l.foldl fp32Add x
  else exactSum (xs.map Fmt.fp32.decode)

/-- The rounding of an element of the result (R385). -/
def redRnd (l : Live) (g : Group) (e : Nat) : Rnd :=
  match redRound l with
  | 0 => .rne
  | 1 => { mode := .rtz, draw := 0 }
  | _ => { mode := .sr, draw := srDraw (rdSeed g.words) e }

/-- The bytes of the root's result for chunk `c` in OUT_FMT. -/
def rootBytes (l : Live) (g : Group) (c : Nat) (vs : List Nat) : List Byte :=
  vs.zipIdx.flatMap (fun v =>
    let f := if redOut32 l then Fmt.fp32 else Fmt.bf16
    natToBytes (if redOut32 l then 4 else 2) (f.convert (redRnd l g (128 * c + v.2)) (Fmt.fp32.decode v.1)).1)

/-- Chunk `c` of DST written: the targets have been found. -/
def writeChunk (id : Nat) (g : Group) (l : Live) (ts : List (Tgt × Nat × Nat)) (bs : List Byte) (m : Option Mark)
    (s : State) : State :=
  let r := ts.foldl (fun (st : (List Byte × Nat × Option Nat) × State) t =>
    let a := agentStore opRecord (.reduce g.port id) (fun _ => m) 0 (redClass l) (entMirror t.2.1) (t.2.2 + 1) 0 t.1
      (st.1.1.take t.2.2) st.2
    ((st.1.1.drop t.2.2, st.1.2.1 + a.1.1, st.1.2.2.or a.1.2), a.2)) ((bs, 0, none), s)
  let s1 := updGroup id (fun g => { g with
    wrote := g.wrote + 1, outst := g.outst + r.1.2.1, mark := g.mark.or m }) r.2
  match r.1.2.2 with
  | some d => updLive id (fun l => { l with
      firstFail := l.firstFail.or (some { cause := 0x25, detail := d, tile := 0xFFFF }) }) s1
  | none => s1

/-- The address and length in bytes of chunk `c` of SRC or DST. -/
def chunkSpan (base : Nat) (fp32 : Bool) (l : Live) (c : Nat) : Nat × Nat :=
  let e := if fp32 then 4 else 2
  ((base + 128 * c * e) % 2 ^ 55, chunkElems l c * e)

/-- Where a chunk's value goes: at the root to DST and down, elsewhere up to the parent (R383 to R385). -/
def sendChunk (id : Nat) (g : Group) (l : Live) (ts : List (Tgt × Nat × Nat)) (bs : List Byte) (vs : List Nat)
    (m : Option Mark) (s : State) : State :=
  let c := g.formed
  if rdRoot g.words then
    let out := rootBytes l g c vs
    forEach (rdChildren g.words) (fun p s => redData p l true (redOut32 l) c out m s) (writeChunk id g l ts out m s)
  else if (rdChildren g.words).isEmpty then redData (rdParent g.words) l false (redIn32 l) c bs m s
  else redData (rdParent g.words) l false true c (vs.flatMap (natToBytes 4)) m s

/-- Chunk `g.formed` of an armed node whose own input has been read: the value from the inputs in ORDER, and after
each 16 chunks a new RED_READY to the children (R383, R384, R387). -/
def formRead (id : Nat) (g : Group) (l : Live) (ts : List (Tgt × Nat × Nat)) (r : RangeRes × State) : State :=
  match r with
  | (.wait, s) => s
  | (.aborted, s) => abortReduce id s
  | (.ok bs m, s) =>
    let c := g.formed
    let ins := (rdOrder g.words).map (fun p =>
      if p = 16 then (chunkFp32 (redIn32 l) bs, m) else Table.get ([], none) g.inputs (c * 32 + p))
    let mark := (ins.filterMap (·.2)).head?
    let vs := (List.range (chunkElems l c)).map (fun e => nodeValue l.dotFast (ins.map (fun i => i.1.getD e 0)))
    let s3 := countEvent (blkPort g.port) 0x64 none none none 1 (updGroup id (fun g => { g with
      formed := c + 1,
      inputs := (rdChildren g.words).foldl (fun t p => Table.erase t (c * 32 + p)) g.inputs }) s)
    let s4 := sendChunk id g l ts bs vs mark s3
    if (c + 1) % 16 = 0 then
      match s4.groupOf? id with
      | some g' => forEach (rdChildren g.words) (fun p s => redReady p l g' s) s4
      | none => s4
    else s4

/-- Chunk `g.formed` of an armed node whose targets of DST have been found: the own input is read. -/
def formFound (id : Nat) (g : Group) (l : Live) (wt : Option (List (Tgt × Nat × Nat)) × Bool × State) : State :=
  match wt with
  | (none, ab, s) => if ab then abortReduce id s else s
  | (some ts, _, s) =>
    let src := chunkSpan (redVa l 5) (redIn32 l) l g.formed
    formRead id g l ts (readRange (Who.reduce g.port id) l.ctx (redClass l) src.1 src.2 s)

/-- An armed node can take its next chunk: every input has come, and its parent has given it a LIMIT (R383). -/
def Group.chunkReady (g : Group) (l : Live) : Bool :=
  g.armed && decide (g.formed < redChunks l) && (rdRoot g.words || decide (g.formed < g.limitUp)) &&
    (rdChildren g.words).all (fun p => (Table.find? g.inputs (g.formed * 32 + p)).isSome)

/-- An armed node takes its next chunk: once it can, the chunk's value is formed and sent up, or at the root written
to DST and sent down (R383 to R385, R387). -/
def formChunk (id : Nat) (s : State) : State :=
  match s.groupOf? id, s.liveOf? id with
  | some g, some l =>
    if g.chunkReady l then
      let dst := chunkSpan (redVa l 7) (redOut32 l) l g.formed
      formFound id g l (if rdRoot g.words then
        writeTargets (Who.reduce g.port id) l.ctx (chunkPieces dst.1 dst.2) s
      else (some [], false, s))
    else s
  | _, _ => s

/-! ### The commands -/

/-- A dispatched REDUCE that still runs. -/
def State.reduceOf? (s : State) (id : Nat) : Option Live :=
  match s.liveOf? id with
  | some l => if l.opcode == 3 && l.finished.isNone && !l.stopping then some l else none
  | none => none

/-- The reduction descriptor of a REDUCE has been read (R380): the checks of R381, and the group stands unarmed. -/
def reduceRead (id : Nat) (r : RangeRes × State) : State :=
  match r with
  | (.wait, s) => s
  | (.aborted, s) => abortReduce id s
  | (.ok bs m, s) =>
    match m with
    | some m => updLive id (fun l => { l with finished := some (m.cause, m.detail) }) s
    | none =>
      let ws := (chunks 4 64 bs).map bytesToNat
      if rdescOk ws && !(rdExec ws :: rdTree ws).any s.portDown then
        let g : Group := { live := id, port := rdExec ws, words := ws, armed := false, limitUp := 0, inputs := [],
                           formed := 0, wrote := 0, outst := 0, mark := none }
        { s with fab := { s.fab with groups := s.fab.groups ++ [g] } }
      else updLive id (fun l => { l with finished := some (0x25, remoteDetail fsFormat (rdExec ws)) }) s

/-- REDUCE: the reduction descriptor is read once (R380) and checked (R381); an armed group takes its next chunk. -/
def execReduce (id : Nat) (s : State) : Host.Outcome State Fault Refusal :=
  .next (match s.reduceOf? id, s.groupOf? id with
    | none, _ => s
    | some _, some _ => formChunk id s
    | some l, none => reduceRead id (readRange (.reduce 0 id) l.ctx (redClass l) (redVa l 11) 64 s))

/-- The conditions of R382. -/
def State.mayArm (s : State) (l : Live) (g : Group) : Bool :=
  let armed := s.fab.groups.filter (·.armed)
  let here := armed.filter (fun h => h.port == g.port)
  let kids := (here.map (fun h => (rdChildren h.words).length)).foldl (· + ·) 0
  !armed.any (fun h => match s.liveOf? h.live with
    | some k => redGid k == redGid l
    | none => false) &&
  decide (here.length < 8) && decide (kids + (rdChildren g.words).length ≤ 32) &&
  !s.fab.groups.any (fun h => decide (h.live < g.live) && h.port == g.port && !h.armed && (s.reduceOf? h.live).isSome)

/-- REDUCE_ARM: the group is armed at its executing cairn, and its children get RED_READY (R382, R383). -/
def execReduceArm (id : Nat) (s : State) : Host.Outcome State Fault Refusal :=
  .next (match s.reduceOf? id, s.groupOf? id with
    | some l, some g =>
      if !g.armed && s.mayArm l g then
        let s1 := syncGroups g.port (updGroup id (fun g => { g with armed := true }) s)
        forEach (rdChildren g.words) (fun p s => redReady p l g s) s1
      else s
    | _, _ => s)

/-- RED_READY_REPEAT: the latest RED_READY is sent to a child from which nothing has come for 10 µs (R383). -/
def execRedReadyRepeat (id : Nat) (p : Fin 16) (s : State) : Host.Outcome State Fault Refusal :=
  .next (match s.reduceOf? id, s.groupOf? id with
    | some l, some g =>
      if g.armed && (rdChildren g.words).contains p.val && decide (g.formed < redChunks l) then redReady p l g s else s
    | _, _ => s)

/-- The armed group of a GROUP_ID. -/
def State.armedGroup? (s : State) (gid : Nat) : Option (Group × Live) :=
  s.fab.groups.findSome? (fun g =>
    match s.reduceOf? g.live with
    | some l => if g.armed && redGid l == gid then some (g, l) else none
    | none => none)

/-- A message is discarded and counted (R363, R365, R372, R386). -/
def discardKfl (n : Nat) (s : State) : State := rcCount (rFabPortNErrors n) 21 12 1 s

/-- RED_READY that has arrived on port `n` (R383). -/
def takeRedReady (n : Nat) (m : KflMsg) (s : State) : State :=
  match s.armedGroup? (bits m.w2 15 0) with
  | none => s
  | some (g, l) =>
    if rdRoot g.words ∨ rdParent g.words ≠ n then s
    else if (m.payload.headD 0).toNat % 2 ^ 128 ≠ readyParams l g then
      failGroup g.live fsMismatch (rdParent g.words) none s
    else updGroup g.live (fun g => { g with limitUp := max g.limitUp (bits m.w3 20 0) }) s

/-- RED_ABORT that has arrived on port `n` (R386). -/
def takeRedAbort (n : Nat) (m : KflMsg) (s : State) : State :=
  match s.armedGroup? (bits m.w2 15 0) with
  | none => s
  | some (g, _) =>
    if (rdTree g.words).contains n then failGroup g.live (bits m.w2 19 16) n (some n) s else s

/-- A down chunk whose targets of DST have been sought: written and sent on, or it waits (R385). -/
def downFound (g : Group) (l : Live) (c : Nat) (out : List Byte) (mark : Option Mark)
    (wt : Option (List (Tgt × Nat × Nat)) × Bool × State) : Option State × State :=
  match wt with
  | (none, ab, s) => if ab then (some (abortReduce g.live s), s) else (none, s)
  | (some ts, _, s) =>
    (some (forEach (rdChildren g.words) (fun p s => redData p l true (redOut32 l) c out mark s)
      (writeChunk g.live g l ts out mark s)), s)

/-- RED_DATA that has arrived on port `n`: the state after it, or none while a down chunk waits for its
translation (R384, R385). -/
def takeRedData (n : Nat) (m : KflMsg) (s : State) : Option State × State :=
  let c := bits m.w3 20 0
  let mark := (m.marks.filterMap (fun x => x)).head?
  match s.armedGroup? (bits m.w2 15 0) with
  | none => (some (discardKfl n s), s)
  | some (g, l) =>
    if redChunks l ≤ c then (some (discardKfl n s), s)
    else
      let bs := m.payload.flatMap (fun u => natToBytes 64 u.toNat)
      if bit m.w2 16 then
        if rdRoot g.words ∨ rdParent g.words ≠ n ∨ c ≠ g.wrote then (some (discardKfl n s), s)
        else
          let dst := chunkSpan (redVa l 7) (redOut32 l) l c
          downFound g l c (bs.take dst.2) mark
            (writeTargets (.reduce g.port g.live) l.ctx (chunkPieces dst.1 dst.2) s)
      else if !(rdChildren g.words).contains n || decide (c < g.formed) || decide (g.limit ≤ c) then
        (some (discardKfl n s), s)
      else
        let e := if m.fmt = 0 then 4 else 2
        (some (formChunk g.live (updGroup g.live (fun g => { g with
          inputs := Table.set g.inputs (c * 32 + n) (chunkFp32 (m.fmt == 0) (bs.take (chunkElems l c * e)), mark) }) s)), s)

/-- REDUCE_TIMEOUT (R386). -/
def execReduceTimeout (id : Nat) (s : State) : Host.Outcome State Fault Refusal :=
  .next (match s.reduceOf? id, s.groupOf? id with
    | some _, some g => if g.armed then failGroup id fsTimeout g.port none s else s
    | _, _ => s)

/-- Down chunks of a group that its children have not acknowledged under R360. -/
def State.downUnacked (s : State) (l : Live) (g : Group) : Bool :=
  (rdChildren g.words).any (fun p =>
    let mine (m : KflMsg) : Bool := m.msg == 0x21 && m.w2 == redGid l + 2 ^ 16
    let ours (h : Nat) : Bool := bits h 7 0 == 0x21 && bits h 95 64 == redGid l + 2 ^ 16
    (s.port p).held.any mine || (s.port p).tx.any (fun x => x.tail.any ours) || (s.port p).unacked.any (fun f => f.ends.any ours))

/-- REDUCE_COMPLETE (R385, R387): all of DST is accepted and every down chunk acknowledged. -/
def execReduceComplete (id : Nat) (s : State) : Host.Outcome State Fault Refusal :=
  .next (match s.reduceOf? id, s.groupOf? id with
    | some l, some g =>
      if g.armed && g.wrote == redChunks l && g.outst == 0 && !s.downUnacked l g then
        let fail := match l.firstFail with
          | some f => (f.cause, f.detail)
          | none => match g.mark with
            | some m => (m.cause, m.detail)
            | none => (0, 0)
        syncGroups g.port (updLive id (fun l => { l with finished := some fail })
          { s with fab := { s.fab with groups := s.fab.groups.filter (fun h => h.live != id) } })
      else s
    | _, _ => s)

end Sys2Proof.Machine
end

