-- ==== Sys2Proof/Machine/Fabric.lean ====
section
/-!
DEFINITION. The fabric: the KFL link layer (R359 to R361), lanes and retraining (R366 to R368), nodes and routing
(R369 to R373), remote requests and their answers (R365, R374, R377), and the window table (R375, R376, R378).
-/
namespace Sys2Proof.Machine

/-! ### Capacity and state of a port -/

/-- FAB_PORT_n_STATUS.STATE: 0 UP, 1 RETRAINING, 2 DOWN. -/
def State.portState (s : State) (n : Nat) : Nat := s.rf (rFabPortNStatus n) 1 0

/-- FAB_PORT_n_STATUS.WIDTH. -/
def State.portWidth (s : State) (n : Nat) : Nat := s.rf (rFabPortNStatus n) 5 2

/-- The capacities of a port's two directions (R350). -/
def syncPortCap (n : Nat) (s : State) : State :=
  let c := s.portWidth n * 168
  setCap (40 + n) c (setCap (24 + n) c s)

/-- The widest width whose first lane group in order of preference holds no failing lane of either end (R357,
R367); `ok` has bit l set where lane l can be kept. -/
def planWidth (ok : Nat) : Nat :=
  let good (m : Nat) : Bool := ok &&& m == m
  if good 0xFF then 8
  else if good 0x0F || good 0xF0 then 4
  else if good 0x03 || good 0x0C || good 0x30 || good 0xC0 then 2
  else 0

/-! ### Answers and routing (R369 to R372) -/

/-- The answer to a request from another package, by the local table; discarded where that drops it. -/
def answerKfl (m : KflMsg) (status : Nat) (units : List UnitData) (marks : List (Option Mark)) (s : State) : State :=
  match s.originOut? m.src with
  | none => s
  | some out =>
    let code := if m.msg = 1 ∨ m.msg = 4 then 0x11 else 0x12
    kflSend out { s.kflHead code units.length m.cls m.src (m.w2 % 2 ^ 16 + 2 ^ 16 * status) 0 with
      payload := units, marks := marks } s

/-- A message that arrived on port `n` is dropped (R372 step 3); a request of this package whose entry has ended
(R365) needs no answer. -/
def dropKfl (n : Nat) (m : KflMsg) (s : State) : State :=
  let p := n % 16
  let noted := (s.port p).unreachNote.contains m.dst
  let s1 := if n < 16 then discardKfl n s else s
  let s2 := if n < 16 ∧ noted = false then
      opRecord 0x0605 false [n, m.dst] (updPort p (fun x => { x with unreachNote := x.unreachNote ++ [m.dst] }) s1)
    else s1
  let live := (Table.find? (s.port (bits m.w2 15 12)).table (bits m.w2 11 0)).isSome
  if m.msg < 0x10 ∧ (m.src ≠ s.rf rFabNode 15 0 ∨ live = true) then answerKfl m fsUnreachable [] [] s2 else s2

/-- Where a message that arrived on port `n` (16: from this package) goes: whether it is delivered here, and the state
after it was sent on or dropped (R369, R370, R372). -/
def routeKfl (n : Nat) (m : KflMsg) (s : State) : Bool × State :=
  if n = 16 then (true, s)
  else if s.rf rFabNode 15 0 = 0xFFFF then (false, dropKfl n m s)
  else if m.dst = s.rf rFabNode 15 0 then (true, s)
  else if !s.rb rFabCtrl 14 then (false, dropKfl n m s)
  else match s.routeOut? n m.dst with
    | none => (false, dropKfl n m s)
    | some out =>
      if out = 16 then (true, s)
      else if m.hops = 0 then (false, dropKfl n m s)
      else
        let up := m.vl == 1 || bit (s.route n m.dst) 5
        (false, kflSend out { m with hops := m.hops - 1, vl := if up then 1 else 0 } s)

/-! ### HELLO (R371) -/

/-- The identity digest: SHA-384 of the device identity public key. -/
def State.identityDigest (s : State) : Nat :=
  if s.sec.otp.keysPresent then (Config.sha384 (4 :: Config.identityPublic s.sec.otp.idkPriv)).toNat else 0

/-- HELLO on a port. -/
def sendHello (n : Nat) (s : State) : State :=
  redSend n { s.redHead n 0x31 1 0 (n + s.portWidth n % 16 * 16) 0 with
    payload := [BitVec.ofNat 512 s.identityDigest], marks := [none] } s

/-- A HELLO that has arrived on port `n`. -/
def takeHello (n : Nat) (m : KflMsg) (s : State) : State :=
  let d := (m.payload.headD 0).toNat % 2 ^ 384
  let word (k : Nat) : Nat := d / 2 ^ (32 * k) % 2 ^ 32
  let known := (s.port n).peerNode
  let same := known == some m.src && (List.range 12).all (fun k => s.reg (rFabPortNPeerIdK n k) == word k)
  let s1 := forEach (List.range 12) (fun k s => setReg (rFabPortNPeerIdK n k) (word k) s) s
  let s2 := setRf (rFabPortNPeer n) 19 0 (m.src + 2 ^ 16 * bits m.w2 3 0)
    (setRf (rFabPortNStatus n) 14 14 1 (updPort n (fun x => { x with peerNode := some m.src }) s1))
  if known.isSome && !same then opRecord 0x0606 true [n, m.src] s2 else s2

/-! ### Requests to other packages end (R365, R377) -/

/-- An entry of a port's table ends with a status; `units` and `marks` hold the units read. -/
def endRequest (p e status : Nat) (units : List UnitData) (marks : List (Option Mark)) (s : State) : State :=
  match Table.find? (s.port p).table e with
  | none => s
  | some q =>
    let s1 := updPort p (fun x => { x with table := Table.erase x.table e }) s
    let d := remoteDetail status p
    if q.write then ackWrite q.who (if status = 0 then none else some d) s1
    else forEach (List.range q.units) (fun i s =>
      let good := status == 0 || (status == fsPoisoned && q.units == units.length)
      match good, units[i]? with
      | true, some u => arrive q.who (tgtAdd (64 * i) q.key) u (marks.getD i none) s
      | true, none => arrive q.who (tgtAdd (64 * i) q.key) 0 (some (remoteMark (remoteDetail fsFormat p))) s
      | false, _ => arrive q.who (tgtAdd (64 * i) q.key) 0 (some (remoteMark d)) s) s1

/-! ### A port goes DOWN, and trains again (R367, R368) -/

/-- A port goes DOWN (R368): its requests end, messages for it are dropped, its reduction groups end, its capacities
read zero, and one FABRIC_PORT_DOWN record is raised. -/
def downPort (n cause : Nat) (s : State) : State :=
  if s.portState n = 2 then s
  else
    let s1 := setRf (rFabPortNStatus n) 5 0 2 (setRf (rFabPortNStatus n) 14 14 0 s)
    let s2 := rewriteUnits [(unitKey uPort n, fun u => { u with status := stDown, cause := cause, width := 0 })] s1
    let held := (s2.port n).held
    let s3 := updPort n (fun x => { x with
      held := [], tx := [], part := [], owed := [], unacked := [], txSeq := 0, rxSeq := 0, naks := 0, naksRx := 0, gap := false, cause := cause,
      credits := [0, 0, 0, 0, 0, 0, 0] }) s2
    let s4 := serviceRequest uPort n cause 1 (opRecord 0x0602 true [n, cause] (syncPortCap n s3))
    let s5 := forEach ((s4.port n).table.map (·.1)) (fun e s => endRequest n e fsUnreachable [] [] s) s4
    portGroups n (forEach held (fun m s => dropKfl n m s) s5)

/-- A retrain starts: values that wait for it take effect, messages are held and LANE_PLAN goes out (R367 steps 1 and 2,
R527). A port whose DISABLE is in force is DOWN instead. -/
def startRetrain (n cause : Nat) (s : State) : State :=
  let s1 := applyKey .linkRetrain (rFabPortNCtrl n) s
  if s1.rff (rFabPortNCtrl n) 1 1 = 1 then downPort n ccDisabled s1
  else if s1.portState n = 1 then s1
  else
    let ok := s1.rf (rFabPortNStatus n) 13 6
    let s2 := updPort n (fun x => { x with widthBefore := s1.portWidth n, cause := cause, peerPlan := 0xFF }) s1
    let s3 := setRf (rFabPortNStatus n) 1 0 1 s2
    let plan := s3.redHead n 0x32 0 0 ok 0
    if (s2.port n).widthBefore = 0 then s3
    else kflFlush n (updPort n (fun x => { x with held := plan :: x.held.filter (fun m => m.msg != 0x32) }) s3)

/-- A lane is marked failing and the port retrains (R366, R367 step 1). -/
def failLane (n l : Nat) (s : State) : State :=
  if bit (s.rf (rFabPortNStatus n) 13 6) l then
    startRetrain n ccLane (setRf (rFabPortNStatus n) (6 + l) (6 + l) 0 s)
  else s

/-- RETRAIN written by the operator: every failing mark is cleared (R367). -/
def retrainPort (n : Nat) (s : State) : State :=
  startRetrain n ccNone (setRf (rFabPortNStatus n) 13 6 0xFF s)

/-- The initial grant of the hub's credits (R361), index by index. -/
def kflGrants : List (Nat × Nat) := [(0, 1024), (1, 1024), (2, 2048), (3, 2048), (4, 1984), (6, 64)]

/-- The initial credits are granted in the first flits (R361). -/
def grantUnits (n : Nat) (s : State) : State :=
  forEach (List.range 3) (fun _ s => sendFabIdle n false s) (updPort n (fun x => { x with owed := kflGrants }) s)

/-- Every unacknowledged flit is sent again in order, with the ACK of now (R360 step 2). -/
def resendFab (n : Nat) (s : State) : State :=
  forEach (s.port n).unacked (fun f s => emit (.kfl n (kflFlitBytes { f with ack := s.lastFlit n })) s) s

/-- The port has trained (R367 steps 4 and 5): at its new width it resends and sends what it held. -/
def retrained (n : Nat) (s : State) : State :=
  let x := s.port n
  let w := planWidth (s.rf (rFabPortNStatus n) 13 6 &&& x.peerPlan)
  if s.portState n ≠ 1 then s
  else if w = 0 then downPort n ccLane s
  else
    let s1 := setRf (rFabPortNStatus n) 14 14 0 (setRf (rFabPortNStatus n) 5 0 (w * 4) s)
    let s2 := resendFab n (updPort n (fun x => { x with held := x.held.filter (fun m => m.msg != 0x32) }) s1)
    let s3 := if x.widthBefore = 0 then grantUnits n s2 else s2
    let s4 := rewriteUnits [(unitKey uPort n, fun u => { u with
      status := if w = 8 then stGood else stDegraded, cause := if w = 8 then ccNone else ccLane, width := w })]
      (kflFlush n (sendHello n (unisolate uPort n s3)))
    let s5 := syncPortCap n s4
    if x.widthBefore < w then opRecord 0x0603 true [n, w] s5
    else serviceRequest uPort n (if x.cause = ccNone then ccLane else x.cause) 1 (opRecord 0x0601 true [n, w] s5)

/-! ### The link layer (R359 to R361) -/

/-- The receive fill of a port in percent: the units held of its buffer of 8,192 (R361). -/
def State.fabFill (s : State) (n : Nat) : Nat :=
  ((s.fab.arriving.filter (fun e => e.1 == n)).map (fun e => 1 + e.2.len)).sum * 100 / 8192

/-- The MSG codes of R363. -/
def kflKnown (m : Nat) : Bool :=
  [0x01, 0x02, 0x03, 0x04, 0x11, 0x12, 0x21, 0x22, 0x23, 0x31, 0x32].contains m

/-- Credits that the peer returns are added (R359, R361). -/
def kflCredits (n : Nat) (credits : List (Nat × Nat)) (s : State) : State :=
  updPort n (fun x => { x with
    credits := credits.foldl (fun l c => if c.1 < 7 then l.set c.1 (l.getD c.1 0 + c.2) else l) x.credits }) s

/-- Unacknowledged flits up to and including `ack` are forgotten. -/
def kflAcked (n ack : Nat) (s : State) : State :=
  updPort n (fun x =>
    let rest := match x.unacked.findIdx? (fun f => f.seq == ack) with
      | some i => x.unacked.drop (i + 1)
      | none => x.unacked
    { x with
      unacked := rest,
      naksRx := if rest.length < x.unacked.length then 0 else x.naksRx }) s

/-- An acknowledgement; what it lets go leaves. -/
def kflAck (n ack : Nat) (s : State) : State := kflFlush n (kflAcked n ack s)

/-- A NAK counts on the link (R389, R509). -/
def countNak (n : Nat) (s : State) : State :=
  countEvent (blkPort n) 0x63 none none none 1 (rcCount (rFabPortNErrors n) 11 0 1 s)

/-- On NAK every flit from ACK + 1 is sent again, before what has waited; the sixteenth in succession ends the link
(R360). -/
def takeFabNak (n ack : Nat) (s : State) : State :=
  let s1 := updPort n (fun x => { x with naksRx := x.naksRx + 1 }) (kflAcked n ack (countNak n s))
  if 16 ≤ (s1.port n).naksRx then startRetrain n ccLink (updPort n (fun x => { x with naksRx := 0 }) s1)
  else kflFlush n (resendFab n s1)

/-- A flit that fails its check is discarded with NAK (R360 step 1). -/
def badFlit (n : Nat) (s : State) : State :=
  let s1 := sendFabIdle n true
    (updPort n (fun x => { x with naks := x.naks + 1, gap := true }) (countNak n s))
  if 16 ≤ (s1.port n).naks then startRetrain n ccLink (updPort n (fun x => { x with naks := 0, gap := false }) s1)
  else s1

/-- A message has arrived whole: it waits in its counter's buffer, or is discarded if its code is reserved (R361, R363). -/
def bufferKfl (n : Nat) (m : KflMsg) (s : State) : State :=
  if kflKnown m.msg then
    countUnits (blkPort n) 1 m.payload.length { s with fab := { s.fab with arriving := s.fab.arriving ++ [(n, m)] } }
  else oweUnits n (kflIndex m.msg m.vl) (1 + m.len) (discardKfl n s)

/-- A MSG flit in its turn: the messages that end in it arrive, and the slots of one that goes on are kept (R359). -/
def deliverKfl (n : Nat) (f : KflFlit) (s : State) : State :=
  let s2 := countEvent (blkPort n) 0x61 none none none 1
    (updPort n (fun x => { x with rxSeq := (x.rxSeq + 1) % 2 ^ 16, naks := 0, gap := false }) s)
  let old := (s.port n).part
  let r := kflParse 72 (if old.isEmpty then f.slots.drop f.first else old ++ f.slots)
  let s3 := updPort n (fun x => { x with part := r.2 }) s2
  let s4 := if (s3.port n).rxSeq % 64 = 0 then sendFabIdle n false s3 else s3
  forEach r.1 (bufferKfl n) (kflFlush n (kflCredits n f.credits s4))

/-- FABRIC_FLIT (R359, R360): a flit arrives, or what the code of the port's sublayer could not correct. A flit of a reserved
type is ignored. -/
def execFabricFlit (n : Fin 16) (w : LaneFlit) (s : State) : Host.Outcome State Fault Refusal :=
  .next (
    if s.portDown n then s
    else match (if w.codeword then kflFlitOf? w.bytes else none) with
      | none => badFlit n s
      | some (ty, f) =>
        if 2 ≤ ty then s
        else
          let s1 := if f.nak then takeFabNak n f.ack s else kflAck n f.ack s
          if f.idle then kflFlush n (kflCredits n f.credits s1)
          else if f.seq = (s1.port n).rxSeq then deliverKfl n f s1
          else s1)

/-- FABRIC_NAK (R360 steps 2 and 5). -/
def execFabricNak (n : Fin 16) (ack : BitVec 16) (s : State) : Host.Outcome State Fault Refusal :=
  .next (if s.portDown n then s else takeFabNak n ack.toNat s)

/-- FABRIC_ACK_TIMER (R360 step 3). -/
def execFabricAckTimer (n : Fin 16) (s : State) : Host.Outcome State Fault Refusal :=
  .next (if s.portDown n then s else sendFabIdle n false s)

/-- The first message of its credit counter that has arrived on port `n` with a code, and the state in which it has left
the buffer and its credits are owed to the peer (R361). -/
def kflTake (n code : Nat) (s : State) : Option (KflMsg × State) :=
  let l := s.fab.arriving
  match l.zipIdx.find? (fun e => e.1.1 == n && e.1.2.msg == code && !(l.take e.2).any (fun a =>
      a.1 == n && kflIndex a.2.msg a.2.vl == kflIndex code e.1.2.vl)) with
  | none => none
  | some e =>
    let m := e.1.2
    let s1 := { s with fab := { s.fab with arriving := l.eraseIdx e.2 } }
    some (m, if n < 16 then oweUnits n (kflIndex m.msg m.vl) (1 + m.len) s1 else s1)

/-! ### Windows (R375, R376, R378) -/

/-- OFFSET of a request. -/
def kflOffset (m : KflMsg) : Nat := bits m.w2 31 28 + bits m.w3 31 0 * 16
/-- WINDOW of a request. -/
def kflWindow (m : KflMsg) : Nat := bits m.w2 27 16

/-- An admitted request changed. -/
def updWinReq (p id : Nat) (f : WinReq → WinReq) (s : State) : State :=
  updPort p (fun x => { x with winReqs := x.winReqs.map (fun r => if r.id = id then f r else r) }) s

/-- An admitted request. -/
def State.winReq? (s : State) (p id : Nat) : Option WinReq := (s.port p).winReqs.find? (fun r => r.id == id)

/-- An admitted request is answered. -/
def answerWin (p : Nat) (r : WinReq) (status : Nat) (units : List UnitData) (marks : List (Option Mark)) (s : State) :
    State :=
  answerKfl r.msg status units marks
    (updPort p (fun x => { x with winReqs := x.winReqs.filter (fun q => q.id != r.id) }) s)

/-- The access kind of a request. -/
def kflAccess (msg : Nat) : AccKind := if msg = 1 then .read else if msg = 4 then .atomic else .write

/-- The target of byte `off` of an admitted request. -/
def winTarget (p : Nat) (r : WinReq) (off : Nat) (s : State) : XOut × State :=
  match r.ctx with
  | some c => xlate (.fabWin p r.win r.id) c ((r.addr + off) % 2 ^ 55) (kflAccess r.msg.msg) s
  | none => (.ok (paTarget (r.addr + off)) 0, s)

/-- A dead target for the answer ABSENT (R341, R376). -/
def State.deadTarget (s : State) (t : Tgt) : Bool :=
  match t with
  | .stacked k a => s.homeDead (lineKey k a)
  | .site m o => !(s.siteServes m && s.siteExposes m o)
  | .unassigned _ => true
  | _ => false

/-- Unit `i` of an admitted read is asked for. -/
def winRead (p id i : Nat) (s : State) : State :=
  match s.winReq? p id with
  | none => s
  | some r =>
    if (Table.find? r.got i).isSome then s
    else match winTarget p r (64 * i) s with
      | (.ok t _, s1) =>
        if s1.deadTarget t then answerWin p r fsAbsent [] [] s1
        else match agentRead opRecord (.fabWin p r.win r.id) t (r.msg.len - 1 - i) r.cls s1 with
          | (some v, s2) => updWinReq p id (fun r => { r with got := Table.set r.got i v }) s2
          | (none, s2) => s2
      | (.aborted, s1) => answerWin p r fsAborted [] [] s1
      | (_, s1) => s1

/-- Unit `i` of an admitted write is written. -/
def winWrite (p id i : Nat) (s : State) : State :=
  match s.winReq? p id with
  | none => s
  | some r =>
    if !r.todo.contains i then s
    else match winTarget p r (64 * i) s with
      | (.ok t ent, s1) =>
        let finish (o f : Nat) (s : State) : State := updWinReq p id (fun r => { r with
          todo := r.todo.filter (· != i), outst := r.outst + o, fail := if r.fail = 0 then f else r.fail }) s
        let d := r.msg.payload.getD i 0
        let m := r.msg.marks.getD i none
        let mask := if r.msg.msg = 3 then (r.msg.payload.getD 1 0).toNat % 2 ^ 64 else fullMask
        let who := Who.fabWin p r.win r.id
        if s1.deadTarget t then finish 0 fsAbsent s1
        else
          let res := match t with
            | .stacked k a =>
              let u := a / 64 % 2
              storeLine opRecord who (lineKey k a) (BitVec.ofNat 1024 (d.toNat * 2 ^ (512 * u))) (mask * 2 ^ (64 * u))
                (if u = 0 then m else none) (if u = 0 then none else m) (hintOf r.hint) (entMirror ent) s1
            | _ => storeUnit opRecord who t d mask m r.cls s1
          match res.1 with
          | .done => finish 0 0 res.2
          | .posted => finish 1 0 res.2
          | .wait => res.2
          | .failed e => finish 0 (e % 16) res.2
      | (.aborted, s1) => answerWin p r fsAborted [] [] s1
      | (_, s1) => s1

/-- An admitted atomic goes on. -/
def winAtomic (p : Nat) (r : WinReq) (s : State) : State :=
  let pay := r.msg.payload.getD 0 0
  let op := bits pay.toNat 263 256
  let w := bits pay.toNat 271 264
  let who := Who.fabWin p r.win r.id
  let answer (v : UnitData × Option Mark) (s : State) : State :=
    answerWin p r (if v.2.isSome then fsPoisoned else 0) [v.1] [v.2] s
  match winTarget p r 0 s with
  | (.ok (.stacked k a) _, s1) =>
    let key := Tgt.stacked k (a / 64 * 64)
    if !atomicOk (a % 128) w op then answerWin p r fsUnsupported [] [] s1
    else if s1.homeDead (lineKey k a) then answerWin p r fsAbsent [] [] s1
    else match takeArrival who key s1 with
      | some (v, s2) => answer v s2
      | none =>
        if s1.plz.asked.contains (who, key) then s1
        else askUnits who key 1 (postTxn (.atomic (a % 128) w op (bits pay.toNat 127 0) (bits pay.toNat 255 128))
          (.agent who (a / 64 % 2)) (lineKey k a) 0 0 none none 0 false s1)
  | (.ok (.remote node win off) _, s1) =>
    match agentAtomic who node win off r.cls pay s1 with
    | (some v, s2) => answer v s2
    | (none, s2) => s2
  | (.ok t _, s1) => answerWin p r (if s1.deadTarget t && (match t with
      | .site _ _ => false
      | _ => true) then fsAbsent else fsUnsupported) [] [] s1
  | (.aborted, s1) => answerWin p r fsAborted [] [] s1
  | (_, s1) => s1

/-- An admitted request goes on as far as it can. -/
def serveWin (p id : Nat) (s : State) : State :=
  match s.winReq? p id with
  | none => s
  | some r =>
    if r.msg.msg = 4 then winAtomic p r s
    else if r.msg.msg = 1 then
      let n := r.msg.len
      let s1 := forEach (List.range n) (fun i s => winRead p id i s) s
      match s1.winReq? p id with
      | none => s1
      | some r =>
        if r.got.length = n then
          let ms := r.got.map (fun e => e.2.2)
          answerWin p r (if ms.any (·.isSome) then fsPoisoned else 0) (r.got.map (fun e => e.2.1)) ms s1
        else s1
    else
      let s1 := forEach r.todo (fun i s => winWrite p id i s) s
      match s1.winReq? p id with
      | none => s1
      | some r => if r.todo.isEmpty && r.outst == 0 then answerWin p r r.fail [] [] s1 else s1

/-- Every admitted request of every port goes on. -/
def serveWins (s : State) : State :=
  forEach (List.range 16) (fun p s => forEach ((s.port p).winReqs.map (·.id)) (fun i s => serveWin p i s) s) s

/-- A PHYS range lies wholly in one alias or in one site aperture (R375). -/
def fabRangeOk (base size : Nat) : Bool :=
  match aliasOf? base with
  | some (al, o) => decide (o + size ≤ aliasSize al)
  | none => match paTarget base with
    | .site _ o => decide (o + size ≤ 2 ^ 40)
    | _ => false

/-- The bytes an arriving request accesses. -/
def kflSize (m : KflMsg) : Nat :=
  if m.msg = 3 then 64 else if m.msg = 4 then bits (m.payload.getD 0 0).toNat 271 264 else 64 * m.len

/-- The checks of R376 for a request and its window's entry. -/
def State.winAdmits (s : State) (m : KflMsg) : Bool :=
  let w := kflWindow m
  let ctrl := s.reg (rFabWinWCtrl w)
  let src := s.reg (rFabWinWSrc w)
  let base := 2 ^ 32 * s.rf (rFabWinWBaseHi w) 22 0 + 2 ^ 16 * s.rf (rFabWinWBaseLo w) 31 16
  let size := 65536 * s.rf (rFabWinWSize w) 20 0
  let right := if m.msg = 1 then 2 else if m.msg = 4 then 4 else 3
  let off := kflOffset m
  let z := kflSize m
  (bits ctrl 1 0 == 2 || (bits ctrl 1 0 == 1 && fabRangeOk base size)) &&
  (m.src &&& bits src 31 16) == (bits src 15 0 &&& bits src 31 16) && bit ctrl right &&
  decide (0 < size) && decide (off + z ≤ size) &&
  (if m.msg = 4 then decide (off / 64 = (off + z - 1) / 64) && (z == 0 || off % z == 0) else off % 64 == 0)

/-- A request for this node that arrived on port `n` is checked and admitted, or denied (R376). -/
def admitKfl (n : Nat) (m : KflMsg) (s : State) : State :=
  let p := n % 16
  let w := kflWindow m
  if s.winAdmits m then
    let ctrl := s.reg (rFabWinWCtrl w)
    let base := 2 ^ 32 * s.rf (rFabWinWBaseHi w) 22 0 + 2 ^ 16 * s.rf (rFabWinWBaseLo w) 31 16
    let id := (s.port p).nextWin
    let r : WinReq :=
      { id := id, msg := m, win := w, ctx := if bits ctrl 1 0 = 2 then some (bits ctrl 24 13) else none,
        addr := base + kflOffset m, hint := bits ctrl 12 9, cls := bits ctrl 8 5, fenced := false,
        todo := if m.msg = 3 then [0] else List.range m.len, outst := 0, fail := 0, got := [] }
    serveWin p id (updPort p (fun x => { x with winReqs := x.winReqs ++ [r], nextWin := id + 1 }) s)
  else
    let s1 := countEvent (blkPort p) 0x65 none none none 1 (rcCount (rFabPortNErrors p) 31 22 1 s)
    answerKfl m fsDenied [] [] (opRecord 0x0604 false ([p, m.src, w] ++ words2 (kflOffset m)) s1)

/-- The next request of a code on port `n` is routed, or admitted here. -/
def takeKflReq (n code : Nat) (s : State) : State :=
  match kflTake n code s with
  | none => s
  | some (m, s1) =>
    match routeKfl n m s1 with
    | (true, s2) => admitKfl n m s2
    | (false, s2) => s2

/-- KFL_RD (R376). Port 16 stands for what this package sends to itself. -/
def execKflRd (n : Fin 17) (s : State) : Host.Outcome State Fault Refusal := .next (takeKflReq n 0x01 s)
/-- KFL_WR (R376). -/
def execKflWr (n : Fin 17) (s : State) : Host.Outcome State Fault Refusal := .next (takeKflReq n 0x02 s)
/-- KFL_WR_PART (R376). -/
def execKflWrPart (n : Fin 17) (s : State) : Host.Outcome State Fault Refusal := .next (takeKflReq n 0x03 s)
/-- KFL_ATOMIC (R376). -/
def execKflAtomic (n : Fin 17) (s : State) : Host.Outcome State Fault Refusal := .next (takeKflReq n 0x04 s)

/-- An answer finds its entry, or is discarded and counted (R365). -/
def takeAnswer (n code : Nat) (s : State) : State :=
  match kflTake n code s with
  | none => s
  | some (m, s1) =>
    match routeKfl n m s1 with
    | (false, s2) => s2
    | (true, s2) =>
      let p := bits m.w2 15 12
      let e := bits m.w2 11 0
      match Table.find? (s2.port p).table e with
      | some q =>
        if q.write = decide (code = 0x12) then endRequest p e (bits m.w2 19 16) m.payload m.marks s2
        else discardKfl (if n < 16 then n else p) s2
      | none => discardKfl (if n < 16 then n else p) s2

/-- FABRIC_RSP_TIMEOUT: an entry has gone RSP_TIMEOUT without an answer (R365). -/
def timeoutRequest (n e : Nat) (s : State) : State := endRequest n e fsTimeout [] [] s

/-- FAULT_WAIT_EXPIRY: an admitted request stalled on a fault for FAULT_WAIT leaves the entry and is answered ABORTED
(R376). -/
def expireWin (p id : Nat) (s : State) : State :=
  match s.winReq? p id with
  | none => s
  | some r =>
    match r.ctx with
    | none => s
    | some c =>
      if s.isStalled (.fabWin p r.win id) c then
        answerWin p r fsAborted [] [] (leaveFaults (fun w _ => w == .fabWin p r.win id) s)
      else s

/-! ### Neighbours and timers -/

/-- HELLO (R371). -/
def execHello (n : Fin 16) (s : State) : Host.Outcome State Fault Refusal :=
  .next (match kflTake n 0x31 s with
    | some (m, s1) => takeHello n m s1
    | none => s)

/-- HELLO_TIMER: 1 ms has passed (R371); drops may be recorded again (R372). -/
def execHelloTimer (n : Fin 16) (s : State) : Host.Outcome State Fault Refusal :=
  let s1 := updPort n (fun x => { x with unreachNote := [] }) s
  .next (if s1.portState n = 0 then sendHello n s1 else s1)

/-- LANE_PLAN: the lanes that the peer can keep; a port that is UP joins the retrain (R367). -/
def lanePlanEvent (n : Fin 16) (s : State) : Host.Outcome State Fault Refusal :=
  .next (match kflTake n 0x32 s with
    | some (m, s1) => updPort n (fun x => { x with peerPlan := bits m.w2 7 0 }) (startRetrain n ccLane s1)
    | none => s)

/-- LANE_ERROR_WINDOW: a lane's window of 2³⁶ symbols ends with `errors` symbol errors; `codewords` were uncorrectable on
the port, and `most` says that this lane had the most corrected symbols (R366, R424). -/
def laneErrorWindowEvent (n : Fin 16) (l : Fin 8) (errors : BitVec 37) (codewords : BitVec 32) (most : Bool)
    (s : State) : Host.Outcome State Fault Refusal :=
  let s1 := countEvent (blkPort n) 0x62 none none none errors.toNat s
  .next (
    if s1.portDown n then s1
    else if 2 ^ 36 < errors.toNat * 10000 ∨ (most = true ∧ s1.portWidth n * 64 < codewords.toNat * 544) then
      failLane n l s1
    else s1)

/-- LANE_LOCK_LOST (R366). -/
def laneLockLostEvent (n : Fin 16) (l : Fin 8) (s : State) : Host.Outcome State Fault Refusal :=
  .next (if s.portDown n then s else failLane n l s)

/-- FABRIC_RETRAIN: FAB_PORT_n_CTRL.RETRAIN (R367). -/
def fabricRetrainEvent (n : Fin 16) (s : State) : Host.Outcome State Fault Refusal := .next (retrainPort n s)

/-- FABRIC_RETRAIN_DONE (R367 steps 4 and 5). -/
def fabricRetrainDoneEvent (n : Fin 16) (s : State) : Host.Outcome State Fault Refusal := .next (retrained n s)

/-- FABRIC_RETRAIN_TIMEOUT: the port is not back within 200 µs (R368). -/
def fabricRetrainTimeoutEvent (n : Fin 16) (s : State) : Host.Outcome State Fault Refusal :=
  .next (if s.portState n = 1 then downPort n ccRetrain s else s)

/-- NO_PEER_RETRY: a port DOWN with NO_PEER tries to train (R368). -/
def execNoPeerRetry (n : Fin 16) (s : State) : Host.Outcome State Fault Refusal :=
  .next (if s.portDown n && s.running && (s.port n).cause == ccNoPeer then startRetrain n ccNoPeer s else s)

/-- A write of FAB_NODE: HELLO goes out on every port that is UP (R369, R371). -/
def wrFabNode (v : Nat) (s : State) : State :=
  forEach (List.range 16) (fun n s => if s.portState n = 0 then sendHello n s else s) (setRf rFabNode 15 0 v s)

/-- FAB_NODE_WRITE. -/
def execFabNodeWrite (v : BitVec 16) (s : State) : Host.Outcome State Fault Refusal := .next (wrFabNode v.toNat s)

/-- After an access of FAB_RT_DATA, AUTOINC advances NODE. -/
def stepRtSel (s : State) : State :=
  if s.rb rFabRtSel 21 then setRf rFabRtSel 15 0 (s.rf rFabRtSel 15 0 + 1) s else s

/-- The key of the routing entry that FAB_RT_SEL selects; none for the tables 17 to 31. -/
def State.rtKey? (s : State) : Option Nat :=
  let t := s.rf rFabRtSel 20 16
  if t ≤ 16 then some (2 ^ 16 * t + s.rf rFabRtSel 15 0) else none

/-- A read of FAB_RT_DATA: the entry, and the state after the access. -/
def rdFabRtData (s : State) : Nat × State :=
  (s.withRsvd rFabRtData (match s.rtKey? with
   | some k => Table.get 31 s.fab.routes k
   | none => 0), stepRtSel s)

/-- A write of FAB_RT_DATA. -/
def wrFabRtData (v : Nat) (s : State) : State :=
  stepRtSel (match s.rtKey? with
    | some k =>
      let e := bits v 5 0
      let routes := if e = 31 then Table.erase s.fab.routes k else Table.set s.fab.routes k e
      { s with fab := { s.fab with routes := routes } }
    | none => s)

/-- FAB_RT_DATA_ACCESS: a read (none) by the physical function, or a write. -/
def execFabRtDataAccess (w : Option (BitVec 32)) (s : State) : Host.Outcome State Fault Refusal :=
  .next (match w with
    | some v => wrFabRtData v.toNat s
    | none =>
      let r := rdFabRtData s
      emit (.regRead 0 rFabRtData (BitVec.ofNat 32 r.1)) r.2)

/-- FAB_CTRL.WIN_FENCE: WIN_BUSY is set, and every request admitted already is awaited (R378). -/
def fabFence (s : State) : State :=
  setRf rFabCtrl 13 13 1 (forEach (List.range 16) (fun p s => updPort p (fun x => { x with
    winReqs := x.winReqs.map (fun r => { r with fenced := true }) }) s) s)

/-- FAB_WIN_FENCE. -/
def execFabWinFence (s : State) : Host.Outcome State Fault Refusal := .next (fabFence s)

/-- FAB_WIN_FENCE_DONE: every request admitted before the fence has been answered. -/
def execFabWinFenceDone (s : State) : Host.Outcome State Fault Refusal :=
  .next (if s.rb rFabCtrl 13 && !(List.range 16).any (fun p => (s.port p).winReqs.any (·.fenced)) then
      setRf rFabCtrl 13 13 0 s
    else s)

/-- A write of FAB_CTRL: values that R389 calls ignored leave their fields, also where FAULT_WAIT would not stay below
RSP_TIMEOUT (R378). -/
def wrFabCtrl (v : Nat) (s : State) : State :=
  let rsp := if bits v 7 0 = 0 then s.rf rFabCtrl 7 0 else bits v 7 0
  let wait := if bits v 11 8 = 0 ∨ 12 < bits v 11 8 then s.rf rFabCtrl 11 8 else bits v 11 8
  let s1 := setRf rFabCtrl 14 14 (bits v 14 14) s
  let s2 := if wait < rsp then setRf rFabCtrl 11 0 (rsp + wait * 256) s1
    else if wait < s.rf rFabCtrl 7 0 then setRf rFabCtrl 11 8 wait s1
    else if s.rf rFabCtrl 11 8 < rsp then setRf rFabCtrl 7 0 rsp s1
    else s1
  if bit v 12 then fabFence s2 else s2

/-! ### RED messages -/

/-- The next RED message of a code on port `n`; while FAB_NODE is unassigned it is dropped (R369). -/
def takeRed (n code : Nat) (f : KflMsg → State → State) (s : State) : State :=
  match kflTake n code s with
  | none => s
  | some (m, s1) => if s1.rf rFabNode 15 0 = 0xFFFF then dropKfl n m s1 else f m s1

/-- RED_READY (R383). -/
def execRedReady (n : Fin 16) (s : State) : Host.Outcome State Fault Refusal :=
  .next (takeRed n 0x22 (takeRedReady n) s)

/-- RED_DATA (R384, R385): a down chunk stays in the buffer while its DST has no translation. -/
def execRedData (n : Fin 16) (s : State) : Host.Outcome State Fault Refusal :=
  .next (match kflTake n 0x21 s with
    | none => s
    | some (m, s1) =>
      if s1.rf rFabNode 15 0 = 0xFFFF then dropKfl n m s1
      else match takeRedData n m s1 with
        | (some s2, _) => s2
        | (none, _) => (takeRedData n m s).2)

/-- RED_ABORT (R386). -/
def execRedAbort (n : Fin 16) (s : State) : Host.Outcome State Fault Refusal :=
  .next (takeRed n 0x23 (takeRedAbort n) s)

/-- FABRIC_RSP_TIMEOUT (R365). -/
def fabricRspTimeoutEvent (n : Fin 16) (e : Fin 4096) (s : State) : Host.Outcome State Fault Refusal :=
  .next (timeoutRequest n e s)

end Sys2Proof.Machine
end

