-- ==== Sys2Proof/Machine/Submission.lean ====
section
/-!
DEFINITION. Contexts, rings, descriptors and dispatch (R161 to R190): doorbells and fetch, the checks of the head,
fences and slots, placement, completion records, and the life cycle of a context; with them the start of a task on
its tiles and the reports of its tiles (R50, R52, R63).
-/
namespace Sys2Proof.Machine

/-! ### Reading contexts and rings -/

/-- CTX_STATUS.STATE: 0 OFF, 1 ACTIVE, 2 DRAINING, 3 QUIESCED. -/
def State.ctxState (s : State) (c : Nat) : Nat := s.rf (rCtxStatus c) 1 0

/-- Ring size in descriptors. -/
def State.ringSize (s : State) (r : Nat) : Nat := 2 ^ s.rf (rRingCtrl r) 5 1

/-- RING_CTRL.ENABLE. -/
def State.ringOn (s : State) (r : Nat) : Bool := s.rb (rRingCtrl r) 0

/-- The rings whose RING_CTRL has been written and names context `c`. -/
def State.ringsOf (s : State) (c : Nat) : List Nat :=
  (s.regs.val.filterMap (fun e =>
    if rRingCtrl 0 ≤ e.1 ∧ e.1 < rRingCtrl 16384 ∧ (e.1 - rRingCtrl 0) % 16 = 0 then
      some ((e.1 - rRingCtrl 0) / 16) else none)).filter (fun r => s.ringCtx r == c)

/-- The rings homed in partition `p`. -/
def State.ringsAt (s : State) (p : Nat) : List Nat :=
  (s.regs.val.filterMap (fun e =>
    if rRingCtrl 0 ≤ e.1 ∧ e.1 < rRingCtrl 16384 ∧ (e.1 - rRingCtrl 0) % 16 = 0 then
      some ((e.1 - rRingCtrl 0) / 16) else none)).filter (fun r => s.rf (rRingCtrl r) 7 6 == p)

/-- A unit is ON: it, and for a tile or a cluster what it belongs to (R482). -/
def State.powered (s : State) (ty id : Nat) : Bool := s.effPower ty id == 0

/-- A command that takes a tile out of ON waits for the tile's task (R486). -/
def State.leavingOn (s : State) (t : Nat) : Bool :=
  [(uTile, t), (uCluster, tileCluster t), (uPartition, tilePart t)].any (fun u =>
    match (s.pwrUnit u.1 u.2).held with
    | some p => p != 0
    | none => false)

/-- The partition whose dispatcher serves ring `r`: its home, or the lowest-numbered one that is not FAILED where
the home is, or its compute is not ON (R443, R490). -/
def State.homeOf (s : State) (r : Nat) : Nat :=
  let h := s.rf (rRingCtrl r) 7 6
  let up (p : Nat) : Bool := s.status uPartition p != stFailed && s.powered uPartition p
  if up h then h else ([0, 1, 2].find? up).getD h

/-- The dispatcher of a ring fetches and dispatches: the hub accepts new work, and the partition is not in a reset
(R345, R439, R443). -/
def State.ringServed (s : State) (r : Nat) : Bool :=
  s.running && s.boot.newWork && !s.tripped && s.ringOn r && s.ctxState (s.ringCtx r) == 1 &&
    s.powered uPartition (s.homeOf r) && s.status uPartition (s.homeOf r) != stQuarantine && (Table.find? s.boot.partReset (s.homeOf r)).isNone


/-- CTX_STATUS.IN_FLIGHT follows the dispatched descriptors. -/
def syncInFlight (c : Nat) (s : State) : State :=
  setRf (rCtxStatus c) 31 16 (min 65535 (s.lives.filter (fun l => l.ctx == c)).length) s

/-! ### The mapping check of a ring (R163) -/

/-- The ring passes its check: the translation to hold. -/
def State.checkRing (s : State) (r : Nat) : Option CacheEnt :=
  let z := s.rf (rRingCtrl r) 5 1
  if 6 ≤ z ∧ z ≤ 16 ∧ s.rf (rRingCtrl r) 7 6 ≤ 2 then
    s.areaCheck true (s.ringCtx r) (s.base55 (rRingBaseLo r) (rRingBaseHi r)) (64 * 2 ^ z) .read
  else none

/-- Fetch and dispatch stop on a ring; fetched descriptors are discarded, the counts stay (R190). -/
def stopRing (r : Nat) (s : State) : State :=
  updRing r (fun x => { x with queue := [], fetched := s.reg (rRingHead r), judged := none, slot := false,
                               reserving := false, fixed := [] }) s

/-- A ring that fails its check: MAP_ERROR, and ENABLE cleared (R163). -/
def failRing (r : Nat) (s : State) : State :=
  stopRing r (rcFlag (rRingStatus r) 1 (setRf (rRingCtrl r) 0 0 0 s))

/-- The order of what happens next to a ring, among all rings (R186). -/
def State.nextStamp (s : State) : Nat := 1 + s.rings.foldl (fun m e => max m (max e.2.since e.2.fixedAt)) 0

/-- A ring that is enabled in an ACTIVE context is checked, and its translation held (R163). -/
def openRing (r : Nat) (s : State) : State :=
  match s.checkRing r with
  | some e => updRing r (fun x => { x with held := some e, fetched := s.reg (rRingHead r), fenceLook := true }) s
  | none => failRing r s

/-! ### Doorbells (R164, R178, R189) -/

/-- An access of function `f` through the aperture is held or under way. -/
def State.hostBusy (s : State) (f id : Nat) : Bool :=
  s.host.apt.any (fun q => q.id == id) || s.underway (· == .host f id)

/-- The writes of function `f` through the host port that are not yet accepted: those that the aperture still holds, and
those on their way. -/
def State.hostWrites (s : State) (f : Nat) : List Nat :=
  (s.host.apt.filter (fun q => q.fn == f && (q.write || q.atomic.isSome))).map (·.id) ++
    s.whosUnderway.filterMap (fun w => match w with
      | .host g id => if g == f && !s.host.apt.any (fun q => q.id == id) then some id else none
      | _ => none)

/-- A descriptor waits for a write of its function that came before the doorbell that raised P past it (R178). -/
def State.fetchWaits (s : State) (r : Nat) : Bool :=
  let x := s.ring r
  x.gates.any (fun g => decide ((x.fetched + 2 ^ 32 - g.1) % 2 ^ 32 < 2 ^ 31) &&
    g.2.any (s.hostBusy (s.owner (s.ringCtx r))))

/-- A doorbell that raises P: the descriptors below it wait for the function's earlier writes. -/
def raiseProd (r v : Nat) (s : State) : State :=
  let ids := s.hostWrites (s.owner (s.ringCtx r))
  updRing r (fun x => { x with
    prod := v, fenceLook := true, gates := if ids.isEmpty then x.gates else x.gates ++ [(x.prod, ids)] }) s

/-- A write of RING_DB. Of the doorbells kept for one ring under ENABLE_PENDING the last written stands, and the checks of
R164 are made when the new instance begins (DESIGN CHOICE, log entry 113). -/
def doorbell (r v : Nat) (s : State) : State :=
  let c := s.ringCtx r
  let st := s.ctxState c
  let h := s.reg (rRingHead r)
  let p := (s.ring r).prod
  let sub (a b : Nat) : Nat := (a + 2 ^ 32 - b) % 2 ^ 32
  let waits := s.rb (rCtxStatus c) 2
  if !s.ringOn r || (st == 0 && !waits) then s
  else if st ≠ 1 then
    if waits then updCtx c (fun x => { x with kept := Table.set x.kept r v }) s else s
  else if s.ringSize r < sub v h then rcFlag (rRingStatus r) 0 s
  else if 2 ^ 31 ≤ sub v p then s
  else raiseProd r v s

/-- DOORBELL. -/
def execDoorbell (r : Fin 16384) (v : BitVec 32) (s : State) : Host.Outcome State Fault Refusal :=
  .next (doorbell r v.toNat s)

/-! ### The checks of R168 -/

/-- Word `i` of a descriptor, with whether its fields are good. -/
abbrev WordCheck := Nat × Bool

/-- The header's words. -/
def headerChecks (ctx : Nat) (ws : List Nat) : List WordCheck :=
  let op := wf ws 0 7 0
  [(0, decide (op ≤ 6) && wf ws 0 31 21 == 0 && decide (wf ws 0 15 13 ≤ 2) &&
      (op != 6 || (!bit (wd ws 0) 16 && !bit (wd ws 0) 19))),
   (1, wf ws 1 11 0 == ctx && wf ws 1 15 12 == 0 && wf ws 1 23 22 == 0 && wf ws 1 31 30 == 0),
   (3, bit (wd ws 0) 19 || wd ws 3 == 0), (4, bit (wd ws 0) 20 || wd ws 4 == 0)]

/-- The argument words of a TASK (R170). -/
def taskChecks (ws : List Nat) : List WordCheck :=
  let form := wf ws 5 1 0
  let n := wf ws 5 10 4
  let mask := form == 0
  [(5, form != 3 && (if form = 1 then decide (wf ws 5 3 2 ≤ 2) else wf ws 5 3 2 == 0) &&
      (if form = 0 then n == 0 else if form = 1 then decide (1 ≤ n ∧ n ≤ 24) else decide (1 ≤ n ∧ n ≤ 72)) &&
      decide (wf ws 5 19 11 ≤ 256) && wf ws 5 31 20 == 0),
   (6, (mask || wd ws 6 == 0) && !(mask && wd ws 6 == 0 && wd ws 7 == 0 && wf ws 8 7 0 == 0)),
   (7, mask || wd ws 7 == 0), (8, wf ws 8 31 8 == 0 && (mask || wf ws 8 7 0 == 0)),
   (9, !bit (wd ws 9) 0), (10, wf ws 10 31 23 == 0)]

/-- The argument words of a COPY (R172, R246). -/
def copyChecks (ws : List Nat) : List WordCheck :=
  [(5, wd ws 5 % 64 == 0), (6, wf ws 6 31 23 == 0), (7, wd ws 7 % 64 == 0), (8, wf ws 8 31 23 == 0),
   (9, wf ws 9 31 23 == 0 && wf ws 9 22 0 % 64 == 0 && decide (64 ≤ wf ws 9 22 0 ∧ wf ws 9 22 0 ≤ 0x400000)),
   (10, wf ws 10 31 16 == 0 && decide (1 ≤ wf ws 10 15 0)), (11, wd ws 11 % 64 == 0), (13, wd ws 13 % 64 == 0),
   (14, hintKnown (wf ws 14 3 0) && decide (wf ws 14 5 4 ≤ 2) && wf ws 14 31 7 == 0), (15, wd ws 15 == 0)]

/-- The argument words of a REDUCE (R173). -/
def reduceChecks (ws : List Nat) : List WordCheck :=
  let fmt (c : Nat) : Bool := c == 1 || c == 2
  [(6, wf ws 6 31 23 == 0), (8, wf ws 8 31 23 == 0), (9, wf ws 9 31 28 == 0 && decide (1 ≤ wf ws 9 27 0)),
   (10, fmt (wf ws 10 3 0) && fmt (wf ws 10 7 4) && wf ws 10 31 8 == 0), (12, wf ws 12 31 23 == 0),
   (13, wf ws 13 31 16 == 0), (14, wd ws 14 == 0), (15, wd ws 15 == 0)]

/-- The argument words of a RESUME_PAGE (R175). -/
def resumeChecks (ws : List Nat) : List WordCheck :=
  [(5, wf ws 5 15 0 == 0), (6, wf ws 6 31 23 == 0), (7, decide (wf ws 7 1 0 ≤ 2) && wf ws 7 31 11 == 0)] ++
  (List.range 7).map (fun i => (9 + i, wd ws (9 + i) == 0))

/-- The argument words of an opcode. -/
def argChecks (ws : List Nat) : List WordCheck :=
  match wf ws 0 7 0 with
  | 1 => taskChecks ws
  | 2 => copyChecks ws
  | 3 => reduceChecks ws
  | 6 => resumeChecks ws
  | _ => (List.range 11).map (fun i => (5 + i, wd ws (5 + i) == 0))

/-- The checks of R168 on a descriptor against CTX_POLICY `pol` of context `ctx`: cause and DETAIL, cause 0 where
they pass. -/
def descriptorCheck (ctx pol : Nat) (ws : List Nat) : Nat × Nat :=
  let bad := ((headerChecks ctx ws ++ (if wf ws 0 7 0 ≤ 6 then argChecks ws else [])).filter (fun c => !c.2)).map (·.1)
  match bad with
  | [] =>
    if !bit pol (16 + wf ws 0 11 8) then (0x02, wf ws 0 11 8)
    else if wf ws 0 7 0 = 5 ∧ bit pol 8 = false then (0x03, 0)
    else (0, 0)
  | w :: l => (0x01, l.foldl min w)

/-- The dot-product class in force for a descriptor, and whether it was forced (R169). -/
def forcedClass (pol : Nat) (ws : List Nat) : Bool × Bool :=
  let asked := bit (wd ws 0) 12
  let f := bits pol 10 9
  if (wf ws 0 7 0 = 1 ∨ wf ws 0 7 0 = 3) ∧ (f = 1 ∨ f = 2) then (f == 2, asked != (f == 2)) else (asked, false)

/-- The head of ring `r` is judged as it gets there (R168, R169, R527). The forced class is noted with the checks, also for
a TASK or REDUCE that fails them (DESIGN CHOICE, log entry 113). -/
def judgeHead (r : Nat) (s : State) : State :=
  let c := s.ringCtx r
  match (s.ring r).queue.head?, (s.ring r).judged with
  | some d, none =>
    let s1 := applyKey .taskBoundary (rCtxPolicy c) s
    let pol := s1.inForce (rCtxPolicy c)
    let k := if d.poison then (0x21, 0xFFFF) else descriptorCheck c pol d.words
    let f := if d.poison then (false, false) else forcedClass pol d.words
    updRing r (fun x => { x with judged := some (k.1, k.2, f.1, f.2), fenceLook := true, since := s1.nextStamp }) s1
  | _, _ => s

/-! ### Fetch (R165, R166) -/

/-- A read of a descriptor failed only because the owner's gate is shut; it is started again later (R399). -/
def gateShut (m : Mark) : Bool := m.cause == cTargetAbsent && (m.detail == 5 || m.detail == 6)

/-- DESCRIPTOR_FETCH: the next position below P is read, once, behind the writes that R178 puts before it. -/
def execDescriptorFetch (r : Fin 16384) (s : State) : Host.Outcome State Fault Refusal :=
  .next (
    if s.ringServed r && (s.ring r).fetched != (s.ring r).prod && !s.fetchWaits r then
      let s1 := match (s.ring r).held with
        | some _ => s
        | none => match s.checkRing r with
          | some e => updRing r (fun x => { x with held := some e }) s
          | none => failRing r s
      match (s1.ring r).held with
      | none => s1
      | some e =>
        let pos := (s1.ring r).fetched
        let va := s1.base55 (rRingBaseLo r) (rRingBaseHi r) + 64 * (pos % s1.ringSize r)
        match agentRead opRecord (.dispatcher r) (heldTgt e va) 0 0 s1 with
        | (none, s2) => s2
        | (some (d, m), s2) =>
          let put (f : Fetched) (s : State) : State :=
            judgeHead r (updRing r (fun x => { x with fetched := (pos + 1) % 2 ^ 32, queue := x.queue ++ [f] }) s)
          match m with
          | some k =>
            if gateShut k then s2
            else put { pos := pos, words := List.replicate 16 0, poison := true } (rcFlag (rRingStatus r) 2 s2)
          | none => put { pos := pos, words := wordsOf (natToBytes 64 d.toNat) 16, poison := false } s2
    else s)

/-! ### Fences and slots (R177, R179) -/

/-- The fences of the head of ring `r` are met. -/
def State.fencesMet (s : State) (r : Nat) (ws : List Nat) : Bool :=
  (!bit (wd ws 0) 16 || !s.lives.any (fun l => l.ring == r)) &&
  (!bit (wd ws 0) 19 ||
    decide (0 ≤ signed 32 (s.reg (rCtxFenceN (s.ringCtx r) (wf ws 1 21 16)) + 2 ^ 32 - wd ws 3)))

/-- Slots of the completion ring of context `c` that are reserved. -/
def State.reserved (s : State) (c : Nat) : Nat :=
  (s.lives.filter (fun l => l.ctx == c)).length + ((s.ringsOf c).filter (fun r => (s.ring r).slot)).length

/-- A slot is free (R179). -/
def State.slotFree (s : State) (c : Nat) : Bool :=
  decide ((s.reg (rCqTail c) + 2 ^ 32 - s.reg (rCqHead c)) % 2 ^ 32 + s.reserved c < 2 ^ s.rf (rCqCtrl c) 4 0)

/-! ### Placement (R184 to R187) -/

/-- Free granules of a cluster, lowest first. -/
def State.freeGranules (s : State) (c : Nat) : List Nat :=
  (List.range 256).filter (fun g => (Table.find? (s.cluster c).holder g).isNone)

/-- A tile that is GOOD and ON. -/
def State.tileUp (s : State) (t : Nat) : Bool :=
  s.status uTile t == stGood && s.powered uTile t && s.inService uCluster (tileCluster t)

/-- A tile that is fixed for a reserving TASK of another ring (R186). Where several have fixed it, the one that began to
reserve first goes first (DESIGN CHOICE, log entry 113). -/
def State.fixedElsewhere (s : State) (r t : Nat) : Bool :=
  let x := s.ring r
  s.rings.any (fun e => e.1 != r && e.2.fixed.contains t && !(x.fixed.contains t && decide (x.fixedAt < e.2.fixedAt)))

/-- A free tile, for ring `r` (R184, R186). -/
def State.tileFree (s : State) (r t : Nat) : Bool :=
  s.tileUp t && !s.leavingOn t && (s.tile t).live.isNone && !s.fixedElsewhere r t

/-- The tiles of the die by ascending logical number. -/
def State.tilesInOrder (s : State) : List Nat := s.boot.tilesAt

/-- GOOD tiles of a scope, and those that count as its capacity: in QUARANTINE tasks wait for them (R185). -/
def State.goodIn (s : State) (scope : Nat → Bool) : Nat :=
  ((s.tilesInOrder).filter (fun t => scope t && s.status uTile t == stGood)).length
def State.capacityIn (s : State) (scope : Nat → Bool) : Nat :=
  ((s.tilesInOrder).filter (fun t => scope t &&
    (s.status uTile t == stGood || s.status uTile t == stQuarantine))).length

/-- Logical numbers of a MASK. -/
def maskTiles (ws : List Nat) : List Nat :=
  (List.range 72).filter (fun l => bit (wd ws (6 + l / 32)) (l % 32))

/-- A TASK that completes at once instead of being placed (R185): cause and DETAIL. -/
def State.placeFails (s : State) (ws : List Nat) : Option (Nat × Nat) :=
  let n := wf ws 5 10 4
  match wf ws 5 1 0 with
  | 0 =>
    match (maskTiles ws).find? (fun l => (s.tileAt? l).isNone) with
    | some l => some (0x30, l)
    | none =>
      ((maskTiles ws).find? (fun l => s.status uTile ((s.tileAt? l).getD 0) == stFailed)).map (fun l => (0x31, l))
  | 1 =>
    let scope (t : Nat) : Bool := tilePart t == wf ws 5 3 2
    if s.capacityIn scope < n then some (0x33, s.goodIn scope) else none
  | _ => if s.capacityIn (fun _ => true) < n then some (0x33, s.goodIn (fun _ => true)) else none

/-- The tiles a TASK of ring `r` takes among those that `free` allows, whose clusters can grant its window (R185). -/
def State.chooseTiles (s : State) (r : Nat) (ws : List Nat) (free grant : Nat → Bool) : Option (List Nat) :=
  let n := wf ws 5 10 4
  let ok (t : Nat) : Bool := free t && grant (tileCluster t)
  let inPart (p : Nat) : Option (List Nat) :=
    let l := (s.tilesInOrder).filter (fun t => tilePart t == p && ok t)
    if n ≤ l.length then some (l.take n) else none
  match wf ws 5 1 0 with
  | 0 =>
    let l := (maskTiles ws).map (fun k => (s.tileAt? k).getD 0)
    if l.all ok then some l else none
  | 1 => inPart (wf ws 5 3 2)
  | _ =>
    let home := s.rf (rRingCtrl r) 7 6
    match (home :: [0, 1, 2].filter (· != home)).findSome? inPart with
    | some l => some l
    | none =>
      let l := (s.tilesInOrder).filter ok
      if n ≤ l.length then some (l.take n) else none

/-- A cluster can grant a window of `g` granules now. -/
def State.canGrant (s : State) (g c : Nat) : Bool := decide (g ≤ (s.freeGranules c).length)

/-- The tiles a reserving TASK fixes: as if every tile that is GOOD and ON were free (R186). -/
def fixTiles (r : Nat) (ws : List Nat) (s : State) : State :=
  let l := (s.chooseTiles r ws s.tileUp (fun _ => true)).getD []
  let k := s.nextStamp
  updRing r (fun x => { x with reserving := true, fixed := l, fixedAt := if x.reserving then x.fixedAt else k }) s

/-- The placement that is possible now. -/
def State.placement? (s : State) (r : Nat) (ws : List Nat) : Option (List Nat) :=
  let g := wf ws 5 19 11
  let x := s.ring r
  if x.reserving && !x.fixed.isEmpty then
    if x.fixed.all (fun t => s.tileFree r t && s.canGrant g (tileCluster t)) then some x.fixed else none
  else s.chooseTiles r ws (s.tileFree r) (s.canGrant g)

/-- A granule granted to context `ctx` in cluster `c`: zeroed first when another context held it last (R187). -/
def grantGranule (c id ctx g : Nat) (s : State) : State :=
  let dirty : Bool := match Table.find? (s.cluster c).lastCtx g with
    | some k => k != ctx
    | none => false
  let s1 := updCluster c (fun k =>
    { k with
      holder := Table.set k.holder g id,
      store := if dirty then k.store.filter (fun e => e.1 / 65536 != g) else k.store,
      marks := if dirty then k.marks.filter (fun e => e.1 / 1024 != g) else k.marks }) s
  if dirty then countEvent (blkCluster c) 0x25 none none none 1 s1 else s1

/-- The windows of a TASK (R187): `n` granules in each cluster that holds one of its tiles. -/
def grantWindows (id ctx n : Nat) (clusters : List Nat) (s : State) : State :=
  forEach clusters (fun c s =>
    let gs := (s.freeGranules c).take n
    updLive id (fun l => { l with windows := Table.set l.windows c gs })
      (forEach gs (grantGranule c id ctx) s)) s

/-! ### Dispatch (R176) -/

/-- A dispatched descriptor before anything has happened to it. -/
def Live.init (id ring pos ctx : Nat) (d : Fetched) : Live :=
  { id := id, ring := ring, pos := pos, ctx := ctx, words := d.words, poison := d.poison,
    opcode := wf d.words 0 7 0, dotFast := false, forced := false, started := false, tiles := [], reports := [],
    firstFail := none, bars := Vector.replicate 4 [], barUse := Vector.replicate 4 0, windows := [], waitFor := [],
    snapFrom := 0, cluster := 0, progress := 0, outst := 0, later := false, stopping := false, cut := false, sat := false,
    nan := false, hist := .init, finished := none, result := 0, step := 0 }

/-- The head of ring `r` is dispatched: RING_HEAD counts it, the next descriptor becomes the head; `f` completes
its record. -/
def dispatchHead (r : Nat) (d : Fetched) (f : Live → Live) (s : State) : State :=
  let c := s.ringCtx r
  let id := s.nextLive
  let j := (s.ring r).judged.getD (0, 0, false, false)
  let l := f { Live.init id r d.pos c d with dotFast := j.2.2.1, forced := j.2.2.2 }
  let s1 := { s with lives := s.lives ++ [l], nextLive := id + 1 }
  let s2 := setReg (rRingHead r) ((s1.reg (rRingHead r) + 1) % 2 ^ 32) s1
  let s3 := updRing r (fun x => { x with queue := x.queue.drop 1, judged := none, slot := false,
                                         reserving := false, fixed := [] }) s2
  judgeHead r (syncInFlight c s3)

/-- The head completes at once with a cause (R168, R185). -/
def dispatchFailed (r : Nat) (d : Fetched) (cause detail : Nat) (s : State) : State :=
  dispatchHead r d (fun l => { l with finished := some (cause, detail) }) s

/-- A TASK at the head is placed if its placement is possible (R184 to R186). -/
def placeTask (r : Nat) (d : Fetched) (s : State) : State :=
  match s.placeFails d.words with
  | some (k, v) => dispatchFailed r d k v s
  | none =>
    let x := s.ring r
    let again : Bool := x.reserving && (x.fixed.isEmpty || x.fixed.any (fun t => !s.tileUp t))
    let s1 := if again then fixTiles r d.words s else s
    match s1.placement? r d.words with
    | none => s1
    | some ts =>
      let id := s1.nextLive
      let ctx := s1.ringCtx r
      let s2 := dispatchHead r d (fun l => { l with tiles := ts }) s1
      let s3 := forEach ts (fun t s => updTile t (fun x => { x with
        live := some id, reported := false, ending := none, mode := .machine, stall := .wfi, hist := .init,
        histUsed := false, sat := false, nan := false }) s) s2
      grantWindows id ctx (wf d.words 5 19 11) ((ts.map tileCluster).eraseDups) s3

/-- The clusters of a partition that can take a COPY, and those that may again (R172, R442). -/
def State.copyClusters (s : State) (p : Nat) : List Nat :=
  (List.range 18).filter (fun c => clusterPart c == p && s.inService uCluster c && s.powered uCluster c)

/-- COPYs that a partition holds. -/
def State.copiesIn (s : State) (p : Nat) : Nat :=
  ((List.range 6).map (fun i => (s.cluster (6 * p + i)).copies.length)).foldl (· + ·) 0

/-- The first element with the least key. -/
def leastBy (f : Nat → Nat) : List Nat → Option Nat
  | [] => none
  | a :: l => some (l.foldl (fun m b => if f b < f m then b else m) a)

/-- A COPY at the head is given an engine (R172, R442). -/
def assignCopy (r : Nat) (d : Fetched) (s : State) : State :=
  let ps := if bit (wd d.words 14) 6 then [0, 1, 2] else [wf d.words 14 5 4]
  let open' := ps.filter (fun p => !(s.copyClusters p).isEmpty)
  let lost (p : Nat) : Bool := (List.range 6).all (fun i => s.status uCluster (6 * p + i) == stFailed)
  match leastBy s.copiesIn open' with
  | none => if ps.all lost then dispatchFailed r d 0x33 0 s else s
  | some p =>
    match leastBy (fun c => (s.cluster c).copies.length) (s.copyClusters p) with
    | none => s
    | some c =>
      let id := s.nextLive
      updCluster c (fun k => { k with copies := k.copies ++ [id] })
        (dispatchHead r d (fun l => { l with cluster := c }) s)

/-- The head of ring `r` goes as far as it can: fences, slot, placement (R176). -/
def tryDispatch (r : Nat) (s : State) : State :=
  match (s.ring r).queue.head?, (s.ring r).judged with
  | some d, some (cause, detail, _, _) =>
    let c := s.ringCtx r
    let slot (s : State) : State := updRing r (fun x => { x with slot := true }) s
    if cause ≠ 0 then
      if (s.ring r).slot || s.slotFree c then dispatchFailed r d cause detail (slot s) else s
    else if !(s.ring r).slot && bit (wd d.words 0) 19 && !(s.ring r).fenceLook then s
    else if !(s.ring r).slot && !s.fencesMet r d.words then
      if bit (wd d.words 0) 16 && s.lives.any (fun l => l.ring == r) then s
      else updRing r (fun x => { x with fenceLook := false }) s
    else if !(s.ring r).slot && !s.slotFree c then s
    else
      let s1 := slot s
      match wf d.words 0 7 0 with
      | 1 => placeTask r d s1
      | 2 => assignCopy r d s1
      | 4 => dispatchHead r d (fun l => { l with waitFor := (s1.lives.filter (fun k => k.ctx == c)).map (·.id) }) s1
      | 5 => dispatchHead r d (fun l => { l with snapFrom := (s1.cnt.seqRun + 1) % 2 ^ 32 }) s1
      | _ => dispatchHead r d (fun l => l) s1
  | _, _ => s

/-- The head of ring `r` can be dispatched now. -/
def State.canDispatch (s : State) (r : Nat) : Bool := s.ringServed r && decide (s.nextLive < (tryDispatch r s).nextLive)

/-- No head that the dispatcher of ring `r` can dispatch has waited longer than that of `r`, nor as long with a lower ring
number (R186). -/
def State.servedFirst (s : State) (r : Nat) : Bool :=
  !s.rings.any (fun e => e.1 != r && s.homeOf e.1 == s.homeOf r &&
    (decide (e.2.since < (s.ring r).since) || (e.2.since == (s.ring r).since && decide (e.1 < r))) && s.canDispatch e.1)

/-- DISPATCH: the head of the ring goes as far as it can; it is dispatched in its turn (R186). -/
def execDispatch (r : Fin 16384) (s : State) : Host.Outcome State Fault Refusal :=
  .next (if s.ringServed r && (s.servedFirst r || !s.canDispatch r) then tryDispatch r s else s)

/-- The TASK that waits at the head of ring `r` for its placement. -/
def State.waitingTask? (s : State) (r : Nat) : Option Fetched :=
  let x := s.ring r
  match x.queue.head? with
  | some d => if x.slot && wf d.words 0 7 0 == 1 && s.ringServed r then some d else none
  | none => none

/-- TASK_PLACEMENT: a TASK that waits is placed in its turn. -/
def execTaskPlacement (r : Fin 16384) (s : State) : Host.Outcome State Fault Refusal :=
  .next (match s.waitingTask? r with
    | some d => if s.servedFirst r || !s.canDispatch r then placeTask r d s else s
    | none => s)

/-- TASK_RESERVING: a TASK that has waited 100 µs fixes its tiles (R186). -/
def execTaskReserving (r : Fin 16384) (s : State) : Host.Outcome State Fault Refusal :=
  .next (match s.waitingTask? r with
    | some d => if (s.ring r).reserving then s else fixTiles r d.words s
    | none => s)

/-! ### A task on its tiles (R50, R52, R63) -/

/-- TASK (R171): the task starts, and is delivered to all its tiles. -/
def execTask (id : Nat) (s : State) : Host.Outcome State Fault Refusal :=
  .next (match s.liveOf? id with
    | some l => if l.opcode == 1 && !l.stopping && l.finished.isNone then
        updLive id (fun l => { l with started := true }) s else s
    | none => s)

/-- TASK_DELIVERY (R50): the stores are zeroed on a change of context, the tile is reset, and the program starts in
user mode. -/
def execTaskDelivery (t : Fin 72) (s : State) : Host.Outcome State Fault Refusal :=
  .next (match s.liveAt t with
    | some l =>
      let x := s.tile t
      if l.started && !l.stopping && x.mode == .machine && x.ending.isNone && !s.tripped && s.tileUp t then
        let s2 := syncNative t (applyKey .taskBoundary (rMxePath t) s)
        let n := l.tiles.length
        updTile t (fun x =>
          let clean := x.prevCtx != some l.ctx
          let y : Tile := if clean then
              { x with store := [], storeMarks := [], storeUe := [], storeOnce := x.storeUe ++ x.storeOnce,
                       dmem := x.dmem.filter (fun e => decide (0xC000 ≤ e.1)),
                       dmemUe := x.dmemUe.filter (fun w => decide (0x1800 ≤ w)) } else x
          emptyFtq { (y.setMeip false).enterUser (BitVec.ofNat 64 (wva l.words 9 10)) with
            x := Vector.replicate 32 0, ir := none, unord := [], seen := Vector.replicate 4 0, issues := 0,
            reserv := none, stall := .none, block := l.words, lines := [], ports := Vector.replicate 2 0,
            queues := Vector.replicate 4 .init, rank := (l.tiles.findIdx? (· == t.val)).getD 0, count := n,
            logical := (s.logicalOf? t).getD 0, ctx := l.ctx, cls := wf l.words 0 11 8, dotFast := l.dotFast,
            round := wf l.words 0 15 13,
            seed := BitVec.ofNat 64 (wd l.words 11 + 2 ^ 32 * wd l.words 12),
            cswSize := 65536 * wf l.words 5 19 11, prevCtx := some l.ctx }) s2
      else s
    | none => s)

/-- ABORT_INTERRUPT (R63): the tile's task, which something else has stopped, stops on this tile. -/
def execAbortInterrupt (t : Fin 72) (s : State) : Host.Outcome State Fault Refusal :=
  .next (match s.liveAt t with
    | some l => if l.stopping && (s.tile t).ending.isNone && s.status uTile t == stGood then stopTile t (.failed 0 0) s else s
    | none => s)

/-- Tile `t` leaves its task: it reports `r`, its contribution goes into the task's (R52, R132), and it waits in machine mode. -/
def reportTile (t : Nat) (r : Report) (s : State) : State :=
  match (s.tile t).live with
  | none => s
  | some id =>
    let x := s.tile t
    let s1 := dropArrivals (isTile t) (updTile t (fun x => { x.setMeip false with
      reported := true, queues := Vector.replicate 4 .init, mode := .machine, stall := .wfi, ir := none }) s)
    updLive id (fun l =>
      let l1 := { l with reports := l.reports ++ [t], sat := l.sat || x.sat, nan := l.nan || x.nan,
                         hist := l.hist.merge x.hist }
      match r with
      | .done => l1
      | .failed cause detail =>
        if cause = 0 then { l1 with cut := true }
        else if l1.firstFail.isNone then
          { l1 with firstFail := some { cause := cause, detail := detail, tile := x.logical }, stopping := true }
        else l1) s1

/-- TILE_REPORT (R52): the report of a tile that waits for nothing any more reaches its dispatcher; the first failure
stops the task's other tiles. -/
def execTileReport (t : Fin 72) (s : State) : Host.Outcome State Fault Refusal :=
  .next (
    let x := s.tile t
    match x.ending with
    | some r =>
      if !x.reported && x.live.isSome && (x.queue 3).entries.all (fun e => e.outst == 0) && !s.awaits (isTile t) then
        reportTile t r s
      else s
    | none => s)

/-! ### The other opcodes (R174, R175) -/

/-- A dispatched descriptor of an opcode that nothing has stopped or finished. -/
def State.openLive? (s : State) (id op : Nat) : Option Live :=
  match s.liveOf? id with
  | some l => if l.opcode == op && l.finished.isNone && !l.stopping then some l else none
  | none => none

/-- NOP. -/
def execNop (id : Nat) (s : State) : Host.Outcome State Fault Refusal :=
  .next (match s.openLive? id 0 with
    | some _ => updLive id (fun l => { l with finished := some (0, 0) }) s
    | none => s)

/-- BARRIER: done once every descriptor of its context dispatched before it has completed. -/
def execBarrier (id : Nat) (s : State) : Host.Outcome State Fault Refusal :=
  .next (match s.openLive? id 4 with
    | some l =>
      if l.waitFor.all (fun k => (s.liveOf? k).isNone) then
        updLive id (fun l => { l with finished := some (0, 0) }) s
      else s
    | none => s)

/-- SNAPSHOT: Welore is asked for a snapshot; its end finishes the descriptor. -/
def execSnapshot (id : Nat) (s : State) : Host.Outcome State Fault Refusal :=
  .next (match s.openLive? id 5 with
    | some _ =>
      setRf rSnapStatus 0 0 1 (updLive id (fun l => { l with started := true })
        { s with cnt := { s.cnt with asked := true } })
    | none => s)

/-- RESUME_PAGE: the descriptor goes to the walker of its PARTITION field (R283 step 1). -/
def execResumePage (id : Nat) (s : State) : Host.Outcome State Fault Refusal :=
  .next (match s.openLive? id 6 with
    | some l =>
      if l.started then s
      else updXlt (fun x => { x with resumes := x.resumes ++ [(id, wf l.words 7 1 0, wf l.words 7 9 2)] })
        (updLive id (fun l => { l with started := true }) s)
    | none => s)

/-! ### Completion (R179 to R183) -/

/-- The cause that a drain gives work it cuts short. -/
def State.drainCause (s : State) (c : Nat) : Nat :=
  if (s.context c).drainCause = 0 then 0x40 else (s.context c).drainCause

/-- A failure as cause and DETAIL. -/
def FirstFail.pair (f : FirstFail) : Nat × Nat := (f.cause, f.detail)

/-- How a dispatched descriptor ends, once all its work is done or stopped (R182 step 1). -/
def State.endOf? (s : State) (l : Live) : Option (Nat × Nat) :=
  match l.finished with
  | some k => some k
  | none =>
    match l.opcode with
    | 1 =>
      if l.tiles.all l.reports.contains then
        match l.firstFail with
        | some f => some f.pair
        | none => some (if l.cut then (s.drainCause l.ctx, 0) else (0, 0))
      else none
    | 2 =>
      let whole := decide (copyUnits l.words ≤ l.progress)
      if (whole || l.stopping) && l.outst == 0 && !s.awaits (· == .copy l.id) then
        match l.firstFail with
        | some f => if whole || f.cause == 0x24 || f.cause == 0x31 || f.cause == 0x32 then some f.pair
                    else some (s.drainCause l.ctx, 0)
        | none => some (if whole then (0, 0) else (s.drainCause l.ctx, 0))
      else none
    | 3 =>
      if l.stopping && !s.fab.groups.any (fun g => g.live == l.id && g.outst != 0) then
        match l.firstFail with
        | some f => some f.pair
        | none => some (s.drainCause l.ctx, 0)
      else none
    | _ => if l.stopping then some (s.drainCause l.ctx, 0) else none

/-- The 320-byte histogram block of R181. -/
def histBlock (h : Hist) : List Byte :=
  let bs := (List.range 64).map (Table.get 0 h.bins)
  let elems := satCount (bs.foldl (· + ·) 0) (h.zero + h.infinity + h.nan)
  (bs ++ [h.zero, h.subnormal, h.infinity, h.nan, h.saturation, elems] ++ List.replicate 10 0).flatMap (natToBytes 4)

/-- Word 6 of a record: the histogram in brief (R180). -/
def histBrief (h : Hist) : Nat :=
  let full := (List.range 64).filter (fun b => Table.get 0 h.bins b != 0)
  (match full.head?, full.getLast? with
   | some lo, some hi => lo + 2 ^ 6 * hi
   | _, _ => 2 ^ 12) + 2 ^ 16 * min h.nan 65535

/-- The completion record of R180. -/
def recordOf (l : Live) (cause detail : Nat) (phase hist : Bool) (run : Nat) : List Byte :=
  let task := l.opcode == 1
  let tile := match l.firstFail with
    | some f => if task then f.tile else 0xFFFF
    | none => 0xFFFF
  ([cause + 2 ^ 16 * b2n phase + 2 ^ 17 * b2n (task && l.sat) + 2 ^ 18 * b2n (task && l.nan) +
      2 ^ 19 * b2n l.forced + 2 ^ 20 * b2n hist + 2 ^ 24 * (l.opcode % 256),
    l.ring + 2 ^ 16 * (detail % 65536), l.pos, wd l.words 2,
    tile + 2 ^ 16 * (if task then l.tiles.length else 0),
    if task then run else l.result,
    if task then histBrief l.hist else 0, if task then l.hist.saturation else 0]).flatMap (natToBytes 4)

/-- The completion ring of context `c` can be reached: its held translation, made again if it was removed; a failure
sets CFG_ERROR, and the ring is tried again only after an invalidation (R163). -/
def cqArea (c : Nat) (s : State) : Option CacheEnt × State :=
  match (s.context c).heldCq with
  | some e => (some e, s)
  | none =>
    if (s.context c).cqFailed then (none, s)
    else match s.checkCq c with
      | some e => (some e, updCtx c (fun x => { x with heldCq := some e }) s)
      | none => (none, updCtx c (fun x => { x with cqFailed := true }) (rcFlag (rCtxStatus c) 3 s))

/-- The histogram area likewise. -/
def histArea (c : Nat) (s : State) : Option CacheEnt × State :=
  match (s.context c).heldHist with
  | some e => (some e, s)
  | none =>
    if (s.context c).histFailed then (none, s)
    else match s.checkHist c with
      | some e => (some e, updCtx c (fun x => { x with heldHist := some e }) s)
      | none => (none, updCtx c (fun x => { x with histFailed := true }) (rcFlag (rCtxStatus c) 3 s))

/-- What a completed descriptor held is free again: tiles, windows, its COPY engine (R184, R187). -/
def releaseLive (l : Live) (s : State) : State :=
  let s1 := forEach l.tiles (fun t s => if (s.tile t).live == some l.id then
    updTile t (fun x => { x with live := none, ending := none, reported := false, stall := .wfi, mode := .machine }) s
    else s) s
  let s2 := forEach l.windows (fun w s => updCluster w.1 (fun k =>
    forEach w.2 (fun g k => { k with holder := Table.erase k.holder g, lastCtx := Table.set k.lastCtx g l.ctx }) k) s) s1
  let s3 := updCluster l.cluster (fun k => { k with copies := k.copies.filter (· != l.id) }) s2
  let s4 := { s3 with
    lives := s3.lives.filter (fun k => k.id != l.id),
    fab := { s3.fab with groups := s3.fab.groups.filter (fun g => g.live != l.id) } }
  let mine (w : Who) : Bool := match w with
    | .copy id => id == l.id
    | .reduce _ id => id == l.id
    | _ => false
  syncInFlight l.ctx (dropArrivals mine (endStalls (fun w _ => mine w) s4))

/-- The signal of R177. -/
def signalFence (l : Live) (s : State) : State :=
  if bit (wd l.words 0) 20 then
    let k := rCtxFenceN l.ctx (wf l.words 1 29 24)
    let v := wd l.words 4
    let s1 := if 0 < signed 32 (v + 2 ^ 32 - s.reg k) then setReg k v s else s
    forEach (s1.ringsOf l.ctx) (fun r s => updRing r (fun x => { x with fenceLook := true }) s) s1
  else s

/-- A descriptor's record is written, unless SUPPRESS_OK suppresses it. -/
def Live.records (l : Live) (cause : Nat) : Bool := !(bit (wd l.words 0) 17 && cause == 0)

/-- A descriptor's completion writes a histogram block (R181). -/
def State.writesHist (s : State) (l : Live) : Bool := l.opcode == 1 && !l.poison && s.rb (rCqCtrl l.ctx) 5

/-- The slot of the completion ring of context `c` that is written next. -/
def State.cqSlot (s : State) (c : Nat) : Nat := s.reg (rCqTail c) % 2 ^ s.rf (rCqCtrl c) 4 0

/-- Where a completion's write of an area stands: made, waiting for room in a request table (R365), or its area has failed
(R163). -/
inductive AreaRes where
  | made | waits | failed
  deriving DecidableEq, Repr

/-- Step 2 of R182: the histogram block, if there is one. -/
def blockStep (l : Live) (s : State) : AreaRes × State :=
  let c := l.ctx
  if s.writesHist l then
    match histArea c s with
    | (none, s1) => (.failed, s1)
    | (some e, s1) =>
      let va := s1.base55 (rCqHistBaseLo c) (rCqHistBaseHi c) + 320 * s1.cqSlot c
      if s1.heldWaits e va 320 then (.waits, s1)
      else (.made, storeHeld opRecord (.record c false) e va (histBlock l.hist) s1)
  else (.made, s)

/-- Step 3 of R182 but for the advance of CQ_TAIL: the record, if it is not suppressed. What RUN_CYCLES reads is open (log
entry 106). -/
def recordStep (l : Live) (cause detail : Nat) (s : State) : AreaRes × State :=
  let c := l.ctx
  if l.records cause then
    match cqArea c s with
    | (none, s1) => (.failed, s1)
    | (some e, s1) =>
      let va := s1.base55 (rCqBaseLo c) (rCqBaseHi c) + 32 * s1.cqSlot c
      if s1.heldWaits e va 32 then (.waits, s1)
      else
        let run := if l.opcode == 1 && !l.poison && l.started then fresh s1 else (0, s1)
        (.made, storeHeld opRecord (.record c false) e va (recordOf l cause detail
          (ringPhase (s1.reg (rCqTail c)) (s1.rf (rCqCtrl c) 4 0)) (s1.writesHist l) (run.1.toNat % 2 ^ 32)) run.2)
  else (.made, s)

/-- What follows the record `wrote` (R182 steps 3 to 5): CQ_TAIL advances, the signal, the interrupt, and what the
descriptor held is free. -/
def endLive (wrote : Bool) (l : Live) (s : State) : State :=
  let c := l.ctx
  let s1 := updCtx c (fun x => { x with waiting := x.waiting.drop 1 })
    (if wrote then setReg (rCqTail c) ((s.reg (rCqTail c) + 1) % 2 ^ 32) s else s)
  let s2 := signalFence l s1
  let s3 := if wrote && bit (wd l.words 0) 18 && s2.rb (rCqCtrl c) 6 then
      sendVector (s2.owner c) (s2.rf (rCqCtrl c) 18 7) s2 else s2
  releaseLive l s3

/-- An area of a completing descriptor has failed: the record waits for an invalidation, or a drain discards it (R163). -/
def areaLost (l : Live) (s : State) : Bool × State :=
  if s.ctxState l.ctx == 2 then (true, endLive false l s) else (false, s)

/-- A record or block of context `c`'s completions is still to be accepted by its home (R182). -/
def State.recordUnderway (s : State) (c : Nat) : Bool := s.underway (· == .record c false)

/-- Steps 3 to 5 of R182, once the block is accepted. -/
def completeRecord (l : Live) (cause detail : Nat) (s : State) : Bool × State :=
  let r := if l.step < 2 then recordStep l cause detail s else (.made, s)
  match r.1 with
  | .waits => (false, r.2)
  | .failed => areaLost l r.2
  | .made =>
    let s1 := updLive l.id (fun l => { l with step := 2 }) r.2
    if s1.recordUnderway l.ctx then (false, s1) else (true, endLive (l.records cause) l s1)

/-- Steps 2 to 5 of R182 for the descriptor `l` that ends with `cause`, as far as they go, and whether they end: each
step begins once what the one before it wrote has been accepted. -/
def completeLive (l : Live) (cause detail : Nat) (s : State) : Bool × State :=
  let r := if l.step = 0 then blockStep l s else (.made, s)
  match r.1 with
  | .waits => (false, r.2)
  | .failed => areaLost l r.2
  | .made =>
    let s1 := updLive l.id (fun l => { l with step := max 1 l.step }) r.2
    if s1.recordUnderway l.ctx && l.step < 2 then (false, s1) else completeRecord l cause detail s1

/-- The completions of context `c` go on in order, as far as they can; `n` bounds their number. -/
def advanceCq : Nat → Nat → State → State
  | 0, _, s => s
  | n + 1, c, s =>
    match (s.context c).waiting with
    | [] => s
    | id :: _ =>
      match (s.liveOf? id).bind (fun l => l.finished.map (fun k => (l, k))) with
      | none => s
      | some (l, cause, detail) =>
        let r := completeLive l cause detail s
        if r.1 then advanceCq n c r.2 else r.2

/-- The completions of context `c` go on. -/
def runCq (c : Nat) (s : State) : State := advanceCq (s.context c).waiting.length c s

/-- A descriptor that ends takes its place behind those of its context that complete, one that writes nothing too (DESIGN
CHOICE, log entry 113), and they go on. -/
def finishLive (id : Nat) (s : State) : State :=
  match (s.liveOf? id).bind (fun l => (s.endOf? l).map (fun k => (l, k))) with
  | none => s
  | some (l, k) =>
    if (s.context l.ctx).waiting.contains id then runCq l.ctx s
    else runCq l.ctx (updLive id (fun l => { l with finished := some k })
      (updCtx l.ctx (fun x => { x with waiting := x.waiting ++ [id] }) s))

/-- The areas of context `c` are tried again, and what waits for them is written in order (R163). -/
def retryAreas (c : Nat) (s : State) : State :=
  runCq c (deliverWaiting c (updCtx c (fun x => { x with cqFailed := false, histFailed := false, fltFailed := false }) s))

/-- DESCRIPTOR_COMPLETE (R182). -/
def execDescriptorComplete (id : Nat) (s : State) : Host.Outcome State Fault Refusal := .next (finishLive id s)

/-! ### The life cycle of a context (R188 to R190) -/

/-- Every count and fence counter of context `c` at zero. -/
def zeroCounts (c : Nat) (s : State) : State :=
  let s1 := forEach (s.ringsOf c) (fun r s => setReg (rRingHead r) 0
    (updRing r (fun _ => Ring.init) s)) s
  let s2 := forEach (List.range 64) (fun n s => setReg (rCtxFenceN c n) 0 s) s1
  setReg (rCqHead c) 0 (setReg (rCqTail c) 0 (setReg (rCtxFltHead c) 0 (setReg (rCtxFltTail c) 0 s2)))

/-- CTX_STATUS.STATE set. -/
def setCtxState (c st : Nat) (s : State) : State := setRf (rCtxStatus c) 1 0 st s

/-- The checks of R163 and R188: the translations to hold, if all pass. -/
def State.activation? (s : State) (c : Nat) : Option (CacheEnt × Option CacheEnt × CacheEnt) :=
  if (aliasOf? (s.ptRoot c)).isNone then none
  else match s.checkCq c, s.checkFlt c with
    | some q, some f =>
      if s.rb (rCqCtrl c) 5 then (s.checkHist c).map (fun h => (q, some h, f)) else some (q, none, f)
    | _, _ => none

/-- A context in OFF that is enabled: ACTIVE, or CFG_ERROR (R163, R188); `kept` the doorbells of R189. -/
def activate (c : Nat) (kept : Table Nat) (s : State) : State :=
  match s.activation? c with
  | none => setRf (rCtxCtrl c) 0 0 0 (rcFlag (rCtxStatus c) 3 (setCtxState c 0 s))
  | some (q, h, f) =>
    let s1 := setCtxState c 1 (setRf (rCtxCtrl c) 0 0 1 (zeroCounts c s))
    let s2 := updCtx c (fun _ => { Ctx.init with heldCq := some q, heldHist := h, heldFlt := some f }) s1
    let s3 := forEach (s2.ringsOf c) (fun r s => if s.ringOn r then openRing r s else s) s2
    forEach kept (fun e s => doorbell e.1 e.2 s) s3

/-- The drain of R188 begins. -/
def startDrain (c cause : Nat) (s : State) : State :=
  let s1 := setCtxState c 2 (setRf (rCtxCtrl c) 0 0 0 s)
  let s2 := drainGroups c (forEach (s1.ringsOf c) stopRing s1)
  let s3 := { s2 with lives := s2.lives.map (fun l => if l.ctx = c then { l with stopping := true } else l) }
  runCq c (dropFaults c (updCtx c (fun x => { x with drainCause := cause, kept := [] }) s3))

/-- The owner of context `c` is a virtual function whose TDI is in CONFIG_LOCKED (R414). -/
def State.tdiLocked (s : State) (c : Nat) : Bool := (s.fn (s.owner c)).tdi == .locked

/-- A write of ENABLE to CTX_CTRL of context `c` (R188, R189); while its TDI is in CONFIG_LOCKED an enable waits
(R414). -/
def writeEnable (c : Nat) (on : Bool) (s : State) : State :=
  let st := s.ctxState c
  if on then
    if st = 0 ∧ s.tdiLocked c = true then setRf (rCtxCtrl c) 0 0 1 (setRf (rCtxStatus c) 2 2 1 s)
    else if st = 0 then activate c [] s
    else if st = 1 then s
    else setRf (rCtxCtrl c) 0 0 1 (setRf (rCtxStatus c) 2 2 1 s)
  else if st = 1 then startDrain c 0x40 s
  else setRf (rCtxCtrl c) 0 0 0 (setRf (rCtxStatus c) 2 2 0 (updCtx c (fun x => { x with kept := [] }) s))

/-- CONTEXT_ENABLE. -/
def execContextEnable (c : Fin 4096) (s : State) : Host.Outcome State Fault Refusal := .next (writeEnable c true s)

/-- CONTEXT_DRAIN. -/
def execContextDrain (c : Fin 4096) (s : State) : Host.Outcome State Fault Refusal := .next (writeEnable c false s)

/-- A function-level reset drains a context of its function, and cancels an enable that waits (R188, R189). -/
def resetContext (c : Nat) (s : State) : State :=
  let st := s.ctxState c
  if st = 1 then startDrain c 0x41 s
  else if st = 2 ∨ st = 3 then
    updCtx c (fun x => { x with drainCause := 0x41 }) (writeEnable c false s)
  else writeEnable c false s

/-- A requester of context `c`'s own areas has something outstanding, or a record of it is still to be accepted. -/
def State.ctxBusy (s : State) (c : Nat) : Bool :=
  s.lives.any (fun l => l.ctx == c) || s.underway (fun w => match w with
    | .record k _ => k == c
    | _ => false) ||
  s.awaits (fun w => match w with
    | .dispatcher r => s.ringCtx r == c
    | _ => false)

/-- What context `c` held last in a cluster is none of a later instance's: it is zeroed before it is granted again (R187,
R189). -/
def Cluster.forget (c : Nat) (k : Cluster) : Cluster :=
  { k with lastCtx := k.lastCtx.map (fun e => (e.1, if e.2 = c then 4096 else e.2)) }

/-- CONTEXT_QUIESCED (R188 steps 4 and 5): what the context held is released. -/
def execContextQuiesced (c : Fin 4096) (s : State) : Host.Outcome State Fault Refusal :=
  .next (
    if s.ctxState c == 2 && !s.ctxBusy c then
      let kept := (s.context c).kept
      let s1 := zeroCounts c (setCtxState c 3 s)
      let s2 := updCtx c (fun x => { Ctx.init with kept := kept, drainCause := x.drainCause }) s1
      let s3 := updXlt (fun x => { x with ctc := x.ctc.map (fun l => l.filter (fun e => e.ctx != c.val)) }) s2
      { s3 with
        clusters := s3.clusters.map (Cluster.forget c),
        tiles := s3.tiles.map (fun x => if x.prevCtx = some c.val then { x with prevCtx := none } else x) }
    else s)

/-- CONTEXT_OFF (R188 step 6, R189). -/
def execContextOff (c : Fin 4096) (s : State) : Host.Outcome State Fault Refusal :=
  .next (
    if s.ctxState c == 3 then
      let s1 := setRf (rCtxStatus c) 2 2 0 (setCtxState c 0 s)
      if s.rb (rCtxStatus c) 2 && s.tdiLocked c then setCtxState c 0 s
      else if s.rb (rCtxStatus c) 2 then activate c (s.context c).kept s1
      else updCtx c (fun _ => Ctx.init) s1
    else s)

/-- RING_CTRL.ENABLE of ring `r` set (R163). -/
def enableRing (r : Nat) (s : State) : State :=
  if s.ringOn r then s
  else
    let s1 := setRf (rRingCtrl r) 0 0 1 s
    if s1.ctxState (s1.ringCtx r) = 1 then openRing r s1 else s1

/-- RING_CTRL.ENABLE of ring `r` cleared (R190). -/
def disableRing (r : Nat) (s : State) : State := stopRing r (setRf (rRingCtrl r) 0 0 0 s)

/-- RING_ENABLE. -/
def execRingEnable (r : Fin 16384) (s : State) : Host.Outcome State Fault Refusal := .next (enableRing r s)

/-- RING_DISABLE. -/
def execRingDisable (r : Fin 16384) (s : State) : Host.Outcome State Fault Refusal := .next (disableRing r s)

/-- A write of CQ_HEAD: ignored where it would place it beyond CQ_TAIL (R179). -/
def writeCqHead (c v : Nat) (s : State) : State :=
  if (s.reg (rCqTail c) + 2 ^ 32 - v) % 2 ^ 32 < 2 ^ 31 then setReg (rCqHead c) v s else s

/-- CQ_HEAD_WRITE. -/
def execCqHeadWrite (c : Fin 4096) (v : BitVec 32) (s : State) : Host.Outcome State Fault Refusal :=
  .next (writeCqHead c v.toNat s)

end Sys2Proof.Machine
end

