-- ==== Sys2Proof/Machine/Endpoint.lean ====
section
/-!
DEFINITION. The host endpoint: link and resets (R390 to R392), what it serves (R393 to R397), reads and their ends
(R398, R399), errors and containment (R400 to R403), gates (R404, R405), function-level reset (R406 to R409), MSI-X
(R410), the states of the TDIs (R413 to R415), and the context aperture (R285, R543).
-/
namespace Sys2Proof.Machine

/-! ### Resets of the hub (R392, R419) -/

/-- The word of a life-cycle state (R466), by its code of R468. -/
def lcWord (code : Nat) : Nat :=
  match code with
  | 1 => 0xFF
  | 2 => 0xFFFF
  | 3 => 0xFFFFFF
  | 4 => 0xFFFFFFFF
  | _ => 0

/-- One life-cycle word of which `n` bytes, from B3 down, are burned and of the next one the bits `mask` (R469). -/
def burnWord (w target n mask : Nat) : Nat :=
  (List.range 4).foldl (fun v i =>
    let j := 3 - i
    let t := bits target (8 * j + 7) (8 * j)
    if i < n then v ||| (t * 2 ^ (8 * j)) else if i = n then v ||| ((t &&& mask) * 2 ^ (8 * j)) else v) w

/-- The one-time-programmable memory as a reset leaves it, with the model's counter: a life-cycle burn under way is cut
short at a point that the spec leaves open (R469, R550). -/
def State.burnCut (s : State) : Otp × Nat :=
  match s.sec.lcMove with
  | none => (s.sec.otp, s.free)
  | some m =>
    let f := (fresh s).1.toNat
    let n := f % 9
    let mask := f / 16 % 256
    let o := s.sec.otp
    ({ o with lcA := burnWord o.lcA (lcWord m.dst) (min n 4) (if n < 4 then mask else 0),
              lcB := if n < 4 then o.lcB else burnWord o.lcB (lcWord m.dst) (n - 4) (if n < 8 then mask else 0) },
      s.free + 1)

/-- The pins that a reset lets go: GPIO2 falls with READY, and THERMTRIP_N and GPIO3 are driven low no longer (R501,
R547). -/
def pinsBack (s : State) : List Out :=
  (if s.ready then [.pin "GPIO2" 0] else []) ++ (if s.pins.gpio3Low then [.pin "GPIO3" 1] else []) ++
    (if s.pins.thermtripLow then [.pin "THERMTRIP_N" 1] else [])

/-- The whole hub is reset as by its reset pin: what is left is the one-time-programmable memory, the queue, what
has left the hub, and the model's counter of free values. -/
def hubReset (st : ResetState) (s : State) : State :=
  let b := s.burnCut
  let r := State.resetWith b.1
  { r with
    pending := s.pending, out := pinsBack s ++ s.out, free := b.2,
    boot := { r.boot with reset := st },
    pins := { r.pins with strap := s.pins.strap, resetLow := s.pins.resetLow } }

/-- HOT_RESET: bring-up starts again at S0 (R392). -/
def execHotReset (s : State) : Host.Outcome State Fault Refusal :=
  .next (if s.boot.reset = .held then s else hubReset .running s)

/-! ### The link (R391, R392) -/

/-- Transfer rate of a RATE code in GT/s, times two. -/
def rateOf (code : Nat) : Nat :=
  match code with
  | 1 => 5
  | 2 => 10
  | 3 => 16
  | 4 => 32
  | 5 => 64
  | 6 => 128
  | 7 => 256
  | _ => 0

/-- The host port's capacities (R350, R391). -/
def syncHostCap (s : State) : State :=
  let lanes := if s.rb rHifStatus 0 then s.rf rHifStatus 8 4 * rateOf (s.rf rHifStatus 3 1) / 256 else 0
  setCap 57 (lanes * 50) (setCap 56 (lanes * 50) s)

/-- The link comes up at a rate and a width. -/
def linkUp (rate width : Nat) (s : State) : State :=
  syncHostCap (setRf rHifStatus 8 0 (1 + rate * 2 + width * 16) s)

/-- HOST_LINK_RETRAINED: after READY the link is back at a rate and width, and the host port's record follows (R38,
R391). -/
def execHostLinkRetrained (rate : Fin 8) (width : Fin 17) (s : State) : Host.Outcome State Fault Refusal :=
  .next (if !s.running || rate.val = 0 || width.val = 0 then s
    else
      let full := rate.val = 7 ∧ width.val = 16
      rewriteUnits [(unitKey uHost 0, fun u => { u with
        status := if full then stGood else stDegraded, cause := if full then ccNone else ccLane, width := width })]
        (linkUp rate width s))

/-! ### Errors and containment (R400 to R403) -/

/-- A bit of a function's Uncorrectable Error Status register. -/
def logError (f b : Nat) (s : State) : State :=
  let v := Table.get 0 s.host.errs f
  if bit v b then s else { s with host := { s.host with errs := Table.set s.host.errs f (v + 2 ^ b) } }

/-- The reset value of the Uncorrectable Error Severity register in PCI Express. -/
def aerSeverityReset : Nat := 0x00462030
/-- The reset value of the Uncorrectable Error Mask register in PCI Express. -/
def aerMaskReset : Nat := 0x00400000

/-- ERR_FATAL or ERR_NONFATAL, by severity and the reporting enables, while the link is up (R401 step 3). -/
def sendError (b : Nat) (s : State) : State :=
  let fatal := bit (Table.get aerSeverityReset s.host.severity 0) b
  if s.rb rHifStatus 0 && (if fatal then s.host.fatalOn else s.host.nonfatalOn) then emit (.errMessage fatal) s else s

/-- The port enters containment with a cause (R401 steps 1, 2 and 4). -/
def contain (cause : Nat) (s : State) : State :=
  if s.rb rHifStatus 9 then s
  else opRecord 0x0701 true [cause] (syncGates (setRf rHifContain 6 2 cause (setRf rHifStatus 9 9 1 s)))

/-- After a transit failure: ERR_FATAL, containment with CAUSE 0x1F, and HIF_STATUS.TRANSIT_FAILED (R403). -/
def hostTransitFailed (s : State) : State :=
  let s1 := if s.rb rHifStatus 0 then emit (.errMessage true) s else s
  setRf rHifContain 6 2 0x1F (setRf rHifStatus 10 10 1 (contain 0x1F s1))

/-- HIF_FN_f_STATUS.TDI_STATE follows the TDI. -/
def syncTdi (f : Nat) (s : State) : State :=
  setRf (rHifFnFStatus f) 3 2 (match (s.fn f).tdi with
    | .unlocked => 0
    | .locked => 1
    | .run => 2
    | .error => 3) s

/-- A TDI takes a state, and its gate follows. -/
def setTdi (f : Nat) (t : Tdi) (s : State) : State := syncGate f (syncTdi f (updFn f (fun n => { n with tdi := t }) s))

/-- The contexts a function owns that are not OFF, or whose enable waits. -/
def State.liveCtxs (s : State) (f : Nat) : List Nat :=
  (s.regs.val.filterMap (fun e => if e.1 < 0x80000 ∧ e.1 % 128 = 8 then some (e.1 / 128) else none)).filter
    (fun c => s.owner c == f && (s.ctxState c != 0 || s.rb (rCtxStatus c) 2))

/-- A TDI enters ERROR (R415): its gate shuts, its contexts drain, and one TDI_ERROR record is raised. -/
def tdiError (f reason : Nat) (s : State) : State :=
  if f = 0 ∨ ((s.fn f).tdi ≠ .locked ∧ (s.fn f).tdi ≠ .run) then s
  else
    let s1 := setTdi f .error s
    opRecord 0x0704 true [f, reason] (forEach (s1.liveCtxs f) (fun c s => writeEnable c false s) s1)

/-- The locked value that a write changed, as the reason of TDI_ERROR carries it: a context or page-table root or a host
window (1), a BAR (2), Memory Space Enable (3), operator debug (4), the IDE stream (5). -/
abbrev tdiLockedValue : Nat := 1
/-- A BAR. -/
abbrev tdiBar : Nat := 2
/-- Memory Space Enable. -/
abbrev tdiMse : Nat := 3
/-- Operator debug. -/
abbrev tdiDebug : Nat := 4
/-- The IDE stream. -/
abbrev tdiStream : Nat := 5

/-- An uncorrectable port error (R400, R401): logged, reported and contained; an IDE check failure sends its stream to
Insecure and the TDIs bound to it to ERROR (R412). -/
def portError (b : Nat) (stream : Option Nat) (s : State) : State :=
  let s1 := match stream with
    | none => s
    | some k =>
      let s1 := { s with host := { s.host with streams := s.host.streams.filter (· != k) } }
      forEach (List.range 128) (fun f s => if (s.fn f).stream = some k then tdiError f tdiStream s else s) s1
  contain b (sendError b (logError 0 b s1))

/-- PORT_UNCORRECTABLE_ERROR: the AER bit of the error, and the IDE stream of a failed IDE check. -/
def portUncorrectableErrorEvent (b : Fin 32) (stream : Option (Fin 8)) (s : State) :
    Host.Outcome State Fault Refusal :=
  .next (portError b (stream.map (·.val)) s)

/-- HOST_LINK_DOWN: a link-down that the port survives is an uncorrectable port error, Surprise Down (R392). -/
def hostLinkDownEvent (s : State) : Host.Outcome State Fault Refusal :=
  .next (if s.rb rHifStatus 0 then portError 5 none (syncHostCap (setRf rHifStatus 8 0 0 s)) else s)

/-- An unmasked bit is set in some Uncorrectable Error Status register. -/
def State.errorsOpen (s : State) : Bool :=
  s.host.errs.any (fun e => decide (e.2 &&& (2 ^ 32 - 1 - Table.get aerMaskReset s.host.masks e.1) ≠ 0))

/-- A write of 1 to HIF_CONTAIN.RELEASE (R402, R403). -/
def releaseContain (s : State) : State :=
  if s.rb rHifStatus 0 && !s.errorsOpen && !s.rb rHifStatus 10 then
    if s.rb rHifStatus 9 then
      let s1 := syncGates (setRf rHifStatus 9 9 0 (unisolate uHost 0 s))
      let s2 := forEach (List.range 128) (fun f s =>
        if (s.fn f).frsHeld then emit (.frs f) (updFn f (fun n => { n with frsHeld := false }) s) else s) s1
      opRecord 0x0702 true [] s2
    else s
  else rcFlag rHifContain 1 s

/-- CONTAINMENT_RELEASE. -/
def containmentReleaseEvent (s : State) : Host.Outcome State Fault Refusal := .next (releaseContain s)

/-! ### Reads sent to the host (R398, R399) -/

/-- A read has ended: its entry leaves. -/
def endRead (q : HostReq) (s : State) : State :=
  { s with host := { s.host with reads := s.host.reads.filter (fun r => r.tag != q.tag) } }

/-- A read fails with a DETAIL of R399; a descriptor fetch that a shut gate or containment ended is started again
later instead. -/
def failRead (q : HostReq) (detail : Nat) (s : State) : State :=
  let again : Bool := (detail == 5 || detail == 6) && (match q.who with
    | .dispatcher _ => true
    | _ => false)
  let s1 := endRead q s
  if again then updPlz (fun p => { p with asked := p.asked.filter (fun a => a != (q.who, q.key)) }) s1
  else arrive q.who q.key 0 (some (hostMark detail)) s1

/-- A completion of the host (R399). -/
def hostCompletion (tag : Nat) (st : CplStatus) (bytes : List Byte) (s : State) : State :=
  match s.host.reads.find? (fun r => r.tag == tag) with
  | some q =>
    match st with
    | .ok => arrive q.who q.key (BitVec.ofNat 512 (bytesToNat bytes)) none (countUnits blkHost 1 1 (endRead q s))
    | .ur => failRead q 2 (logError q.fn 20 s)
    | .ca => failRead q 3 (logError q.fn 15 s)
    | .ep => failRead q 4 (logError q.fn 12 s)
  | none =>
    if s.host.retired.contains tag then
      { s with host := { s.host with retired := s.host.retired.filter (· != tag) } }
    else logError 0 16 s

/-- A read has timed out (R398, R399); `quiet` says that a HOST_TIMEOUT record of the function is less than 1 ms old. -/
def timeoutRead (tag : Nat) (quiet : Bool) (s : State) : State :=
  match s.host.reads.find? (fun r => r.tag == tag) with
  | none => s
  | some q =>
    let s1 := failRead q 1 (logError q.fn 14 (countEvent blkHost 0x74 none none none 1 s))
    if quiet then s1 else opRecord 0x0703 false (q.fn :: words2 (targetPa q.key)) s1

/-! ### Configuration writes (R398, R404, R408 to R410, R414) -/

/-- One configuration write takes effect. -/
def applyCfg (f : Nat) (w : CfgWrite) (s : State) : State :=
  match w with
  | .mse on =>
    let s1 := updFn f (fun n => { n with mse := on }) s
    if on then s1 else tdiError f tdiMse s1
  | .bme on => syncGate f (updFn f (fun n => { n with bme := on }) s)
  | .d0 on => syncGate f (updFn f (fun n => { n with d0 := on }) s)
  | .cto v => updFn f (fun n => { n with cto := v }) s
  | .msix e m => sendPending f (updFn f (fun n => { n with msixEnable := e, msixMask := m }) s)
  | .bar i v =>
    let s1 := updFn f (fun n => { n with bars := Table.set n.bars i v.toNat }) s
    if Table.get 0 (s.fn f).bars i = v.toNat then s1 else tdiError f tdiBar s1
  | .numVfs n => if f = 0 ∧ s.host.vfEnable = false then { s with host := { s.host with numVfs := n } } else s
  | .vfEnable on =>
    if f = 0 ∧ on = true then
      forEach (List.range 128) (fun g s =>
        if g ≠ 0 ∧ g ≤ s.host.numVfs then syncGate g (updFn g (fun n => { n with present := true }) s) else s)
        { s with host := { s.host with vfEnable := true } }
    else s
  | .aerMask v => { s with host := { s.host with masks := Table.set s.host.masks f v.toNat } }
  | .aerSeverity v => { s with host := { s.host with severity := Table.set s.host.severity f v.toNat } }
  | .aerClear v =>
    let e := Table.get 0 s.host.errs f
    { s with host := { s.host with errs := Table.set s.host.errs f (e &&& (2 ^ 32 - 1 - v.toNat)) } }
  | .errEnables a b => if f = 0 then { s with host := { s.host with fatalOn := a, nonfatalOn := b } } else s

/-! ### Function-level reset (R406 to R409) -/

/-- The register that a configuration write writes. -/
def cfgReg : CfgWrite → Nat
  | .mse _ => 0
  | .bme _ => 1
  | .d0 _ => 2
  | .cto _ => 3
  | .msix _ _ => 4
  | .numVfs _ => 5
  | .vfEnable _ => 6
  | .aerMask _ => 7
  | .aerSeverity _ => 8
  | .aerClear _ => 9
  | .errEnables _ _ => 10
  | .bar i _ => 16 + i.val

/-- Of recorded writes, the last of each register (R408). -/
def lastWrites : List CfgWrite → List CfgWrite
  | [] => []
  | w :: l => if l.any (fun x => cfgReg x == cfgReg w) then lastWrites l else w :: lastWrites l

/-- Steps 1 to 3 of R406 for one function: the gate shuts, tags are retired, contexts drain. -/
def startFlr (f : Nat) (s : State) : State :=
  if (s.fn f).flr then s
  else
    let s1 := syncGate f (setRf (rHifFnFStatus f) 1 1 1 (updFn f (fun n => { n with flr := true, recorded := [] }) s))
    let mine := s1.host.reads.filter (fun q => q.fn == f)
    let s2 := { s1 with host := { s1.host with retired := s1.host.retired ++ mine.map (·.tag) } }
    let s3 := forEach mine (fun q s => failRead q 5 s) s2
    forEach (s3.liveCtxs f) resetContext s3

/-- The virtual functions that are present. -/
def State.vfs (s : State) : List Nat := (List.range 128).filter (fun f => f != 0 && (s.fn f).present)

/-- An FLR of a function; one of the physical function resets every function with it (R407, R409). -/
def flr (f : Nat) (s : State) : State :=
  if f = 0 then
    if (s.fn 0).flr then s else startFlr 0 (forEach s.vfs startFlr s)
  else if (s.fn f).present then startFlr f s else s

/-- FLR: a write of Initiate FLR. -/
def flrEvent (f : Fin 128) (s : State) : Host.Outcome State Fault Refusal := .next (flr f s)

/-- CONFIG_WRITE: a configuration write takes effect, or is recorded during an FLR (R408). Clearing VF Enable resets
every virtual function (R409). -/
def execConfigWrite (f : Fin 128) (w : CfgWrite) (s : State) : Host.Outcome State Fault Refusal :=
  .next (
    if !(s.fn f).present then s
    else if (s.fn f).flr then updFn f (fun n => { n with recorded := n.recorded ++ [w] }) s
    else match w with
      | .vfEnable on =>
        if f.val = 0 ∧ on = false then
          forEach s.vfs startFlr { s with host := { s.host with vfEnable := false } }
        else applyCfg f w s
      | _ => applyCfg f w s)

/-- The registers at the keys that satisfy `p` return to their reset values. -/
def resetRegs (p : Nat → Bool) (s : State) : State :=
  { s with regs := {
      val := s.regs.val.filter (fun e => !p e.1),
      force := s.regs.force.filter (fun e => !p e.1),
      rc := s.regs.rc.filter (fun e => !p (e.1 % 2 ^ 40)) } }

/-- The fields of a register that a virtual function can write return to their reset values. -/
def resetWritable (k : Nat) (s : State) : State :=
  let fs := (regFields k).filter (fun f => f.acc == .rw || f.acc == .w1s)
  let v := mergeFields fs (s.reg k) (regReset k)
  let s1 := setReg k v s
  { s1 with regs := { s1.regs with force := Table.erase s1.regs.force k } }

/-- The written registers of contexts that a function owns, and of their rings. -/
def State.ctxKeys (s : State) (f : Nat) : List Nat :=
  (s.regs.val.map (·.1)).filter (fun k =>
    (decide (k < 0x80000) && s.owner (k / 128) == f) ||
    (decide (rRingCtrl 0 ≤ k ∧ k < rRingCtrl 16384) && s.owner (s.ringCtx ((k - rRingCtrl 0) / 16)) == f) ||
    (decide (rCtxFenceN 0 0 ≤ k ∧ k < rCtxFenceN 4096 0) && s.owner ((k - rCtxFenceN 0 0) / 256) == f))

/-- CTX_, CQ_, RING_, FLT_, XLT_INV_ and HWIN_ registers (R407). -/
def pfResetKey (k : Nat) : Bool :=
  decide (k < 0x80000) || decide (rRingCtrl 0 ≤ k ∧ k < rCtxFenceN 4096 0) || k % 2 ^ 30 == rRingSel ||
  decide (0xC0020 ≤ k % 2 ^ 30 ∧ k % 2 ^ 30 < 0xC0030) || decide (0x100080 ≤ k ∧ k < 0x1000A8) || decide (0x110000 ≤ k ∧ k < 0x114000)

/-- Steps 4 and 5 of R406 for one function. -/
def finishFlr (f : Nat) (s : State) : State :=
  let n := s.fn f
  let s1 := if f = 0 then resetRegs pfResetKey { s with rings := [], ctxs := [] }
    else forEach (s.ctxKeys f) resetWritable s
  let s2 := updFn f (fun _ => { Fn.init with present := n.present && (f == 0 || s.host.vfEnable) }) s1
  let s3 := { s2 with host := { s2.host with
    errs := Table.erase s2.host.errs f, masks := Table.erase s2.host.masks f,
    severity := Table.erase s2.host.severity f,
    fatalOn := s2.host.fatalOn && f != 0, nonfatalOn := s2.host.nonfatalOn && f != 0 } }
  let s4 := forEach (lastWrites n.recorded) (applyCfg f) (syncTdi f (setRf (rHifFnFStatus f) 1 1 0 s3))
  let s5 := syncGate f s4
  if s5.rb rHifStatus 9 then updFn f (fun n => { n with frsHeld := true }) s5 else emit (.frs f) s5

/-- FLR_DONE: once every context of the function is OFF (R406 steps 4 and 5); that of the physical function completes
the others with it (R409). -/
def execFlrDone (f : Fin 128) (s : State) : Host.Outcome State Fault Refusal :=
  .next (
    if f.val = 0 then
      let fs := 0 :: (List.range 128).filter (fun g => g != 0 && (s.fn g).flr)
      if !(s.fn 0).flr || fs.any (fun g => !(s.liveCtxs g).isEmpty) then s
      else forEach fs finishFlr { s with host := { s.host with vfEnable := false, numVfs := 0 } }
    else if !(s.fn f).flr || (s.fn 0).flr || !(s.liveCtxs f).isEmpty then s
    else finishFlr f s)

/-! ### MSI-X (R410) -/

/-- A write to a function's MSI-X table or control: a vector that nothing holds back any longer is sent. -/
def writeMsix (f : Nat) (w : MsixWrite) (s : State) : State :=
  match w with
  | .control e m => applyCfg f (.msix e m) s
  | .entry v k d =>
    if vectors f ≤ v.val then s
    else sendPending f (updFn f (fun n =>
      let e := n.entry v
      let e' : MsixEntry := match k.val with
        | 0 => { e with addr := setBits e.addr 31 0 d.toNat }
        | 1 => { e with addr := setBits e.addr 63 32 d.toNat }
        | 2 => { e with data := d.toNat }
        | _ => { e with masked := d.toNat % 2 == 1 }
      { n with msix := Table.set n.msix v e' }) s)

/-- The port serves memory requests to function `f`'s BAR0 (R397, R401, R408, R415, R419). -/
def State.mmio (s : State) (f : Nat) : Bool :=
  let n := s.fn f
  n.present && n.mse && n.d0 && !n.flr && n.tdi != .error && ((s.ready && !s.rb rHifStatus 9) || f == 0)

/-- MSIX_TABLE_WRITE. -/
def execMsixTableWrite (f : Fin 128) (w : MsixWrite) (s : State) : Host.Outcome State Fault Refusal :=
  .next (
    let served := match w with
      | .control _ _ => true
      | .entry _ _ _ => s.mmio f && s.ready
    if (s.fn f).present && !(s.fn f).flr && served then writeMsix f w s else s)

/-! ### What the port serves (R397, R401, R408, R414, R415, R419) -/

/-- How the port answers a memory request: it serves it, or completes a read with Unsupported Request or Completer
Abort (a write is then dropped). -/
inductive Served where
  | yes
  | ur
  | ca
  deriving DecidableEq, Repr

/-- What becomes of a memory request to a BAR of a function. -/
def State.serves (s : State) (t : HostTlp) (bar0 : Bool) : Served :=
  let n := s.fn t.fn
  let f := t.fn.val
  if !n.present || !n.mse || !n.d0 || n.flr || n.tdi == .error then .ur
  else if n.tdi == .run && t.stream.map (·.val) != n.stream then .ur
  else if s.rb rHifStatus 9 && !(f == 0 && bar0) then .ca
  else if !s.ready && !(f == 0 && bar0) then .ur
  else .yes

/-- A completion to the host. -/
def hostCpl (t : HostTlp) (status : Nat) (bytes : List Byte) (poisoned : Bool) (s : State) : State :=
  emit (.hostCpl t.fn t.tag.toNat status bytes poisoned) s

/-- A read of the host that is not served: Unsupported Request (1) or Completer Abort (4). -/
def failHostRead (t : HostTlp) (status : Nat) (s : State) : State :=
  hostCpl t status [] false (logError t.fn (if status = 1 then 20 else 15) s)

/-! ### The context aperture (R285, R397, R543) -/

/-- The slot of an access of function `f` at BAR2 offset `o`, if it is served: its context and virtual address. -/
def State.aptSlot? (s : State) (f o : Nat) (write : Bool) : Option (Nat × Nat) :=
  let z := if f = 0 then 2 ^ 32 else 2 ^ 26
  let i := o / z
  let ctrl := s.reg (fnKey f (rAptSCtrl i))
  let c := bits ctrl 13 2
  let lo := 2 ^ 26 * s.rf (fnKey f (rAptSVaLo i)) 31 26
  let va := 2 ^ 32 * s.rf (fnKey f (rAptSVaHi i)) 22 0 + (if f = 0 then 0 else lo) + o % z
  if i < 16 ∧ bit ctrl 0 = true ∧ s.owner c = f ∧ s.ctxState c = 1 ∧ (write = false ∨ bit ctrl 1 = true) then
    some (c, va % 2 ^ 55)
  else none

/-- An aperture access leaves. -/
def closeApt (id : Nat) (s : State) : State :=
  { s with host := { s.host with apt := s.host.apt.filter (fun q => q.id != id) } }

/-- An aperture access. -/
def State.apt? (s : State) (id : Nat) : Option AptReq := s.host.apt.find? (fun q => q.id == id)

/-- An aperture access changed. -/
def updApt (id : Nat) (f : AptReq → AptReq) (s : State) : State :=
  { s with host := { s.host with apt := s.host.apt.map (fun q => if q.id = id then f q else q) } }

/-- The completion of an aperture access. -/
def aptCpl (q : AptReq) (status : Nat) (bytes : List Byte) (poisoned : Bool) (s : State) : State :=
  emit (.hostCpl q.fn q.tag status bytes poisoned)
    (closeApt q.id (if status = 1 then logError q.fn 20 s else if status = 4 then logError q.fn 15 s else s))

/-- A read of the aperture goes on, unit by unit. -/
def aptRead (id i : Nat) (s : State) : State :=
  match s.apt? id with
  | none => s
  | some q =>
    if (Table.find? q.got i).isSome then s
    else
      let who := Who.host q.fn id
      match xlate who q.ctx ((q.va / 64 + i) % 2 ^ 49 * 64) .read s with
      | (.ok t _, s1) =>
        match agentRead opRecord who t 0 (s1.hostClass q.fn) s1 with
        | (some v, s2) => updApt id (fun q => { q with got := Table.set q.got i v }) s2
        | (none, s2) => s2
      | (.aborted, s1) => aptCpl q 4 [] false s1
      | (_, s1) => s1

/-- A write of the aperture goes on: the bytes of one 2 KiB granule at a time. -/
def aptWrite (q : AptReq) (s : State) : State :=
  let who := Who.host q.fn q.id
  let n := min q.bytes.length (2048 - q.va % 2048)
  match xlate who q.ctx q.va .write s with
  | (.ok t ent, s1) =>
    if s1.storeWaits t n then s1
    else
      let r := agentStore opRecord who (fun _ => none) (hintOf (s1.rf rPlzCtrl 13 10)) (s1.hostClass q.fn) (entMirror ent) (n + 1) 0 t (q.bytes.take n) s1
      if q.bytes.length ≤ n then closeApt q.id r.2
      else updApt q.id (fun q => { q with bytes := q.bytes.drop n, va := (q.va + n) % 2 ^ 55 }) r.2
  | (.aborted, s1) => closeApt q.id s1
  | (_, s1) => s1

/-- A write of the aperture goes on granule by granule as far as it can. -/
def aptWrites : Nat → Nat → State → State
  | 0, _, s => s
  | fuel + 1, id, s =>
    match s.apt? id with
    | none => s
    | some q =>
      let s1 := aptWrite q s
      if (s1.apt? id).map (·.bytes.length) = some q.bytes.length then s1 else aptWrites fuel id s1

/-- An AtomicOp through the aperture goes on (R397, R225). -/
def aptAtomic (q : AptReq) (op w x cmp : Nat) (s : State) : State :=
  let who := Who.host q.fn q.id
  let answer (v : UnitData × Option Mark) (a : Nat) (s : State) : State :=
    let old := natToBytes w (v.1.toNat / 2 ^ (8 * (a % 64)))
    aptCpl q 0 (if v.2.isSome then List.replicate w 0 else old) v.2.isSome s
  match xlate who q.ctx q.va .atomic s with
  | (.ok (.stacked k a) _, s1) =>
    let key := Tgt.stacked k (a / 64 * 64)
    if !atomicOk (a % 128) w op then aptCpl q 1 [] false s1
    else if s1.homeDead (lineKey k a) then answer (0, some absentMark) a s1
    else match takeArrival who key s1 with
      | some (v, s2) => answer v a s2
      | none =>
        if s1.plz.asked.contains (who, key) then s1
        else askUnits who key 1 (postTxn (.atomic (a % 128) w op x cmp) (.agent who (a / 64 % 2)) (lineKey k a) 0 0
          none none 0 false s1)
  | (.ok (.remote node win off) _, s1) =>
    let pay : UnitData := BitVec.ofNat 512 (x % 2 ^ 128 + 2 ^ 128 * (cmp % 2 ^ 128) + 2 ^ 256 * op + 2 ^ 264 * w)
    match agentAtomic who node win off (s1.hostClass q.fn) pay s1 with
    | (some v, s2) => answer v off s2
    | (none, s2) => s2
  | (.ok (.unassigned a) _, s1) => answer (0, some absentMark) a s1
  | (.ok _ _, s1) => aptCpl q 1 [] false s1
  | (.aborted, s1) => aptCpl q 4 [] false s1
  | (_, s1) => s1

/-- An aperture access goes on as far as it can. -/
def serveApt (id : Nat) (s : State) : State :=
  match s.apt? id with
  | none => s
  | some q =>
    match q.atomic with
    | some (op, w, x, cmp) => aptAtomic q op w x cmp s
    | none =>
      if q.write then aptWrites (q.bytes.length / 2048 + 2) id s
      else
        let n := (q.va + q.len - 1) / 64 - q.va / 64 + 1
        let s1 := forEach (List.range n) (fun i s => aptRead id i s) s
        match s1.apt? id with
        | none => s1
        | some q =>
          if q.got.length = n then
            let bad := q.got.any (fun e => e.2.2.isSome)
            let bs := q.got.flatMap (fun e => natToBytes 64 e.2.1.toNat)
            aptCpl q 0 (if bad then List.replicate q.len 0 else (bs.drop (q.va % 64)).take q.len) bad s1
          else s1

/-- Every aperture access goes on. -/
def serveApts (s : State) : State := forEach (s.host.apt.map (·.id)) serveApt s

/-- An aperture access enters, and goes on as far as it can. -/
def openApt (t : HostTlp) (ctx va len : Nat) (write : Bool) (atomic : Option (Nat × Nat × Nat × Nat))
    (bytes : List Byte) (s : State) : State :=
  let q : AptReq :=
    { id := s.host.nextApt, tag := t.tag.toNat, fn := t.fn, ctx := ctx, va := va, len := len, write := write,
      atomic := atomic, bytes := bytes, got := [] }
  serveApt q.id { s with host := { s.host with apt := s.host.apt ++ [q], nextApt := q.id + 1 } }

/-- A read of BAR2 (R543). -/
def readApt (t : HostTlp) (off len : Nat) (s : State) : State :=
  if len = 0 then hostCpl t 0 [] false s
  else match s.serves t false with
  | .ur => failHostRead t 1 s
  | .ca => failHostRead t 4 s
  | .yes =>
    match s.aptSlot? t.fn off false with
    | some (c, va) => openApt t c va len false none [] s
    | none => failHostRead t 1 s

/-- A write of BAR2 (R543); a poisoned one is dropped (R397). -/
def storeApt (t : HostTlp) (off : Nat) (bytes : List Byte) (s : State) : State :=
  if t.poisoned then logError t.fn 12 s
  else match s.serves t false with
  | .yes =>
    match s.aptSlot? t.fn off true with
    | some (c, va) => if bytes.isEmpty then s else openApt t c va bytes.length true none bytes s
    | none => s
  | _ => s

/-- APERTURE_ACCESS: a read of `len` bytes of BAR2 (none), or a write. -/
def execApertureAccess (t : HostTlp) (off : BitVec 36) (len : BitVec 13) (w : Option (List Byte)) (s : State) :
    Host.Outcome State Fault Refusal :=
  let s1 := countEvent blkHost 0x72 none none none 1 s
  .next (match w with
    | none => readApt t off.toNat len.toNat s1
    | some bs => storeApt t off.toNat bs s1)

/-- The AtomicOps that the port completes (R390): FetchAdd and Swap of 4 and 8 bytes, CAS of 4, 8 and 16. -/
def hostAtomicOk (op w : Nat) : Bool :=
  ((op == 0 || op == 1) && (w == 4 || w == 8)) || (op == 2 && (w == 4 || w == 8 || w == 16))

/-- HOST_ATOMICOP (R397): through the aperture it is the ATOMIC of R240; anywhere else it is an Unsupported Request. -/
def execHostAtomicop (t : HostTlp) (bar2 : Bool) (off : BitVec 36) (op : Fin 3) (w : Fin 17)
    (x cmp : BitVec 128) (s : State) : Host.Outcome State Fault Refusal :=
  let s1 := countEvent blkHost 0x72 none none none 1 s
  .next (match s1.serves t (!bar2) with
    | .ur => failHostRead t 1 s1
    | .ca => failHostRead t 4 s1
    | .yes =>
      match bar2 && hostAtomicOk op w, s1.aptSlot? t.fn off.toNat true with
      | true, some (c, va) => openApt t c va w true (some (op, w, x.toNat, cmp.toNat)) [] s1
      | _, _ => failHostRead t 1 s1)

end Sys2Proof.Machine
end

