-- ==== Sys2Proof/Machine/Deliver.lean ====
section
/-!
DEFINITION. The commands that answer what waits inside the hub: data, completions and acknowledgements of homes, of
other packages, of chiplets and of the host, and the losses that end them. After each, the requests of
chiplets, of fabric windows and of the host that waited go on, and failures of the hub's own writes end their work
(R66, R172, R236, R307, R376, R397).
-/
namespace Sys2Proof.Machine

/-- Writes of the hub's own requesters that have failed in another package end the work (R66, R172, R377, R385). -/
def endFailed (s : State) : State :=
  forEach s.plz.failed (fun e s =>
    match e.1 with
    | .tileDma t => failTile t 0x25 e.2 s
    | .copy id => copyWriteFail id e.2 s
    | .reduce _ id => updLive id (fun l => { l with
        firstFail := l.firstFail.or (some { cause := 0x25, detail := e.2, tile := 0xFFFF }) }) s
    | _ => s) (updPlz (fun p => { p with failed := [] }) s)

/-- Everything that waits goes on as far as it can. -/
def serveWaiting (s : State) : State := serveApts (serveWins (serveSites (endFailed s)))

/-- The outcome of a command with everything that waits served. -/
def settled (o : Host.Outcome State Fault Refusal) : Host.Outcome State Fault Refusal :=
  match o with
  | .next s => .next (serveWaiting s)
  | o => o

/-- RD_DATA: the answer of a read, or of an atomic, of another package (R365). Port 16 stands for what this package sends to
itself. -/
def execRdData (n : Fin 17) (s : State) : Host.Outcome State Fault Refusal := settled (.next (takeAnswer n 0x11 s))

/-- KFL_WR_ACK (R374). -/
def execKflWrAck (n : Fin 17) (s : State) : Host.Outcome State Fault Refusal := settled (.next (takeAnswer n 0x12 s))

/-- FAULT_WAIT_EXPIRY: an admitted request of a window has been stalled on a fault for FAULT_WAIT (R376). -/
def execFaultWaitExpiry (p : Fin 16) (id : Nat) (s : State) : Host.Outcome State Fault Refusal :=
  settled (.next (expireWin p id s))

/-- HOST_COMPLETION (R399). -/
def execHostCompletion (tag : Nat) (st : CplStatus) (bytes : List Byte) (s : State) :
    Host.Outcome State Fault Refusal :=
  settled (.next (hostCompletion tag st bytes s))

/-- COMPLETION_TIMEOUT (R398); `quiet` says that a HOST_TIMEOUT record of the function is less than 1 ms old. -/
def execCompletionTimeout (tag : Nat) (quiet : Bool) (s : State) : Host.Outcome State Fault Refusal :=
  settled (.next (timeoutRead tag quiet s))

/-- MEM_DATA answers a MEM_RD (R313); poisoned data carries TARGET_ABSENT (R311). -/
def execMemData (n : Fin 6) (s : State) : Host.Outcome State Fault Refusal :=
  settled (memDataEvent n s)

/-- MEM_ACK answers a MEM_WR (R313). -/
def execMemAck (n : Fin 6) (s : State) : Host.Outcome State Fault Refusal :=
  settled (memAckEvent n s)

/-- TGT_TIMEOUT: a TGT request has gone 100 µs without an answer (R313). -/
def execTgtTimeout (n : Fin 6) (txn : Fin 4096) (s : State) : Host.Outcome State Fault Refusal :=
  settled (tgtTimeoutEvent n txn s)

/-- CXL_MEM_RESPONSE: a CXL device answers the hub's read or write of its aperture (R314). -/
def execCxlMemResponse (n : Fin 6) (txn : Fin 4096) (data : UnitData) (poison : Bool) (s : State) :
    Host.Outcome State Fault Refusal :=
  settled (cxlMemResponseEvent n txn data poison s)

/-- BOND_FAIL: the chiplet finds a bond of its receive direction failing (R300, R301). -/
def execBondFail (n : Fin 6) (m : Fin 64) (b : Fin 96) (s : State) : Host.Outcome State Fault Refusal :=
  settled (bondFailEvent n m b s)

/-- SITE_REPAIR_TIMEOUT: the module is not back within 10 µs (R301, R302). -/
def execSiteRepairTimeout (n : Fin 6) (m : Fin 64) (s : State) : Host.Outcome State Fault Refusal :=
  settled (siteRepairTimeoutEvent n m s)

/-- RESET_NOTICE. -/
def execResetNotice (n : Fin 6) (s : State) : Host.Outcome State Fault Refusal :=
  settled (resetNoticeEvent n s)

/-- PLL_UNLOCK. -/
def execPllUnlock (n : Fin 6) (s : State) : Host.Outcome State Fault Refusal :=
  settled (pllUnlockEvent n s)

/-- SIDEBAND_LOST: no sideband message for 1 ms. -/
def execSidebandLost (n : Fin 6) (s : State) : Host.Outcome State Fault Refusal :=
  settled (sidebandLostEvent n s)

/-- SITE_CLOCK_LOST: forwarded clocks stop, or both bonds of a valid pair fail; without a clock on any module in service the site
is lost, and otherwise these modules are retired (R322, R302). -/
def execSiteClockLost (n : Fin 6) (l : LostModules) (s : State) : Host.Outcome State Fault Refusal :=
  settled (siteClockLostEvent n l.clocks l.valid s)

/-- SITE_n_CTRL.ISOLATE. -/
def execSiteIsolate (n : Fin 6) (s : State) : Host.Outcome State Fault Refusal :=
  settled (siteIsolateEvent n s)

/-- SNOOP_TIMEOUT: a snoop of the site has gone unanswered for PLZ_CTRL.SNP_TIMEOUT (R233). -/
def execSnoopTimeout (n : Fin 6) (s : State) : Host.Outcome State Fault Refusal :=
  settled (snoopTimeoutEvent n s)

/-- SITE_RESET. -/
def execSiteReset (n : Fin 6) (s : State) : Host.Outcome State Fault Refusal :=
  settled (siteResetEvent n s)

/-- SITE_CLAMP_TIMEOUT: still above 350 W 100 µs after the clamp; the site loses its power (R320 step 3). -/
def execSiteClampTimeout (n : Fin 6) (w : BitVec 11) (s : State) : Host.Outcome State Fault Refusal :=
  settled (siteClampTimeoutEvent n w s)

/-- SITE_FLIT: a bond flit arrives (R297 to R300). -/
def execSiteFlit (n : Fin 6) (m : Fin 64) (f : BondFlit) (s : State) : Host.Outcome State Fault Refusal :=
  settled (siteFlitEvent n m f.payload f.errors s)

/-- SITE_NAK: the chiplet asks for a resend from ACK + 1. -/
def execSiteNak (n : Fin 6) (ack : BitVec 14) (s : State) : Host.Outcome State Fault Refusal :=
  settled (siteNakEvent n ack s)

/-- SITE_SEQ_GAP_TIMEOUT: a gap in SEQ has persisted for 64 flit times. -/
def execSiteSeqGapTimeout (n : Fin 6) (s : State) : Host.Outcome State Fault Refusal :=
  settled (siteSeqGapTimeoutEvent n s)

/-- LANE_PLAN: the lanes that the peer can keep; a port that is UP joins the retrain (R367). -/
def execLanePlan (n : Fin 16) (s : State) : Host.Outcome State Fault Refusal :=
  settled (lanePlanEvent n s)

/-- LANE_ERROR_WINDOW: a lane's window of 2³⁶ symbols ends with `errors` symbol errors; `codewords` were uncorrectable on
the port, and `most` says that this lane had the most corrected symbols (R366, R424). -/
def execLaneErrorWindow (n : Fin 16) (l : Fin 8) (errors : BitVec 37) (codewords : BitVec 32) (most : Bool) (s : State) :
    Host.Outcome State Fault Refusal :=
  settled (laneErrorWindowEvent n l errors codewords most s)

/-- LANE_LOCK_LOST (R366). -/
def execLaneLockLost (n : Fin 16) (l : Fin 8) (s : State) : Host.Outcome State Fault Refusal :=
  settled (laneLockLostEvent n l s)

/-- FABRIC_RETRAIN: FAB_PORT_n_CTRL.RETRAIN (R367). -/
def execFabricRetrain (n : Fin 16) (s : State) : Host.Outcome State Fault Refusal :=
  settled (fabricRetrainEvent n s)

/-- FABRIC_RETRAIN_DONE (R367 steps 4 and 5). -/
def execFabricRetrainDone (n : Fin 16) (s : State) : Host.Outcome State Fault Refusal :=
  settled (fabricRetrainDoneEvent n s)

/-- FABRIC_RETRAIN_TIMEOUT: the port is not back within 200 µs (R368). -/
def execFabricRetrainTimeout (n : Fin 16) (s : State) : Host.Outcome State Fault Refusal :=
  settled (fabricRetrainTimeoutEvent n s)

/-- FABRIC_RSP_TIMEOUT (R365). -/
def execFabricRspTimeout (n : Fin 16) (e : Fin 4096) (s : State) : Host.Outcome State Fault Refusal :=
  settled (fabricRspTimeoutEvent n e s)

/-- PORT_UNCORRECTABLE_ERROR: the AER bit of the error, and the IDE stream of a failed IDE check. -/
def execPortUncorrectableError (b : Fin 32) (stream : Option (Fin 8)) (s : State) :
    Host.Outcome State Fault Refusal :=
  settled (portUncorrectableErrorEvent b stream s)

/-- HOST_LINK_DOWN: a link-down that the port survives is an uncorrectable port error, Surprise Down (R392). -/
def execHostLinkDown (s : State) : Host.Outcome State Fault Refusal :=
  settled (hostLinkDownEvent s)

/-- CONTAINMENT_RELEASE. -/
def execContainmentRelease (s : State) : Host.Outcome State Fault Refusal :=
  settled (containmentReleaseEvent s)

/-- FLR: a write of Initiate FLR. -/
def execFlr (f : Fin 128) (s : State) : Host.Outcome State Fault Refusal :=
  settled (flrEvent f s)

/-- DATA reaches a requester: message `i` of the hub's own, or the head of a chiplet's DATA, routed by DEST
(R236, R308). -/
def execData (src : Option (Fin 6)) (i : Nat) (s : State) : Host.Outcome State Fault Refusal :=
  settled (dataEvent src i s)

/-- COMP reaches a requester (R236). -/
def execComp (i : Nat) (s : State) : Host.Outcome State Fault Refusal :=
  settled (compEvent i s)

/-- WR_ACK reaches the writer (R231), and a push that followed it leaves (R247). -/
def execWrAck (i : Nat) (s : State) : Host.Outcome State Fault Refusal :=
  settled (wrAckEvent i s)

end Sys2Proof.Machine
end

