-- ==== Sys2Proof/Machine/Faults.lean ====
section
/-!
DEFINITION. Walks, pending faults, their records and their resumption, invalidations, and the operator ring (R266, R274,
R277 to R290).
-/
namespace Sys2Proof.Machine

/-! ### Walks (R266) -/

/-- A page-table entry comes back from its home to walk `i` of walker `p`, which goes down, finds its leaf or faults. -/
def walkStep (p i : Nat) (s : State) : State :=
  match (s.walker p).walks[i]? with
  | none => s
  | some w =>
    let pa := entryAt w.table w.level w.va
    match paTarget pa with
    | .stacked k a =>
      match agentRead opRecord (.walker p w.num) (.stacked k (a / 64 * 64)) 0 0 s with
      | (none, s1) => s1
      | (some (u, m), s1) =>
        walkEntry p i w (if m.isSome then none else some (bits u.toNat (8 * (a % 64) + 63) (8 * (a % 64)))) s1
    | _ => walkEntry p i w none s

/-- TRANSLATION_WALK_STEP. -/
def execTranslationWalkStep (p : Fin 3) (i : Nat) (s : State) : Host.Outcome State Fault Refusal :=
  settled (.next (walkStep p i s))

/-! ### Pending-fault tables (R278 to R281) -/

/-- The bits that an access sets in ACCESS of R292: read, write, execute; an atomic reads and writes (R267). -/
def accessBits : AccKind → Nat
  | .read => 1
  | .write => 2
  | .exec => 4
  | .atomic => 3

/-- The bit that a cause sets in CAUSES of R292. -/
def causeBit : XFault → Nat
  | .notPresent => 1
  | .permission => 2
  | .sharedRo => 4
  | .badEntry => 8
  | .badTarget => 16
  | .tablePoison => 32

/-- A fault joins a live entry (R278). -/
def joinPft (p i : Nat) (e : Pft) (m : FaultMsg) (s : State) : State :=
  let e1 : Pft := { e with
    access := e.access ||| accessBits m.acc, causes := e.causes ||| causeBit m.cause,
    bitmap := e.bitmap ||| 2 ^ s.position m.who }
  updWalker p (fun w => { w with pft := Table.set w.pft i e1 }) s

/-- A fault takes the FREE entry `i`, with the walker's next FAULT_SEQ (R278). -/
def allocPft (p i : Nat) (m : FaultMsg) (s : State) : State :=
  let e : Pft :=
    { st := .undelivered, ctx := m.ctx, page := m.va / 65536, seq := (s.walker p).seq, access := accessBits m.acc,
      causes := causeBit m.cause, level := m.level, bitmap := 2 ^ s.position m.who, wake := 0 }
  syncLive p (updWalker p (fun w => { w with
    pft := Table.set w.pft i e, order := w.order ++ [i], seq := (w.seq + 1) % 2 ^ 32 }) s)

/-- The next fault reaches walker `p`; `i` is the FREE entry that the walker would take (R278, R281). -/
def faultArrival (p i : Nat) (s : State) : State :=
  match (s.walker p).arriving with
  | [] => s
  | m :: rest =>
    let s1 := updWalker p (fun w => { w with arriving := rest }) s
    let live := (s1.walker p).pft.filter (fun e => e.2.live && e.2.ctx == m.ctx)
    let wait (s : State) : State := updWalker p (fun w => { w with noRecord := w.noRecord ++ [m] }) s
    match live.find? (fun e => e.2.page == m.va / 65536) with
    | some e => joinPft p e.1 e.2 m s1
    | none =>
      if s1.rf rFltCtrl 8 0 ≤ live.length then wait s1
      else
        let isFree (j : Nat) : Bool := (Table.find? (s1.walker p).pft j).isNone
        match (if isFree i then some i else (List.range 256).find? isFree) with
        | some j => allocPft p j m s1
        | none => wait (sendVector 0 (s1.rf rFltOpCtrl 16 5) (rcFlag (rFltPStatus p) 9 s1))

/-- FAULT_ARRIVAL. -/
def execFaultArrival (p : Fin 3) (i : Fin 256) (s : State) : Host.Outcome State Fault Refusal :=
  .next (faultArrival p i s)

/-- The record of the first UNDELIVERED entry, in order of allocation, whose ring has room is written (R280). -/
def deliverFault (p : Nat) : List Nat → State → State
  | [], s => s
  | i :: rest, s =>
    match Table.find? (s.walker p).pft i with
    | none => deliverFault p rest s
    | some e =>
      if s.fltRoom e.ctx then
        if (fltArea e.ctx s).1.isSome then deliverEntry p i e s else deliverFault p rest (fltArea e.ctx s).2
      else deliverFault p rest s

/-- FAULT_RECORD_DELIVERY. -/
def execFaultRecordDelivery (p : Fin 3) (s : State) : Host.Outcome State Fault Refusal :=
  .next (deliverFault p (s.walker p).order s)

/-- KEPT_RECORD_WRITE: the oldest kept record is written once the operator ring has space (R222, R290). -/
def execKeptRecordWrite (s : State) : Host.Outcome State Fault Refusal := .next (drainKept 1 s)

/-! ### RESUME_PAGE (R283, R284) -/

/-- The work of one stalled access ends with PAGE_ABORTED (R284). -/
def abortStalled (e : Stalled) (s : State) : State :=
  match e.who with
  | .tileFetch t => failTile t 0x24 0 s
  | .tileDma t => failTile t 0x24 0 s
  | .copy id => updLive id (fun l => { l with
      firstFail := some { cause := 0x24, detail := 0, tile := 0xFFFF }, stopping := true }) s
  | .reduce _ id => abortReduce id s
  | w => updXlt (fun x => { x with aborted := x.aborted ++ [(w, e.ctx, e.page)] }) s

/-- The stalled accesses of an entry's requesters are released (R283 step 4). -/
def releaseStalled (e : Pft) (abort : Bool) (s : State) : State :=
  let mine (x : Stalled) : Bool := x.ctx == e.ctx && x.page == e.page && bit e.bitmap (s.position x.who)
  let gone := s.xlt.stalled.filter mine
  let s1 := updXlt (fun x => { x with stalled := x.stalled.filter (fun y => !mine y) }) s
  if abort then forEach gone abortStalled s1 else s1

/-- Steps 2 to 4 of R283 for the RESUME_PAGE `id` at its walker. -/
def resumeAtWalker (id : Nat) (s : State) : State :=
  match s.xlt.resumes.find? (fun r => r.1 == id) with
  | none => s
  | some r =>
    let p := r.2.1
    let i := r.2.2
    let s1 := updXlt (fun x => { x with resumes := x.resumes.filter (fun q => q.1 != id) }) s
    match s1.liveOf? id with
    | none => s1
    | some l =>
      let page := wf l.words 5 31 16 + 2 ^ 16 * wf l.words 6 22 0
      let stale := updLive id (fun l => { l with finished := some (0x04, 0) }) s1
      match Table.find? (s1.walker p).pft i with
      | none => stale
      | some e =>
        if e.live && e.ctx == l.ctx && e.page == page && e.seq == wd l.words 8 then
          releaseStalled e (bit (wd l.words 7) 10) (syncLive p (updWalker p (fun w => { w with
            pft := Table.set w.pft i { e with st := .waking, wake := id }, order := w.order.filter (· != i) }) s1))
        else stale

/-- RESUME_AT_WALKER. -/
def execResumeAtWalker (id : Nat) (s : State) : Host.Outcome State Fault Refusal :=
  settled (.next (resumeAtWalker id s))

/-- RESUME_WAKE_DONE: every requester of a WAKING entry has been released (R283 step 5). -/
def execResumeWakeDone (p : Fin 3) (i : Fin 256) (s : State) : Host.Outcome State Fault Refusal :=
  .next (match Table.find? (s.walker p).pft i with
    | some e =>
      if e.st = .waking then
        updLive e.wake (fun l => { l with finished := l.finished.or (some (0, 0)) }) (freePft p i s)
      else s
    | none => s)

/-- HOST_WAIT_EXPIRY: an access of the host through the context aperture has been stalled on a fault for HOST_WAIT
(R285). -/
def execHostWaitExpiry (f : Fin 128) (id : Nat) (s : State) : Host.Outcome State Fault Refusal :=
  .next (match s.apt? id with
    | some q =>
      if q.fn = f.val ∧ s.isStalled (.host f id) q.ctx = true then
        let s1 := leaveFaults (fun w _ => w == .host f id) s
        serveWaiting (updXlt (fun x => { x with aborted := x.aborted ++ [(.host f id, q.ctx, q.va / 65536)] }) s1)
      else s
    | none => s)

/-! ### Invalidation (R274) -/

/-- A write of XLT_INV_CTRL by function `f` (R274, R293). -/
def wrXltInvCtrl (f v : Nat) (s : State) : State :=
  let k := fnKey f rXltInvCtrl
  let s1 := setRf k 18 0 v s
  if !bit v 19 then s1
  else
    let c := bits v 11 0
    if s.rb (fnKey f rXltInvStatus) 0 then rcFlag (fnKey f rXltInvStatus) 1 s1
    else if s.owner c ≠ f then rcFlag (fnKey f rXltInvStatus) 2 s1
    else
      let n := min (bits v 18 13) 39
      let va := 2 ^ 16 * s.rf (fnKey f rXltInvVaHi) 22 0 + s.rf (fnKey f rXltInvVaLo) 31 16
      let lo := va / 2 ^ n * 2 ^ n
      updXlt (fun x => { x with invs := x.invs ++
        [{ fn := f, ctx := c, whole := bit v 12, lo := lo, hi := lo + 2 ^ n - 1 }] })
        (setRf (fnKey f rXltInvStatus) 0 0 1 s1)

/-- XLT_INV. -/
def execXltInv (f : Fin 128) (v : BitVec 32) (s : State) : Host.Outcome State Fault Refusal :=
  .next (wrXltInvCtrl f v.toNat s)

/-- An invalidation covers some page of an entry of its context; non-leaf entries go whatever the scope. -/
def Inval.covers (v : Inval) (e : CacheEnt) : Bool :=
  e.ctx == v.ctx && (v.whole || !bit e.entry 1 ||
    (decide (e.base / 65536 ≤ v.hi) && decide (v.lo < e.base / 65536 + 2 ^ (pageLog e.level - 16))))

/-- An access of context `c` is still to be accepted or answered. -/
def State.ctxOutstanding (s : State) (c : Nat) : Bool := s.underway (fun w => s.whoCtx? w == some c)

/-- Every cached translation of an invalidation's scope leaves, and every walk in the scope is discarded; requesters
start it again (R274). -/
def invalidate (v : Inval) (s : State) : State :=
  let keep (e : CacheEnt) : Bool := !v.covers e
  let held (e : Option CacheEnt) : Option CacheEnt := e.bind (fun e => if v.covers e then none else some e)
  let inScope (w : Walk) : Bool :=
    w.ctx == v.ctx && (v.whole || (decide (v.lo ≤ w.va / 65536) && decide (w.va / 65536 ≤ v.hi)))
  let s1 := updXlt (fun x => { x with
    walkers := x.walkers.map (fun w => { w with
      cache := w.cache.filter keep, walks := w.walks.filter (fun k => !inScope k) }),
    ctc := x.ctc.map (·.filter keep), siteCache := x.siteCache.map (·.filter keep),
    fabCache := x.fabCache.map (·.filter keep), hostCache := x.hostCache.filter keep }) s
  let s2 := forEach (s1.ringsOf v.ctx) (fun r s => updRing r (fun x => { x with held := held x.held }) s) (trimWalks s1)
  updCtx v.ctx (fun x => { x with
    heldCq := held x.heldCq, heldHist := held x.heldHist, heldFlt := held x.heldFlt }) s2

/-- XLT_INV_DONE: every access of the context is accepted or answered, and the invalidation of function `f`
finishes; areas that have failed are tried again (R163). -/
def execXltInvDone (f : Fin 128) (s : State) : Host.Outcome State Fault Refusal :=
  .next (match s.xlt.invs.find? (fun v => v.fn == f.val) with
    | some v =>
      if s.ctxOutstanding v.ctx then s
      else
        let s1 := retryAreas v.ctx (invalidate v s)
        setRf (fnKey f rXltInvStatus) 0 0 0
          (updXlt (fun x => { x with invs := x.invs.filter (fun v => v.fn != f.val) }) s1)
    | none => s)

/-! ### The operator ring (R288) -/

/-- The checks of R288 on the operator ring as its registers stand. -/
def State.opRingOk (s : State) : Bool :=
  let z := s.rf rFltOpCtrl 3 0
  let n := 64 * 2 ^ z
  decide (6 ≤ z) && decide (z ≤ 14) && s.rf rFltOpBaseHi 22 20 == 0 && s.opBase % n == 0 &&
  (match aliasOf? s.opBase with
   | some (al, o) => decide (o + n ≤ aliasSize al)
   | none => match paTarget s.opBase with
     | .host w o => match s.hostWindow? w o n true with
       | some (f, _) => f == 0
       | none => false
     | _ => false)

/-- A write of FLT_OP_CTRL (R288, R293). -/
def wrFltOpCtrl (v : Nat) (s : State) : State :=
  let on := s.opOn
  let s1 := setRf rFltOpCtrl 16 4 (bits v 16 4) (if on then s else setRf rFltOpCtrl 3 0 v s)
  if bit v 31 && !on then
    let s2 := setReg rFltOpHead 0 (setReg rFltOpTail 0 s1)
    if s2.opRingOk then setRf rFltOpCtrl 31 31 1 s2 else rcFlag rFltOpStatus 1 s2
  else if !bit v 31 then setRf rFltOpCtrl 31 31 0 s1
  else s1

/-- FLT_OP_ENABLE: the word is written with ENABLE 1. -/
def execFltOpEnable (v : BitVec 31) (s : State) : Host.Outcome State Fault Refusal :=
  .next (wrFltOpCtrl (v.toNat + 2 ^ 31) s)

/-- FLT_OP_DISABLE: the word is written with ENABLE 0. -/
def execFltOpDisable (v : BitVec 31) (s : State) : Host.Outcome State Fault Refusal :=
  .next (wrFltOpCtrl v.toNat s)

/-- A write of a ring's HEAD; one beyond TAIL is ignored (R288). -/
def wrHead (head tail v : Nat) (s : State) : State :=
  if (s.reg tail + 2 ^ 32 - v % 2 ^ 32) % 2 ^ 32 < 2 ^ 31 then setReg head v s else s

/-- FLT_HEAD_WRITE: HEAD of the operator ring, or of a context's fault ring. -/
def execFltHeadWrite (c : Option (Fin 4096)) (v : BitVec 32) (s : State) : Host.Outcome State Fault Refusal :=
  .next (match c with
    | none => wrHead rFltOpHead rFltOpTail v.toNat s
    | some c => wrHead (rCtxFltHead c) (rCtxFltTail c) v.toNat s)

end Sys2Proof.Machine
end

