-- ==== Sys2Proof/Machine/Floor.lean ====
section
/-!
DEFINITION. The floor plan: where units attach (R19 to R21), and the words of the floor-plan report (R34 to R41).
-/
namespace Sys2Proof.Machine

/-! ### The router grid (R17 to R21, R24) -/

/-- The router at (x, y). -/
def routerAt (x y : Nat) : Nat := 24 * y + x

/-- Position `k` of a 2 × 2 block of routers: south-west, south-east, north-west, north-east (R20). -/
def block2 (x y k : Nat) : Nat := routerAt (x + k % 2) (y + k / 2)

/-- The router of tile `t` (R20). -/
def tileRouter (t : Nat) : Nat :=
  let c := t / 4
  let j := c % 6
  block2 (8 * (c / 6) + 2 * (j % 3)) (if j < 3 then 1 else 5) (t % 4)

/-- The router of plaza `p` (R19). -/
def plazaRouter (p : Nat) : Nat :=
  let x := 8 * (p / 12)
  match p % 12 / 4 with
  | 0 => block2 (x + 6) 1 (p % 4)
  | 1 => block2 (x + 2) 3 (p % 4)
  | _ => block2 (x + 6) 5 (p % 4)

/-- The first router of stack `k`'s memory controller: N0 to N5 are identities 0 to 5, S0 to S5 6 to 11. -/
def stackRouter (k : Nat) : Nat := routerAt (4 * (k % 6)) (if k < 6 then 7 else 0)

/-- The first router of site `n`. -/
def siteRouter (n : Nat) : Nat := routerAt (8 * (n / 2) + 4 * (n % 2)) 3

/-- The router of fabric port `n`. -/
def portRouter (n : Nat) : Nat := if n < 8 then routerAt 0 n else routerAt 23 (n - 8)

/-- The router of the host port and of Welore. -/
def hostRouter : Nat := routerAt 15 4

/-- The units attached to a router with their attachment ports, in port order: type and identity (R19 to R21). The spec
does not number the ports: log entry 40. Partition services are written with type 11 (walker), 12 (dispatcher) and 13
(partition control), Welore with type 14. -/
def attachments (r : Nat) : List (Nat × Nat) :=
  let x := r % 24
  let y := r / 24
  let p := x / 8
  let u := x % 8
  let first : List (Nat × Nat) :=
    if y = 7 then [(uStack, 2 * p + u / 4)]
    else if y = 0 then [(uStack, 6 + 2 * p + u / 4)]
    else if y = 1 ∨ y = 2 ∨ y = 5 ∨ y = 6 then
      let row := if y < 3 then 0 else 1
      let k := u % 2 + 2 * (y - (if y < 3 then 1 else 5))
      if u < 6 then
        let c := 6 * p + 3 * row + u / 2
        [(uTile, 4 * c + k), (uCluster, c)]
      else [(uPlaza, 12 * p + 8 * row + k)]
    else
      let k := u % 2 + 2 * (y - 3)
      if u < 2 then [(uSite, 2 * p)]
      else if u < 4 then [(uPlaza, 12 * p + 4 + k)]
      else if u < 6 then [(uSite, 2 * p + 1)]
      else if k = 0 then [(11, p)]
      else if k = 1 then [(12, p)]
      else if k = 2 then [(13, p)]
      else if p = 1 then [(uHost, 0), (14, 0)]
      else []
  first ++ (if x = 0 then [(uPort, y)] else if x = 23 then [(uPort, 8 + y)] else [])

/-- The attachment routers of the die. -/
def attachRouters : List Nat := (List.range 192).filter (fun r => !(attachments r).isEmpty)

/-- The router of an attachment. -/
def attRouter (a : Nat) : Nat := a / 4

/-- The unit at an attachment, if there is one. -/
def attUnit? (a : Nat) : Option (Nat × Nat) := (attachments (a / 4))[a % 4]?

/-- The unit whose epoch and status an attachment has: partition services are those of their partition, but for its
walker, which no reset of the partition reaches (R437). -/
def attOwner? (a : Nat) : Option (Nat × Nat) :=
  match attUnit? a with
  | some (ty, id) => if ty = 12 ∨ ty = 13 then some (uPartition, id) else if ty = 11 ∨ ty = 14 then none else some (ty, id)
  | none => none

/-- The virtual network of a message (R232, R330). -/
def pktVn : PktMsg → Nat
  | .snoop => 1
  | .comp _ => 2
  | .wrAck _ => 2
  | .wbAck _ => 2
  | .memDone _ => 2
  | .snpRsp => 2
  | .data _ => 3
  | .mgt => 4
  | _ => 0

/-- The primary attachment router of a unit (R36, R37). -/
def primaryRouter (ty id : Nat) : Nat :=
  if ty = uTile then tileRouter id
  else if ty = uCluster then tileRouter (4 * id)
  else if ty = uPlaza then plazaRouter id
  else if ty = uStack then stackRouter id
  else if ty = uSite then siteRouter id
  else if ty = uPort then portRouter id
  else if ty = uHost then hostRouter
  else if ty = uRouter then id
  else if ty = uCrossing then routerAt (7 + 8 * id) 0
  else if ty = uPartition then routerAt (8 * id + 6) 3
  else hostRouter

/-! ### The report (R34 to R38) -/

/-- UNIT_TYPEs with their numbers of records, in the report's order (R37). -/
def unitTypes : List (Nat × Nat) :=
  [(uTile, 72), (uCluster, 18), (uPlaza, 36), (uStack, 12), (uSite, 6), (uPort, 16), (uHost, 1), (uRouter, 192),
   (uCrossing, 2), (uPartition, 3)]

/-- ATTACH_COUNT, WIDTH_FULL, and the limit of R424 as mantissa and exponent. -/
def unitShape (ty : Nat) : Nat × Nat × Nat × Nat :=
  if ty = uTile then (1, 0, 0, 0)
  else if ty = uCluster then (4, 0, 0, 0)
  else if ty = uPlaza then (1, 0, 0, 0)
  else if ty = uStack then (4, 64, 1, 11)
  else if ty = uSite then (4, 64, 1, 11)
  else if ty = uPort then (1, 8, 1, 5)
  else if ty = uHost then (1, 16, 1, 6)
  else if ty = uCrossing then (8, 8, 1, 12)
  else if ty = uPartition then (3, 0, 0, 0)
  else (0, 0, 0, 0)

/-- PARTITION of a unit: that of its primary router's column, 3 for a Crossing. -/
def unitPart (ty id : Nat) : Nat := if ty = uCrossing then 3 else primaryRouter ty id % 24 / 8

/-- The unit of record `i`. -/
def recordUnit (i : Nat) : Nat × Nat :=
  let rec go : List (Nat × Nat) → Nat → Nat × Nat
    | [], _ => (0, 0)
    | (ty, n) :: l, i => if i < n then (ty, i) else go l (i - n)
  go unitTypes i

/-- The logical number in a unit's record; a tile that was never assigned one has none (R25, R26). -/
def State.logicalField (s : State) (ty id : Nat) : Nat :=
  if ty = uTile then (s.logicalOf? id).getD 0xFFFF else id

/-- The words of a unit's record (R36 to R38). -/
def State.recordWords (s : State) (pl : Plan) (ty id : Nat) : List Nat :=
  let u := Table.get .init pl.units (unitKey ty id)
  let (att, full, lm, le) := unitShape ty
  let r := primaryRouter ty id
  let out := (ty == uStack && u.status == stIsolated) || (ty == uPort && u.status == stDown) ||
    (ty == uSite && (u.status == stEmpty || u.status == stAbsent))
  let width := if out then 0 else u.width
  let spares := if ty == uSite && u.status == stEmpty then 0 else u.spares
  [ty + 2 ^ 8 * u.status + 2 ^ 16 * unitPart ty id,
   id + 2 ^ 16 * s.logicalField ty id,
   r % 24 + 2 ^ 5 * (r / 24) + 2 ^ 8 * att,
   width + 2 ^ 16 * full,
   spares,
   u.errMant + u.errExp * 2 ^ 4 + 2 ^ 16 * lm + 2 ^ 20 * le,
   u.cause,
   u.epoch]

/-- Tiles assigned at S6 in a partition. -/
def State.assignedIn (s : State) (p : Nat) : Nat := (s.boot.tilesAt.filter (fun t => tilePart t == p)).length

/-- The grade, by the DISABLED tiles that fuses record (R30, R35). -/
def State.grade (s : State) : Nat := if s.sec.otp.disabled.isEmpty then 72 else 68

/-- Words 0 to 11 of the header (R35). -/
def State.headerWords (s : State) (pl : Plan) (count : Nat) : List Nat :=
  [0x4B465052, 2 + 2 ^ 16 * count, s.grade + 2 ^ 8 * s.boot.tilesAt.length + 2 ^ 16 * 0xB0, pl.rev, pl.epoch,
   s.assignedIn 0 + 2 ^ 8 * s.assignedIn 1 + 2 ^ 16 * s.assignedIn 2, 0, 0, 0, 0, 0, 0]

/-- The bytes over which FLOORPLAN_DIGEST is taken (R40). -/
def State.planBytes (s : State) (pl : Plan) : List Byte :=
  (s.headerWords pl 358 ++ (List.range 358).flatMap (fun i =>
    let u := recordUnit i
    s.recordWords pl u.1 u.2)).flatMap (natToBytes 4)

/-- Word `i` of the report as function `fn` sees it at revision `pl`: the physical function's whole report, or the
reduced view of R41; zero beyond its end. -/
def State.reportWord (s : State) (fn : Nat) (pl : Plan) (i : Nat) : Nat :=
  let count := if fn = 0 then 358 else 72
  if i < 12 then (s.headerWords pl count).getD i 0
  else if i < 24 then s.boot.digest / 2 ^ (32 * (i - 12)) % 2 ^ 32
  else if (i - 24) / 8 < count then
    let u := recordUnit ((i - 24) / 8)
    let w := (i - 24) % 8
    let v := (s.recordWords pl u.1 u.2).getD w 0
    if fn = 0 then v
    else if w = 1 then 2 ^ 16 * (v / 2 ^ 16)
    else if 2 ≤ w ∧ w ≤ 6 then 0
    else v
  else 0

/-- The revision that function `fn` reads (R39). -/
def State.latchedPlan (s : State) (fn : Nat) : Plan := Table.get s.boot.rev0 s.boot.latches fn

end Sys2Proof.Machine
end

