-- ==== Sys2Proof/Machine/Stacks.lean ====
section
/-!
DEFINITION. The stacked-memory commands (R194 to R223): reads and writes of the memory controllers, healing,
patrol, bond monitoring and module retrains, isolation and rejoin, temperature and throttle, and the
shared-region table.
-/
namespace Sys2Proof.Machine

/-! ### Reads, writes, healing and patrol (R194, R200, R203, R207) -/

/-- The controller's read of unit `u`. -/
def readEvent (k u : Nat) (ev ev2 : EccOutcome) (s : State) : State :=
  countUnits (blkStack k) 0 1 (countEvent (blkStack k) 0x40 none none none 1 (memRead opRecord k (64 * u) ev ev2 s).2)

/-- The plaza's DIRTY unit `u` is written to memory and is CLEAN then; a unit the plaza does not hold DIRTY gives no
request. -/
def writeEvent (k u : Nat) (symbols : List Nat) (s : State) : State :=
  let lk := lineKey k (64 * u)
  match (s.pline lk).unit? (u % 2) with
  | some r =>
    if (s.pline lk).dirty (u % 2) && (s.ownerSite? lk).isNone then
      let s1 := memWrite opRecord k (64 * u) r.1 r.2 symbols s
      setPline lk ((s1.pline lk).put (u % 2) r.1 r.2 false) s1
    else s
  | none => s

/-- A request that the controller handles now, or holds in the retry buffer while it does not issue to the unit's module
(R212 step 2); to a stack out of service it is answered at once (R218, R221). -/
def issueOrHold (k u : Nat) (h : HeldMem) (go : State → State) (s : State) : State :=
  if s.issues k (64 * u) || (s.stackOut? k).isSome then go s else holdMem k h s

/-- MRD: the controller reads unit `u` of stack `k` with the outcomes of R200; the home takes the result from
memory. `ev2` is the outcome at the mirror (R207). -/
def execMrd (k : Fin 12) (u : Fin (2 ^ 30)) (ev ev2 : EccOutcome) (s : State) :
    Host.Outcome State Fault Refusal :=
  .next (issueOrHold k u (.mrd u ev ev2) (readEvent k u ev ev2) s)

/-- MWR: the plaza's DIRTY unit is written to memory (R194); `symbols` are the positions that the base reports as corrected
(R199). -/
def execMwr (k : Fin 12) (u : Fin (2 ^ 30)) (symbols : List Nat) (s : State) :
    Host.Outcome State Fault Refusal :=
  .next (issueOrHold k u (.mwr u symbols) (writeEvent k u symbols) s)

/-- MIRROR_HEAL: an uncorrectable unit of a mirrored primary is healed from the mirror, or poisoned if the
mirror's unit is uncorrectable too (R207, R208). -/
def execMirrorHeal (k : Fin 12) (u : Fin (2 ^ 30)) (ev2 : EccOutcome) (s : State) :
    Host.Outcome State Fault Refusal :=
  let a := 64 * u.val
  .next (if s.issues k a && (s.mirrorOf? k a).isSome && (s.stackOut? k).isNone then
      (memRead opRecord k a .lineUncorrectable ev2 s).2
    else s)

/-- BOND_MONITOR_WINDOW: the counts of a module restart (R211). -/
def execBondMonitorWindow (k : Fin 12) (m : Fin 64) (s : State) : Host.Outcome State Fault Refusal :=
  .next (updStack k (fun x => { x with bondCount := x.bondCount.filter (fun e => e.1 / 128 != m.val) }) s)

/-- The symbols that a read corrected. -/
def EccOutcome.fixed (ev : EccOutcome) : List Nat :=
  match ev with
  | .corrected l => l
  | .linkRetry _ l => l
  | _ => []

/-- A patrol read of one unit; a corrected unit is written back corrected (R203). -/
def patrolUnit (k a : Nat) (ev ev2 : EccOutcome) (s : State) : State :=
  let s1 := (memRead opRecord k a ev ev2 s).2
  if (Sys2Proof.Machine.EccOutcome.fixed ev).isEmpty then s1 else putDram k a (s1.dramUnit k a) (s1.dramMark k a) s1

/-- PATROL_READ: the next unit of the stack in ascending order (R203). -/
def execPatrolRead (k : Fin 12) (ev ev2 : EccOutcome) (s : State) : Host.Outcome State Fault Refusal :=
  let a := 64 * (s.stack k).patrol
  .next (if s.issues k a && (s.stackOut? k).isNone then
      updStack k (fun x => { x with patrol := (x.patrol + 1) % 2 ^ 30 })
        (countEvent (blkStack k) 0x44 none none none 1 (patrolUnit k a ev ev2 s))
    else s)

/-! ### Module retrains (R212 to R214) -/

/-- A retrain of a module is scheduled (R212 step 1); not for a stack out of service (R223). -/
def scheduleRetrain (k m : Nat) (s : State) : State :=
  if s.inService uStack k then
    updStack k (fun x => { x with
      retrainDue := if x.retrainDue.contains m then x.retrainDue else x.retrainDue ++ [m] }) s
  else s

/-- MODULE_RETRAIN_START: the controller stops issuing to the module (R212 step 2). -/
def execModuleRetrainStart (k : Fin 12) (m : Fin 64) (s : State) : Host.Outcome State Fault Refusal :=
  .next (if s.inService uStack k && (s.stack k).retrainDue.contains m.val then
      updStack k (fun x => { x with
        retrainDue := x.retrainDue.filter (· != m.val), retraining := x.retraining ++ [m.val] }) s
    else s)

/-- Failing bonds of a module move to spares (R212 steps 3 and 5). -/
def spareBonds (k : Nat) (bs : List Nat) (s : State) : State :=
  let s1 := updStack k (fun x => { x with
    failing := x.failing.filter (fun b => !bs.contains b), spared := x.spared ++ bs,
    bondCount := x.bondCount.filter (fun e => !bs.contains e.1), bondRun := x.bondRun.filter (fun e => !bs.contains e.1) }) s
  setRf (rStkStatus k) 18 10 (s.rf (rStkStatus k) 18 10 - bs.length) s1

/-- A module without a spare is retired (R213). -/
def retireModule (k m : Nat) (s : State) : State :=
  updStack k (fun x => { x with
    failing := x.failing.filter (fun b => b / 128 != m),
    retired := if x.retired.contains m then x.retired else x.retired ++ [m] }) s

/-- The failing bonds of a module that find a spare, and whether more of them are failing. -/
def Stack.plan (x : Stack) (m : Nat) : List Nat × Bool :=
  let bs := x.failing.filter (fun b => b / 128 == m)
  let free := 4 - (x.spared.filter (fun b => b / 128 == m)).length
  (bs.take free, decide (free < bs.length) && !x.retired.contains m)

/-- The record follows what a retrain has done, in one revision (R39, R212, R213). -/
def retrainRecord (k n : Nat) (retire : Bool) (s : State) : State :=
  rewriteUnits [(unitKey uStack k, fun r =>
    if retire then { r with spares := r.spares - n, status := stDegraded, cause := ccModule, width := r.width - 1 }
    else { r with spares := r.spares - n })] s

/-- A module is retired: its record, the capacity and a service request, and the stack is isolated if its sibling was
retired before (R213, R214). -/
def moduleGone (k m : Nat) (s : State) : State :=
  let s1 := serviceRequest uStack k ccModule 2 (syncStackCap k (opRecord 0x0207 true [k, m] s))
  if (s.stack k).retired.contains (m ^^^ 1) then isolateStack k ccChannel s1 else s1

/-- The retrain of a module has ended: its failing bonds have moved to spares, or the module is retired. -/
def moduleRetrained (k m : Nat) (s : State) : State :=
  let p := (s.stack k).plan m
  let s1 := spareBonds k p.1 s
  let s2 := retrainRecord k p.1.length p.2 (if p.2 then retireModule k m s1 else s1)
  let s3 := forEach p.1 (fun b s => opRecord 0x0206 false [k, m, b % 128] s) s2
  if p.2 then moduleGone k m s3 else s3

/-- One held request is issued, if the controller issues to its module now. -/
def issueHeld (k : Nat) (h : HeldMem) (s : State) : State :=
  match h with
  | .mrd u ev ev2 => issueOrHold k u h (readEvent k u ev ev2) s
  | .mwr u l => issueOrHold k u h (writeEvent k u l) s
  | .write u d m => hubWrite opRecord k (64 * u) d m s

/-- The requests that the retry buffer holds are issued in their order of arrival (R212 step 4). -/
def issueRetry (k : Nat) (s : State) : State :=
  forEach (s.stack k).retry (issueHeld k) (updStack k (fun x => { x with retry := [] }) s)

/-- MODULE_RETRAIN_DONE: every failing bond of the module has moved to a spare, or the module is retired, and the
controller issues to the module again (R212, R213). -/
def execModuleRetrainDone (k : Fin 12) (m : Fin 64) (s : State) : Host.Outcome State Fault Refusal :=
  .next (if (s.stack k).retraining.contains m.val then
      issueRetry k (moduleRetrained k m (updStack k (fun x => { x with retraining := x.retraining.filter (· != m.val) }) s))
    else s)

/-- STK_CTRL.RETRAIN. -/
def execStkCtrlRetrain (k : Fin 12) (m : Fin 64) (s : State) : Host.Outcome State Fault Refusal :=
  .next (scheduleRetrain k m s)

/-! ### Losing and regaining a stack (R218 to R220) -/

/-- STK_CTRL.ISOLATE. -/
def execStkCtrlIsolate (k : Fin 12) (s : State) : Host.Outcome State Fault Refusal :=
  .next (isolateStack k ccOperator s)

/-- What a training leaves of a stack's bonds and modules. -/
def takeTraining (k : Nat) (t : StackTrain) (s : State) : State :=
  updStack k (fun x => match t with
    | .trained sp rt => { x with spared := sp.map (·.val), retired := (rt.map (·.val)).eraseDups }
    | .failed sp => { x with spared := sp.map (·.val) }
    | .channelLost sp => { x with spared := sp.map (·.val) }) s

/-- STK_STATUS.SPARES and the record of a stack follow the spares taken. -/
def setStackSpares (k : Nat) (s : State) : State :=
  let n := 256 - (s.stack k).spared.length
  setRf (rStkStatus k) 18 10 n (rewriteUnits [(unitKey uStack k, fun u => { u with spares := n })] s)

/-- The training serves every channel: it passed, and no channel has lost both its modules (R213, R214). -/
def StackTrain.serves (t : StackTrain) : Bool :=
  match t with
  | .trained _ rt => !rt.any (fun m => rt.any (fun x => x.val == m.val ^^^ 1))
  | _ => false

/-- STK_CTRL.REJOIN of an ISOLATED stack: the retrain, after which a stack that failed it stays ISOLATED and any other
enters QUARANTINE (R220 steps 1 and 2). The spec does not say which power state a stack takes at a rejoin that it had been
commanded out of ON before; it is ON (DESIGN CHOICE, log entry 114). -/
def rejoinStack (k : Nat) (t : StackTrain) (s : State) : State :=
  if s.status uStack k = stIsolated ∧ Sys2Proof.Machine.StackTrain.serves t = true then
    let s0 := { s with pwr := { s.pwr with
      units := Table.set s.pwr.units (unitKey uStack k) { target := 0, now := 0, moving := none, held := none } } }
    let s1 := takeTraining k t s0
    let n := 256 - (s1.stack k).spared.length
    let s2 := setRf (rStkStatus k) 18 10 n (enterQuarWith [(uStack, k)] ccRejoin (fun r =>
      { r with spares := n, width := 64 - (s1.stack k).retired.length }) s1)
    syncClocks k (updStack k (fun x => { x with
      rejoining := true, filled := false, notOnRaised := false, failing := [], bondCount := [], bondRun := [] }) s2)
  else s

/-- STK_CTRL_REJOIN: `t` is the outcome of the port's training, as at stage S3. -/
def execStkCtrlRejoin (k : Fin 12) (t : StackTrain) (s : State) : Host.Outcome State Fault Refusal :=
  .next (rejoinStack k t s)

/-- The units of a copy on stack `k` are those of the other copy. Where the other copy's stack was itself filled with
poison, only those of its units count that have been brought back or written since. -/
def restoreRange (b b' z k : Nat) (s : State) : State :=
  let whole := match peerStack? b b' z k with
    | some p => !(s.stack p).filled || (s.stack p).restored.contains (b', z)
    | none => true
  if whole then updStack k (fun x => { x with restored := x.restored ++ [(b, z)] }) s
  else
    let good := forEach s.dram.good (fun e (t : Table Nat) =>
      match rangeOffset? b' z (e.1 / 2 ^ 30) (e.1 % 2 ^ 30 * 64) with
      | some o =>
        match paTarget (b + o) with
        | .stacked x a => if x = k then Table.set t (unitKeyOf k a) 1 else t
        | _ => t
      | none => t) s.dram.good
    { s with dram := { s.dram with good := good } }

/-- The bytes and marks of one copy of a region copied onto the other copy's units on stack `k` (R220
step 4). -/
def copyRegion (b b' z k : Nat) (s : State) : State :=
  let move (k' a' : Nat) : Option Nat :=
    match rangeOffset? b' z k' a' with
    | some o =>
      match paTarget (b + o) with
      | .stacked x a => if x = k then some a else none
      | _ => none
    | none => none
  let bytes := forEach s.dram.bytes (fun e (m : Mem) =>
    match move (e.1 / 2 ^ 36) (e.1 % 2 ^ 36) with
    | some a => Mem.write m (byteKey k a) e.2
    | none => m) s.dram.bytes
  let marks := forEach s.dram.marks (fun e (m : Table Mark) =>
    match move (e.1 / 2 ^ 30) (e.1 % 2 ^ 30 * 64) with
    | some a => Table.set m (unitKeyOf k a) e.2
    | none => m) s.dram.marks
  let s1 := { s with dram := { s.dram with bytes := bytes, marks := marks } }
  let s2 := restoreRange b b' z k s1
  forEach s.plz.lines (fun e s =>
    forEach [0, 1] (fun u s =>
      match e.2.unit? u, move (lineStack e.1) (lineAddr e.1 + 64 * u) with
      | some r, some a => putDram k a r.1 r.2 s
      | _, _ => s) s) s2

/-- The units of one copy of a mirrored region on stack `k` come back from the other copy, whose stack is in service; while
that stack is not ON, its reads are poison (R220 step 4, R221). -/
def refill (n b b' z k : Nat) (s : State) : State :=
  if unitsOn b z k = 0 then s
  else match peerStack? b b' z k with
    | some p =>
      match s.stackOut? p with
      | none => copyRegion b b' z k s
      | some src => if src = 3 ∧ b = s.srtBase n then poisonRegion n (unitsOn b z k) s else s
    | none => s

/-- Every unit of a stack is filled with poison of source 2, and the copies of mirrored regions are brought back (R220
steps 3 and 4). -/
def fillStack (k : Nat) (s : State) : State :=
  let s1 := updStack k (fun x => { x with filled := true, restored := [],
                                          fillMarks := s.regions.map (fun n => (n, s.srtBase n, s.srtSize n)) }) s
  let s2 := { s1 with dram :=
    { bytes := s1.dram.bytes.filter (fun e => e.1 / 2 ^ 36 != k),
      marks := s1.dram.marks.filter (fun e => e.1 / 2 ^ 30 != k),
      good := s1.dram.good.filter (fun e => e.1 / 2 ^ 30 != k) } }
  forEach s2.regions (fun n s =>
    if s.srtMirrored n then
      refill n (s.srtMirror n) (s.srtBase n) (s.srtSize n) k (refill n (s.srtBase n) (s.srtMirror n) (s.srtSize n) k s)
    else s) s2

/-- STACK_REJOIN_FILL_DONE: the fill and the copies end, and the epoch steps begin (R220 steps 3 to 5). -/
def execStackRejoinFillDone (k : Fin 12) (s : State) : Host.Outcome State Fault Refusal :=
  .next (if s.status uStack k = stQuarantine ∧ (s.stack k).rejoining = true ∧
      s.plz.stackSweep.contains k.val = false then
      let s1 := fillStack k s
      { updStack k (fun x => { x with rejoining := false }) s1 with
        boot := { s1.boot with quar := s1.boot.quar.map (fun e =>
          if e.1 = unitKey uStack k then (e.1, { e.2 with step := 1 }) else e) } }
    else s)

/-- STACK_CLOCK_LOST (R218). -/
def execStackClockLost (k : Fin 12) (s : State) : Host.Outcome State Fault Refusal :=
  .next (isolateStack k ccClock s)
/-- STACK_TRAINING_LOST. -/
def execStackTrainingLost (k : Fin 12) (s : State) : Host.Outcome State Fault Refusal :=
  .next (isolateStack k ccLink s)
/-- STACK_BASE_RESET. -/
def execStackBaseReset (k : Fin 12) (s : State) : Host.Outcome State Fault Refusal :=
  .next (isolateStack k ccBaseReset s)
/-- CHANNEL_LOST: both copies of a doubled bond of a channel have failed (R193, R214). -/
def execChannelLost (k : Fin 12) (s : State) : Host.Outcome State Fault Refusal :=
  .next (isolateStack k ccChannel s)

/-- The other copy of a unit lies on a stack in service. -/
def State.copyServes (s : State) (k a : Nat) : Bool :=
  match s.otherCopy? k a with
  | some (_, k', _) => s.inService uStack k'
  | none => false

/-- One unit of a swept line: poisoned with source 2, or dropped where another copy serves it (R218). -/
def sweepUnit (k lk u : Nat) (s : State) : State :=
  let l := s.pline lk
  let a := lineAddr lk + 64 * u
  match l.unit? u with
  | none => s
  | some r =>
    if s.copyServes k a then
      setPline lk (if u = 0 then { l with v0 := false, d0 := false, u0 := 0, m0 := none }
                   else { l with v1 := false, d1 := false, u1 := 0, m1 := none }) s
    else setPline lk (l.put u r.1 (some (s.markFor k a 2)) (l.dirty u)) s

/-- STACK_SWEEP_DONE: the sweep has passed every line of the stack, and Welore records STACK_ISOLATED with a
service request (R218 steps 3 and 4), also when a rejoin has begun meanwhile. -/
def execStackSweepDone (k : Fin 12) (s : State) : Host.Outcome State Fault Refusal :=
  let busy := s.plz.txns.any (fun t => lineStack t.line == k.val && t.phase != .waiting)
  let owned := s.plz.owners.any (fun e => lineStack e.1 == k.val)
  .next (if !s.plz.stackSweep.contains k.val || s.inService uStack k || busy then s
    else if owned then recallStack k s
    else
      let s1 := forEach (s.plz.lines.filter (fun e => lineStack e.1 == k.val)) (fun e s =>
        sweepUnit k e.1 1 (sweepUnit k e.1 0 s)) s
      let s2 := updPlz (fun p => { p with stackSweep := p.stackSweep.filter (· != k.val) }) s1
      let c := (s2.stack k).isoCause
      serviceRequest uStack k c (if c = ccOperator then 1 else 3)
        (opRecord 0x0208 true [k, c] (recordMarked uStack k c s2)))

/-! ### Temperature and throttle (R215 to R217) -/

/-- The hottest of the core dies: temperature and lowest index. -/
def hottestDie (ts : List Nat) : Nat × Nat :=
  let m := ts.foldl max 0
  (m, (ts.findIdx? (· == m)).getD 0)

/-- STACK_TEMP_REPORT: the dies' temperatures, the throttle's input and the trip of R501. -/
def execStackTempReport (k : Fin 12) (dies : Vector (BitVec 8) 16) (base : BitVec 8) (s : State) :
    Host.Outcome State Fault Refusal :=
  let st := s.status uStack k
  let off := (Table.get .init s.pwr.units (unitKey uStack k)).now == 3
  .next (if st = stIsolated ∨ st = stQuarantine ∨ off = true then s
    else
      let ts := dies.toList.map (·.toNat)
      let h := hottestDie ts
      let s1 := setReg (rStkTemp k) (h.1 + 2 ^ 8 * h.2 + 2 ^ 12 * base.toNat) s
      let s2 := setRf (rStkStatus k) 25 24 (b2n (decide (85 ≤ h.1)) * 2) s1
      let s3 := updStack k (fun x => { x with hot := decide (s.rf rMemCtrl 7 0 ≤ h.1) }) s2
      let now := (List.range 16).filter (fun i => decide (105 ≤ ts.getD i 0))
      let again := now.filter (fun i => s.pwr.hotDies.contains (k.val * 32 + i))
      let s4 := { s3 with pwr := { s3.pwr with
        hotDies := s3.pwr.hotDies.filter (fun d => d / 32 != k.val) ++ now.map (fun i => k.val * 32 + i) } }
      match again with
      | i :: _ => thermalTrip 63 k i (ts.getD i 0) s4
      | [] => s4)

/-- The stack's throttle runs: reports are expected of it (R217). -/
def State.throttles (s : State) (k : Nat) : Bool :=
  s.inService uStack k && (Table.get .init s.pwr.units (unitKey uStack k)).now != 3

/-- THROTTLE_STEP_DOWN: the stack has stayed hot for 20 µs (R216). -/
def execThrottleStepDown (k : Fin 12) (s : State) : Host.Outcome State Fault Refusal :=
  .next (if s.throttles k && (s.stack k).hot then
      syncClocks k (updStack k (fun x => { x with ceiling := max (x.ceiling - 1) (min x.ceiling (s.rf rMemCtrl 16 12)) }) s)
    else s)

/-- THROTTLE_STEP_UP: the hottest core die has stayed at or below T_THROTTLE − T_HYST for 200 µs (R216). -/
def execThrottleStepUp (k : Fin 12) (s : State) : Host.Outcome State Fault Refusal :=
  .next (if s.throttles k && !(s.stack k).hot && (s.stack k).restrains &&
      decide (s.rf (rStkTemp k) 7 0 ≤ s.rf rMemCtrl 7 0 - s.rf rMemCtrl 11 8) then
      syncClocks k (updStack k (fun x => { x with ceiling := min 17 (x.ceiling + 1) }) s)
    else s)

/-- TELEMETRY_STALE: no report for 100 µs (R217). -/
def execTelemetryStale (k : Fin 12) (s : State) : Host.Outcome State Fault Refusal :=
  .next (if s.throttles k && !s.rb (rStkStatus k) 24 then
      opRecord 0x020B false [k] (setRf (rStkStatus k) 24 24 1 (updStack k (fun x => { x with hot := true }) s))
    else s)

/-! ### The shared-region table (R204, R205, R210) -/

/-- The placement rule of R205. -/
def placementOk (b m z : Nat) : Bool :=
  match rangeIn? b z, rangeIn? m z with
  | some (a1, o1), some (a2, o2) =>
    if a1 = 0 ∧ a2 = 0 then (o2 / 2048 + 12 * 2 ^ 40 - o1 / 2048) % 12 != 0
    else if a1 = 0 ∨ a2 = 0 then false
    else if a1 = a2 then (o2 / 2048 + 4 * 2 ^ 40 - o1 / 2048) % 4 != 0
    else true
  | _, _ => false

/-- The checks of R204. -/
def State.srtCheck (s : State) (n : Nat) (mirrored : Bool) : Bool :=
  let b := s.srtBase n
  let m := s.srtMirror n
  let z := s.srtSize n
  let out (al : Nat) : Bool := (aliasStacks al).any (fun e =>
    s.status uStack e.2 == stIsolated || s.status uStack e.2 == stQuarantine)
  let clash (x : Nat) : Bool := (s.regions.filter (· != n)).any (fun j =>
    rangesOverlap x z (s.srtBase j) (s.srtSize j) ||
      (s.srtMirrored j && rangesOverlap x z (s.srtMirror j) (s.srtSize j)))
  match rangeIn? b z with
  | none => false
  | some (al, _) =>
    if mirrored then
      match rangeIn? m z with
      | none => false
      | some (am, _) => !clash b && !clash m && !rangesOverlap b z m z && placementOk b m z && !out al && !out am
    else !clash b && !out al

/-- A write of SRT_n_CTRL (R204, R210). -/
def wrSrtCtrl (n v : Nat) (s : State) : State :=
  if s.srtActive n then
    if bit v 0 then s
    else
      let s1 := setRf (rSrtNCtrl n) 0 0 0 (setRf (rSrtNStatus n) 2 0 0 s)
      setReg (rSrtNPoisonUnits n) 0 (setReg (rSrtNHeals n) 0 s1)
  else
    let s1 := setRf (rSrtNCtrl n) 1 1 (b2n (bit v 1)) s
    if bit v 0 then
      if s1.srtCheck n (bit v 1) then setRf (rSrtNCtrl n) 0 0 1 (setRf (rSrtNStatus n) 0 0 1 s1)
      else rcFlag (rSrtNStatus n) 3 s1
    else s1

/-- SRT_VALID_SET: a write of VALID 1 with the MIRRORED bit given. -/
def execSrtValidSet (n : Fin 256) (mirrored : Bool) (s : State) : Host.Outcome State Fault Refusal :=
  .next (wrSrtCtrl n (1 + 2 * b2n mirrored) s)

/-- SRT_VALID_CLEAR: a write of VALID 0 (R210). -/
def execSrtValidClear (n : Fin 256) (mirrored : Bool) (s : State) : Host.Outcome State Fault Refusal :=
  .next (wrSrtCtrl n (2 * b2n mirrored) s)

end Sys2Proof.Machine
end

