-- ==== Sys2Proof/Machine/Recovery.lean ====
section
/-!
DEFINITION. Units that leave service after READY and come back: retirement (R440 to R443), quarantine and its epoch steps
(R432 to R436), flush markers (R340), and the partition reset (R437 to R439).
-/
namespace Sys2Proof.Machine

/-! ### Retirement (R440 to R443) -/

/-- A tile holds nothing but the task it is to be settled with. -/
def Tile.cleared (x : Tile) : Tile :=
  { Tile.init with
    live := x.live, logical := x.logical, reported := x.reported, sampleGen := x.sampleGen,
    storeOnce := x.storeUe ++ x.storeOnce }

/-- A tile stops its running task for good (R63, R441 steps 2 and 3): the task ends with the cause unless it has failed
already, and the tile reports once nothing of it is outstanding. -/
def dropTile (t cause detail : Nat) (s : State) : State :=
  let s1 := match s.liveAt t with
    | some l =>
      let s0 := updLive l.id (fun l => { l with
        firstFail := l.firstFail.or (some { cause := cause, detail := detail, tile := (s.tile t).logical }),
        stopping := true }) s
      if (s.tile t).reported then updTile t Tile.cleared s0 else stopTile t (.failed 0 0) s0
    | none => updTile t Tile.cleared s
  leaveFaults (fun w _ => isTile t w) s1

/-- The tile monitor of the image is loaded into a unit that leaves QUARANTINE, if it is a tile (R45). -/
def loadMonitor (ty t : Nat) (s : State) : State :=
  if ty = uTile then updTile t (fun x => { x with monImage := some s.sec.digest, monMem := [] }) s else s

/-- Rings whose reserving TASK had fixed the tile choose again (R441 step 4). -/
def refix (t : Nat) (s : State) : State :=
  forEach (s.rings.filter (fun e => e.2.reserving && e.2.fixed.contains t)) (fun e s =>
    match (s.ring e.1).queue.head? with
    | some d => fixTiles e.1 d.words (updRing e.1 (fun x => { x with fixed := [] }) s)
    | none => s) s

/-- Units become FAILED in one revision: entries NONE, quarantine abandoned, one UNIT_FAILED record for each that was
not FAILED before (R441 steps 1 and 5). -/
def markFailed (us : List (Nat × Nat × Nat)) (s : State) : State :=
  let s1 := rewriteUnits (us.map (fun u =>
    (unitKey u.1 u.2.1, fun r => { r with status := stFailed, cause := u.2.2 }))) s
  let keys := us.map (fun u => unitKey u.1 u.2.1)
  let s2 := { s1 with
    net := { s1.net with tags := keys.foldl (fun q k => Table.erase q k) s1.net.tags,
                         markers := keys.foldl (fun q k => Table.erase q k) s1.net.markers },
    boot := { s1.boot with quar := keys.foldl (fun q k => Table.erase q k) s1.boot.quar } }
  forEach us (fun u s' =>
    if s.status u.1 u.2.1 = stFailed then s'
    else opRecord 0x0802 true [u.1, u.2.1, s'.logicalField u.1 u.2.1, u.2.2] s') s2

/-- Tile `t` is retired (R440, R441). -/
def retireTile (t cause : Nat) (s : State) : State :=
  let st := s.status uTile t
  if st = stFailed ∨ st = stDisabled then s
  else
    let s1 := markFailed [(uTile, t, cause)] s
    serviceRequest uTile t cause 2 (refix t (dropTile t 0x31 ((s.logicalOf? t).getD 0xFFFF) s1))

/-- A unit of the tile store that was rewritten after an uncorrectable result is uncorrectable again: the tile is retired
(R440). -/
def storeFaults (t : Nat) (s : State) : State :=
  let x := s.tile t
  if x.storeUe.any (fun u => x.storeOnce.contains u) then retireTile t ccStore s else s

/-- The COPYs of cluster `c` end with a cause once their responses are in (R442). -/
def dropCopies (c cause detail : Nat) (s : State) : State :=
  forEach (s.cluster c).copies (fun id s =>
    leaveStalls (fun w _ => w == .copy id) (updLive id (fun l => { l with
      firstFail := some { cause := cause, detail := detail, tile := 0xFFFF }, stopping := true }) s)) s

/-- The tiles of cluster `c` that are not DISABLED. -/
def State.clusterTiles (s : State) (c : Nat) : List Nat :=
  (List.range 4).filterMap (fun k => if s.status uTile (4 * c + k) = stDisabled then none else some (4 * c + k))

/-- Clusters fail with their tiles, and with the units `first`, in one revision: the widest cause stands (R32, R39, R441,
R442). -/
def failClusters (first : List (Nat × Nat × Nat)) (cs : List Nat) (own tiles : Nat) (s : State) : State :=
  let us := first ++ cs.flatMap (fun c => (uCluster, c, own) :: (s.clusterTiles c).map (fun t => (uTile, t, tiles)))
  let s1 := markFailed us s
  let s2 := forEach cs (fun c s =>
    forEach (s.clusterTiles c) (fun t s => refix t (dropTile t 0x31 ((s.logicalOf? t).getD 0xFFFF) s))
      (dropCopies c 0x31 (0x100 + c) s)) s1
  s2

/-- Cluster `c` is retired with its tiles. -/
def retireCluster (c cause : Nat) (s : State) : State :=
  if s.status uCluster c = stFailed then s
  else serviceRequest uCluster c cause 2 (failClusters [] [c] cause ccCluster s)

/-- Partition `p` fails with its clusters and tiles (R443). -/
def failPartition (p cause : Nat) (s : State) : State :=
  if s.status uPartition p = stFailed then s
  else
    let s2 := failClusters [(uPartition, p, cause)] ((List.range 6).map (fun j => 6 * p + j)) ccPartition ccPartition s
    let s3 := { s2 with boot := { s2.boot with partReset := Table.erase s2.boot.partReset p } }
    let s4 := forEach (s3.ringsAt p) (fun r s => updRing r (fun x => { x with fenceLook := true }) s) s3
    serviceRequest uPartition p cause 3 s4

/-- A walker that becomes dead stops the hub from taking new work (R443). -/
def failWalker (p : Nat) (s : State) : State :=
  serviceRequest uPartition p ccDead 4 { s with boot := { s.boot with newWork := false } }

/-- A write of TILE_RETIRE (R440, R448). -/
def wrTileRetire (v : Nat) (s : State) : State :=
  if bit v 7 then
    match s.tileAt? (bits v 6 0) with
    | some t => if s.running then retireTile t ccOperator s else s
    | none => s
  else s

/-- TILE_RETIRE. -/
def execTileRetire (l : Fin 128) (s : State) : Host.Outcome State Fault Refusal :=
  .next (wrTileRetire (128 + l) s)

/-! ### The epoch steps (R434, R435) -/

/-- A unit's type and identity. -/
def quarPair : QuarUnit → Nat × Nat
  | .tile t => (uTile, t.val)
  | .cluster c => (uCluster, c.val)
  | .partition p => (uPartition, p.val)
  | .stack k => (uStack, k.val)
  | .site n => (uSite, n.val)

/-- The unit whose configuration a register holds, if that unit keeps an epoch (R434). -/
def regUnit? (off : Nat) : Option (Nat × Nat) :=
  if rMxePath 0 ≤ off ∧ off ≤ rMxePath 71 then some (uTile, (off - rMxePath 0) / 4)
  else if rPwrClkC 0 ≤ off ∧ off ≤ rPwrClkC 17 then some (uCluster, (off - rPwrClkC 0) / 4)
  else if rPwrStkSBudget 0 ≤ off ∧ off ≤ rPwrStkSBudget 11 ∧ (off - rPwrStkSBudget 0) % 8 = 0 then
    some (uStack, (off - rPwrStkSBudget 0) / 8)
  else if rStkStatus 0 ≤ off ∧ off < rStkStatus 12 ∧ (off - rStkStatus 0) % 16 = 8 then
    some (uStack, (off - rStkStatus 0) / 16)
  else if rSiteNStatus 0 ≤ off ∧ off < rSiteNStatus 6 then some (uSite, (off - rSiteNStatus 0) / 8192)
  else none

/-- A unit is in QUARANTINE. -/
def State.quarantined (s : State) (ty id : Nat) : Bool := s.status ty id == stQuarantine

/-- The units that run their epoch steps together with a unit (R435). -/
def State.quarGroup (s : State) (u : QuarUnit) : List (Nat × Nat) :=
  match u with
  | .partition p =>
    let p := p.val
    ([(uPartition, p)] ++ (List.range 6).map (fun j => (uCluster, 6 * p + j)) ++
      (List.range 24).map (fun j => (uTile, 24 * p + j))).filter (fun x => s.quarantined x.1 x.2)
  | .tile t => if s.quarantined uPartition (tilePart t) || !s.quarantined uTile t then [] else [(uTile, t.val)]
  | .cluster c => if s.quarantined uPartition (clusterPart c) || !s.quarantined uCluster c then []
                  else [(uCluster, c.val)]
  | .stack k => if s.quarantined uStack k then [(uStack, k.val)] else []
  | .site n => if s.quarantined uSite n then [(uSite, n.val)] else []

/-- The step of a unit in QUARANTINE. -/
def State.quarStep (s : State) (ty id : Nat) : Nat :=
  match Table.find? s.boot.quar (unitKey ty id) with
  | some q => q.step
  | none => 0

/-- The step set. -/
def setQuarStep (ty id n : Nat) (s : State) : State :=
  { s with boot := { s.boot with quar := s.boot.quar.map (fun e =>
      if e.1 = unitKey ty id then (e.1, { e.2 with step := n }) else e) } }

/-- Steps 1 and 2 of R435 for one unit. -/
def wipeUnit (ty id : Nat) (s : State) : State :=
  if ty = uTile then updTile id Tile.cleared s
  else if ty = uCluster then
    let s1 := updCluster id (fun k => { Cluster.init with copies := k.copies }) s
    let s2 := updXlt (fun x => { x with ctc := vupd [] x.ctc id (fun _ => []) }) s1
    forEach (List.range 4) (fun k s => updTile (4 * id + k) (fun x => { x with prevCtx := none }) s) s2
  else if ty = uSite then updXlt (fun x => { x with siteCache := vupd [] x.siteCache id (fun _ => []) }) s
  else s

/-- A tile that has passed its self-test leaves FAULTED, and its mismatches count anew (R93, R94). -/
def clearFaulted (t : Nat) (s : State) : State :=
  syncNative t (setRf (rMxePath t) 15 8 0 (setRf (rMxePath t) 2 2 0 s))

/-- The fields of a register that software sets. -/
def rwFields (off : Nat) : List FieldInfo := (regFields off).filter (fun f => f.acc == .rw)

/-- Step 4 of R435: the unit's registers take the values written during QUARANTINE. -/
def replayShadow (ty id : Nat) (s : State) : State :=
  let mine := s.boot.shadow.filter (fun e => regUnit? e.1 == some (ty, id))
  let s1 := forEach mine (fun e s =>
    let s1 := setReg e.1 (mergeFields (rwFields e.1) (s.reg e.1) e.2.toNat) s
    { s1 with regs := { s1.regs with force := Table.erase s1.regs.force e.1 } }) s
  let s2 := { s1 with boot := { s1.boot with
    shadow := s1.boot.shadow.filter (fun e => regUnit? e.1 != some (ty, id)) } }
  if ty = uCluster then syncClocks (clusterStack id) s2 else if ty = uTile then syncNative id s2 else s2

/-- The failure of a unit's self-test (R435 step 3). -/
def failTest (ty id : Nat) (s : State) : State :=
  if ty = uTile then retireTile id ccSelftest s
  else if ty = uCluster then retireCluster id ccSelftest s
  else if ty = uPartition then failPartition id ccSelftest s
  else s

/-- A packet is of the units of `g`, their partition's services among them. -/
def pktFrom (g : List (Nat × Nat)) (p : Packet) : Bool :=
  match attOwner? p.src with
  | some x => g.contains x
  | none => false

/-- Packets that a unit had not injected are gone with its reset. -/
def dropOffers (us : List (Nat × Nat)) (s : State) : State :=
  { s with net := { s.net with waiting := s.net.waiting.filter (fun o => !pktFrom us o.pkt) } }

/-- Steps 1 to 6 of R435: `bad` are the units whose self-test fails; the markers of R340 go out. -/
def quarBegin (us bad : List (Nat × Nat)) (s : State) : State :=
  let s1 := forEach us (fun u s => wipeUnit u.1 u.2 s) (dropOffers us s)
  let s2 := forEach (us.filter (fun u => bad.contains u)) (fun u s => failTest u.1 u.2 s) s1
  let rest := us.filter (fun u => s2.quarantined u.1 u.2)
  let s3 := forEach rest (fun u s =>
    replayShadow u.1 u.2 (if u.1 = uTile then clearFaulted u.2 s else s)) s2
  let s4 := rewriteUnits (rest.map (fun u => (unitKey u.1 u.2, fun r => { r with epoch := s3.epoch }))) s3
  forEach rest (fun u s => setQuarStep u.1 u.2 2 s) s4

/-- The unit in whose name a group's markers are counted. -/
def markerKey (u : QuarUnit) : Nat := unitKey (quarPair u).1 (quarPair u).2

/-- The number of a flush marker: its router, virtual network, plane and phase. -/
def markerCode (r vn plane : Nat) (phaseA : Bool) : Nat := ((r * 5 + vn) * 5 + plane) * 2 + b2n phaseA

/-- The markers of R340 step 1: one on every virtual network, plane and phase to every attachment router. -/
def allMarkers : List Nat := attachRouters.flatMap (fun r => (List.range 50).map (fun j => r * 50 + j))

/-- Markers go out to every attachment router (R340 step 1). -/
def sendMarkers (u : QuarUnit) (s : State) : State :=
  { s with net := { s.net with markers := Table.set s.net.markers (markerKey u) allMarkers } }

/-- The status in which a unit returns. -/
def State.returnStatus (s : State) (ty id : Nat) : Nat × Nat :=
  if ty = uStack ∧ (s.stack id).retired ≠ [] then (stDegraded, ccModule) else (stGood, ccNone)

/-- Step 7 of R435: ingress opens, statuses in one revision, tiles get their monitor, and one QUARANTINE_EXIT record each. -/
def quarEnd (us : List (Nat × Nat)) (s : State) : State :=
  let s1 := rewriteUnits (us.map (fun u => (unitKey u.1 u.2, fun r =>
    { r with status := (s.returnStatus u.1 u.2).1, cause := (s.returnStatus u.1 u.2).2,
             width := if u.1 = uStack then 64 - (s.stack u.2).retired.length else r.width }))) s
  let s2 := { s1 with boot := { s1.boot with
    quar := us.foldl (fun q u => Table.erase q (unitKey u.1 u.2)) s1.boot.quar } }
  let s3 := forEach us (fun u s => loadMonitor u.1 u.2 (unisolate u.1 u.2 s)) s2
  forEach us (fun u s => opRecord 0x0804 false [u.1, u.2, (s.unit u.1 u.2).epoch] s) s3

/-- The stacks that hold a part of either copy of a region. -/
def State.regionStacks (s : State) (n : Nat) : List Nat :=
  (List.range 12).filter (fun j => unitsOn (s.srtBase n) (s.srtSize n) j + unitsOn (s.srtMirror n) (s.srtSize n) j != 0)

/-- A stack that has come back: FAILED_OVER clears where the entry's other stacks are in service, its capacity and its clusters' clocks return, and one
STACK_REJOINED record is raised (R220 step 6). -/
def stackBack (k : Nat) (s : State) : State :=
  let s1 := forEach s.regions (fun n s =>
    let units := unitsOn (s.srtBase n) (s.srtSize n) k + unitsOn (s.srtMirror n) (s.srtSize n) k
    if s.srtMirrored n && units != 0 && !(s.regionStacks n).any (fun j => j != k && !s.inService uStack j) then setRf (rSrtNStatus n) 2 2 0 s else s) s
  opRecord 0x0209 true [k] (syncClocks k (syncStackCap k s1))

/-- QUARANTINE_EXIT: the unit, or the partition with its clusters and tiles, begins its epoch steps, `bad` failing the
self-test; once its markers are back it returns to service, a site by JOIN (R324 step 5, R435). A stack begins once
it has been filled (R220), a partition in reset once its work has been settled (R438). -/
def quarantineExit (u : QuarUnit) (bad : List QuarUnit) (s : State) : State :=
  let g := s.quarGroup u
  let x := quarPair u
  if g.isEmpty then s
  else if s.quarStep x.1 x.2 < 2 then
    let ready := match u with
      | .stack k => s.quarStep uStack k == 1
      | .partition p => (Table.find? s.boot.partReset p).isNone || Table.find? s.boot.partReset p == some 4
      | _ => true
    if ready then
      let s1 := quarBegin g (bad.map quarPair) s
      if s1.quarantined x.1 x.2 then sendMarkers u s1 else s1
    else s
  else if s.quarStep x.1 x.2 = 3 then
    match u with
    | .site n => sendJoin n (setQuarStep uSite n 4 s)
    | .stack k => stackBack k (quarEnd g s)
    | .partition p =>
      let s1 := quarEnd g s
      { s1 with boot := { s1.boot with partReset :=
          if (Table.find? s1.boot.partReset p).isSome then Table.set s1.boot.partReset p 5 else s1.boot.partReset } }
    | _ => quarEnd g s
  else s

/-- QUARANTINE_EXIT. -/
def execQuarantineExit (u : QuarUnit) (bad : List QuarUnit) (s : State) : Host.Outcome State Fault Refusal :=
  settled (.next (quarantineExit u bad s))

/-! ### The partition reset (R437 to R439) -/

/-- Steps 1 to 3 of R438. -/
def resetPartition (p : Nat) (s : State) : State :=
  let st := s.status uPartition p
  if !s.running || st == stQuarantine || st == stFailed || (Table.get PUnit.init s.pwr.units (unitKey uPartition p)).now == 3 then s
  else
    let ts := (List.range 24).filterMap (fun j =>
      let x := s.status uTile (24 * p + j)
      if x = stDisabled ∨ x = stFailed then none else some (24 * p + j))
    let cs := (List.range 6).filterMap (fun j =>
      if s.status uCluster (6 * p + j) = stFailed then none else some (6 * p + j))
    let s1 := enterQuar ((uPartition, p) :: cs.map (fun c => (uCluster, c)) ++ ts.map (fun t => (uTile, t))) ccPartReset s
    let s2 := forEach ts (fun t s => updTile t Tile.cleared s) s1
    let s3 := forEach (s2.ringsAt p) stopRing s2
    let s4 := { s3 with
      boot := { s3.boot with partReset := Table.set s3.boot.partReset p 3 } }
    { s4 with net := { s4.net with markers := Table.set s4.net.markers (unitKey uPartition p) allMarkers } }

/-- PARTITION_RESET. -/
def execPartitionReset (p : Fin 3) (s : State) : Host.Outcome State Fault Refusal := .next (resetPartition p s)

/-- Step 4 of R438: dispatched work is settled (R439). -/
def settlePartition (p : Nat) (s : State) : State :=
  let fail : FirstFail := { cause := 0x32, detail := p, tile := 0xFFFF }
  let hit (l : Live) : Bool := l.opcode == 1 && l.tiles.any (fun t => tilePart t == p)
  let s1 := { s with lives := s.lives.map (fun l =>
    if hit l then { l with firstFail := some fail, stopping := true } else l) }
  let s2 := forEach ((List.range 24).map (fun j => 24 * p + j)) (fun t s =>
    let s0 := leaveFaults (fun w _ => isTile t w) s
    if (s0.tile t).live.isSome && !(s0.tile t).reported then updTile t Tile.cleared (reportTile t (.failed 0 0) s0)
    else s0) s1
  let s3 := forEach ((List.range 6).map (fun j => 6 * p + j)) (fun c s =>
    forEach (s.cluster c).copies (fun id s => leaveFaults (fun w _ => w == .copy id) (updLive id (fun l => { l with
      firstFail := some fail, stopping := true, outst := 0 }) s)) s) s2
  { s3 with boot := { s3.boot with partReset := Table.set s3.boot.partReset p 4 } }

/-- The markers of a unit are all back (R340 step 3): a partition in reset settles its work, and a unit in its epoch
steps has its new tag written into every table. -/
def markersBack (u : QuarUnit) (s : State) : State :=
  let settle : Option Nat := match u with
    | .partition p => if Table.find? s.boot.partReset p = some 3 then some p.val else none
    | _ => none
  match settle with
  | some p => settlePartition p s
  | none =>
    let g := (s.quarGroup u).filter (fun x => s.quarStep x.1 x.2 == 2)
    let s1 := { s with net := { s.net with tags := g.foldl (fun q x =>
      Table.set q (unitKey x.1 x.2) ((s.unit x.1 x.2).epoch % 16 + 1)) s.net.tags } }
    forEach g (fun x s => setQuarStep x.1 x.2 3 s) s1

/-- An earlier packet of the units of `g` is still on the marker's way: markers ride behind it (R335, R340). -/
def State.markerBehind (s : State) (g : List (Nat × Nat)) (r vn plane : Nat) (phaseA : Bool) : Bool :=
  s.net.packets.any (fun t => pktFrom g t.pkt && attRouter t.pkt.dst == r && pktVn t.pkt.msg == vn && t.plane == plane &&
    t.beganA == phaseA)

/-- FLUSH_MARKER_RETURN: the marker that a unit sent to a router on one network, plane and phase comes back (R340 steps 2
and 3). -/
def execFlushMarkerReturn (m : FlushMarker) (s : State) : Host.Outcome State Fault Refusal :=
  let u := m.unit
  let code := markerCode m.router m.ch.vn m.ch.plane m.ch.phaseA
  .next (match Table.find? s.net.markers (markerKey u) with
    | none => s
    | some l =>
      if !l.contains code || s.markerBehind (s.quarGroup u) m.router m.ch.vn m.ch.plane m.ch.phaseA then s
      else
        let rest := l.erase code
        if rest.isEmpty then markersBack u { s with net := { s.net with markers := Table.erase s.net.markers (markerKey u) } }
        else { s with net := { s.net with markers := Table.set s.net.markers (markerKey u) rest } })

/-- PARTITION_RESET_DONE: the epoch steps are done; the record is raised and fetch resumes (R438 step 6). -/
def execPartitionResetDone (p : Fin 3) (s : State) : Host.Outcome State Fault Refusal :=
  .next (if Table.find? s.boot.partReset p = some 5 then
      opRecord 0x0803 true [p, s.goodTiles p]
        { s with boot := { s.boot with partReset := Table.erase s.boot.partReset p } }
    else s)

end Sys2Proof.Machine
end

