-- ==== Sys2Proof/Machine/Counters.lean ====
section
/-!
DEFINITION. The counters, their windows and snapshots (R505 to R522), and tenants' reading of them (R479, R521). Counts
of clock cycles are free values: the model has no clock (log entry 3).
-/
namespace Sys2Proof.Machine

/-! ### Wraps and windows (R512, R515) -/

/-- A counter that has wrapped: OVF, the interrupt, and in a tile block an overflow record (R512, R514). -/
def counterWrap (s : State) : State :=
  match s.cnt.wraps with
  | [] => s
  | (b, i) :: rest =>
    let s1 := rcFlag (rCntBOvf b) i { s with cnt := { s.cnt with wraps := rest } }
    let s2 := if s1.rb (rCntBSelI b i) 27 then sendVector 0 (s1.rf rCntCtrl 12 1) s1 else s1
    if b < 72 ∧ s2.rb rSmpCtrl 0 = true then
      let x := s2.tile b
      let f := fresh s2
      sampleRecord (2 + i * 32)
        [b + 2 ^ 8 * x.ctx + 2 ^ 20 * x.cls, 0, x.pc.toNat % 2 ^ 32, x.pc.toNat / 2 ^ 32, f.1.toNat % 2 ^ 32, 0, 0] f.2
    else s2

/-- COUNTER_WRAP. -/
def execCounterWrap (s : State) : Host.Outcome State Fault Refusal := .next (counterWrap s)

/-- The bandwidth window of block `b` ends: CNT_b_BW_p show its totals, and the next window starts at zero. -/
def endWindow (b : Nat) (s : State) : State :=
  let s1 := forEach (List.range 4) (fun p x => setReg (rCntBBwP b p) (min (Table.get 0 s.cnt.bw (b * 4 + p)) (2 ^ 32 - 1)) x) s
  { s1 with cnt := { s1.cnt with bw := s1.cnt.bw.filter (fun e => e.1 / 4 != b) } }

/-- BW_WINDOW_END: 2^WINDOW_LOG2 cycles of a block's clock have passed (R515). -/
def execBwWindowEnd (b : Fin 353) (s : State) : Host.Outcome State Fault Refusal :=
  .next (if bits (s.inForce (rCntBBwCtrl b)) 5 5 = 0 then endWindow b s else s)

/-! ### Snapshots (R516 to R520) -/

/-- The router ports with a neighbour or an attachment: 0 to 3 north, east, south and west, 4 to 7 attachments (R509). -/
def routerPorts (r : Nat) : List Nat :=
  let x := r % 24
  let y := r / 24
  (if y < 7 then [0] else []) ++ (if x < 23 then [1] else []) ++ (if 0 < y then [2] else []) ++
    (if 0 < x then [3] else []) ++ (List.range (attachments r).length).map (· + 4)

/-- The number of an input channel: its port, and the virtual network, plane and phase of a marker on it (R516 step 2). -/
def channelOf (port vn plane : Nat) (phaseA : Bool) : Nat := port * 64 + ((vn * 5 + plane) * 2 + b2n phaseA)

/-- The input channels of block `b`: every virtual network, plane and phase of a router's ports or a unit's attachments, and
for a plaza or a site the Ring Road as port 7 (R516). -/
def inChannels (b : Nat) : List Nat :=
  let ports : List Nat :=
    if 161 ≤ b then routerPorts (b - 161)
    else if 72 ≤ b ∧ b < 90 ∨ 126 ≤ b ∧ b < 144 then [0, 1, 2, 3]
    else [0]
  ports.flatMap (fun p => (List.range 50).map (fun c => p * 64 + c)) ++
    (if 90 ≤ b ∧ b < 126 ∨ 138 ≤ b ∧ b < 144 then [7 * 64] else [])

/-- The counter block of the unit at an attachment. -/
def attBlock? (a : Nat) : Option Nat :=
  match attUnit? a with
  | some (ty, id) =>
    if ty = uTile then some (blkTile id)
    else if ty = uCluster then some (blkCluster id)
    else if ty = uPlaza then some (blkPlaza id)
    else if ty = uStack then some (blkStack id)
    else if ty = uSite then some (blkSite id)
    else if ty = uPort then some (blkPort id)
    else if ty = uHost then some blkHost
    else none
  | none => none

/-- The attachments of the unit of block `b`, in order. -/
def blockAtts (b : Nat) : List Nat := (List.range 768).filter (fun a => attBlock? a == some b)

/-- The router at the far end of a link of router `r`: 0 north, 1 east, 2 south, 3 west. -/
def neighbour (r port : Nat) : Nat :=
  match port with
  | 0 => r + 24
  | 1 => r + 1
  | 2 => r - 24
  | _ => r - 1

/-- The sender on an input channel of block `b` has sent its marker: it has latched, or it is Welore, which sends the first. A
unit without a counter block sends one when its router has, and a stop of the Ring Road once a router has (R516). -/
def SnapRun.sentTo (r : SnapRun) (b port : Nat) : Bool :=
  if 161 ≤ b then
    if port < 4 then r.latched.contains (blkRouter (neighbour (b - 161) port))
    else
      match attBlock? (4 * (b - 161) + (port - 4)) with
      | some u => r.latched.contains u
      | none => attUnit? (4 * (b - 161) + (port - 4)) == some (14, 0) || r.latched.contains b
  else if port = 7 then !r.latched.isEmpty
  else
    match (blockAtts b)[port]? with
    | some a => r.latched.contains (blkRouter (attRouter a))
    | none => false

/-- A shadow bank, as values with in-flight counts by block × 16 + counter. -/
def Counters.bank (c : Counters) (k : Nat) : Table (Nat × Nat) := if k % 2 = 0 then c.shadow0 else c.shadow1

/-- A shadow bank changed. -/
def updBank (k : Nat) (f : Table (Nat × Nat) → Table (Nat × Nat)) (s : State) : State :=
  { s with cnt := if k % 2 = 0 then { s.cnt with shadow0 := f s.cnt.shadow0 }
                  else { s.cnt with shadow1 := f s.cnt.shadow1 } }

/-- Block `b` latches: its counters go to the new bank, written selections apply to cleared counters, and an aligned
window ends (R511, R515, R516). -/
def latchBlock (b : Nat) (r : SnapRun) (s : State) : State :=
  let f := fresh s
  let sels := (List.range 8).map (fun i => (i, bits (f.2.inForce (rCntBSelI b i)) 26 0))
  let s1 := updBank f.2.cnt.seqRun (fun t =>
    Table.set (forEach (List.range 8) (fun i t =>
      let v := f.2.counter b i
      if v = 0 then t else Table.set t (b * 16 + i) (v, 0)) t) (b * 16 + 8) (f.1.toNat % 2 ^ 48, 0)) f.2
  let s2 := forEach (List.range 8) (fun i s =>
    if s.cnt.selDue.contains (b * 8 + i) then
      applyKey .snapshot (rCntBSelI b i) { s with cnt := { s.cnt with
        val := Table.erase s.cnt.val (b * 16 + i), selDue := s.cnt.selDue.filter (· != b * 8 + i) } }
    else s) s1
  let was := bits (s2.inForce (rCntBBwCtrl b)) 5 5
  let s3 := applyKey .snapshot (rCntBBwCtrl b) (if was = 1 then endWindow b s2 else s2)
  let s4 := if bits (s3.inForce (rCntBBwCtrl b)) 5 5 = was then s3
    else { s3 with cnt := { s3.cnt with bw := s3.cnt.bw.filter (fun e => e.1 / 4 != b) } }
  { s4 with cnt := { s4.cnt with run := some { r with
      latched := r.latched ++ [b],
      sels := forEach sels (fun e t => if e.2 = 0 then t else Table.set t (b * 8 + e.1) e.2) r.sels } } }

/-- The colour that block `b`'s unit gives its packets: the new one once the block has latched (R516 step 2). -/
def State.colourOf (s : State) (b : Nat) : Bool :=
  match s.cnt.run with
  | some r => if r.latched.contains b then s.rb rSnapStatus 1 else !s.rb rSnapStatus 1
  | none => s.rb rSnapStatus 1

/-- A packet of colour `c` reaches block `b` before any marker: the block latches first (R516). -/
def colourLatch (b : Nat) (c : Bool) (s : State) : State :=
  match s.cnt.run with
  | some r => if !r.latched.contains b && c == s.rb rSnapStatus 1 then latchBlock b r s else s
  | none => s

/-- An arrival at block `b` by port and network, on channel `ch`, counted, and counted as in flight while the channel's marker
is still awaited (R516 step 4). -/
def countArrival (b ev p v ch : Nat) (s : State) : State :=
  let s1 := countEvent b ev none none (some (p, v)) 1 s
  match s.cnt.run with
  | some r =>
    if r.latched.contains b && !r.arrived.contains (2 ^ 16 * b + ch) && s.rb rCntCtrl 0 then
      forEach (List.range 8) (fun i s =>
        if selects (Table.get 0 r.sels (b * 8 + i)) ev none none (some (p, v)) then
          updBank s.cnt.seqRun (fun t =>
            let e := Table.get (0, 0) t (b * 16 + i)
            Table.set t (b * 16 + i) (e.1, min (e.2 + 1) (2 ^ 32 - 1))) s
        else s) s1
    else s1
  | none => s1

/-- A marker reaches block `b` on a channel. -/
def snapMarker (b ch : Nat) (s : State) : State :=
  match s.cnt.run with
  | none => s
  | some r0 =>
    if !(inChannels b).contains ch then s
    else
      let s1 := if r0.latched.contains b then s else latchBlock b r0 s
      match s1.cnt.run with
      | none => s1
      | some r =>
        let arrived := if r.arrived.contains (2 ^ 16 * b + ch) then r.arrived else r.arrived ++ [2 ^ 16 * b + ch]
        let all := (inChannels b).all (fun c => arrived.contains (2 ^ 16 * b + c))
        { s1 with cnt := { s1.cnt with run := some { r with
            arrived := arrived,
            reported := if all && !r.reported.contains b then r.reported ++ [b] else r.reported } } }

/-- What reaches block `b` on a channel comes behind the marker that its sender has put there. -/
def behindMarker (b port ch : Nat) (s : State) : State :=
  match s.cnt.run with
  | some r => if r.sentTo b port && !r.arrived.contains (2 ^ 16 * b + ch) then snapMarker b ch s else s
  | none => s

/-- The marker of a channel may arrive: its sender has put it there. -/
def State.markerSent (s : State) (b port : Nat) : Bool :=
  match s.cnt.run with
  | some r => r.sentTo b port
  | none => false

/-- SNAPSHOT_MARKER: `port` is a router's port, a unit's attachment, or 7 for the Ring Road. -/
def execSnapshotMarker (b : Fin 353) (port : Fin 8) (c : NetChannel) (s : State) : Host.Outcome State Fault Refusal :=
  .next (if s.markerSent b port then snapMarker b (channelOf port c.vn c.plane c.phaseA) s else s)

/-- SNAP_REQUEST: SNAP_CTRL.GO (R519). -/
def snapRequest (s : State) : State :=
  if s.running && !s.rb rNocStatus 16 then
    setRf rSnapStatus 0 0 1 { s with cnt := { s.cnt with asked := true } }
  else s

/-- A write of SNAP_CTRL; other values of MIN_GAP are ignored. -/
def wrSnapCtrl (v : Nat) (s : State) : State :=
  let g := bits v 10 1
  let s1 := if 10 ≤ g ∧ g ≤ 1000 then setRf rSnapCtrl 10 1 g s else s
  if bit v 0 then snapRequest s1 else s1

/-- SNAP_REQUEST. -/
def execSnapRequest (s : State) : Host.Outcome State Fault Refusal := .next (snapRequest s)

/-- SNAPSHOT_BEGIN: a snapshot has been asked for and MIN_GAP has passed (R516 step 1, R519). -/
def execSnapshotBegin (s : State) : Host.Outcome State Fault Refusal :=
  .next (if s.cnt.asked && s.cnt.run.isNone && s.running && !s.rb rNocStatus 16 then
      let k := (s.cnt.seqRun + 1) % 2 ^ 32
      let s1 := applyAll .snapshot (fun key => decide (rSecTenantCtrl ≤ key) && decide (key ≤ rSecTenantCntJ 3))
        (setRf rSnapStatus 2 0 (1 + 2 * (1 - s.rf rSnapStatus 1 1)) s)
      updBank k (fun _ => []) { s1 with cnt := { s1.cnt with
        seqRun := k, asked := false, run := some { latched := [], reported := [], arrived := [], sels := [] } } }
    else s)

/-- SNAPSHOT_COMPLETE: every block has reported; the bank becomes visible and the SNAPSHOT descriptors bound to this
snapshot complete (R174, R516 step 6). -/
def execSnapshotComplete (s : State) : Host.Outcome State Fault Refusal :=
  .next (match s.cnt.run with
    | some r =>
      if (List.range 353).all r.reported.contains then
        let k := s.cnt.seqRun
        let s1 := setRf rSnapStatus 0 0 (b2n s.cnt.asked) (setReg rSnapSeq k { s with cnt := { s.cnt with run := none } })
        { s1 with lives := s1.lives.map (fun l =>
            if l.opcode = 5 ∧ l.finished = none ∧ l.stopping = false ∧ 0 ≤ signed 32 (k + 2 ^ 32 - l.snapFrom) then
              { l with finished := some (0, 0), result := k } else l) }
      else s
    | none => s)

/-- A transit failure ends a snapshot in progress, and SNAPSHOT descriptors that wait (R520). -/
def abortSnapshot (s : State) : State :=
  let s1 := setRf rSnapStatus 2 0
    (s.rf rSnapStatus 1 1 * 2 + (if s.cnt.run.isSome then 4 else s.rf rSnapStatus 2 2 * 4))
    { s with cnt := { s.cnt with run := none, asked := false } }
  { s1 with lives := s1.lives.map (fun l =>
      if l.opcode = 5 ∧ l.finished = none ∧ l.stopping = false then { l with finished := some (0x23, 0) } else l) }

/-! ### Reading the counters (R479, R508, R521) -/

/-- What a word of a counter block is: the counter with LO (0), HI (1) or in-flight (2), or none for the others. -/
def counterWord (o : Nat) : Option (CntReg × Nat) :=
  if o = 0 then some (.cyc, 0)
  else if o = 4 then some (.cyc, 1)
  else if o = 0x8C then some (.shdCyc, 0)
  else if o = 0x9C then some (.shdCyc, 1)
  else if 0x40 ≤ o ∧ o < 0x80 then some (.val (Fin.ofNat 8 ((o - 0x40) / 8)), o % 8 / 4)
  else if 0x80 ≤ o ∧ o % 16 < 12 then some (.shd (Fin.ofNat 8 ((o - 0x80) / 16)), o % 16 / 4)
  else none

/-- The offset of a counter's LO register in its block. -/
def counterLo : CntReg → Nat
  | .cyc => 0
  | .val i => 0x40 + 8 * i.val
  | .shdCyc => 0x8C
  | .shd i => 0x80 + 16 * i.val

/-- The offset of its HI register. -/
def counterHi : CntReg → Nat
  | .shdCyc => 0x9C
  | r => counterLo r + 4

/-- The value, and the in-flight count of a shadow, that a counter shows; a cycle counter's is free. -/
def State.counterValue (s : State) (b : Nat) (r : CntReg) : Nat × Nat :=
  let k := s.reg rSnapSeq
  let shadow (i : Nat) : Nat × Nat := if k = 0 then (0, 0) else Table.get (0, 0) (s.cnt.bank k) (b * 16 + i)
  match r with
  | .cyc => ((fresh s).1.toNat % 2 ^ 48, 0)
  | .val i => (s.counter b i, 0)
  | .shdCyc => shadow 8
  | .shd i => shadow i

/-- Function `fn` may read counter `i` of block `b`, or, for 8, its cycle counter (R479, R521). -/
def State.mayCount (s : State) (fn b i : Nat) : Bool :=
  let one (j : Nat) : Bool :=
    let sel := s.inForce (rCntBSelI b j)
    bit sel 8 && eventC (bits sel 7 0) && s.owner (bits sel 20 9) == fn
  fn == 0 || (bit (s.inForce (rSecTenantCntJ (fn / 32))) (fn % 32) &&
    (if i = 8 then (List.range 8).any one else one i))

/-- A tenant's value, with its low COARSE_K bits cleared. -/
def State.coarse (s : State) (fn v : Nat) : Nat :=
  let k := bits (s.inForce rSecTenantCtrl) 4 0
  if fn = 0 then v else v / 2 ^ k * 2 ^ k

/-- The counter block of a DISABLED tile reads zero (R31). -/
def State.blockDead (s : State) (b : Nat) : Bool := decide (b < 72) && s.status uTile b == stDisabled

/-- A read of a word of counter block `b` that holds a counter. -/
def rdCounter (fn b : Nat) (r : CntReg) (part : Nat) (s : State) : Nat × State :=
  let i : Nat := match r with
    | .cyc => 8
    | .shdCyc => 8
    | .val i => i.val
    | .shd i => i.val
  let key := fnKey fn (rCntBCycLo b + counterHi r)
  if s.blockDead b || !s.mayCount fn b i then (0, s)
  else if part = 1 then (s.withRsvd (rCntBCycLo b + counterHi r) (Table.get 0 s.cnt.hiCopy key), s)
  else
    let e := s.counterValue b r
    if part = 2 then (s.withRsvd (rCntBCycLo b + counterLo r + 8) (s.coarse fn e.2), s)
    else
      let v := s.coarse fn e.1
      let s1 := { s with cnt := { s.cnt with hiCopy := Table.set s.cnt.hiCopy key (v / 2 ^ 32) } }
      (v % 2 ^ 32, match r with
        | .cyc => { s1 with free := s1.free + 1 }
        | _ => s1)

/-- A write of a part of counter `i` of block `b` by the physical function (R508). -/
def wrCounter (b i part v : Nat) (s : State) : State :=
  let c := s.counter b i
  let w := if part = 0 then setBits c 31 0 v else setBits c 47 32 v
  { s with cnt := { s.cnt with val := if w = 0 then Table.erase s.cnt.val (b * 16 + i)
                                      else Table.set s.cnt.val (b * 16 + i) w } }

/-- COUNTER_LO_READ: a function reads a counter's LO register, which copies bits [47:32] into HI (R508). -/
def execCounterLoRead (fn : Fin 128) (b : Fin 353) (r : CntReg) (s : State) : Host.Outcome State Fault Refusal :=
  let x := rdCounter fn b r 0 s
  .next (emit (.regRead fn (rCntBCycLo b + counterLo r) (BitVec.ofNat 32 x.1)) x.2)

end Sys2Proof.Machine
end

