-- ==== Sys2Proof/Machine/Network.lean ====
section
/-!
DEFINITION. The on-die network and its quality of service (R329 to R354): routes and tags of packets, budgets and
urgency, ejection with epoch tags and dead-target isolation, link protection, Crossing links and transit failure, periods
and guarantees. A packet here is the network's own copy of what a message row of its source has already said; it carries
tags, waits at its injection port and in the routers' buffers, and is charged, routed and counted.
-/
namespace Sys2Proof.Machine

/-! ### Routes (R334) -/

/-- The columns from `a` to `b`, without `a`. -/
def legX (a b : Nat) : List Nat :=
  if a ≤ b then (List.range (b - a)).map (fun i => a + 1 + i) else (List.range (a - b)).map (fun i => a - 1 - i)

/-- The Crossings between columns `a` and `b`: 0 West, 1 East. -/
def crossings (a b : Nat) : List Nat :=
  (List.range 2).filter (fun c => decide (min a b ≤ 7 + 8 * c) && decide (8 + 8 * c ≤ max a b))

/-- The link of Crossing `c` in row `y` is in service. -/
def State.linkUp? (s : State) (c y : Nat) : Bool := s.rb rNocStatus (8 * c + y)

/-- row_in_service of R334. -/
def State.rowOk (s : State) (xs xd y : Nat) : Bool := (crossings xs xd).all (fun c => s.linkUp? c y)

/-- The rows among which the hash of R334 chooses: `n` bounds how often the range is widened. -/
def State.rowsFor (s : State) (xs xd : Nat) : Nat → Nat → Nat → List Nat
  | 0, _, _ => []
  | n + 1, lo, hi =>
    let rows := ((List.range (hi + 1 - lo)).map (· + lo)).filter (s.rowOk xs xd)
    if rows.isEmpty then s.rowsFor xs xd n (lo - 1) (min 7 (hi + 1)) else rows

/-- The row in which a route crosses the seams, or none where no row is left. -/
def State.crossRow (s : State) (xs ys xd yd : Nat) : Option Nat :=
  let rows := s.rowsFor xs xd 8 (min ys yd) (max ys yd)
  rows[(xs + 3 * ys + 5 * xd + 7 * yd) % rows.length]?

/-- The routers of the route of R334, from source to destination. -/
def State.pktRoute (s : State) (a b : Nat) : List Nat :=
  let xs := a % 24
  let ys := a / 24
  let xd := b % 24
  let yd := b / 24
  if xs / 8 = xd / 8 then
    a :: (legX xs xd).map (fun x => routerAt x ys) ++ (legX ys yd).map (fun y => routerAt xd y)
  else
    match s.crossRow xs ys xd yd with
    | none => []
    | some c => a :: (legX ys c).map (fun y => routerAt xs y) ++ (legX xs xd).map (fun x => routerAt x c) ++
        (legX c yd).map (fun y => routerAt xd y)

/-- The router port from `a` to its neighbour `b`: 0 north, 1 east, 2 south, 3 west (R509). -/
def portTo (a b : Nat) : Nat :=
  if b = a + 24 then 0 else if b = a + 1 then 1 else if b + 24 = a then 2 else 3

/-- The Crossing links that a route uses: Crossing and row. -/
def linksOf : List Nat → List (Nat × Nat)
  | a :: b :: l =>
    let rest := linksOf (b :: l)
    if a % 24 / 8 ≠ b % 24 / 8 then (min (a % 24) (b % 24) / 8, a / 24) :: rest else rest
  | _ => []

/-! ### Packets -/

/-- What a packet is charged, in bytes (R347). -/
def pktCharge : PktMsg → Nat
  | .rdOnce n => 64 * n.val
  | .rdShared => 128
  | .rdUnique => 128
  | .mrd => 128
  | .memRd => 64
  | .wrFull => 128
  | .wrPart n => n.val
  | .writeback => 128
  | .mwr => 64
  | .memWr => 64
  | .atomic => 64
  | _ => 0

/-- The 64-byte units of payload. -/
def pktUnits : PktMsg → Nat
  | .data n => n.val
  | .wrFull => 2
  | .wrPart n => ceilDiv n.val 64
  | .writeback => 2
  | .mwr => 1
  | .memWr => 1
  | .atomic => 1
  | _ => 0

/-- A request of its own, whose tags are set where it is injected; anything else answers or serves another packet and
copies its tags (R333). -/
def isRequest (m : PktMsg) : Bool :=
  match m with
  | .mrd => false
  | .mwr => false
  | _ => (pktVn m) == 0

/-- The units that keep an epoch (R432). -/
def hasEpoch (ty : Nat) : Bool :=
  ty == uTile || ty == uCluster || ty == uStack || ty == uSite || ty == uPartition

/-- EPOCH of the packets of an attachment. -/
def State.attEpoch (s : State) (a : Nat) : Nat :=
  match attOwner? a with
  | some (ty, id) => if hasEpoch ty then (s.unit ty id).epoch % 16 else 0
  | none => 0

/-! ### Injection (R346 to R348) -/

/-- The counter block in which an injection point's events count (R509). -/
def pointBlock (n : Nat) : Nat :=
  if n < 90 then n else if n < 96 then blkSite (n - 90) else if n < 112 then blkPort (n - 96) else blkHost

/-- Budget of class `c` at point `n` in force, in units of 256 bytes. -/
def State.budget (s : State) (n c : Nat) : Nat :=
  s.rff (rQosBudgetNK n (c / 2)) (16 * (c % 2) + 15) (16 * (c % 2))

/-- The charge of class `c` at point `n`, in bytes. -/
def State.charge (s : State) (n c : Nat) : Nat := Table.get 0 s.net.charges (n * 16 + c)

/-- The raw urgency at point `n` (R348): URG of the chiplet's message is `urg`; a port has the fill of its receive buffer. -/
def State.rawUrgency (s : State) (n urg : Nat) : Nat :=
  if 90 ≤ n ∧ n < 96 then
    if s.siteCxl (n - 90) then s.rff (rSiteNCtrl (n - 90)) 21 20 else urg % 4
  else if 96 ≤ n ∧ n < 112 then
    let t := s.inForce rQosUrgThresh
    let fill := s.fabFill (n - 96)
    if bits t 20 14 ≤ fill then 3 else if bits t 13 7 ≤ fill then 2 else if bits t 6 0 ≤ fill then 1 else 0
  else 0

/-- URG of the request of site `n` with number `txn` that waits in the hub (R310). -/
def State.siteUrg (s : State) (n txn : Nat) : Nat :=
  match (s.site n).opens.find? (fun o => o.hdr.txn == txn), (s.site n).agents.find? (fun q => q.txn == txn) with
  | some o, _ => o.hdr.urg
  | none, some q => q.urg
  | none, none => 0

/-- The class charged: that of the tile's work or of the site's request while the hub holds it, at the host port that of
QOS_HOST_CLASS, else the packet's. -/
def State.pointClass (s : State) (n txn : Nat) (p : Packet) : Nat :=
  if n < 72 then (if (s.tile n).live.isSome then (s.tile n).cls else p.cls)
  else if 90 ≤ n ∧ n < 96 then s.siteReqClass (n - 90) txn
  else if n = 112 then
    if p.device || s.owner p.ctx == 0 then s.rff rQosHostClass 3 0 else s.rff rQosHostClass 7 4
  else p.cls

/-- A packet as it is offered: a request of an injection point has the class of its work; an answer, or a packet on behalf of
another, copies the tags of the one that caused it (R333); other traffic of the hub's units is SYSTEM or BACKGROUND (R346). -/
def State.classed (s : State) (p : Packet) (txn : Nat) (cause : Option Packet) : Packet :=
  let own : Packet := { p with standing := if p.standing = .background then .background else .system, urg := 0 }
  if isRequest p.msg then
    match p.point with
    | some n => { p with cls := Fin.ofNat 16 (s.pointClass n txn p), ctx := if p.device then 0 else p.ctx }
    | none => { own with ctx := if p.device then 0 else p.ctx }
  else
    match cause with
    | some q => { p with
        ctx := q.ctx, device := q.device, cls := q.cls, dotFast := q.dotFast, urg := q.urg, standing := q.standing }
    | none => { own with ctx := if p.device then 0 else p.ctx }

/-- The tags that a packet has where it is injected: URG and STANDING as its point stands then, EPOCH and COLOUR of its unit. -/
def State.tagged (s : State) (o : Offer) : Packet :=
  let p := o.pkt
  if o.own then p
  else
    let p1 := { p with
      epoch := Fin.ofNat 16 (s.attEpoch p.src),
      colour := match attBlock? p.src with
        | some b => s.colourOf b
        | none => s.rb rSnapStatus 1 }
    match p.point with
    | some n =>
      if isRequest p.msg then
        let b := s.budget n p.cls
        let within := b == 0xFFFF || decide (s.charge n p.cls < b * 256)
        { p1 with
          urg := Fin.ofNat 4 (min (s.rawUrgency n o.urg) (s.rff (rQosInjNCtrl n) 1 0)),
          standing := if within then .inBudget else .overBudget }
      else p1
    | none => p1

/-- The charge and the events of an injected request. -/
def chargePacket (p : Packet) (s : State) : State :=
  match p.point with
  | none => s
  | some n =>
    if !(isRequest p.msg) then s
    else
      let k := (pktCharge p.msg)
      let s1 := { s with net := { s.net with
        charges := Table.set s.net.charges (n * 16 + p.cls) (s.charge n p.cls + k) } }
      let s2 := countEvent (pointBlock n) (if p.standing = .overBudget then 0xA1 else 0xA0) none (some p.cls.val) none
        (ceilDiv k 64) s1
      if p.urg ≠ 0 then countEvent (pointBlock n) 0xA3 none (some p.cls.val) none 1 s2 else s2

/-- A packet leaves router `a` by output `o`. -/
def leaveRouter (p : Packet) (a o : Nat) (s : State) : State :=
  let b := blkRouter a
  let s1 := countEvent b 0x80 none none (some (o, pktVn p.msg)) 1 s
  if o < 4 then countUnits b o (pktUnits p.msg) s1 else s1

/-- A packet comes into the buffer of a router in which it stands. -/
def reachRouter (t : Transit) (s : State) : State :=
  let b := blkRouter t.here
  let ch := channelOf t.port (pktVn t.pkt.msg) t.plane t.phaseA
  countArrival b 0x81 t.port (pktVn t.pkt.msg) ch (colourLatch b t.pkt.colour (behindMarker b t.port ch s))

/-! ### Buffers and arbitration (R330, R331, R334, R349) -/

/-- The plane of a packet: the control plane, 4, without payload, else the data plane of R331. -/
def pktPlane (p : Packet) : Nat :=
  if pktUnits p.msg = 0 then 4
  else (attRouter p.src + 3 * attRouter p.dst + p.src % 4 + p.dst % 4) % 4

/-- The hops of a route that belong to phase A: its first vertical leg where it crosses a seam (R334). -/
def hopsA (l : List Nat) : Nat :=
  if (linksOf l).isEmpty then 0 else ((l.zip l.tail).takeWhile (fun e => e.1 % 24 == e.2 % 24)).length

/-- MRD and MWR have buffers of their own on REQ (R232, R330). -/
def isMem : PktMsg → Bool
  | .mrd => true
  | .mwr => true
  | _ => false

/-- The packet as it stands in the first buffer of its route `l`. -/
def enterRoute (p : Packet) (l : List Nat) : Transit :=
  { pkt := p, plane := pktPlane p, here := attRouter p.src, port := 4 + p.src % 4, ahead := l.tail, legA := hopsA l,
    phaseA := decide (0 < hopsA l), beganA := decide (0 < hopsA l), aged := false }

/-- The packet one hop on, in a buffer of the next router; at its last router it stays. -/
def nextBuffer (t : Transit) : Transit :=
  match t.ahead with
  | b :: l => { t with
      here := b, port := portTo b t.here, ahead := l, legA := t.legA - 1, phaseA := decide (0 < t.legA), aged := false }
  | [] => t

/-- The output that the packet asks for: a neighbour, or 4 and the attachment port at its last router. -/
def wantsOut (t : Transit) : Nat :=
  match t.ahead with
  | b :: _ => portTo t.here b
  | [] => 4 + t.pkt.dst % 4

/-- The number of the buffer in which a packet stands: router, input port, plane, virtual network (5 for MEM), phase. -/
def bufferOf (t : Transit) : Nat :=
  (((t.here * 8 + t.port) * 5 + t.plane) * 6 + (if isMem t.pkt.msg then 5 else pktVn t.pkt.msg)) * 2 + b2n t.phaseA

/-- The depth of a buffer, which is at least one packet. -/
def bufferDepth (b : Nat) : Nat := Config.bufferExtra b + 1

/-- A buffer has a credit. -/
def State.bufferFree (s : State) (b : Nat) : Bool :=
  decide ((s.net.packets.filter (fun t => bufferOf t == b)).length < bufferDepth b)

/-- No earlier packet stands in the same buffer. -/
def State.isHead (s : State) (i : Nat) (t : Transit) : Bool :=
  (s.net.packets.take i).all (fun u => bufferOf u != bufferOf t)

/-- The rank of a packet by the first three criteria of R349. -/
def pktRank (p : Packet) (aged : Bool) : Nat :=
  let early := aged || p.standing == .inBudget || p.standing == .system
  (if pktVn p.msg = 4 then 8 else 0) + 2 * p.urg + b2n early

/-- The best-ranked of a list, the first of those that tie: it has waited longest. -/
def bestOf (rank : Nat → Nat) : List Nat → Option Nat
  | [] => none
  | i :: l =>
    match bestOf rank l with
    | some j => if rank i < rank j then some j else some i
    | none => some i

/-- The rank of packet `i`. -/
def State.rankAt (s : State) (i : Nat) : Nat :=
  match s.net.packets[i]? with
  | some t => pktRank t.pkt t.aged
  | none => 0

/-- The head packets at router `r` that ask for output `o` on a plane. -/
def State.askers (s : State) (r o plane : Nat) : List Nat :=
  (List.range s.net.packets.length).filter (fun i =>
    match s.net.packets[i]? with
    | some t => t.here == r && wantsOut t == o && t.plane == plane && s.isHead i t
    | none => false)

/-- The output's choice among those whose next buffer has a credit. -/
def State.linkChoice (s : State) (r o plane : Nat) : Option Nat :=
  bestOf s.rankAt ((s.askers r o plane).filter (fun i =>
    match s.net.packets[i]? with
    | some t => s.bufferFree (bufferOf (nextBuffer t))
    | none => false))

/-- A packet crosses a link and stands last in its new buffer. -/
def moveLink (r o plane : Nat) (s : State) : State :=
  match s.linkChoice r o plane with
  | some i =>
    match s.net.packets[i]? with
    | some t =>
      reachRouter (nextBuffer t) (leaveRouter t.pkt r o { s with net := { s.net with
        packets := s.net.packets.eraseIdx i ++ [nextBuffer t] } })
    | none => s
  | none => s

/-- The route of a packet offered, none while it uses a link that is being retired (R344 step 1). -/
def State.routeOf (s : State) (p : Packet) : List Nat :=
  let r := s.pktRoute (attRouter p.src) (attRouter p.dst)
  if (linksOf r).any s.net.heldLinks.contains then [] else r

/-- An earlier packet keeps a later one of its source, destination and virtual network waiting, at an injection point of its
class (R335, R349). -/
def offerBefore (p q : Packet) : Bool :=
  p.src == q.src && p.dst == q.dst && pktVn p.msg == pktVn q.msg && (q.point.isNone || p.cls == q.cls)

/-- The packets that attachment `a` may inject on a plane. -/
def State.offerers (s : State) (a plane : Nat) : List Nat :=
  (List.range s.net.waiting.length).filter (fun i =>
    match s.net.waiting[i]? with
    | some o =>
      let l := s.routeOf o.pkt
      o.pkt.src == a && pktPlane o.pkt == plane && !l.isEmpty && s.bufferFree (bufferOf (enterRoute o.pkt l)) &&
        (s.net.waiting.take i).all (fun q => !offerBefore q.pkt o.pkt)
    | none => false)

/-- The rank of offer `i`, with the tags it would be injected with. -/
def State.offerRank (s : State) (i : Nat) : Nat :=
  match s.net.waiting[i]? with
  | some o => pktRank (s.tagged o) o.aged
  | none => 0

/-- An injection port's choice: the packet is tagged, charged and enters the first buffer of its route. -/
def moveInject (a plane : Nat) (s : State) : State :=
  match bestOf s.offerRank (s.offerers a plane) with
  | some i =>
    match s.net.waiting[i]? with
    | some o =>
      let q := s.tagged o
      let t := enterRoute q (s.routeOf q)
      let s1 := chargePacket q s
      reachRouter t { s1 with net := { s1.net with waiting := s1.net.waiting.eraseIdx i, packets := s1.net.packets ++ [t] } }
    | none => s
  | none => s

/-- One move of the network. -/
def netMove (m : NetMove) (s : State) : State :=
  match m with
  | .link r o plane => moveLink r o plane s
  | .inject a plane => moveInject a plane s
  | .waited i => { s with net := { s.net with packets := listUpd s.net.packets i (fun t => { t with aged := true }) } }
  | .offered i => { s with net := { s.net with waiting := listUpd s.net.waiting i (fun o => { o with aged := true }) } }

/-- The packet delivered to the source of `p` that a cause names, or no cause. -/
def State.causeOf (s : State) (p : Packet) (cause : Option (Nat × Bool)) : Option Packet :=
  match cause with
  | some c => (s.net.seen[c.1]?).filter (fun q => q.dst == p.src)
  | none => none

/-- A packet comes to its injection port, with its class and the tags that it copies; a cause that has its last answer is
forgotten. -/
def offer (p : Packet) (txn : Nat) (cause : Option (Nat × Bool)) (s : State) : State :=
  let q := s.classed p txn (s.causeOf p cause)
  let urg := match p.point with
    | some n => if 90 ≤ n.val ∧ n.val < 96 then s.siteUrg (n - 90) txn else 0
    | none => 0
  let seen := match cause with
    | some (i, true) => s.net.seen.eraseIdx i
    | _ => s.net.seen
  { s with net := { s.net with waiting := s.net.waiting ++ [{ pkt := q, urg := urg, own := false, aged := false }], seen := seen } }

/-- PACKET_INJECT: a packet is offered, and its port chooses among those that wait. A packet that answers or serves another
names it by its place among those delivered to its source, and whether this is the last answer. -/
def execPacketInject (p : Packet) (i : Injection) (s : State) : Host.Outcome State Fault Refusal :=
  .next (if s.net.started && !s.rb rNocStatus 16 && (attUnit? p.src).isSome && (attUnit? p.dst).isSome &&
      (i.cause.isNone || (s.causeOf p i.cause).isSome) then
      moveInject p.src (pktPlane p) (offer p i.txn i.cause s)
    else s)

/-! ### Ejection (R339, R341, R342) -/

/-- A packet is stale. -/
def State.stale (s : State) (p : Packet) : Bool :=
  match attOwner? p.src with
  | some (ty, id) =>
    if hasEpoch ty then
      match Table.get 0 s.net.tags (unitKey ty id) with
      | 0 => (pktVn p.msg) != 4
      | t + 1 => p.epoch.val != t
    else false
  | none => false

/-- The attachment is isolated for a virtual network (R341, R343). -/
def State.isolated (s : State) (a v : Nat) : Bool :=
  let dead := s.net.isolated.any (fun e => e.1 == a)
  match attOwner? a with
  | some (ty, id) =>
    let st := s.status ty id
    if st = stQuarantine then v != 4
    else dead || st == stFailed || st == stAbsent || st == stIsolated || st == stEmpty
  | none => dead

/-- The answers to a packet absorbed for an isolated target, in order (R341): 2 is STALE, 3 DENIED, 1 POISONED. -/
def absorbAnswers (m : PktMsg) : List PktMsg :=
  match m with
  | .rdOnce n => [.data n]
  | .rdShared => [.data 2, .comp 1]
  | .rdUnique => [.data 2, .comp 1]
  | .mrd => [.data 2]
  | .memRd => [.data 1]
  | .wrFull => [.wrAck 3]
  | .wrPart _ => [.wrAck 3]
  | .writeback => [.wbAck 3]
  | .mwr => [.memDone 3]
  | .memWr => [.memDone 3]
  | .atomic => [.data 1]
  | .evictClean => [.wbAck 2]
  | .flushLine => [.wrAck 3]
  | .snoop => [.snpRsp]
  | _ => []

/-- The packet writes: its absorption is an absorbed write. -/
def isAbsorbedWrite : PktMsg → Bool
  | .wrFull => true
  | .wrPart _ => true
  | .writeback => true
  | .mwr => true
  | .memWr => true
  | _ => false

/-- The router's answer to an absorbed packet: the tags of R333, sent from the router itself. -/
def State.answerTo (s : State) (p : Packet) (m : PktMsg) : Packet :=
  { p with
    src := Fin.ofNat 768 (p.dst / 4 * 4 + 3), dst := p.src, point := none, msg := m, epoch := 0,
    colour := s.colourOf (blkRouter (attRouter p.dst)),
    poison := match m with
      | .data n => Fin.ofNat 4 (2 ^ n.val - 1)
      | _ => 0 }

/-- An answer of the router itself waits to be injected. -/
def offerAnswer (p : Packet) (s : State) : State :=
  { s with net := { s.net with waiting := s.net.waiting ++ [{ pkt := p, urg := 0, own := true, aged := false }] } }

/-- A packet absorbed at the ejection stage of an isolated target; `quiet` says that an ABSORBED_WRITES record was raised
for the target within the last 1 ms. -/
def absorbPacket (p : Packet) (quiet : Bool) (s : State) : State :=
  let b := blkRouter (attRouter p.dst)
  let s1 := forEach (absorbAnswers p.msg) (fun m s => offerAnswer (s.answerTo p m) s) s
  if (isAbsorbedWrite p.msg) then
    let n := Table.get 0 s1.net.absorbed p.dst + 1
    let s2 := countEvent b 0x85 none none none 1
      { s1 with net := { s1.net with absorbed := Table.set s1.net.absorbed p.dst n } }
    if n = 1 ∨ quiet = false then opRecord 0x0505 false [attRouter p.dst, p.dst % 4, n] s2 else s2
  else countEvent b 0x86 none none none 1 s1

/-- The packet leaves the network; a request or a snoop that is delivered may be answered. -/
def ejectPacket (p : Packet) (quiet : Bool) (s : State) : State :=
  if s.stale p then
    countEvent (blkRouter (attRouter p.dst)) 0x83 none none none 1 (rcCount rNocErrors 31 16 1 s)
  else if s.isolated p.dst (pktVn p.msg) then absorbPacket p quiet s
  else
    let s1 := { s with net := { s.net with
      absorbed := Table.erase s.net.absorbed p.dst,
      seen := if pktVn p.msg < 2 then s.net.seen ++ [p] else s.net.seen } }
    match attBlock? p.dst with
    | some b => colourLatch b p.colour s1
    | none => s1

/-- A packet reaches the unit at its destination, behind the marker of its channel. -/
def reachUnit (t : Transit) (s : State) : State :=
  match attBlock? t.pkt.dst with
  | some b =>
    let k := ((blockAtts b).takeWhile (· != t.pkt.dst.val)).length
    behindMarker b k (channelOf k (pktVn t.pkt.msg) t.plane t.phaseA) s
  | none => s

/-- A destination may hold back REQ and SNP (R336); an isolated one is absorbed for at its router. -/
def State.accepts (s : State) (holds : Bool) (p : Packet) : Bool :=
  !holds || decide (2 ≤ pktVn p.msg) || isMem p.msg || s.isolated p.dst (pktVn p.msg)

/-- The choice of the ejection port of attachment `a` on a plane. -/
def State.ejectChoice (s : State) (a plane : Nat) (holds : Bool) : Option Nat :=
  bestOf s.rankAt ((s.askers (attRouter a) (4 + a % 4) plane).filter (fun i =>
    match s.net.packets[i]? with
    | some t => s.accepts holds t.pkt
    | none => false))

/-- The ejection port takes its choice out of its buffer. -/
def ejectAt (a plane : Nat) (holds quiet : Bool) (s : State) : State :=
  match s.ejectChoice a plane holds with
  | some i =>
    match s.net.packets[i]? with
    | some t =>
      ejectPacket t.pkt quiet (reachUnit t (leaveRouter t.pkt t.here (wantsOut t) { s with net := { s.net with
        packets := s.net.packets.eraseIdx i } }))
    | none => s
  | none => s

/-- PACKET_EJECT: after `moves` in the network, an attachment takes a packet of a plane, or its router absorbs or discards one. -/
def execPacketEject (moves : List NetMove) (e : Ejection) (s : State) : Host.Outcome State Fault Refusal :=
  .next (if s.net.started && !s.rb rNocStatus 16 then ejectAt e.att e.plane e.holds e.quiet (forEach moves netMove s) else s)

/-! ### Transit failure and link protection (R337, R345) -/

/-- Welore records its state for DUMP, whose layout the spec leaves open (R532). -/
def recordDump (s : State) : State := { s with boot := { s.boot with dump := some s.free }, free := s.free + 1 }

/-- The transit domain fails at router `r` (R345, R403, R520). -/
def failTransit (r : Nat) (s : State) : State :=
  if s.rb rNocStatus 16 then s
  else
    let s1 := opRecord 0x0507 true [r] (setRf rNocStatus 16 16 1 s)
    let s2 := serviceRequest uRouter r ccDead 4 { s1 with boot := { s1.boot with newWork := false } }
    recordDump (abortSnapshot (hostTransitFailed s2))

/-- ROUTER_FAILURE. -/
def execRouterFailure (r : Fin 192) (s : State) : Host.Outcome State Fault Refusal :=
  .next (if s.ready then failTransit r s else s)

/-- The mark of a payload unit that no router could repair. -/
def flitMark : Mark := { cause := cMemoryPoison, detail := 0x1F }

/-- Unit `k` takes the mark if it is one of the units `u`. -/
def hitMark (u k : Nat) (m : Option Mark) : Option Mark := if bit u k then some flitMark else m

/-- The units `u` of a coherence message take the mark. -/
def poisonMsg (u : Nat) (m : CMsg) : CMsg :=
  match m with
  | .data q l d m0 m1 g => .data q l d (hitMark u 0 m0) (hitMark u 1 m1) g
  | .stash n l t d m0 m1 => .stash n l t d (hitMark u 0 m0) (hitMark u 1 m1)
  | m => m

/-- A unit that a chiplet sent takes the mark. -/
def poisonSent (e : KMsg × UnitData) : KMsg × UnitData := ({ e.1 with poison := true, w3 := markWord flitMark }, e.2)

/-- A held write takes the mark; a plaza's unit is then written poisoned. -/
def poisonHeld (h : HeldMem) : HeldMem :=
  match h with
  | .write u d _ => .write u d (some flitMark)
  | .mwr u _ => .write u 0 (some flitMark)
  | .mrd u ev ev2 => .mrd u ev ev2

/-- Where a held request is a plaza's MWR, the plaza has sent its unit, which is CLEAN. -/
def sentMwr (k : Nat) (h : HeldMem) (s : State) : State :=
  match h with
  | .mwr u _ =>
    let lk := lineKey k (64 * u)
    match (s.pline lk).unit? (u % 2) with
    | some r => setPline lk ((s.pline lk).put (u % 2) r.1 r.2 false) s
    | none => s
  | _ => s

/-- Write `i` that waits at a stack's controller takes the mark. -/
def poisonRetry (k i : Nat) (s : State) : State :=
  match (s.stack k).retry[i]? with
  | some h => sentMwr k h (updStack k (fun x => { x with retry := x.retry.set i (poisonHeld h) }) s)
  | none => s

/-- Units of what a packet carries become poison. -/
def poisonCarried (c : Carried) (u : Nat) (s : State) : State :=
  match c with
  | .none => s
  | .msg i => updPlz (fun z => { z with msgs := listUpd z.msgs i (poisonMsg u) }) s
  | .arrival i =>
    if u = 0 then s
    else updPlz (fun z => { z with arrivals := listUpd z.arrivals i (fun a => { a with mark := some flitMark }) }) s
  | .txn id => updPlz (fun z => { z with txns := z.txns.map (fun t =>
      if t.id = id then { t with m0 := hitMark u 0 t.m0, m1 := hitMark u 1 t.m1 } else t) }) s
  | .inbox n i => if u = 0 then s else updSite n (fun x => { x with inbox := listUpd x.inbox i poisonSent }) s
  | .line key =>
    match Table.find? s.plz.lines key with
    | some l => updPlz (fun z => { z with
        lines := Table.set z.lines key { l with m0 := hitMark u 0 l.m0, m1 := hitMark u 1 l.m1 } }) s
    | none => s
  | .held k i => if u = 0 then s else poisonRetry k i s

/-- LINK_FLIT_ERROR: router `r` finds an error in a flit of packet `i`, which has come to it and carries `c`. -/
def execLinkFlitError (r : Fin 192) (i : Nat) (c : Carried) (f : FlitFault) (s : State) :
    Host.Outcome State Fault Refusal :=
  .next (if !s.ready then s
    else match f, s.net.packets[i]? with
      | .corrected, _ => countEvent (blkRouter r) 0x84 none none none 1 (rcCount rNocErrors 15 0 1 s)
      | .payload u, some t =>
        if t.here = r then
          poisonCarried c u.val { s with net := { s.net with packets := s.net.packets.set i { t with
            pkt := { t.pkt with poison := Fin.ofNat 4 (t.pkt.poison.val ||| u.val) } } } }
        else s
      | .header, some t =>
        if t.here = r then failTransit r { s with net := { s.net with packets := s.net.packets.eraseIdx i } } else s
      | _, none => s)

/-! ### Dead targets (R343) -/

/-- The unit at an attachment has stopped accepting packets: it fails under its own chapter. -/
def failTarget (ty id : Nat) (s : State) : State :=
  if ty = uTile then retireTile id ccDead s
  else if ty = uCluster then retireCluster id ccDead s
  else if ty = uPlaza then failPlaza id ccDead s
  else if ty = uStack then isolateStack id ccDead s
  else if ty = uSite then loseSite id ccDead s
  else if ty = uPort then downPort id ccDead s
  else if ty = uHost then portError 22 none s
  else if ty = 11 then failWalker id s
  else if ty = 12 ∨ ty = 13 then failPartition id ccDead s
  else serviceRequest uHost 0 ccDead 4 s

/-- The attachment of a dead unit is isolated at once. -/
def isolateAtt (a key : Nat) (s : State) : State :=
  { s with net := { s.net with isolated := s.net.isolated ++ [(a, key)] } }

/-- DEAD_TARGET_TIMEOUT: packets of RSP, DAT or MGT have waited NOC_CTRL.DEAD_TIMEOUT for the attachment. -/
def execDeadTargetTimeout (r : Fin 192) (port : Fin 4) (s : State) : Host.Outcome State Fault Refusal :=
  .next (match attUnit? (4 * r + port) with
    | some (ty, id) =>
      if s.running && !s.isolated (4 * r + port) 4 then
        serveWaiting (failTarget ty id (opRecord 0x0504 true [r, port, ccDead] (isolateAtt (4 * r + port) (unitKey ty id) s)))
      else s
    | none => s)

/-! ### Crossing links (R344) -/

/-- Links of Crossing `c` in service and not being retired. -/
def State.linksLeft (s : State) (c : Nat) : List Nat :=
  (List.range 8).filter (fun y => s.linkUp? c y && !s.net.heldLinks.contains (c, y))

/-- CROSSING_LINK_LOST: the link of Crossing `c` in row `y` is to be retired; with the last one the transit domain
fails. -/
def execCrossingLinkLost (c : Fin 2) (y : Fin 8) (s : State) : Host.Outcome State Fault Refusal :=
  .next (if s.ready && (s.linksLeft c).contains y.val then
      let s1 := { s with net := { s.net with heldLinks := s.net.heldLinks ++ [(c.val, y.val)] } }
      if (s1.linksLeft c).isEmpty then failTransit (routerAt (7 + 8 * c) y) s1 else s1
    else s)

/-- The capacities of a Crossing follow its links. -/
def syncCrossing (c : Nat) (s : State) : State :=
  let n := ((List.range 8).filter (s.linkUp? c)).length
  setCap (59 + 2 * c) (n * 4800) (setCap (58 + 2 * c) (n * 4800) s)

/-- CROSSING_DRAIN_DONE: no packet is left whose route uses the link; held packets and later ones take routes without it.
CAUSE of the Crossing is LANE_FAILED, where the spec names no code (DESIGN CHOICE, log entry 117). -/
def execCrossingDrainDone (c : Fin 2) (y : Fin 8) (s : State) : Host.Outcome State Fault Refusal :=
  .next (if s.net.heldLinks.contains (c.val, y.val) && !s.rb rNocStatus 16 &&
        s.net.packets.all (fun t => !(linksOf (t.here :: t.ahead)).contains (c.val, y.val)) then
      let s1 := setRf rNocStatus (8 * c + y) (8 * c + y) 0 s
      let s3 := { s1 with net := { s1.net with heldLinks := s1.net.heldLinks.filter (· != (c.val, y.val)) } }
      let n := ((List.range 8).filter (s3.linkUp? c)).length
      let s4 := rewriteUnits [(unitKey uCrossing c, fun u =>
        { u with status := stDegraded, cause := ccLane, width := n })] s3
      syncCrossing c (serviceRequest uCrossing c ccLane 2 (opRecord 0x0506 true [c, y] s4))
    else s)

/-! ### Periods and guarantees (R347, R351, R353) -/

/-- RES(r, c) in force. -/
def State.res (s : State) (r c : Nat) : Nat := s.rff (rQosResRK r (c / 2)) (16 * (c % 2) + 15) (16 * (c % 2))

/-- One class tried against what is used: the guaranteed classes, the use of each resource, and the first resource on
which each refused class failed. -/
def State.tryClass (s : State) (c : Nat) (x : List Nat × List Nat × List (Nat × Nat)) :
    List Nat × List Nat × List (Nat × Nat) :=
  let (g, used, lost) := x
  let after := (List.range 62).map (fun r => used.getD r 0 + s.res r c)
  match (List.range 62).find? (fun r => decide (s.rf (rQosCapR r) 15 0 < after.getD r 0)) with
  | some r => (g, used, lost ++ [(c, r)])
  | none => (g ++ [c], after, lost)

/-- The guaranteed classes and the refused ones with the resource, by R351. -/
def State.guarantees (s : State) : List Nat × List (Nat × Nat) :=
  let order := (List.range 16).flatMap (fun k => (List.range 16).filter (fun c =>
    s.rff (rQosClassCCtrl c) 4 4 == 1 && s.rff (rQosClassCCtrl c) 3 0 == k))
  let x := forEach order s.tryClass ([], [], [])
  (x.1, x.2.2)

/-- QOS_GUARANTEED and LOST_RES are computed; `loud` raises the records of a change after READY. -/
def setGuarantees (loud : Bool) (s : State) : State :=
  let g := s.guarantees
  let was := s.rf rQosGuaranteed 15 0
  let s1 := setRf rQosGuaranteed 15 0 ((g.1.map (fun c => 2 ^ c)).sum) { s with net := { s.net with guarDue := false } }
  let lostOf (c : Nat) : Nat := ((g.2.find? (fun e => e.1 == c)).map (·.2)).getD 0xFF
  let s2 := forEach (List.range 16) (fun c s =>
    { s with regs := { (setRf (rQosClassCCtrl c) 15 8 (lostOf c) s).regs with
        force := match Table.find? s.regs.force (rQosClassCCtrl c) with
          | some w => Table.set s.regs.force (rQosClassCCtrl c) (BitVec.ofNat 32 (setBits w.toNat 15 8 (lostOf c)))
          | none => s.regs.force } }) s1
  if loud then
    forEach (List.range 16) (fun c s =>
      if bit was c && !g.1.contains c then opRecord 0x0502 true [c, lostOf c] s
      else if !bit was c && g.1.contains c then opRecord 0x0503 true [c] s
      else s) s2
  else s2

/-- One injection point's miss of a class (R353); `short` is in bytes. -/
def missOf (n c : Nat) (s : State) : State :=
  let b := s.budget n c * 256
  let short := b - s.charge n c
  if b ≤ s.charge n c then s
  else
    let s1 := countEvent (pointBlock n) 0xA2 none (some c) none 1
      (rcCount rQosMiss 15 0 1 (setRf rQosMiss 26 16 (n + 2 ^ 7 * c) s))
    if s.rb rQosGuaranteed c && (Table.find? s1.net.missAge c).isNone then
      let s2 := opRecord 0x0501 false [n, c, short] { s1 with net := { s1.net with missAge := Table.set s1.net.missAge c 0 } }
      if s2.rb rQosCtrl 0 then sendVector 0 (s2.rf rQosCtrl 12 1) s2 else s2
    else s1

/-- A packet of a class waits at a point. -/
def State.classWaits (s : State) (n c : Nat) : Bool :=
  s.net.waiting.any (fun o => decide (o.pkt.point.map (fun x => x.val) = some n) && o.pkt.cls.val == c)

/-- QOS_PERIOD_BOUNDARY: a period ends; `waited` are the points and classes of which a packet, waiting still, has waited
through the last 1,200 cycles. -/
def execQosPeriodBoundary (waited : List (Fin 113 × Fin 16)) (s : State) : Host.Outcome State Fault Refusal :=
  .next (if s.net.started then
      let s1 := forEach (waited.filter (fun w => s.classWaits w.1 w.2)) (fun w s => missOf w.1 w.2 s) s
      let age := s1.net.missAge.filterMap (fun e => if 999 ≤ e.2 then none else some (e.1, e.2 + 1))
      let s2 := applyAll .qosPeriod (fun _ => true) { s1 with net := { s1.net with charges := [], missAge := age } }
      if s2.net.guarDue then setGuarantees true s2 else s2
    else s)

end Sys2Proof.Machine
end

