-- ==== Sys2Proof/Machine/Power.lean ====
section
/-!
DEFINITION. Power states, clocks and temperature (R482 to R504): commands and transitions, the sweep of a stack that leaves
ON, stack budgets and clamps, PLLs and the reference, sensors.
-/
namespace Sys2Proof.Machine

/-! ### Units and commands (R485, R486) -/

/-- A unit's power record set. -/
def setPwr (ty id : Nat) (u : PUnit) (s : State) : State :=
  { s with pwr := { s.pwr with units := Table.set s.pwr.units (unitKey ty id) u } }

/-- A unit's power record changed. -/
def updPwr (ty id : Nat) (f : PUnit → PUnit) (s : State) : State := setPwr ty id (f (s.pwrUnit ty id)) s

/-- The number of units of a type that take power states; 0 for any other. -/
def powerUnits (ty : Nat) : Nat :=
  if ty = uTile then 72 else if ty = uCluster then 18 else if ty = uStack then 12 else if ty = uSite then 6
  else if ty = uPartition then 3 else 0

/-- The units whose state a command to a unit concerns: a partition's with its clusters and tiles, a cluster's with its
tiles (R482). -/
def powerGroup (ty id : Nat) : List (Nat × Nat) :=
  if ty = uPartition then
    (uPartition, id) :: (List.range 6).map (fun j => (uCluster, 6 * id + j)) ++
      (List.range 24).map (fun j => (uTile, 24 * id + j))
  else if ty = uCluster then (uCluster, id) :: (List.range 4).map (fun j => (uTile, 4 * id + j))
  else [(ty, id)]

/-- The tiles a command concerns run tasks, or its clusters COPYs: the command waits for the task boundary (R486). -/
def State.powerBusy (s : State) (ty id : Nat) : Bool :=
  (powerGroup ty id).any (fun u =>
    if u.1 = uTile then (s.tile u.2).live.isSome
    else if u.1 = uCluster then !(s.cluster u.2).copies.isEmpty
    else false)

/-- A command must wait: the unit is in QUARANTINE or in a transition, or a command out of ON meets running work. -/
def State.mustHold (s : State) (ty id p : Nat) : Bool :=
  let u := s.pwrUnit ty id
  s.status ty id == stQuarantine || u.moving.isSome || (u.now == 0 && p != 0 && s.powerBusy ty id)

/-- Units that enter QUARANTINE because a command brings them back from OFF (R433, R487). -/
def State.returning (s t : State) (ty id : Nat) : List (Nat × Nat) :=
  (powerGroup ty id).filter (fun u =>
    s.effPower u.1 u.2 == 3 && t.effPower u.1 u.2 != 3 && s.status u.1 u.2 != stDisabled && s.status u.1 u.2 != stFailed)

/-- A stack's command applies. Leaving ON begins with the sweep of R488; a return from OFF is that of R220 from step 3. -/
def moveStack (k p : Nat) (s : State) : State :=
  let now := (s.pwrUnit uStack k).now
  if now = 0 ∧ s.inService uStack k = true then
    recallStack k (updPwr uStack k (fun u => { u with moving := some p }) (updPlz (fun z => { z with
      stackSweep := if z.stackSweep.contains k then z.stackSweep else z.stackSweep ++ [k] }) s))
  else if now = 3 then
    let s1 := updPwr uStack k (fun u => { u with now := p, moving := some p }) s
    syncClocks k (updStack k (fun x => { x with rejoining := true, filled := false })
      (regionsLose k (enterQuar [(uStack, k)] ccPower s1)))
  else if now < p then syncClocks k (updPwr uStack k (fun u => { u with now := p, moving := some p }) s)
  else updPwr uStack k (fun u => { u with moving := some p }) s

/-- A site's command applies. A caching site that leaves ON is flushed first (R326); a return from OFF runs the steps of
R324. -/
def moveSite (n p : Nat) (s : State) : State :=
  let now := (s.pwrUnit uSite n).now
  let s1 := updPwr uSite n (fun u => { u with moving := some p }) s
  if now = 0 ∧ s.siteServes n = true ∧ s.siteCaching n = true then
    sideband n 0x11 [] [] (updSite n (fun x => { x with flushing := true }) s1)
  else if now = 3 then siteTraining n (updSite n (fun x => { x with join := .caps, lastStep := 1, absCause := ccPower }) s1)
  else s1

/-- A command applies (R486, R487). -/
def applyPower (ty id p : Nat) (s : State) : State :=
  let now := (s.pwrUnit ty id).now
  if now = p then s
  else if ty = uStack then moveStack id p s
  else if ty = uSite then moveSite id p s
  else if now < p then updPwr ty id (fun u => { u with now := p, moving := some p }) s
  else
    let t := updPwr ty id (fun u => { u with now := if u.now = 3 then p else u.now, moving := some p }) s
    let back := s.returning t ty id
    if back.isEmpty then t else enterQuar back ccPower t

/-- The command is refused (R485, R487). -/
def State.refusesPower (s : State) (ty id p : Nat) : Bool :=
  let st := s.status ty id
  let u := s.pwrUnit ty id
  decide (powerUnits ty ≤ id) || st == stDisabled || st == stFailed || (ty == uSite && st == stEmpty) ||
    (p != 3 && ((ty == uStack && st == stIsolated) || (ty == uSite && st == stAbsent))) ||
    (p == 2 && u.moving.getD u.now == 3)

/-- A command to a unit (R485). -/
def commandPower (ty id p : Nat) (s : State) : State :=
  if !s.running then s
  else if s.refusesPower ty id p then rcFlag rPwrCmd 19 s
  else
    let s1 := updPwr ty id (fun u => { u with target := p, held := none }) s
    if s1.mustHold ty id p then updPwr ty id (fun u => { u with held := some p }) s1 else applyPower ty id p s1

/-- A write of PWR_CMD. -/
def wrPwrCmd (v : Nat) (s : State) : State :=
  let s1 := setRf rPwrCmd 17 0 (bits v 17 0) s
  if bit v 18 then commandPower (bits v 7 0) (bits v 15 8) (bits v 17 16) s1 else s1

/-- PWR_UNIT of the selected unit. -/
def State.pwrUnitWord (s : State) : Nat :=
  let ty := s.rf rPwrCmd 7 0
  let id := s.rf rPwrCmd 15 8
  if powerUnits ty ≤ id then 0
  else
    let u := s.pwrUnit ty id
    s.effPower ty id + u.target * 2 ^ 2 + b2n u.moving.isSome * 2 ^ 4 + 2 ^ 5 * b2n u.held.isSome

/-- POWER_COMMAND: PWR_CMD.GO. -/
def execPowerCommand (ty id : BitVec 8) (p : Fin 4) (s : State) : Host.Outcome State Fault Refusal :=
  settled (.next (wrPwrCmd (ty.toNat + 2 ^ 8 * id.toNat + 2 ^ 16 * p + 2 ^ 18) s))

/-- POWER_COMMAND_APPLY: what a held command has waited for has come (R486). -/
def execPowerCommandApply (u : QuarUnit) (s : State) : Host.Outcome State Fault Refusal :=
  let x := quarPair u
  .next (match (s.pwrUnit x.1 x.2).held with
    | some p =>
      if s.mustHold x.1 x.2 p then s
      else
        let s1 := updPwr x.1 x.2 (fun u => { u with held := none }) s
        serveWaiting (if s1.refusesPower x.1 x.2 p then s1 else applyPower x.1 x.2 p s1)
    | none => s)

/-- A unit that is OFF has lost its contents (R482). -/
def loseContents (ty id : Nat) (s : State) : State :=
  if ty = uStack then
    { s with dram :=
      { bytes := s.dram.bytes.filter (fun e => e.1 / 2 ^ 36 != id),
        marks := s.dram.marks.filter (fun e => e.1 / 2 ^ 30 != id),
        good := s.dram.good.filter (fun e => e.1 / 2 ^ 30 != id) } }
  else forEach ((powerGroup ty id).filter (fun u => s.effPower u.1 u.2 == 3)) (fun u s => wipeUnit u.1 u.2 s) s

/-- The end of a stack's transition. -/
def stackMoved (k p : Nat) (s : State) : State :=
  let s1 := updPwr uStack k (fun u => { u with now := p, moving := none }) s
  let s2 := if p = 3 then loseContents uStack k s1 else if p = 0 then updStack k (fun x => { x with notOnRaised := false }) s1
    else s1
  syncClocks k s2

/-- The end of a site's transition; a site that has not come back has its field on (R324, R489). -/
def siteMoved (n p : Nat) (s : State) : State :=
  let now := if (s.pwrUnit uSite n).now = 3 ∧ s.inService uSite n = false then 0 else p
  let s1 := setRf (rSiteNStatus n) 24 23 now (updPwr uSite n (fun u => { u with now := now, moving := none }) s)
  if (now = 1 ∨ now = 2) ∧ s.inService uSite n = true then sendSiteBudget n s1 else s1

/-- POWER_TRANSITION_DONE: the time of R487 has passed; a return from OFF ends only after its QUARANTINE or rejoin, and a
unit that leaves ON only after its sweep or flush. -/
def execPowerTransitionDone (u : QuarUnit) (s : State) : Host.Outcome State Fault Refusal :=
  let x := quarPair u
  .next (match (s.pwrUnit x.1 x.2).moving with
    | some p =>
      if s.status x.1 x.2 = stQuarantine then s
      else match u with
        | .stack k => if s.plz.stackSweep.contains k.val then s else stackMoved k p s
        | .site n =>
          if (s.site n).flushing || (s.site n).join != .none || s.plz.owners.any (fun e => e.2.site == n.val) then s
          else siteMoved n p s
        | _ =>
          let s1 := updPwr x.1 x.2 (fun u => { u with now := p, moving := none }) s
          serveWaiting (if p = 3 then loseContents x.1 x.2 s1 else s1)
    | none => s)

/-- STACK_POWER_SWEEP_DONE: every line the stack backs is in its DRAM and out of the plazas (R488). -/
def execStackPowerSweepDone (k : Fin 12) (s : State) : Host.Outcome State Fault Refusal :=
  let busy := s.plz.txns.any (fun t => lineStack t.line == k.val && t.phase != .waiting)
  .next (match (s.pwrUnit uStack k).moving with
    | some p =>
      if !s.plz.stackSweep.contains k.val || !s.inService uStack k || busy ||
        s.plz.lines.any (fun e => lineStack e.1 == k.val && (e.2.d0 || e.2.d1) && s.cleanStops e.1) then s
      else if s.plz.owners.any (fun e => lineStack e.1 == k.val) then recallStack k s
      else
        let s1 := forEach (s.plz.lines.filter (fun e => lineStack e.1 == k.val)) (fun e s =>
          dropLine e.1 (cleanLine opRecord e.1 s)) s
        let s2 := updPlz (fun z => { z with stackSweep := z.stackSweep.filter (· != k.val) }) s1
        syncClocks k (updPwr uStack k (fun u => { u with now := p }) s2)
    | none => s)

/-! ### Stack budgets and clamps (R492, R493) -/

/-- A stack in service that is ON. -/
def State.stackOn (s : State) (k : Nat) : Bool := s.inService uStack k && (s.pwrUnit uStack k).now == 0

/-- The budget message: the budget in [8:0], CLAMP in bit 9, the sequence number above. -/
def sendStackBudget (k : Nat) (s : State) : State :=
  let c := (s.stack k).clampBudget
  let b := c.getD (min (s.rf (rPwrStkSBudget k) 8 0) 0x1B8)
  emit (.stack k "BUDGET" (b + 2 ^ 9 * b2n c.isSome + 2 ^ 10 * (s.stack k).budgetSeq))
    (updStack k (fun x => { x with curBudget := b, budgetSeq := (x.budgetSeq + 1) % 512 }) s)

/-- STACK_BUDGET_TIMER. -/
def execStackBudgetTimer (s : State) : Host.Outcome State Fault Refusal :=
  .next (forEach (List.range 12) (fun k s => if s.running && s.stackOn k then sendStackBudget k s else s) s)

/-- A write of PWR_STK_s_BUDGET: sent, unless a clamp makes it wait; in QUARANTINE it goes to the shadow (R434). -/
def wrStackBudget (k v : Nat) (s : State) : State :=
  let b := bits v 8 0
  if s.status uStack k = stQuarantine then toShadow (rPwrStkSBudget k) b s
  else
    let s1 := setRf (rPwrStkSBudget k) 8 0 b s
    if s1.running && s1.stackOn k && (s1.stack k).clampBudget.isNone then sendStackBudget k s1 else s1

/-- STACK_BUDGET_WRITE. -/
def execStackBudgetWrite (k : Fin 12) (w : BitVec 9) (s : State) : Host.Outcome State Fault Refusal :=
  .next (wrStackBudget k w.toNat s)

/-- STACK_POWER_REPORT: the mean power over the last 50 µs, in 0.25 W. -/
def execStackPowerReport (k : Fin 12) (w : BitVec 9) (s : State) : Host.Outcome State Fault Refusal :=
  .next (if s.stackOn k then setRf (rPwrStkSPower k) 8 0 w.toNat s else s)

/-- FIELD_POWER_SAMPLE: a field's mean power over 10 µs, in 0.25 W; a stack above 110 W is clamped (R493). A site above its
rating is clamped by SITE_OVERPOWER. -/
def execFieldPowerSample (f : PowerField) (w : BitVec 11) (s : State) : Host.Outcome State Fault Refusal :=
  .next (match f with
    | .site n => setRf (rSiteNPower n) 21 11 w.toNat s
    | .stack k =>
      let s1 := setRf (rPwrStkSPower k) 17 9 (min w.toNat 511) s
      if 440 < w.toNat ∧ s.running = true ∧ s.stackOn k = true ∧ (s.stack k).clampBudget = none then
        let b := (s.stack k).curBudget * 9 / 10
        let s2 := sendStackBudget k (updStack k (fun x => { x with clampBudget := some b }) s1)
        opRecord 0x0A01 true [k, b] (setRf (rPwrStkSPower k) 18 18 1 s2)
      else s1)

/-- STACK_CLAMP_TIMEOUT: still above 110 W 100 µs after the clamp (R493 step 3). -/
def execStackClampTimeout (k : Fin 12) (w : BitVec 11) (s : State) : Host.Outcome State Fault Refusal :=
  .next (if 440 < w.toNat ∧ (s.stack k).clampBudget ≠ none then
      isolateStack k ccOvercurrent (setRf (rPwrStkSPower k) 17 9 (min w.toNat 511) s)
    else s)

/-- STACK_UNCLAMP: the power has stayed below the clamped budget for 1 ms (R493 step 4). -/
def execStackUnclamp (k : Fin 12) (s : State) : Host.Outcome State Fault Refusal :=
  .next (if (s.stack k).clampBudget = none then s
    else
      let s1 := setRf (rPwrStkSPower k) 18 18 0 (updStack k (fun x => { x with clampBudget := none }) s)
      opRecord 0x0A02 true [k] (if s1.stackOn k then sendStackBudget k s1 else s1))

/-! ### The package's shares (R491) -/

/-- PWR_PKG.BUDGET_OVER: the shares exceed the package budget. -/
def State.budgetOver (s : State) : Bool :=
  let stks := ((List.range 12).map (fun k => min (s.rf (rPwrStkSBudget k) 8 0) 0x1B8)).sum
  let sites := ((List.range 6).map (fun n => if s.status uSite n = stEmpty then 0 else min (s.rf (rSiteNBudget n) 10 0) 0x578)).sum
  decide (4 * min (s.rf rPwrPkg 11 0) 3600 < 4 * s.rf rPwrHubBudget 11 0 + stks + sites)

/-- PWR_PKG.HUB_OVER follows the hub's power and its share. -/
def syncHubOver (s : State) : State :=
  setRf rPwrPkg 13 13 (b2n (decide (s.rf rPwrHubBudget 11 0 < s.rf rPwrHubPower 11 0))) s

/-- A write of PWR_PKG; values above 3,600 act as 3,600. -/
def wrPwrPkg (v : Nat) (s : State) : State := setRf rPwrPkg 11 0 (bits v 11 0) s

/-- A write of PWR_HUB_BUDGET. -/
def wrHubBudget (v : Nat) (s : State) : State := syncHubOver (setRf rPwrHubBudget 11 0 (bits v 11 0) s)

/-- HUB_POWER_SAMPLE. -/
def execHubPowerSample (w : BitVec 12) (s : State) : Host.Outcome State Fault Refusal :=
  .next (syncHubOver (setRf rPwrHubPower 11 0 w.toNat s))

/-! ### Clocks (R496, R499) -/

/-- A write of PWR_CLK_c: F_SET takes 8 to 17; in QUARANTINE it goes to the shadow (R434). -/
def wrClock (c v : Nat) (s : State) : State :=
  let f := bits v 4 0
  if f < 8 ∨ 17 < f then s
  else if s.status uCluster c = stQuarantine then toShadow (rPwrClkC c) (setBits (s.reg (rPwrClkC c)) 4 0 f) s
  else syncClocks (clusterStack c) (setRf (rPwrClkC c) 4 0 f s)

/-- PLL_LOCK_LOST. PLL_UNLOCK names the PLL by 0 tile, 1 stack, 2 site, 3 fabric. -/
def execPllLockLost (p : Pll) (s : State) : Host.Outcome State Fault Refusal :=
  .next (if !s.ready then s
    else match p with
      | .tile q => serveWaiting (opRecord 0x0A03 true [0, q] (failPartition q ccClock s))
      | .stack k => serveWaiting (opRecord 0x0A03 true [1, k] (isolateStack k ccClock s))
      | .site n => serveWaiting (opRecord 0x0A03 true [2, n] (loseSite n ccClock s))
      | .fabric e => serveWaiting (opRecord 0x0A03 true [3, e]
          (forEach (List.range 8) (fun i s => downPort (8 * e + i) ccClock s) s))
      | .network => failTransit hostRouter s
      | .management => failTransit hostRouter s)

/-- REFCLK_LOST: every PLL holds its last frequency. -/
def execRefclkLost (s : State) : Host.Outcome State Fault Refusal :=
  .next (if s.ready then serviceRequest uHost 0 ccClock 4 (opRecord 0x0A04 true [] s) else s)

/-! ### Sensors (R500, R501) -/

/-- TEMP_SENSOR_READ: a reading of 115 °C or more for the second time in succession trips the hub. Readings below zero are
in two's complement. -/
def execTempSensorRead (k : Fin 54) (t : BitVec 8) (s : State) : Host.Outcome State Fault Refusal :=
  .next (if s.boot.reset != .running then s
    else
      let hot := decide (115 ≤ t.toNat) && decide (t.toNat < 128)
      let was := s.pwr.hotLast.contains k.val
      let s1 := setRf (rPwrTempK k) 7 0 t.toNat s
      let rest := s1.pwr.hotLast.filter (· != k.val)
      let s2 := { s1 with pwr := { s1.pwr with hotLast := if hot then rest ++ [k.val] else rest } }
      if hot && was then thermalTrip k 0 0 t.toNat s2 else s2)

end Sys2Proof.Machine
end

