-- ==== Sys2Proof/Machine/Security.lean ====
section
/-!
DEFINITION. Security, attestation and life cycle (R449 to R481), the SPDM responder (R411), IDE keys (R412) and the
TDISP requests (R413 to R415). Signatures, hashes and the DER encoding of a certificate are functions of `Config` without
a body (log entry 5).
-/
namespace Sys2Proof.Machine

/-! ### The life-cycle state (R466, R468) -/

/-- The code of a life-cycle word, 7 for any other pattern. -/
def lcOfWord (w : Nat) : Nat := ([0, 1, 2, 3, 4].find? (fun c => lcWord c == w)).getD 7

/-- The life-cycle code that the OTP holds (R466). -/
def Otp.lcCode (o : Otp) : Nat := if o.lcA = o.lcB then lcOfWord o.lcA else 7

/-- The code in force in this boot: SEC_STATUS.LC_STATE. -/
def State.lcState (s : State) : Nat := s.rf rSecStatus 2 0

/-- The OTP changed. -/
def updOtp (f : Otp → Otp) (s : State) : State := { s with sec := { s.sec with otp := f s.sec.otp } }

/-- Security state changed. -/
def updSec (f : Sec → Sec) (s : State) : State := { s with sec := f s.sec }

/-! ### Certificates (R456 to R463) -/

/-- SEC_LMS_STATUS follows the reservation bits and the leaves used. -/
def syncLms (s : State) : State :=
  setRf rSecLmsStatus 28 16 s.sec.issued (setRf rSecLmsStatus 15 0 s.sec.otp.reserve.length s)

/-- A certificate is to be issued (R463): an issue already due takes it in. -/
def askCertificate (s : State) : State :=
  if s.sec.otp.keysPresent && !s.rb rSecLmsStatus 30 && s.ready then
    setRf rSecCtrl 2 2 1 (updSec (fun x => { x with due := true }) s)
  else s

/-- The lowest reservation bit that does not count as burned. -/
def Otp.nextBlock? (o : Otp) : Option Nat := (List.range 32768).find? (fun b => !o.reserve.contains b)

/-- Bits of the debug status (R461 item 5). -/
def State.debugStatus (s : State) : Nat :=
  s.rf rSecDebug 1 0 + b2n (s.reg rSecGateOpenLo != 0 || s.rf rSecGateOpenHi 15 0 != 0) * 4 + s.rf rSecDebug 2 2 * 8

/-- The certificate with the next leaf of block `b`. -/
def issueWith (b : Nat) (s : State) : State :=
  let c : Cert := { leaf := 4096 * b + s.sec.issued, epoch := s.epoch, lc := s.lcState, debug := s.debugStatus,
                    blocks := s.sec.otp.reserve.length }
  let s1 := updSec (fun x => { x with issued := x.issued + 1, block := some b, cert := some c, due := false }) s
  opRecord 0x0901 false [c.leaf, c.epoch] (setRf rSecCtrl 2 2 0 (setRf rSecStatus 4 4 1 (syncLms s1)))

/-- CERT_ISSUE: Welore issues the certificate that is due; the first of a boot burns the reservation bit of a new block
(R457), and without one left the hub issues none (R459). -/
def execCertIssue (s : State) : Host.Outcome State Fault Refusal :=
  .next (if !s.sec.due || !s.ready || 4096 ≤ s.sec.issued then s
    else match s.sec.block with
      | some b => issueWith b s
      | none =>
        match s.sec.otp.nextBlock? with
        | some b => issueWith b (syncLms (updOtp (fun o => { o with
            reserve := o.reserve.filter (fun x => decide (x < b)) ++ b :: o.reserve.filter (fun x => decide (b < x)) }) s))
        | none => opRecord 0x0903 true []
            (setRf rSecLmsStatus 30 30 1 (setRf rSecCtrl 2 2 0 (updSec (fun x => { x with due := false }) s))))

/-- SEC_CTRL.REISSUE (R458, R463). -/
def reissue (s : State) : State :=
  if !s.ready || !s.sec.otp.keysPresent then s
  else if s.sec.due then s
  else if s.sec.issued < 4094 then askCertificate s
  else rcFlag rSecCtrl 3 s

/-- REISSUE. -/
def execReissue (s : State) : Host.Outcome State Fault Refusal := .next (reissue s)

/-- SEC_CTRL.SVN_COMMIT (R455). -/
def svnCommit (s : State) : State :=
  let v := s.rf rSecFwSvn 6 0
  if s.ready = true ∧ s.sec.otp.svnFloor < v then
    setRf rSecFwSvn 14 8 v (updOtp (fun o => { o with svnFloor := v }) s)
  else s

/-- SVN_COMMIT. -/
def execSvnCommit (s : State) : Host.Outcome State Fault Refusal := .next (svnCommit s)

/-- A write of SEC_CTRL. -/
def wrSecCtrl (v : Nat) (s : State) : State :=
  let s1 := if bit v 0 then reissue s else s
  if bit v 1 then svnCommit s1 else s1

/-! ### Life-cycle transitions (R466 to R471) -/

/-- R467: a transition from the words of the OTP to a target. -/
def Otp.mayMove (o : Otp) (dst : Nat) : Bool :=
  let src := o.lcCode
  let covers (w : Nat) : Bool := (w ||| lcWord dst) == lcWord dst
  decide (1 ≤ dst ∧ dst ≤ 4) &&
    ([(0, 1), (0, 4), (1, 2), (1, 4), (2, 3), (2, 4), (3, 4)].contains (src, dst) ||
     (src == 7 && covers o.lcA && covers o.lcB))

/-- A refused GO, with its reason in SEC_LC_STATUS. -/
def refuseLc (reason : Nat) (s : State) : State :=
  opRecord 0x0907 false [reason] (setRf rSecLcStatus 6 4 reason (setRf rSecLcStatus 2 1 2 s))

/-- The token bytes written. -/
def State.tokenBytes (s : State) : List Byte :=
  (List.range 8).flatMap (fun i => natToBytes 4 (Table.get 0 s.sec.token i))

/-- GO with a target (R469 steps 1 to 3). -/
def goLc (dst : Nat) (s : State) : State :=
  if !s.running || s.sec.lcMove.isSome then refuseLc 1 s
  else if s.ctxs.any (fun e => s.ctxState e.1 != 0) then refuseLc 2 s
  else if s.rb rSecLcStatus 11 then refuseLc 5 s
  else
    let token := s.tokenBytes
    let s1 := updSec (fun x => { x with token := [] }) s
    if !s.sec.otp.mayMove dst then refuseLc 3 s1
    else if (Config.sha384 token).toNat ≠ vget 0 s.sec.otp.tokenDigest (dst - 1) then
      let n := s1.rf rSecLcStatus 10 7 + 1
      refuseLc 4 (setRf rSecLcStatus 11 11 (b2n (decide (8 ≤ n))) (setRf rSecLcStatus 10 7 (min n 8) s1))
    else
      setRf rSecLcStatus 6 0 1 (updSec (fun x => { x with lcMove := some { src := s.sec.otp.lcCode, dst := dst } }) s1)

/-- A write of SEC_LC_CTRL. -/
def wrLcCtrl (v : Nat) (s : State) : State := if bit v 3 then goLc (bits v 2 0) s else s

/-- LC_TRANSITION_GO. -/
def execLcTransitionGo (target : Fin 8) (s : State) : Host.Outcome State Fault Refusal := .next (wrLcCtrl (target + 8) s)

/-- The wipe of R470: keys and user store to ones, and with SCRAP_FULL in SCRAPPED every other region. -/
def wipeOtp (code : Nat) (o : Otp) : Otp :=
  let some1 : Otp := { o with
    idkPriv := 2 ^ 384 - 1, lmsPriv := 2 ^ 320 - 1, memKey := 2 ^ 512 - 1,
    user := (List.range 512).map (fun i => (i, 2 ^ 32 - 1)) }
  if code = 4 ∧ o.scrapFull = true then
    { some1 with
      serial := 2 ^ 64 - 1, idCert := List.replicate 2048 0xFF,
      fwKey := Vector.replicate 4 (2 ^ 384 - 1, true), svnFloor := 64, reserve := List.range 32768,
      tokenDigest := Vector.replicate 4 (2 ^ 384 - 1), blown := true }
  else some1

/-- LC_TRANSITION: the burns end; `ok` says that both words were confirmed. The wipe follows, and the hub holds until
reset (R469 steps 3 to 5). -/
def execLcTransition (ok : Bool) (s : State) : Host.Outcome State Fault Refusal :=
  .next (match s.sec.lcMove with
    | none => s
    | some m =>
      if ok then
        let s1 := updOtp (fun o =>
          let p := { o with lcA := o.lcA ||| lcWord m.dst, lcB := o.lcB ||| lcWord m.dst }
          if 3 ≤ m.dst then wipeOtp m.dst p else p) (updSec (fun x => { x with lcMove := none }) s)
        let s2 := opRecord 0x0906 true [m.src, m.dst] (setRf rSecLcStatus 3 0 (2 + 8) s1)
        { s2 with boot := { s2.boot with hubHeld := true } }
      else
        let cut := s.burnCut
        let s1 := { s with sec := { s.sec with otp := cut.1, lcMove := none }, free := cut.2 }
        refuseLc 6 (setRf rSecLcStatus 0 0 0 s1))

/-- A write of SEC_USER_DATA: set bits are burned in INTEGRATOR and FIELDED (R472). -/
def wrUserData (v : Nat) (s : State) : State :=
  if s.running && (s.lcState == 1 || s.lcState == 2) then
    let i := s.rf rSecUserSel 8 0
    updOtp (fun o => { o with user := Table.set o.user i (Table.get 0 o.user i ||| v) }) s
  else s

/-- USER_STORE_BURN. -/
def execUserStoreBurn (v : BitVec 32) (s : State) : Host.Outcome State Fault Refusal := .next (wrUserData v.toNat s)

/-! ### Test gates and operator debug (R473 to R476) -/

/-- The life-cycle state lets gate `g` open. -/
def gateAllowed (lc g : Nat) : Bool :=
  let both := decide (8 ≤ g) && decide (g ≤ 27)
  if 38 < g then false
  else if lc = 0 then true
  else if lc = 1 then both
  else if lc = 3 then g != 37
  else false

/-- Gate `g` of a request to open it. -/
def openGate (g : Nat) (s : State) : State :=
  let k := if g < 32 then rSecGateOpenLo else rSecGateOpenHi
  if s.stage == 0 || !gateAllowed s.lcState g || s.rb k (g % 32) then s
  else
    let s1 := setRf k (g % 32) (g % 32) 1 s
    let s2 := if s1.rb rSecDebug 2 then s1 else askCertificate (setRf rSecDebug 2 2 1 s1)
    if s2.sec.gatesSeen.contains g then s2
    else opRecord 0x0905 true [g] (updSec (fun x => { x with gatesSeen := x.gatesSeen ++ [g] }) s2)

/-- Gate `g` closed. -/
def closeGate (g : Nat) (s : State) : State :=
  setRf (if g < 32 then rSecGateOpenLo else rSecGateOpenHi) (g % 32) (g % 32) 0 s

/-- A write of SEC_GATE_OPEN_LO or _HI: `b` is the first gate of the register and `n` their number. -/
def wrGates (b n v : Nat) (s : State) : State :=
  forEach (List.range n) (fun i s => if bit v i then openGate (b + i) s else closeGate (b + i) s) s

/-- GATE_OPEN. -/
def execGateOpen (g : Fin 48) (s : State) : Host.Outcome State Fault Refusal :=
  .next (if s.ready then openGate g s else s)

/-- GATE_CLOSE. -/
def execGateClose (g : Fin 48) (s : State) : Host.Outcome State Fault Refusal :=
  .next (if s.ready then closeGate g s else s)

/-- SEC_DEBUG.ENABLE written 1 (R474, R476). -/
def enableDebug (s : State) : State :=
  let lc := s.lcState
  if !s.running || lc == 7 || lc == 4 || s.debugOn then s
  else
    let s1 := forEach (List.range 128) (fun f s => tdiError f tdiDebug s) (setRf rSecDebug 0 0 1 s)
    if s1.rb rSecDebug 1 then s1
    else opRecord 0x0904 true [] (askCertificate (setRf rSecDebug 1 1 1 s1))

/-- SEC_DEBUG.ENABLE written 0. -/
def disableDebug (s : State) : State := setRf rSecDebug 0 0 0 s

/-- A write of SEC_DEBUG. -/
def wrSecDebug (v : Nat) (s : State) : State := if bit v 0 then enableDebug s else disableDebug s

/-- DEBUG_ENABLE. -/
def execDebugEnable (s : State) : Host.Outcome State Fault Refusal := .next (enableDebug s)

/-- DEBUG_DISABLE. -/
def execDebugDisable (s : State) : Host.Outcome State Fault Refusal := .next (disableDebug s)

/-- RNG_HEALTH_FAIL (R452). -/
def execRngHealthFail (s : State) : Host.Outcome State Fault Refusal :=
  .next (if s.sec.rngFailed then s else serviceRequest uHost 0 ccNone 1 (updSec (fun x => { x with rngFailed := true }) s))

/-! ### Measured values (R461) and the certificate chain (R464) -/

/-- The value of SPDM measurement `i`, as bytes. -/
def State.measurement (s : State) (i : Nat) : List Byte :=
  if i = 1 then natToBytes 48 s.sec.digest
  else if i = 2 then natToBytes 4 s.epoch
  else if i = 3 then natToBytes 1 s.lcState
  else if i = 4 then natToBytes 1 s.debugStatus
  else if i = 5 then natToBytes 48 s.boot.digest
  else if 6 ≤ i ∧ i ≤ 11 then
    if s.status uSite (i - 6) = stEmpty then List.replicate 48 0
    else (s.site (i - 6)).firstDigest.getD (List.replicate 48 0)
  else if i = 12 then natToBytes 2 s.sec.otp.reserve.length
  else natToBytes 1 s.grade

/-- The items of the measurement extension of a certificate, in order. -/
def State.certItems (s : State) (c : Cert) : List (List Byte) :=
  [natToBytes 1 1, natToBytes 48 s.sec.digest, natToBytes 4 c.epoch, natToBytes 1 c.lc, natToBytes 1 c.debug,
   natToBytes 48 s.boot.digest] ++
    (List.range 6).map (fun n => s.measurement (6 + n)) ++
    [natToBytes 2 c.blocks, natToBytes 4 c.leaf, natToBytes 1 s.grade]

/-- The DER bytes of a certificate. -/
def State.certDer (s : State) (c : Cert) : List Byte :=
  Config.certificate s.sec.otp.idkPriv s.sec.otp.lmsPriv s.sec.otp.serial c.leaf (s.certItems c)

/-- The chain of slot 0 in SPDM's form: length, root digest, certificates. -/
def State.chainBytes (s : State) (c : Cert) : List Byte :=
  let root := Config.caRoot s.sec.digest
  let certs := root ++ Config.caDevice s.sec.digest ++ s.sec.otp.idCert ++ s.certDer c
  natToBytes 4 (52 + certs.length) ++ natToBytes 48 (Config.sha384 root).toNat ++ certs

/-! ### The SPDM responder (R411) -/

/-- An answer of the responder. -/
def doe (what : String) (words : List Nat) (bytes : List Byte) (s : State) : State := emit (.doe what words bytes) s

/-- ERROR InvalidRequest, Busy, UnexpectedRequest, Unspecified, DecryptError of SPDM 1.3. -/
def spdmError (code : Nat) (s : State) : State := doe "ERROR" [code] [] s
/-- InvalidRequest. -/
abbrev spdmInvalid : Nat := 1
/-- Busy. -/
abbrev spdmBusy : Nat := 3
/-- UnexpectedRequest. -/
abbrev spdmUnexpected : Nat := 4
/-- Unspecified. -/
abbrev spdmUnspecified : Nat := 5
/-- DecryptError. -/
abbrev spdmDecrypt : Nat := 6

/-- The responder's progress changed. -/
def updSpdm (f : Spdm → Spdm) (s : State) : State := { s with host := { s.host with spdm := f s.host.spdm } }

/-- A request that needs the certificate: ERROR Busy before the first issue, ERROR Unspecified without one (R459,
R463). -/
def withCert (k : Cert → State → State) (s : State) : State :=
  if !s.host.spdm.algs then spdmError spdmUnexpected s
  else match s.sec.cert with
    | some c => k c s
    | none => spdmError (if s.sec.due then spdmBusy else spdmUnspecified) s

/-- The responder runs from READY on. -/
def spdmRow (k : State → State) (s : State) : Host.Outcome State Fault Refusal := .next (if s.running then k s else s)

/-- A fresh nonce of `n` bytes from the random source. -/
def drawBytes (n : Nat) (s : State) : List Byte × State :=
  (natToBytes n (Config.freeLine s.free).toNat, { s with free := s.free + 1 })

/-- GET_VERSION: negotiation starts anew. -/
def execGetVersion (s : State) : Host.Outcome State Fault Refusal :=
  spdmRow (fun s => doe "VERSION" [0x13] []
    (updSpdm (fun x => { x with version := true, caps := false, algs := false }) s)) s

/-- GET_CAPABILITIES. -/
def execGetCapabilities (s : State) : Host.Outcome State Fault Refusal :=
  spdmRow (fun s =>
    if s.host.spdm.version then doe "CAPABILITIES" [] [] (updSpdm (fun x => { x with caps := true }) s)
    else spdmError spdmUnexpected s) s

/-- NEGOTIATE_ALGORITHMS: `offered` says that the request offers ECDSA P-384, SHA-384, ECDHE P-384 and AES-256-GCM. -/
def execNegotiateAlgorithms (offered : Bool) (s : State) : Host.Outcome State Fault Refusal :=
  spdmRow (fun s =>
    if !s.host.spdm.caps then spdmError spdmUnexpected s
    else if offered then doe "ALGORITHMS" [] [] (updSpdm (fun x => { x with algs := true }) s)
    else spdmError spdmInvalid s) s

/-- GET_DIGESTS: slot 0 only. -/
def execGetDigests (s : State) : Host.Outcome State Fault Refusal :=
  spdmRow (withCert (fun c s =>
    doe "DIGESTS" [1] (natToBytes 48 (Config.sha384 (s.chainBytes c)).toNat) s)) s

/-- GET_CERTIFICATE: a portion of the chain, with what remains after it. -/
def execGetCertificate (slot : BitVec 8) (off len : BitVec 16) (s : State) : Host.Outcome State Fault Refusal :=
  spdmRow (withCert (fun c s =>
    let chain := s.chainBytes c
    if slot.toNat ≠ 0 ∨ chain.length ≤ off.toNat then spdmError spdmInvalid s
    else
      let part := (chain.drop off.toNat).take len.toNat
      doe "CERTIFICATE" [part.length, chain.length - off.toNat - part.length] part s)) s

/-- CHALLENGE: the chain's digest, the hub's nonce and the signature over them and the requester's nonce. -/
def execChallenge (slot : BitVec 8) (nonce : BitVec 256) (s : State) : Host.Outcome State Fault Refusal :=
  spdmRow (withCert (fun c s =>
    if slot.toNat ≠ 0 then spdmError spdmInvalid s
    else
      let n := drawBytes 32 s
      let body := natToBytes 48 (Config.sha384 (s.chainBytes c)).toNat ++ n.1
      doe "CHALLENGE_AUTH" [c.leaf]
        (body ++ Config.aliasSign s.sec.otp.idkPriv c.leaf (natToBytes 32 nonce.toNat ++ body)) n.2)) s

/-- GET_MEASUREMENTS: index 0 asks for their number, 0xFF for all, `sign` for a signature. -/
def execGetMeasurements (index : BitVec 8) (sign : Bool) (nonce : BitVec 256) (s : State) :
    Host.Outcome State Fault Refusal :=
  spdmRow (withCert (fun c s =>
    let i := index.toNat
    if 13 < i ∧ i ≠ 255 then spdmError spdmInvalid s
    else
      let body := if i = 0 then [] else if i = 255 then (List.range 13).flatMap (fun j => s.measurement (j + 1))
        else s.measurement i
      let words := if i = 0 then [13] else if i = 255 then (List.range 13).map (· + 1) else [i]
      if sign then
        let n := drawBytes 32 s
        doe "MEASUREMENTS" words (body ++ n.1 ++
          Config.aliasSign s.sec.otp.idkPriv c.leaf (natToBytes 32 nonce.toNat ++ body ++ n.1)) n.2
      else doe "MEASUREMENTS" words body s)) s

/-- KEY_EXCHANGE: a session begins, with the key of the current certificate; refused once the random source has failed
(R452). -/
def execKeyExchange (sid : BitVec 32) (s : State) : Host.Outcome State Fault Refusal :=
  spdmRow (withCert (fun c s =>
    if s.sec.rngFailed then spdmError spdmUnspecified s
    else
      let n := drawBytes 128 s
      doe "KEY_EXCHANGE_RSP" [sid.toNat] (n.1 ++ Config.aliasSign s.sec.otp.idkPriv c.leaf n.1)
        (updSpdm (fun x => { x with
          sessions := Table.set x.sessions sid.toNat { secured := false, leaf := c.leaf, keyGen := 0 } }) n.2))) s

/-- FINISH: `ok` says that the requester's verify data is right. -/
def execFinish (sid : BitVec 32) (ok : Bool) (s : State) : Host.Outcome State Fault Refusal :=
  spdmRow (fun s => match Table.find? s.host.spdm.sessions sid.toNat with
    | none => spdmError spdmUnexpected s
    | some x =>
      if x.secured then spdmError spdmUnexpected s
      else if ok then doe "FINISH_RSP" [sid.toNat] [] (updSpdm (fun y => { y with
        sessions := Table.set y.sessions sid.toNat { x with secured := true } }) s)
      else spdmError spdmDecrypt (updSpdm (fun y => { y with sessions := Table.erase y.sessions sid.toNat }) s)) s

/-- The session is secured. -/
def State.secured (s : State) (sid : BitVec 32) : Bool :=
  match Table.find? s.host.spdm.sessions sid.toNat with
  | some x => x.secured
  | none => false

/-- A request that travels in a secured session. -/
def inSession (sid : BitVec 32) (k : State → State) (s : State) : Host.Outcome State Fault Refusal :=
  spdmRow (fun s => if s.secured sid then k s else spdmError spdmUnexpected s) s

/-- HEARTBEAT. -/
def execHeartbeat (sid : BitVec 32) (s : State) : Host.Outcome State Fault Refusal :=
  inSession sid (doe "HEARTBEAT_ACK" [sid.toNat] []) s

/-- KEY_UPDATE. -/
def execKeyUpdate (sid : BitVec 32) (op : BitVec 8) (s : State) : Host.Outcome State Fault Refusal :=
  inSession sid (fun s => doe "KEY_UPDATE_ACK" [sid.toNat, op.toNat] [] (updSpdm (fun y => { y with
    sessions := y.sessions.map (fun e =>
      if e.1 = sid.toNat then (e.1, { e.2 with keyGen := e.2.keyGen + 1 }) else e) }) s)) s

/-- END_SESSION. -/
def execEndSession (sid : BitVec 32) (s : State) : Host.Outcome State Fault Refusal :=
  inSession sid (fun s => doe "END_SESSION_ACK" [sid.toNat] []
    (updSpdm (fun y => { y with sessions := Table.erase y.sessions sid.toNat }) s)) s

/-- IDE_KM: the keys of a Selective IDE stream are set (R412). -/
def execIdeKm (sid : BitVec 32) (stream : Fin 8) (s : State) : Host.Outcome State Fault Refusal :=
  inSession sid (fun s => doe "IDE_KM_RSP" [stream] [] { s with host := { s.host with
    streams := if s.host.streams.contains stream.val then s.host.streams else s.host.streams ++ [stream.val] } }) s

/-! ### TDISP (R413 to R415) -/

/-- A TDISP error: 4 INVALID_INTERFACE, 5 INVALID_INTERFACE_STATE, 1 INVALID_REQUEST. -/
def tdispError (code : Nat) (s : State) : State := doe "TDISP_ERROR" [code] [] s

/-- A TDISP request for the TDI of function `f`. -/
def tdispRow (sid : BitVec 32) (f : Nat) (k : State → State) (s : State) : Host.Outcome State Fault Refusal :=
  inSession sid (fun s => if f = 0 ∨ (s.fn f).present = false then tdispError 4 s else k s) s

/-- LOCK_INTERFACE_REQUEST: the TDI is bound to a stream with keys, and its gate shuts. -/
def execLockInterfaceRequest (sid : BitVec 32) (f : Fin 128) (stream : Fin 8) (s : State) :
    Host.Outcome State Fault Refusal :=
  tdispRow sid f (fun s =>
    if (s.fn f).tdi ≠ .unlocked then tdispError 5 s
    else if !s.host.streams.contains stream.val then tdispError 1 s
    else
      let n := drawBytes 32 s
      doe "LOCK_INTERFACE_RESPONSE" [f] n.1
        (setTdi f .locked (updFn f (fun x => { x with stream := some stream.val, nonce := some (bytesToNat n.1) }) n.2))) s

/-- The contexts that function `f` owns, of those whose registers have ever been written. -/
def State.ownedCtxs (s : State) (f : Nat) : List Nat :=
  ((s.regs.val.filterMap (fun e => if e.1 < 0x80000 then some (e.1 / 128) else none)).eraseDups).filter
    (fun c => s.owner c == f)

/-- The interface report of R413: BARs, contexts with policy and root, host windows, stream, debug status. -/
def State.tdiReport (s : State) (f : Nat) : List Nat :=
  (List.range 6).map (fun i => Table.get 0 (s.fn f).bars i) ++
    (s.ownedCtxs f).flatMap (fun c => [c, s.reg (rCtxPolicy c), s.reg (rCtxPtRootLo c), s.reg (rCtxPtRootHi c)]) ++
    (List.range 1024).filter (fun w => s.rb (rHwinNCtrl w) 0 && s.rf (rHwinNCtrl w) 7 1 == f) ++
    [(s.fn f).stream.getD 0xFF, b2n s.debugOn]

/-- GET_DEVICE_INTERFACE_REPORT: given while the TDI is locked or runs. -/
def execGetDeviceInterfaceReport (sid : BitVec 32) (f : Fin 128) (s : State) : Host.Outcome State Fault Refusal :=
  tdispRow sid f (fun s =>
    if (s.fn f).tdi = .locked ∨ (s.fn f).tdi = .run then doe "DEVICE_INTERFACE_REPORT" (s.tdiReport f) [] s
    else tdispError 5 s) s

/-- GET_DEVICE_INTERFACE_STATE. -/
def execGetDeviceInterfaceState (sid : BitVec 32) (f : Fin 128) (s : State) : Host.Outcome State Fault Refusal :=
  tdispRow sid f (fun s => doe "DEVICE_INTERFACE_STATE" [s.rf (rHifFnFStatus f) 3 2] [] s) s

/-- START_INTERFACE_REQUEST: RUN, with the nonce of the lock; enables that have waited take place (R414). -/
def execStartInterfaceRequest (sid : BitVec 32) (f : Fin 128) (nonce : BitVec 256) (s : State) :
    Host.Outcome State Fault Refusal :=
  tdispRow sid f (fun s =>
    if (s.fn f).tdi ≠ .locked then tdispError 5 s
    else if (s.fn f).nonce ≠ some nonce.toNat then tdispError 1 s
    else
      let s1 := setTdi f .run (updFn f (fun x => { x with nonce := none }) s)
      let s2 := forEach ((s1.ownedCtxs f).filter (fun c => s1.ctxState c == 0 && s1.rb (rCtxStatus c) 2)) (fun c s =>
        activate c (s.context c).kept (setRf (rCtxStatus c) 2 2 0 s)) s1
      doe "START_INTERFACE_RESPONSE" [f] [] s2) s

/-- STOP_INTERFACE_REQUEST: CONFIG_UNLOCKED. -/
def execStopInterfaceRequest (sid : BitVec 32) (f : Fin 128) (s : State) : Host.Outcome State Fault Refusal :=
  tdispRow sid f (fun s => doe "STOP_INTERFACE_RESPONSE" [f] []
    (setTdi f .unlocked (updFn f (fun x => { x with stream := none, nonce := none }) s))) s

end Sys2Proof.Machine
end

