-- ==== Sys2Proof/Machine/Bringup.lean ====
section
/-!
DEFINITION. Bring-up (R418 to R428): resets and rails (R419, R549, R550), the stages S0 to S6 with their reports, firmware
admission (R453, R454), the power states at READY (R483) and READY itself (R426).
-/
namespace Sys2Proof.Machine

/-! ### Resets and rails (R419, R547, R549, R550) -/

/-- RESET_ASSERT: RESET_N has been low for 10 µs. -/
def execResetAssert (s : State) : Host.Outcome State Fault Refusal :=
  let st := if s.boot.reset = .railWait then ResetState.railWait else .held
  let s1 := hubReset st s
  .next { s1 with pins := { s1.pins with resetLow := true } }

/-- RESET_RELEASE: RESET_N rises; the straps GPIO1 and GPIO0 are sampled, and stage S0 starts once every rail is in
range. -/
def execResetRelease (strap : Fin 4) (s : State) : Host.Outcome State Fault Refusal :=
  .next (if !s.pins.resetLow then s
    else
      let s1 := { s with pins := { s.pins with resetLow := false, strap := strap } }
      if s1.boot.reset = .held then { s1 with boot := { s1.boot with reset := .running } } else s1)

/-- RAIL_UNDERVOLTAGE: a rail of group 1 or 2 has been below its minimum for 1 µs. -/
def execRailUndervoltage (s : State) : Host.Outcome State Fault Refusal := .next (hubReset .railWait s)

/-- RAIL_BACK_IN_RANGE: every such rail has been back in range for 100 µs. -/
def execRailBackInRange (s : State) : Host.Outcome State Fault Refusal :=
  .next (if s.boot.reset = .railWait then
      { s with boot := { s.boot with reset := if s.pins.resetLow then .held else .running } }
    else s)

/-! ### Stages and reports (R418, R420, R427) -/

/-- The bound of a stage in µs. -/
def stageBound (n : Nat) : Nat := [2000, 100000, 50000, 200000, 400000, 150000, 10000].getD n 0

/-- Stage `n` is in progress. -/
def State.inStage (s : State) (n : Nat) : Bool :=
  s.boot.reset == .running && s.stage == n && !s.ready && !s.rb rBootStatus 4

/-- Stage `n` writes its report: RESULT, ERROR, the units of the stage, and its data from word 7 on. ELAPSED is free: the
model has no clock. -/
def report (n result err : Nat) (us : List (Nat × Nat)) (data : List Nat) (s : State) : State :=
  let out := us.filter (fun u => s.status u.1 u.2 != stGood)
  let f := out.headD (0, 0)
  let e := fresh s
  let words := [0x4B425250, n + result * 2 ^ 4 + 2 ^ 16 * err, e.1.toNat % 2 ^ 32, stageBound n,
    (us.length - out.length) + 2 ^ 16 * out.length, f.1 + 2 ^ 8 * f.2,
    if out.isEmpty then 0 else (s.unit f.1 f.2).cause] ++ data ++ List.replicate (9 - data.length) 0
  { e.2 with boot := { e.2.boot with reports := Table.set e.2.boot.reports n words } }

/-- Stage `n` has passed, and the next one starts. -/
def passStage (n : Nat) (us : List (Nat × Nat)) (data : List Nat) (s : State) : State :=
  let findings := us.any (fun u => s.status u.1 u.2 != stGood)
  setRf rBootStatus 2 0 (min (n + 1) 6) (report n (b2n findings) 0 us data s)

/-- Stage `n` ends in error (R420). -/
def failStage (n err : Nat) (us : List (Nat × Nat)) (data : List Nat) (s : State) : State :=
  let s1 := report n 2 err us data s
  let s2 := setRf rBootStatus 31 16 err (setRf rBootStatus 5 5 0 (setRf rBootStatus 4 4 1 s1))
  recordDump { s2 with boot := { s2.boot with hubHeld := true } }

/-! ### S0 and S1 (R418, R451, R459, R466, R471) -/

/-- Where no memory key is provisioned, one is drawn from the random source (R451). -/
def drawMemKey (s : State) : State :=
  let need := !provisioned 512 s.sec.otp.memKey
  let s1 := updSec (fun x => { x with volatileKey := if need then some s.free else none }) s
  { s1 with free := s1.free + 1 }

/-- STAGE_S0_DONE: `ok` says that the OTP was sensed; `hot` is a sensor at or above its trip point (R501). -/
def execStageS0Done (ok : Bool) (hot : Option (Fin 54)) (temp : BitVec 8) (s : State) :
    Host.Outcome State Fault Refusal :=
  .next (if !s.inStage 0 then s
    else if !ok then failStage 0 1 [] [] s
    else
      let lc := s.sec.otp.lcCode
      let s1 := if lc = 3 ∨ lc = 4 then updOtp (wipeOtp lc) s else s
      let o := s1.sec.otp
      let s2 := setRf rSecStatus 3 0 (lc + b2n o.keysPresent * 8)
        (setRf rSecFwSvn 14 8 o.svnFloor (drawMemKey s1))
      let s3 := setRf rSecLmsStatus 29 29 (b2n (decide (29492 ≤ o.reserve.length))) (syncLms s2)
      let s4 := rewriteUnits (o.disabled.map (fun t =>
        (unitKey uTile t, fun r => { r with status := stDisabled, cause := ccFused }))) s3
      let s5 := match hot with
        | some k => thermalTrip k 0 0 temp.toNat (setRf (rPwrTempK k) 7 0 temp.toNat s4)
        | none => s4
      if lc = 4 then failStage 0 2 [] [lc, o.disabled.length] s5 else passStage 0 [] [lc, o.disabled.length] s5)

/-- HOST_LINK_TRAINED: the boot function appears, and S1 ends. -/
def execHostLinkTrained (rate : Fin 8) (width : Fin 17) (s : State) : Host.Outcome State Fault Refusal :=
  .next (if !s.inStage 1 || rate.val = 0 || width.val = 0 then s
    else
      let full := rate.val = 7 ∧ width.val = 16
      let s1 := rewriteUnits [(unitKey uHost 0, fun u => { u with
        status := if full then stGood else stDegraded, cause := if full then ccNone else ccLane, width := width })]
        (linkUp rate width s)
      passStage 1 [(uHost, 0)] [rate * 2 + width * 2 ^ 4] (updFn 0 (fun f => { f with present := true }) s1))

/-! ### The image (R421, R453, R454) -/

/-- BOOT_CTRL.IMAGE_READY; after an error of S2 it runs S2 again (R420). -/
def imageReady (s : State) : State :=
  if s.ready || s.rb rBootStatus 5 || s.stage != 2 || s.boot.reset != .running then s
  else
    let s1 := setRf rBootStatus 31 16 0 (setRf rBootStatus 5 4 2 s)
    { s1 with boot := { s1.boot with hubHeld := false } }

/-- A write of BOOT_CTRL. -/
def wrBootCtrl (v : Nat) (s : State) : State := if bit v 0 then imageReady s else s

/-- IMAGE_READY. -/
def execImageReady (s : State) : Host.Outcome State Fault Refusal := .next (imageReady s)

/-- `n` bytes of the image from `o` on. -/
def State.imageBytes (s : State) (o n : Nat) : List Byte := Mem.readBytes s.boot.image o n

/-- A little-endian field of the image. -/
def State.imageNat (s : State) (o n : Nat) : Nat := Mem.readNat s.boot.image o n

/-- The code of the first check of R454 that the image fails, 0 where it passes them all. -/
def State.admission (s : State) : Nat :=
  let len := s.rf rBootImageLen 25 0
  let body := s.imageNat 8 4
  let sg := 64 + body
  let slot := s.imageNat 0xD 1
  let key := vget (0, false) s.sec.otp.fwKey (slot % 4)
  let ec := s.imageBytes sg 96
  let hss := s.imageBytes (sg + 0x60) 52
  let content := s.imageBytes 0 sg
  let d := Config.sha384 content
  if s.imageNat 0 4 ≠ 0x4B574C31 ∨ body % 64 ≠ 0 ∨ len ≠ 3648 + body ∨ 2 ^ 25 < len ∨ 4 ≤ slot ∨
      16 ≤ s.imageNat 0xE 1 ∨ 64 < s.imageNat 0xC 1 ∨ s.imageNat 0x10 48 ≠ 0 ∨ s.imageNat (sg + 0xDD0) 48 ≠ 0 then 1
  else if (Config.sha384 (ec ++ hss)).toNat ≠ key.1 then 2
  else if key.2 then 3
  else if !Config.ecdsaVerify ec content (s.imageBytes (sg + 0x94) 96) then 4
  else if !Config.hssVerify hss d (s.imageBytes (sg + 0xF4) 3292) then 5
  else if s.imageNat 0xC 1 < s.sec.otp.svnFloor then 6
  else if !bit (s.imageNat 0xF 1) s.lcState then 7
  else 0

/-- S3 begins: every power field is switched on (R483). -/
def fieldsOn (s : State) : State :=
  let on : PUnit := { target := 0, now := 0, moving := none, held := none }
  forEach (List.range 6) (fun n s => setPwr uSite n on s) (forEach (List.range 12) (fun k s => setPwr uStack k on s) s)

/-- IMAGE_ADMISSION: the boot ROM has made its checks. -/
def execImageAdmission (s : State) : Host.Outcome State Fault Refusal :=
  .next (if !(s.inStage 2 && s.rb rBootStatus 5) then s
    else
      let data (code : Nat) : List Nat := [s.rf rBootImageLen 25 0, s.imageNat 4 4, code]
      let code := s.admission
      let s1 := setRf rBootStatus 5 5 0 (setRf rSecStatus 8 5 code s)
      if code ≠ 0 then failStage 2 3 [] (data code) s1
      else
        let slot := s.imageNat 0xD 1 % 4
        let revoke := s.imageNat 0xE 1
        let s2 := updOtp (fun o => { o with fwKey := (List.range 4).foldl (fun v i =>
          if bit revoke i && i != slot then vupd (0, false) v i (fun k => (k.1, true)) else v) o.fwKey }) s1
        let s3 := updSec (fun x => { x with
          digest := (Config.sha384 (s.imageBytes 0 (64 + s.imageNat 8 4))).toNat, version := s.imageNat 4 4 }) s2
        let s4 := setRf rSecFwSvn 6 0 (s.imageNat 0xC 1) (setRf rSecStatus 10 9 slot s3)
        fieldsOn (passStage 2 [] (data 0) s4))

/-! ### S3: training (R422) -/

/-- A stack leaves service in bring-up. -/
def stackOutAt (k cause : Nat) (s : State) : State :=
  setStatus uStack k stIsolated cause (updStack k (fun x => { x with isoCause := cause }) s)

/-- The modules of a stack that are retired take it out of service when a sibling pair is among them (R213, R214). -/
def stackWidth (k : Nat) (s : State) : State :=
  let r := (s.stack k).retired
  if r.any (fun m => r.contains (m ^^^ 1)) then stackOutAt k ccChannel s
  else rewriteUnits [(unitKey uStack k, fun u => { u with
    status := if r.isEmpty then stGood else stDegraded, cause := if r.isEmpty then ccNone else ccModule,
    width := 64 - r.length })] s

/-- The outcome of a stack's training; a stack without one failed, having taken no spare. -/
def trainStack (k : Nat) (o : Option StackTrain) (s : State) : State :=
  let t := o.getD (.failed [])
  let s1 := setStackSpares k (takeTraining k t s)
  match t with
  | .trained _ _ => stackWidth k s1
  | .channelLost _ => stackOutAt k ccChannel s1
  | .failed _ => stackOutAt k ccTrain s1

/-- A bond (128 × module + bond) takes the lowest unused spare of its module, while there is one (R301). -/
def spareBond (b : Nat) (x : Site) : Site :=
  let used := Table.get 0 x.sparesUsed (b / 128)
  if used < 4 then { x with
    spareMap := Table.set x.spareMap b used, sparesUsed := Table.set x.sparesUsed (b / 128) (used + 1) }
  else x

/-- Spares taken by the bonds of a site's modules; SITE_n_STATUS shows what is in service and unused (R328). -/
def takeSiteSpares (n : Nat) (sp : List Nat) (s : State) : State :=
  let s0 := updSite n (fun x => forEach sp spareBond x) s
  let x := s0.site n
  let used := ((List.range 64).map (fun m => if x.retired.contains m then 4 else Table.get 0 x.sparesUsed m)).sum
  let s1 := setRf (rSiteNStatus n) 21 13 (256 - used) (syncModules n s0)
  rewriteUnits [(unitKey uSite n, fun u => { u with spares := 256 - used })] s1

/-- The modules of a site that are retired: GOOD, DEGRADED, or fewer than 32 left (R302). -/
def siteWidth (n : Nat) (s : State) : State :=
  let r := (s.site n).retired
  if 32 < r.length then setStatus uSite n stEmpty ccWidth s
  else takeSiteSpares n [] <| rewriteUnits [(unitKey uSite n, fun u => { u with
    status := if r.isEmpty then stGood else stDegraded, cause := if r.isEmpty then ccNone else ccModule,
    width := 64 - r.length })] s

/-- The outcome of a site's training: one that never answered is EMPTY with cause 0, one whose declaration or identity has
been turned away keeps its cause, and one that has passed them takes what its modules give (R303, R321). -/
def trainSite (n : Nat) (o : Option SiteTrain) (s : State) : State :=
  let x := s.site n
  let answered := x.join != .none || x.everAccepted
  if s.status uSite n = stEmpty then s
  else if !answered then setStatus uSite n stEmpty ccNone s
  else if !x.everAccepted then setStatus uSite n stEmpty ccCertFailed (updSite n (fun x => { x with join := .none }) s)
  else match o with
    | some (.trained sp rt) =>
      siteWidth n (takeSiteSpares n (sp.map (·.val)) (updSite n (fun x => { x with
        retired := (rt.map (·.val)).eraseDups }) s))
    | _ => setStatus uSite n stEmpty ccTrain s

/-- A port leaves service in bring-up. -/
def portOutAt (n cause : Nat) (s : State) : State :=
  setRf (rFabPortNStatus n) 5 0 2 (rewriteUnits [(unitKey uPort n, fun u =>
    { u with status := stDown, cause := cause, width := 0 })] (updPort n (fun x => { x with cause := cause }) s))

/-- A port takes the width that its lanes give. -/
def portLanesAt (n lanes : Nat) (s : State) : State :=
  let w := planWidth lanes
  if w = 0 then portOutAt n ccTrain s
  else
    setRf (rFabPortNStatus n) 13 0 (w * 4 + 2 ^ 6 * lanes) (rewriteUnits [(unitKey uPort n, fun u => { u with
      status := if w = 8 then stGood else stDegraded, cause := if w = 8 then ccNone else ccLane, width := w })]
      (updPort n (fun x => { x with cause := ccNone }) s))

/-- The outcome of a port's training: UP with credits granted and HELLO sent (R361, R371), or DOWN. -/
def trainPort (n : Nat) (o : Option PortTrain) (s : State) : State :=
  match o with
  | some (.trained lanes) =>
    let s1 := portLanesAt n lanes.toNat s
    if s1.portState n = 0 then
      sendHello n (grantUnits n s1)
    else s1
  | some .noPeer => portOutAt n ccNoPeer s
  | _ => portOutAt n ccTrain s

/-- The record of a Crossing follows its links; CAUSE names the stage that first took one out. -/
def crossingRecord (c cause : Nat) (s : State) : State :=
  let n := ((List.range 8).filter (s.linkUp? c)).length
  rewriteUnits [(unitKey uCrossing c, fun u => { u with
    status := if n = 8 then stGood else stDegraded, cause := if n = 8 then ccNone else if u.status = stDegraded then u.cause else cause,
    width := n })] s

/-- A Crossing has no link in service. -/
def State.crossingLost (s : State) : Bool := (List.range 2).any (fun c => (List.range 8).all (fun y => !s.linkUp? c y))

/-- The units of a type. -/
def unitsOf (ty n : Nat) : List (Nat × Nat) := (List.range n).map (fun i => (ty, i))

/-- The bitmap of the units of a type that satisfy `p`. -/
def bitmap (n : Nat) (p : Nat → Bool) : Nat := ((List.range n).map (fun i => b2n (p i) * 2 ^ i)).sum

/-- Stage S3 ends with the outcomes `tr`. -/
def endTraining (tr : Training) (s : State) : State :=
  let s1 := forEach (List.range 12) (fun k s => trainStack k (vget none tr.stks k) s) s
  let s2 := forEach (List.range 6) (fun n s => trainSite n (vget none tr.sites n) s) s1
  let s3 := forEach (List.range 16) (fun n s => trainPort n (vget none tr.ports n) s) s2
  let s4 := crossingRecord 1 ccTrain (crossingRecord 0 ccTrain (setRf rNocStatus 15 0 (tr.west.toNat + 2 ^ 8 * tr.east.toNat) s3))
  let us := unitsOf uStack 12 ++ unitsOf uSite 6 ++ unitsOf uPort 16 ++ unitsOf uCrossing 2
  let data := [bitmap 12 (fun k => s4.inService uStack k) + 2 ^ 12 * bitmap 6 (fun n => s4.inService uSite n),
    bitmap 16 (fun n => s4.portState n == 0) + 2 ^ 16 * s4.rf rNocStatus 15 0]
  if s4.crossingLost then failStage 3 4 us data s4 else passStage 3 us data s4

/-- TRAINING_DONE. -/
def execTrainingDone (tr : Training) (s : State) : Host.Outcome State Fault Refusal :=
  .next (if s.inStage 3 then endTraining tr s else s)

/-! ### S4: self-test and initialisation (R423) -/

/-- Units that fail the self-test; a DISABLED tile is not tested, and the widest cause stands (R32). -/
def testFail (ts : List Nat) (own : Nat) (s : State) : State :=
  rewriteUnits ((ts.filter (fun t => s.status uTile t != stDisabled)).map (fun t =>
    (unitKey uTile t, fun r => { r with status := stFailed, cause := own }))) s

/-- A cluster fails with its tiles. -/
def clusterFail (own tiles c : Nat) (s : State) : State :=
  testFail ((List.range 4).map (fun i => 4 * c + i)) tiles (setStatus uCluster c stFailed own s)

/-- Every store is zeroed, every line INVALID and the stacks written with zeros (R423). -/
def prepareStores (s : State) : State :=
  let s1 := { s with
    tiles := s.tiles.map (fun x => { x with
      store := [], storeMarks := [], storeUe := [], storeOnce := [], dmem := [], dmemUe := [] }),
    clusters := s.clusters.map (fun c => { c with store := [], marks := [] }),
    dram := { bytes := [], marks := [], good := [] } }
  updPlz (fun z => { z with lines := [] }) s1

/-- The plaza that serves slot `n`: its own, or, if that has failed, the lowest-numbered GOOD plaza of its group of four
(R227). -/
def State.slotServer (s : State) (n : Nat) : Nat :=
  if s.status uPlaza n = stFailed then
    (((List.range 4).map (fun i => n / 4 * 4 + i)).find? (fun p => s.status uPlaza p == stGood)).getD n
  else n

/-- Every slot is assigned to the plaza that serves it until the next bring-up (R227, R260). -/
def assignSlots (s : State) : State :=
  forEach (List.range 36) (fun n s' =>
    setRf (rPlzNStatus n) 8 8 (b2n ((List.range 36).any (fun m => m != n && s.slotServer m == n)))
      (setRf (rPlzNStatus n) 7 2 (s.slotServer n) s')) s

/-- SELFTEST_DONE. -/
def execSelftestDone (t : SelfTest) (s : State) : Host.Outcome State Fault Refusal :=
  .next (if !s.inStage 4 then s
    else
      let s1 := testFail (t.tiles.map (·.val)) ccSelftest (prepareStores s)
      let s2 := forEach (t.clusters.map (·.val)) (clusterFail ccSelftest ccCluster) s1
      let s3 := forEach (t.partitions.map (·.val)) (fun p s =>
        forEach ((List.range 6).map (fun j => 6 * p + j)) (clusterFail ccPartition ccPartition)
          (setStatus uPartition p stFailed ccSelftest s)) s2
      let s4 := assignSlots (forEach (t.plazas.map (·.val)) (fun p s => setStatus uPlaza p stFailed ccSelftest s) s3)
      let s5 := forEach (t.stks.map (·.val)) (fun k s =>
        if s.inService uStack k then stackOutAt k ccSelftest s else s) s4
      let s6 := forEach (List.range 72) (fun t s => if s.status uTile t = stGood then loadMonitor uTile t (clearFaulted t s) else s) s5
      let tiles := (unitsOf uTile 72).filter (fun u => s6.status u.1 u.2 != stDisabled)
      let us := tiles ++ unitsOf uCluster 18 ++ unitsOf uPlaza 36 ++ unitsOf uStack 12 ++ unitsOf uHost 1 ++
        unitsOf uRouter 192 ++ unitsOf uCrossing 2 ++ unitsOf uPartition 3
      let pl := bitmap 36 (fun p => s6.status uPlaza p == stFailed)
      let data := [((List.range 72).filter (fun t => s6.status uTile t == stGood)).length,
        bitmap 18 (fun c => s6.status uCluster c == stFailed), pl % 2 ^ 32, pl / 2 ^ 32]
      let group := (List.range 9).any (fun g => (List.range 4).all (fun i => s6.status uPlaza (4 * g + i) == stFailed))
      let err := if t.transit then 5 else if t.hostPort then 6 else if group then 7 else if t.welore then 8 else 0
      if err ≠ 0 then failStage 4 err us data s6 else passStage 4 us data s6)

/-! ### S5: qualification (R424, R425) -/

/-- ⌊log10 n⌋; `k` bounds the number of digits. -/
def log10 : Nat → Nat → Nat
  | 0, _ => 0
  | k + 1, n => if n < 10 then 0 else log10 k (n / 10) + 1

/-- The mantissa and exponent of errors / bits rounded up to one significant digit, or 0 and ⌊log10 bits⌋ without an
error (R425). -/
def rateFields (d : Dwell) : Nat × Nat :=
  if d.errors = 0 then (0, log10 40 d.bits)
  else
    let up (x : Nat) : Nat := ceilDiv (d.errors * 10 ^ x) d.bits
    let x := ((List.range 40).filter (fun x => decide (up x ≤ 9))).foldl max 0
    (up x, x)

/-- The rate exceeds mantissa `m` × 10 to the minus `x`. -/
def overLimit (ty : Nat) (d : Dwell) : Bool :=
  let sh := unitShape ty
  decide (sh.2.2.1 * d.bits < d.errors * 10 ^ sh.2.2.2) || d.bits == 0 || d.uncorrectable

/-- A unit's record takes its measured rate. -/
def recordRate (ty id : Nat) (d : Dwell) (s : State) : State :=
  let r := rateFields d
  rewriteUnits [(unitKey ty id, fun u => { u with errMant := r.1, errExp := r.2 })] s

/-- The outcome of one unit's dwell: without one, or over its limit, it takes its failing outcome. -/
def qualify (ty id : Nat) (o : Option Dwell) (out : State → State) (s : State) : State :=
  match o with
  | none => out s
  | some d => if overLimit ty d then out (recordRate ty id d s) else recordRate ty id d s

/-- The dwell of a Crossing: that of its links in service together. -/
def crossingDwell (q : Qualification) (s : State) (c : Nat) : Dwell :=
  (List.range 8).foldl (fun d y =>
    match vget none q.links (8 * c + y), s.linkUp? c y with
    | some x, true => { d with errors := d.errors + x.errors, bits := d.bits + x.bits }
    | _, _ => d) { errors := 0, bits := 0, uncorrectable := false }

/-- What the monitors did during the dwells. -/
def monitorsAct (q : Qualification) (s : State) : State :=
  let s1 := forEach q.stackSpared (fun e s => setStackSpares e.1
    (updStack e.1 (fun x => { x with spared := x.spared ++ [e.2.val] }) s)) s
  let s2 := forEach q.stackRetired (fun e s => if s.inService uStack e.1 then
    stackWidth e.1 (updStack e.1 (fun x => { x with retired := (x.retired ++ [e.2.val]).eraseDups }) s) else s) s1
  let s3 := forEach q.siteSpared (fun e s => takeSiteSpares e.1 [e.2.val] s) s2
  let s4 := forEach q.siteRetired (fun e s => if s.inService uSite e.1 then
    siteWidth e.1 (updSite e.1 (fun x => { x with retired := (x.retired ++ [e.2.val]).eraseDups }) s) else s) s3
  forEach q.portLanes (fun e s => if s.portState e.1 = 0 then portLanesAt e.1 e.2.toNat s else s) s4

/-- Stage S5 ends with the outcomes `q`. -/
def endQualification (q : Qualification) (s : State) : State :=
  let ran (ty n : Nat) : List (Nat × Nat) := (unitsOf ty n).filter (fun u => s.inService u.1 u.2)
  let us := ran uStack 12 ++ ran uSite 6 ++ ran uPort 16 ++ unitsOf uHost 1 ++ unitsOf uCrossing 2
  let s0 := monitorsAct q s
  let s1 := forEach (ran uStack 12) (fun u s =>
    if s.inService uStack u.2 then qualify uStack u.2 (vget none q.stks u.2) (stackOutAt u.2 ccQual) s else s) s0
  let s2 := forEach (ran uSite 6) (fun u s =>
    if s.inService uSite u.2 then qualify uSite u.2 (vget none q.sites u.2) (setStatus uSite u.2 stEmpty ccQual) s
    else s) s1
  let s3 := forEach (ran uPort 16) (fun u s =>
    if s.portState u.2 = 0 then qualify uPort u.2 (vget none q.ports u.2) (portOutAt u.2 ccQual) s else s) s2
  let s4 := qualify uHost 0 q.host (serviceRequest uHost 0 ccQual 1) s3
  let links := (List.range 16).filter (fun i => s4.rb rNocStatus i && (match vget none q.links i with
    | some d => overLimit uCrossing d
    | none => true))
  let s5 := forEach links (fun i s => setRf rNocStatus i i 0 s) s4
  let s6 := forEach (List.range 2) (fun c s => recordRate uCrossing c (crossingDwell q s c) (crossingRecord c ccQual s)) s5
  let lanes := ((List.range 16).map (fun n => s.portWidth n - s6.portWidth n)).sum
  let data := [q.stackSpared.length + q.siteSpared.length,
    q.stackRetired.length + q.siteRetired.length + lanes + links.length]
  let s7 := forEach (List.range 6) (fun n s =>
    if s.status uSite n = stEmpty then setPwr uSite n .init s else s) s6
  if s7.crossingLost then failStage 5 4 us data s7 else passStage 5 us data s7

/-- QUALIFICATION_DONE. -/
def execQualificationDone (q : Qualification) (s : State) : Host.Outcome State Fault Refusal :=
  .next (if s.inStage 5 then endQualification q s else s)

/-! ### S6: READY (R426, R483) -/

/-- The units that keep an epoch. -/
def epochUnits : List (Nat × Nat) :=
  unitsOf uTile 72 ++ unitsOf uCluster 18 ++ unitsOf uStack 12 ++ unitsOf uSite 6 ++ unitsOf uPartition 3

/-- The power states at READY. -/
def powerAtReady (s : State) : State :=
  let on : PUnit := { target := 0, now := 0, moving := none, held := none }
  let s1 := forEach (unitsOf uTile 72 ++ unitsOf uCluster 18 ++ unitsOf uPartition 3) (fun u s =>
    let st := s.status u.1 u.2
    setPwr u.1 u.2 (if st = stDisabled ∨ st = stFailed then .init else on) s) s
  let s2 := forEach (List.range 12) (fun k s => setPwr uStack k on s) s1
  forEach (List.range 6) (fun n s =>
    let up := s.inService uSite n
    setRf (rSiteNStatus n) 24 23 (if up then 0 else 3) (setPwr uSite n (if up then on else .init) s)) s2

/-- Every capacity of R350. -/
def syncCaps (s : State) : State :=
  let s1 := forEach (List.range 12) syncStackCap s
  let s2 := forEach (List.range 6) syncSiteCap s1
  let s3 := forEach (List.range 16) syncPortCap s2
  syncCrossing 1 (syncCrossing 0 (syncHostCap s3))

/-- The generators of R513 start from values that the spec leaves open. -/
def seedSamples (s : State) : State :=
  forEach (List.range 72) (fun t s =>
    let f := fresh s
    updTile t (fun x => { x with sampleGen := f.1.toNat % 2 ^ 32 }) f.2) s

/-- Logical numbers go to the tiles that are GOOD, ascending (R27), and every unit's epoch is 1. -/
def numberTiles (s : State) : State :=
  let tiles := (List.range 72).filter (fun t => s.status uTile t == stGood)
  rewriteUnits (epochUnits.map (fun u => (unitKey u.1 u.2, fun r => { r with epoch := 1 })))
    (setReg rCfgEpoch 1 { s with boot := { s.boot with tilesAt := tiles } })

/-- The floor plan of epoch 1, revision 0, and the digest of its report (R40). -/
def firstPlan (s : State) : State :=
  let plan : Plan := { units := s.boot.plan.units, rev := 0, epoch := 1 }
  let s1 := { s with boot := { s.boot with plan := plan, rev0 := plan, latches := [], newWork := true } }
  { s1 with boot := { s1.boot with digest := (Config.sha384 (s1.planBytes plan)).toNat } }

/-- The epoch tags of the units that have not failed (R426). -/
def State.firstTags (s : State) : Table Nat :=
  epochUnits.foldl (fun t u => if s.status u.1 u.2 = stFailed then t else Table.set t (unitKey u.1 u.2) 2) []

/-- The network starts, with the tags of epoch 1, and the counters start at zero (R506). -/
def startNet (tags : Table Nat) (s : State) : State :=
  { s with net := { s.net with tags := tags, started := true, charges := [], missAge := [] }, cnt := .init }

/-- JOIN to every site in service (R324 step 5). -/
def joinSites (s : State) : State :=
  forEach (List.range 6) (fun n s => if s.inService uSite n then sendJoin n s else s) s

/-- The record of R459 where few reservation bits are left. -/
def warnLms (s : State) : State :=
  if s.rb rSecLmsStatus 29 then opRecord 0x0902 true [s.sec.otp.reserve.length] s else s

/-- READY: the steps of R426. Counters start at zero (R506), accepted sites are joined (R324 step 5), and the first
certificate falls due (R463). -/
def becomeReady (s : State) : State :=
  let s1 := numberTiles s
  let s2 := setGuarantees false (syncCaps (powerAtReady (firstPlan s1)))
  let s3 := report 6 0 0 [] [s1.boot.tilesAt.length] (startNet s1.firstTags s2)
  let s4 := warnLms (joinSites (seedSamples (setRf rBootStatus 3 3 1 s3)))
  let s5 := emit (.pin "I3C_IBI" 1) (emit (.pin "GPIO2" 1) s4)
  askCertificate (syncGates (forEach (List.range 12) syncClocks s5))

/-- READY. -/
def execReady (s : State) : Host.Outcome State Fault Refusal := .next (if s.inStage 6 then becomeReady s else s)

/-- STAGE_TIMEOUT: the stage in progress passes its bound. S3 and S5 end with the outcomes that their units have; any other
stage ends in error (R418). S2's bound runs from IMAGE_READY. -/
def execStageTimeout (tr : Training) (q : Qualification) (s : State) : Host.Outcome State Fault Refusal :=
  .next (if !s.inStage s.stage then s
    else if s.stage = 3 then endTraining tr s
    else if s.stage = 5 then endQualification q s
    else if s.stage = 2 && !s.rb rBootStatus 5 then s
    else failStage s.stage 9 [] [] s)

end Sys2Proof.Machine
end

