-- ==== Sys2Proof/Machine/Bulk.lean ====
section
/-!
DEFINITION. The bulk window and what it reaches: the areas of R532 with their failures (R533), the debug areas (R474,
R534, R535), and the mailbox (R536).
-/
namespace Sys2Proof.Machine

/-! ### REG_STATUS (R531) -/

/-- An access of function `f` at `off` sets flag `b` of its REG_STATUS. -/
def regFlag (f b off : Nat) (s : State) : State :=
  setRf (fnKey f rRegStatus) 31 8 (off / 4) (rcFlag (fnKey f rRegStatus) b s)

/-! ### Availability and failures (R532, R533) -/

/-- AREA selected by function `f`. -/
def State.bulkArea (s : State) (f : Nat) : Nat := s.rf (fnKey f rBulkSel) 2 0

/-- The cursor of function `f`. -/
def State.bulkAddr (s : State) (f : Nat) : Nat :=
  2 ^ 32 * s.rf (fnKey f rBulkAddrHi) 19 0 + s.rf (fnKey f rBulkAddrLo) 31 2 * 4

/-- The cursor set. -/
def setBulkAddr (f a : Nat) (s : State) : State :=
  setRf (fnKey f rBulkAddrHi) 19 0 (a / 2 ^ 32) (setRf (fnKey f rBulkAddrLo) 31 2 (a / 4) s)

/-- The area is available to the function. -/
def State.areaOpen (s : State) (f area : Nat) : Bool :=
  if f ≠ 0 then area == 2 && s.ready
  else match area with
    | 0 => !s.ready
    | 1 => true
    | 2 => s.ready
    | 3 => s.debugOn
    | 4 => s.debugOn
    | 5 => s.ready
    | 6 => true
    | _ => false

/-- The addresses of the 4-byte words of an access. -/
def bulkWords (a n : Nat) : List Nat := (List.range (n / 4)).map (fun i => a + 4 * i)

/-- The tile whose registers, pc or control word a word of DEBUG_UNIT is (R535). -/
def debugTile? (o : Nat) : Option Nat :=
  let r := o % 0x800000
  if o < 0x24000000 ∧ ((0x410000 ≤ r ∧ r < 0x410108) ∨ (0x411000 ≤ r ∧ r < 0x411004)) then some (o / 0x800000) else none

/-- The debugger holds the tile (R53, R474). -/
def State.tileHalted (s : State) (t : Nat) : Bool := s.debugOn && (s.tile t).stall == .halted

/-- An access meets an area that is busy. -/
def State.areaBusy (s : State) (area a n : Nat) : Bool :=
  (area == 0 && s.rb rBootStatus 5) ||
  (area == 4 && (bulkWords a n).any (fun o => match debugTile? o with
    | some t => !s.tileHalted t
    | none => false))

/-- The size of an area for a function, DEBUG_MEM apart. -/
def areaSize (f area : Nat) : Nat :=
  match area with
  | 0 => 0x2000000
  | 1 => 448
  | 2 => if f = 0 then 11552 else 2400
  | 4 => 0x36000000
  | 5 => 0x1800
  | 6 => 0x100000
  | _ => 0

/-- A device physical address that DEBUG_MEM reaches: stacked memory in any alias, or a site aperture (R534). -/
def debugMemOk (a : Nat) : Bool :=
  decide (a < 2 ^ 52) && (match paTarget a with
    | .stacked _ _ => true
    | .site _ _ => true
    | _ => false)

/-- The first condition of R533 that an access of `n` bytes at `a` fails, as its flag of BULK_STATUS. -/
def State.bulkFail (s : State) (f a n : Nat) (write : Bool) : Option Nat :=
  let area := s.bulkArea f
  if !s.areaOpen f area then some 2
  else if s.areaBusy area a n then some 3
  else if write && (area == 1 || area == 2 || area == 6) then some 1
  else if (if area = 3 then (bulkWords a n).all debugMemOk else decide (a + n ≤ areaSize f area)) then none
  else some 0

/-- Flag `b` of a function's BULK_STATUS. -/
def bulkFlag (f b : Nat) (s : State) : State := rcFlag (fnKey f rBulkStatus) b s

/-! ### DEBUG_MEM (R534) -/

/-- The units that an access reads, lowest first, or none where the answer of one is still to come; what has come stays
to be taken by the access when it is made again. -/
def debugUnits : List Nat → State → Option (List (UnitData × Option Mark)) × State
  | [], s => (some [], s)
  | u :: l, s =>
    match agentRead opRecord .welore (paTarget (64 * u)) 0 0 s with
    | (none, s1) => (none, (debugUnits l s1).2)
    | (some v, s1) =>
      match debugUnits l s1 with
      | (some vs, s2) => (some (v :: vs), s2)
      | (none, s2) => (none, arrive .welore (paTarget (64 * u)) v.1 v.2 s2)

/-- A read of DEBUG_MEM: poisoned units read as zero and set RANGE. -/
def readDebugMem (f a n : Nat) (s : State) : Option (List Byte) × State :=
  let first := a / 64
  let us := (List.range ((a + n - 1) / 64 - first + 1)).map (fun i => first + i)
  match debugUnits us s with
  | (none, s1) => (none, s1)
  | (some vs, s1) =>
    let bytes := vs.flatMap (fun v => if v.2.isSome then List.replicate 64 0 else natToBytes 64 v.1.toNat)
    (some ((bytes.drop (a % 64)).take n), if vs.any (·.2.isSome) then bulkFlag f 0 s1 else s1)

/-! ### DEBUG_UNIT (R535) -/

/-- The half of a doubleword that a word at offset `r` is. -/
def halfAt (r : Nat) (v : W64) : Nat := if r % 8 < 4 then bits v.toNat 31 0 else bits v.toNat 63 32

/-- A doubleword with that half set. -/
def setHalfAt (r : Nat) (v : W64) (x : Nat) : W64 :=
  BitVec.ofNat 64 (if r % 8 < 4 then setBits v.toNat 31 0 x else setBits v.toNat 63 32 x)

/-- The debugger lets a tile go on; it fetches the instruction at its pc again. -/
def resumeTile (t : Nat) (s : State) : State :=
  if s.tileHalted t then updTile t (fun x => { x with stall := .none, ir := none }) s else s

/-- The debugger ends the task of a halted tile with BREAKPOINT. -/
def endHalted (t : Nat) (s : State) : State := if s.tileHalted t then failTile t 0x15 0 s else s

/-- A word of DEBUG_UNIT; what an uncorrectable or poisoned unit of a store reads as is open. Offsets that R535 does not
list read zero. -/
def readDebugUnit (o : Nat) (s : State) : Nat × State :=
  let r := o % 0x800000
  let t := o / 0x800000
  let x := s.tile t
  let store (a : Area) : Nat × State :=
    if s.areaBad t a then
      let g := fresh s
      (g.1.toNat % 2 ^ 32, g.2)
    else readArea t a 4 s
  if o < 0x24000000 then
    if r < 0x400000 then store (.store r)
    else if r < 0x410000 then store (.dmem (r - 0x400000))
    else if r < 0x410100 then (halfAt r (x.gpr ((r - 0x410000) / 8)), s)
    else if r < 0x410108 then (halfAt r x.pc, s)
    else if 0x410200 ≤ r ∧ r < 0x410A00 then (halfAt r (x.trace.getD ((r - 0x410200) / 8) 0), s)
    else if r = 0x410A00 then (x.trace.length, s)
    else if r = 0x411000 then (1, s)
    else (0, s)
  else
    let c := (o - 0x24000000) / 0x1000000
    let a := (o - 0x24000000) % 0x1000000
    if (Table.find? (s.cluster c).marks (a / 64)).isSome then
      let g := fresh s
      (g.1.toNat % 2 ^ 32, g.2)
    else (Mem.readNat (s.cluster c).store a 4, s)

/-- A write of a word of DEBUG_UNIT; trace entries and offsets that R535 does not list drop it. -/
def writeDebugUnit (o v : Nat) (s : State) : State :=
  let r := o % 0x800000
  let t := o / 0x800000
  if o < 0x24000000 then
    if r < 0x400000 then writeArea t (.store r) 4 v s
    else if r < 0x410000 then writeArea t (.dmem (r - 0x400000)) 4 v s
    else if r < 0x410100 then
      let i := (r - 0x410000) / 8
      updTile t (fun x => x.setGpr i (setHalfAt r (x.gpr i) v)) s
    else if r < 0x410108 then updTile t (fun x => { x with pc := setHalfAt r x.pc v }) s
    else if r = 0x411000 then if v = 1 then resumeTile t s else if v = 2 then endHalted t s else s
    else s
  else
    updCluster ((o - 0x24000000) / 0x1000000) (fun k =>
      { k with store := Mem.writeNat k.store ((o - 0x24000000) % 0x1000000) 4 v }) s

/-- DEBUG_RESUME. -/
def execDebugResume (t : Fin 72) (s : State) : Host.Outcome State Fault Refusal := .next (resumeTile t s)

/-- DEBUG_END_TASK. -/
def execDebugEndTask (t : Fin 72) (s : State) : Host.Outcome State Fault Refusal := .next (endHalted t s)

/-! ### Accesses of an area -/

/-- Words of an area read one after the other. -/
def readWords (g : Nat → State → Nat × State) : List Nat → State → List Byte × State
  | [], s => ([], s)
  | o :: l, s =>
    let w := g o s
    let rest := readWords g l w.2
    (natToBytes 4 w.1 ++ rest.1, rest.2)

/-- A stage's report word at offset `o` of REPORTS; what a report not yet written reads as is zero. -/
def State.reportAt (s : State) (o : Nat) : Nat := (Table.get [] s.boot.reports (o / 64)).getD (o % 64 / 4) 0

/-- A pass of the floor-plan report begins with a read of offset 0 (R39). -/
def beginPass (f a : Nat) (s : State) : State :=
  if a = 0 then { s with boot := { s.boot with latches := Table.set s.boot.latches f s.boot.plan } } else s

/-- A read of `n` bytes at `a` by function `f`; none where an answer is still to come. What a read of IMAGE returns is
open. -/
def bulkRead (f a n : Nat) (s : State) : Option (List Byte) × State :=
  let some' (r : List Byte × State) : Option (List Byte) × State := (some r.1, r.2)
  match s.bulkFail f a n false with
  | some b => (some (List.replicate n 0), bulkFlag f b s)
  | none =>
    match s.bulkArea f with
    | 0 => some' (readWords (fun _ s =>
        let g := fresh s
        (g.1.toNat % 2 ^ 32, g.2)) (bulkWords a n) s)
    | 1 => some' (readWords (fun o s => (s.reportAt o, s)) (bulkWords a n) s)
    | 2 => some' (readWords (fun o s => (s.reportWord f (s.latchedPlan f) (o / 4), s)) (bulkWords a n) (beginPass f a s))
    | 3 => readDebugMem f a n s
    | 4 => some' (readWords readDebugUnit (bulkWords a n) s)
    | 5 => some' (readWords (fun o s => (Mem.readNat s.mbox.mem o 4, s)) (bulkWords a n) s)
    | _ => some' (readWords (fun o s =>
        ((Config.dumpWord (match s.boot.dump with
          | none => 0
          | some d => d + 1) (o / 4)).toNat, s)) (bulkWords a n) s)

/-- Is the byte at offset `o` of MBOX a byte of a buffer (R536)? -/
def mboxByte (o : Nat) : Bool := decide (o % 0x400 < 0x200)

/-- A write of bytes at `a` by function `f`. -/
def bulkWrite (f a : Nat) (bs : List Byte) (s : State) : State :=
  match s.bulkFail f a bs.length true with
  | some b => bulkFlag f b s
  | none =>
    match s.bulkArea f with
    | 0 => { s with boot := { s.boot with image := Mem.writeBytes s.boot.image a bs } }
    | 3 => forEach (granulePieces 2 a bs.length) (fun p s =>
        (storeBytes opRecord .welore (paTarget p.1) ((bs.drop (p.1 - a)).take p.2) 0 0 false s).2) s
    | 4 => forEach (bulkWords a bs.length) (fun o s => writeDebugUnit o (bytesToNat ((bs.drop (o - a)).take 4)) s) s
    | 5 =>
      let put (m : Mem) (i : Nat) : Mem := if mboxByte (a + i) then Mem.write m (a + i) (bs.getD i 0) else m
      { s with mbox := { s.mbox with mem := (List.range bs.length).foldl put s.mbox.mem } }
    | _ => s

/-- After an access of BULK_DATA the cursor advances with AUTOINC. -/
def bulkStep (f : Nat) (s : State) : State :=
  if s.rb (fnKey f rBulkSel) 3 then setBulkAddr f ((s.bulkAddr f + 4) % 2 ^ 52) s else s

/-- A read of BULK_DATA. -/
def readBulkData (f : Nat) (s : State) : Option (List Byte) × State :=
  match bulkRead f (s.bulkAddr f) 4 s with
  | (some bs, s1) => (some bs, bulkStep f s1)
  | r => r

/-- A write of BULK_DATA. -/
def writeBulkData (f v : Nat) (s : State) : State := bulkStep f (bulkWrite f (s.bulkAddr f) (natToBytes 4 v) s)

/-- A write of BULK_SEL sets the cursor to zero. -/
def writeBulkSel (f v : Nat) (s : State) : State := setBulkAddr f 0 (setRf (fnKey f rBulkSel) 3 0 (bits v 3 0) s)

/-! ### The mailbox (R536) -/

/-- A bit of one site in BULK_MBOX_STATUS: OUT_BUSY. -/
def State.outBusy (s : State) (n : Nat) : Bool := s.rb rBulkMboxStatus n

/-- A SEND of `len` bytes to site `n`; lengths outside 1 to 256 send nothing. -/
def mboxSend (n len : Nat) (s : State) : State :=
  if n < 6 ∧ s.inService uSite n = true ∧ s.outBusy n = false ∧ 1 ≤ len ∧ len ≤ 256 then
    setRf rBulkMboxStatus n n 1 { s with mbox := { s.mbox with
      sending := Table.set s.mbox.sending n (Mem.readBytes s.mbox.mem (n * 0x400) len) } }
  else s

/-- IN_ACK: site `n`'s inbound buffer is free. -/
def mboxAck (n : Nat) (s : State) : State := if n < 6 then setRf rBulkMboxStatus (6 + n) (6 + n) 0 s else s

/-- A write of BULK_MBOX_CTRL. -/
def wrMbox (v : Nat) (s : State) : State :=
  let s1 := setRf rBulkMboxCtrl 11 0 (bits v 11 0) s
  let s2 := if bit v 12 then mboxSend (bits v 2 0) (bits v 11 3) s1 else s1
  if bit v 13 then mboxAck (bits v 2 0) s2 else s2

/-- BULK_MBOX_STATUS with IN_LEN of the selected site. -/
def State.mboxStatus (s : State) : Nat :=
  setBits (s.reg rBulkMboxStatus) 26 18 (Table.get 0 s.mbox.inLen (s.rf rBulkMboxCtrl 2 0))

/-- MBOX_SEND: BULK_MBOX_CTRL is written with SITE, LEN and SEND. -/
def execMboxSend (n : Fin 8) (len : BitVec 9) (s : State) : Host.Outcome State Fault Refusal :=
  .next (if s.ready then wrMbox (n + len.toNat * 8 + 2 ^ 12) s else s)

/-- MBOX_IN_ACK: BULK_MBOX_CTRL is written with SITE, LEN and IN_ACK. -/
def execMboxInAck (n : Fin 8) (len : BitVec 9) (s : State) : Host.Outcome State Fault Refusal :=
  .next (if s.ready then wrMbox (n + len.toNat * 8 + 2 ^ 13) s else s)

/-- MBOX_OUT_DONE: site `n`'s message has left on the sideband. -/
def execMboxOutDone (n : Fin 6) (s : State) : Host.Outcome State Fault Refusal :=
  .next (match Table.find? s.mbox.sending n with
    | none => s
    | some bs =>
      setRf rBulkMboxStatus n n 0 (sideband n 0x13 [(bs.length, 9)] (sbWords bs)
        { s with mbox := { s.mbox with sending := Table.erase s.mbox.sending n } }))

/-- MBOX: a message of at most 256 bytes from the chiplet of a site. -/
def execMbox (n : Fin 6) (bytes : List Byte) (s : State) : Host.Outcome State Fault Refusal :=
  if 256 < bytes.length then .fault .illFormed
  else .next (
    if !s.ready || s.status uSite n == stEmpty then s
    else if s.rb rBulkMboxStatus (6 + n) then rcFlag rBulkMboxStatus (12 + n) s
    else setRf rBulkMboxStatus (6 + n) (6 + n) 1 { s with mbox := { s.mbox with
      mem := Mem.writeBytes s.mbox.mem (n * 0x400 + 0x100) bytes,
      inLen := Table.set s.mbox.inLen n bytes.length } })

end Sys2Proof.Machine
end

