-- ==== Sys2Proof/Machine/Engines.lean ====
section
/-!
DEFINITION. The commands of the three engines of a tile: each takes one step of the running command, and a unit of the tile
store that is found uncorrectable for the second time retires the tile (R440).
-/
namespace Sys2Proof.Machine

/-- MATMUL (R77, R84): `bad` names a unit that has gone bad, `mismatch` says that the expander's check failed. -/
def execMatmul (t : Fin 72) (bad : Option (Fin 65536)) (mismatch : Bool) (s : State) :
    Host.Outcome State Fault Refusal :=
  .next (storeFaults t (matmulStep t bad mismatch s))

/-- VOP COPY (R140). -/
def execVopCopy (t : Fin 72) (bad : Option (Fin 65536)) (s : State) : Host.Outcome State Fault Refusal :=
  .next (storeFaults t (vopStep t 0x00 bad s))

/-- VOP ADD (R140). -/
def execVopAdd (t : Fin 72) (bad : Option (Fin 65536)) (s : State) : Host.Outcome State Fault Refusal :=
  .next (storeFaults t (vopStep t 0x01 bad s))

/-- VOP SUB (R140). -/
def execVopSub (t : Fin 72) (bad : Option (Fin 65536)) (s : State) : Host.Outcome State Fault Refusal :=
  .next (storeFaults t (vopStep t 0x02 bad s))

/-- VOP MUL (R140). -/
def execVopMul (t : Fin 72) (bad : Option (Fin 65536)) (s : State) : Host.Outcome State Fault Refusal :=
  .next (storeFaults t (vopStep t 0x03 bad s))

/-- VOP FMA (R140). -/
def execVopFma (t : Fin 72) (bad : Option (Fin 65536)) (s : State) : Host.Outcome State Fault Refusal :=
  .next (storeFaults t (vopStep t 0x04 bad s))

/-- VOP MAX (R140). -/
def execVopMax (t : Fin 72) (bad : Option (Fin 65536)) (s : State) : Host.Outcome State Fault Refusal :=
  .next (storeFaults t (vopStep t 0x05 bad s))

/-- VOP MIN (R140). -/
def execVopMin (t : Fin 72) (bad : Option (Fin 65536)) (s : State) : Host.Outcome State Fault Refusal :=
  .next (storeFaults t (vopStep t 0x06 bad s))

/-- VOP ABS (R140). -/
def execVopAbs (t : Fin 72) (bad : Option (Fin 65536)) (s : State) : Host.Outcome State Fault Refusal :=
  .next (storeFaults t (vopStep t 0x07 bad s))

/-- VOP NEG (R140). -/
def execVopNeg (t : Fin 72) (bad : Option (Fin 65536)) (s : State) : Host.Outcome State Fault Refusal :=
  .next (storeFaults t (vopStep t 0x08 bad s))

/-- VOP EXP (R157). -/
def execVopExp (t : Fin 72) (bad : Option (Fin 65536)) (s : State) : Host.Outcome State Fault Refusal :=
  .next (storeFaults t (vopStep t 0x09 bad s))

/-- VOP LOG (R157). -/
def execVopLog (t : Fin 72) (bad : Option (Fin 65536)) (s : State) : Host.Outcome State Fault Refusal :=
  .next (storeFaults t (vopStep t 0x0A bad s))

/-- VOP RCP (R157). -/
def execVopRcp (t : Fin 72) (bad : Option (Fin 65536)) (s : State) : Host.Outcome State Fault Refusal :=
  .next (storeFaults t (vopStep t 0x0B bad s))

/-- VOP RSQRT (R157). -/
def execVopRsqrt (t : Fin 72) (bad : Option (Fin 65536)) (s : State) : Host.Outcome State Fault Refusal :=
  .next (storeFaults t (vopStep t 0x0C bad s))

/-- VOP TANH (R157). -/
def execVopTanh (t : Fin 72) (bad : Option (Fin 65536)) (s : State) : Host.Outcome State Fault Refusal :=
  .next (storeFaults t (vopStep t 0x0D bad s))

/-- VOP ERF (R157). -/
def execVopErf (t : Fin 72) (bad : Option (Fin 65536)) (s : State) : Host.Outcome State Fault Refusal :=
  .next (storeFaults t (vopStep t 0x0E bad s))

/-- VOP CMPLT (R140). -/
def execVopCmplt (t : Fin 72) (bad : Option (Fin 65536)) (s : State) : Host.Outcome State Fault Refusal :=
  .next (storeFaults t (vopStep t 0x10 bad s))

/-- VOP CMPLE (R140). -/
def execVopCmple (t : Fin 72) (bad : Option (Fin 65536)) (s : State) : Host.Outcome State Fault Refusal :=
  .next (storeFaults t (vopStep t 0x11 bad s))

/-- VOP CMPEQ (R140). -/
def execVopCmpeq (t : Fin 72) (bad : Option (Fin 65536)) (s : State) : Host.Outcome State Fault Refusal :=
  .next (storeFaults t (vopStep t 0x12 bad s))

/-- VOP SEL (R140). -/
def execVopSel (t : Fin 72) (bad : Option (Fin 65536)) (s : State) : Host.Outcome State Fault Refusal :=
  .next (storeFaults t (vopStep t 0x13 bad s))

/-- VOP URAND (R159). -/
def execVopUrand (t : Fin 72) (bad : Option (Fin 65536)) (s : State) : Host.Outcome State Fault Refusal :=
  .next (storeFaults t (vopStep t 0x14 bad s))

/-- COMPRESS (R147). -/
def execCompress (t : Fin 72) (bad : Option (Fin 65536)) (s : State) : Host.Outcome State Fault Refusal :=
  .next (storeFaults t (vectorStep t (fun ws => wf ws 0 15 0 == 2) compressBlock bad s))

/-- EXPAND (R148). -/
def execExpand (t : Fin 72) (bad : Option (Fin 65536)) (s : State) : Host.Outcome State Fault Refusal :=
  .next (storeFaults t (vectorStep t (fun ws => wf ws 0 15 0 == 3) expandBlock bad s))

/-- MXPACK (R149). -/
def execMxpack (t : Fin 72) (bad : Option (Fin 65536)) (s : State) : Host.Outcome State Fault Refusal :=
  .next (storeFaults t (vectorStep t (fun ws => wf ws 0 15 0 == 4) mxpackBlock bad s))

/-- RSUM, the total of each row (R153, R154). -/
def execRsum (t : Fin 72) (bad : Option (Fin 65536)) (s : State) : Host.Outcome State Fault Refusal :=
  .next (storeFaults t (reduceStep t (isRsum 0) false (fun x ws i => ([rowSum x.dotFast (redRow x ws i)], [])) bad s))

/-- RSUM with SCAN 1: inclusive prefix sums. -/
def execRsumInclusiveScan (t : Fin 72) (bad : Option (Fin 65536)) (s : State) : Host.Outcome State Fault Refusal :=
  .next (storeFaults t (reduceStep t (isRsum 1) true (fun x ws i => (inclusiveScan x.dotFast (redRow x ws i), [])) bad s))

/-- RSUM with SCAN 2: exclusive prefix sums. -/
def execRsumExclusiveScan (t : Fin 72) (bad : Option (Fin 65536)) (s : State) : Host.Outcome State Fault Refusal :=
  .next (storeFaults t (reduceStep t (isRsum 2) true (fun x ws i => (exclusiveScan x.dotFast (redRow x ws i), [])) bad s))

/-- RMAX: the highest element of each row (R155). -/
def execRmax (t : Fin 72) (bad : Option (Fin 65536)) (s : State) : Host.Outcome State Fault Refusal :=
  .next (storeFaults t (reduceStep t (isRed 2) false (fun x ws i => ((topK 1 (redCands x ws i)).map (·.1), [])) bad s))

/-- RMIN (R155). -/
def execRmin (t : Fin 72) (bad : Option (Fin 65536)) (s : State) : Host.Outcome State Fault Refusal :=
  .next (storeFaults t (reduceStep t (isRed 3) false (fun x ws i => ([rowMin (redRow x ws i)], [])) bad s))

/-- RARGMAX: the highest element of each row and its index (R155). -/
def execRargmax (t : Fin 72) (bad : Option (Fin 65536)) (s : State) : Host.Outcome State Fault Refusal :=
  .next (storeFaults t (reduceStep t (isRed 4) false (fun x ws i =>
    let c := topK 1 (redCands x ws i)
    (c.map (·.1), c.map (·.2.1))) bad s))

/-- RTOPK: the K highest elements of each row in descending order, with their indices (R155). -/
def execRtopk (t : Fin 72) (bad : Option (Fin 65536)) (s : State) : Host.Outcome State Fault Refusal :=
  .next (storeFaults t (reduceStep t (isRed 5) true (fun x ws i =>
    let c := topK (wf ws 9 22 16) (redCands x ws i)
    (c.map (·.1), c.map (·.2.1))) bad s))

end Sys2Proof.Machine
end

