-- ==== Sys2Proof/Machine/Registers.lean ====
section
/-!
DEFINITION. Accesses of BAR0 (R523 to R531, R538 to R543, R558): which register an offset names for a function, reads
with clear on read and the sequence mode, writes with reserved bits, conditions and apply points, and the host's memory
requests.
-/
namespace Sys2Proof.Machine

/-! ### Which register an offset names (R161, R419, R521, R538 to R542) -/

/-- The registers that BAR0 serves from the end of S1 until READY (R419): BOOT_, HIF_, REG_, SEC_STATUS and the bulk
window's. -/
def bootOffset (off : Nat) : Bool :=
  off == rBootStatus || off == rBootCtrl || off == rBootImageLen || off == rHifStatus || off == rHifContain ||
  off == rHifFnStatus || off == rSecStatus ||
  (decide (rRegStatus ≤ off) && decide (off ≤ rRegSqLast)) || (decide (rBulkSel ≤ off) && decide (off ≤ rBulkStatus)) ||
  (decide (rHifFnFStatus 0 ≤ off) && decide (off ≤ rHifFnFStatus 127))

/-- The key of the register that offset `off` names for function `f`, and whether the function reaches only the fields
that the table gives to the physical function; none where it reaches nothing. Counter blocks belong to the physical
function; what a tenant reads of them is `readCounters`. -/
def State.locate (s : State) (f off : Nat) : Option (Nat × Bool) :=
  let own (c : Nat) : Bool := s.owner c == f
  let named : Bool := !(regFields off).isEmpty
  if off < 0x80000 then
    let c := off / 128
    let r := off % 128
    if r = 0x2C then if own c then some (rCtxFenceN c (s.rf (rCtxFenceSel c) 5 0), false) else none
    else if !named then none
    else if r = 0 ∨ (own c = false ∧ (r = 0x30 ∨ r = 0x34)) then if f = 0 then some (off, false) else none
    else if own c then some (off, false) else none
  else if off < 0x90000 then if named && own (s.ringCtx ((off - 0x80000) / 4)) then some (off, false) else none
  else if off < 0xA0000 then if named && own (s.ringCtx ((off - 0x90000) / 4)) then some (off, false) else none
  else if off < 0xC0000 then if named && f == 0 then some (off, false) else none
  else if 0xC0004 ≤ off ∧ off ≤ 0xC0010 then
    let r := s.rf (fnKey f rRingSel) 13 0
    if own (s.ringCtx r) then some (rRingCtrl r + (off - 0xC0004), false)
    else if f = 0 ∧ off = 0xC0004 then some (rRingCtrl r, true) else none
  else if off = rHifFnStatus then some (rHifFnFStatus f, false)
  else if off = rSnapSeq then
    if f = 0 || bit (s.inForce (rSecTenantCntJ (f / 32))) (f % 32) then some (rSnapSeq, false) else none
  else if off < 0x100000 then if named then some (fnKey f off, false) else none
  else if named && f == 0 && decide (off < 0x4000000) then some (off, false) else none

/-! ### Reads (R11, R529, R530) -/

/-- The register as it reads: what was last written, also where a write waits in the shadow (R434, R528). -/
def State.view (s : State) (k : Nat) : Nat :=
  match Table.find? s.boot.shadow k with
  | some w => mergeFields (rwFields k) (s.reg k) w.toNat
  | none => s.reg k

/-- The access code gives the field to the physical function (R162, R293). -/
def pfField (x : FieldInfo) : Bool := x.acc == .rwPf || x.acc == .rwPfRo

/-- REG_COMPAT.SQ_MODE of function `f`. -/
def State.sqMode (s : State) (f : Nat) : Bool := s.rb (fnKey f rRegCompat) 0

/-- The clear-on-read fields of a register read by function `f`: their value, which the read clears, or, in the sequence
mode, latches. -/
def readRc (f k : Nat) (fs : List FieldInfo) (s : State) : Nat × State :=
  let rc := fs.filter (fun x => x.acc == .rc)
  if rc.isEmpty then (0, s)
  else
    let r := s.rcReg f k
    let v := mergeFields rc 0 r.val
    if s.sqMode f then
      (v, setRf (fnKey f rRegSqLast) 16 0 (2 ^ 16 + r.seq % 2 ^ 16) (setRc f k { r with latched := some (r.seq, v) } s))
    else (v, setRc f k { r with val := mergeFields rc r.val 0 } s)

/-- The word of a register whose fields do not all stand in the register file. -/
def State.readWord (s : State) (k : Nat) : Nat :=
  let m := k % 2 ^ 30
  if m = rPwrUnit then s.withRsvd rPwrUnit s.pwrUnitWord
  else if m = rPwrPkg then setBits (s.reg k) 12 12 (b2n s.budgetOver)
  else if m = rSecUserData then Table.get 0 s.sec.otp.user (s.rf rSecUserSel 8 0)
  else if m = rSecTenantCntJ 0 then setBits (s.view k) 0 0 1
  else if m = rBulkMboxStatus then s.mboxStatus
  else s.view k

/-- A read of the register at key `k` by function `f` (R11): WO fields read zero, RC fields their contents for the
function. A read of SVC_STATUS releases GPIO3 (R547). -/
def readKey (f k : Nat) (part : Bool) (s : State) : Nat × State :=
  let fs := (regFields (k % 2 ^ 30)).filter (fun x => !part || pfField x)
  let plain := s.readWord k
  let zeroed := mergeFields ((regFields (k % 2 ^ 30)).filter (fun x => x.acc == .wo || x.acc == .rc)) plain 0
  let base := if part then mergeFields fs 0 zeroed else zeroed
  let r := readRc f k fs s
  let s1 := if k = rSvcStatus ∧ r.2.pins.gpio3Low = true then
      emit (.pin "GPIO3" 1) { r.2 with pins := { r.2.pins with gpio3Low := false } }
    else r.2
  if k = rFabRtData then rdFabRtData s1 else (base + r.1, s1)

/-- The counter block at an offset is that of a DISABLED tile: it reads zero (R31). -/
def State.counterDead (s : State) (off : Nat) : Bool :=
  decide (0xA0000 ≤ off) && decide (off < 0xC0000) && s.blockDead ((off - 0xA0000) / 256)

/-- A read of a word of a counter block (R508, R521): the counters themselves, or, for the physical function, the
block's other registers; those of a DISABLED tile read zero (R31). -/
def readCounters (f off : Nat) (s : State) : Nat × State :=
  let b := (off - 0xA0000) / 256
  let o := off % 256
  match counterWord o with
  | some (r, part) => if b < 353 ∧ (regFields off).isEmpty = false then rdCounter f b r part s else (0, s)
  | none =>
    match s.locate f off with
    | some (k, part) => if s.counterDead off then (0, s) else readKey f k part s
    | none => (0, s)

/-- A word of function `f`'s MSI-X table, by offset. -/
def State.msixWord (s : State) (f o : Nat) : Nat :=
  if vectors f ≤ o / 16 then 0
  else
    let e := (s.fn f).entry (o / 16)
    match o % 16 / 4 with
    | 0 => bits e.addr 31 0
    | 1 => bits e.addr 63 32
    | 2 => e.data
    | _ => b2n e.masked

/-- A word of its pending bit array. -/
def State.pbaWord (s : State) (f o : Nat) : Nat :=
  ((s.fn f).pba.filter (fun v => v / 32 == o / 4)).foldl (fun w v => setBits w (v % 32) (v % 32) 1) 0

/-- A read of the 4 bytes at `off` of function `f`'s BAR0; none where the answer of a debug access is still to come. -/
def readReg (f off : Nat) (s : State) : Option Nat × State :=
  let ok (r : Nat × State) : Option Nat × State := (some r.1, r.2)
  if !s.ready && !bootOffset off then (some 0, s)
  else if off = rBulkData then
    match readBulkData f s with
    | (some bs, s1) => (some (bytesToNat bs), s1)
    | (none, s1) => (none, s1)
  else if 0xA0000 ≤ off ∧ off < 0xC0000 then ok (readCounters f off s)
  else if 0xE0000 ≤ off ∧ off < 0xF0000 then (some (s.msixWord f (off - 0xE0000)), s)
  else if 0xF0000 ≤ off ∧ off < 0x100000 then (some (s.pbaWord f (off - 0xF0000)), s)
  else match s.locate f off with
    | some (k, part) => ok (readKey f k part s)
    | none => (some 0, s)

/-- RC_READ: function `f` reads a register that has clear-on-read fields. -/
def execRcRead (f : Fin 128) (off : BitVec 26) (s : State) : Host.Outcome State Fault Refusal :=
  let o := off.toNat / 4 * 4
  .next (if !s.mmio f || !s.ready && !bootOffset o then s
    else match s.locate f o with
      | some (k, part) =>
        if (regFields (k % 2 ^ 30)).any (fun x => x.acc == .rc) then
          let r := if s.counterDead o then (0, s) else readKey f k part s
          emit (.regRead f o (BitVec.ofNat 32 r.1)) r.2
        else s
      | none => s)

/-! ### The sequence mode's clear (R530) -/

/-- A clear-on-read field of several bits that are flags of their own. -/
def isFlagSet (x : FieldInfo) : Bool := x.name == "WRAPPED" || x.name == "LOST"

/-- A clear-on-read field that is neither a count nor a set of flags: it clears as one flag does. -/
def isLevel (x : FieldInfo) : Bool := x.hi == x.lo || x.name == "WORST"

/-- An event number is at or below `n`, modulo 2¹⁶ over a span of 2¹⁵. -/
def seqAtOrBelow (q n : Nat) : Bool := decide ((n + 2 ^ 16 - q % 2 ^ 16) % 2 ^ 16 < 2 ^ 15)

/-- One field after the write-back of `n`, with which `v` was returned. -/
def sqField (r : RcReg) (n v : Nat) (w : Nat) (x : FieldInfo) : Nat :=
  if isLevel x then
    if seqAtOrBelow (Table.get 0 r.fieldSeq x.lo) n then setBits w x.hi x.lo 0 else w
  else if isFlagSet x then
    (List.range (x.hi + 1 - x.lo)).foldl (fun w i =>
      if seqAtOrBelow (Table.get 0 r.fieldSeq (x.lo + i)) n then setBits w (x.lo + i) (x.lo + i) 0 else w) w
  else setBits w x.hi x.lo (bits w x.hi x.lo - bits v x.hi x.lo)

/-- A write of `n` to a register with clear-on-read fields in the sequence mode. -/
def sqClear (f k off : Nat) (fs : List FieldInfo) (n : Nat) (s : State) : State :=
  let r := s.rcReg f k
  match r.latched with
  | some (q, v) =>
    if n = q then setRc f k { r with val := (fs.filter (fun x => x.acc == .rc)).foldl (sqField r n v) r.val } s
    else regFlag f 3 off s
  | none => regFlag f 3 off s

/-- SQ_CLEAR: in the sequence mode, function `f` writes a word to a register with clear-on-read fields. -/
def execSqClear (f : Fin 128) (off : BitVec 26) (n : BitVec 32) (s : State) : Host.Outcome State Fault Refusal :=
  let o := off.toNat / 4 * 4
  .next (if !s.mmio f || (!s.ready && !bootOffset o) || !s.sqMode f then s
    else match s.locate f o with
      | some (k, false) =>
        let fs := regFields (k % 2 ^ 30)
        if fs.any (fun x => x.acc == .rc) then sqClear f k o fs n.toNat s else s
      | _ => s)

/-! ### Writes: reserved bits, conditions and apply points (R524, R527, R528, R558) -/

/-- The bits that a register's fields cover. -/
def fieldMask (fs : List FieldInfo) : Nat := mergeFields fs 0 (2 ^ 32 - 1)

/-- The test gates that are open. -/
def State.gatesOpen (s : State) : List Nat :=
  (List.range 48).filter (fun g => if g < 32 then s.rb rSecGateOpenLo g else s.rb rSecGateOpenHi (g - 32))

/-- The reserved bits of a write (R524): a bit changes only while an open gate covers it; otherwise it stays, and
RSVD_CHANGED is set. -/
def writeRsvd (f off k : Nat) (fs : List FieldInfo) (v : Nat) (s : State) : State :=
  let mask := fieldMask fs
  let old := s.reg k
  let changed := (List.range 32).filter (fun b => !bit mask b && bit old b != bit v b)
  if changed.isEmpty then s
  else
    let gates := s.gatesOpen
    let covered := changed.filter (fun b => gates.any (fun g => Config.gateCovers g (k % 2 ^ 30) b))
    let s1 := if covered.isEmpty then s
      else setReg k (covered.foldl (fun w b => setBits w b b (b2n (bit v b))) old) s
    if covered.length = changed.length then s1 else regFlag f 1 off s1

/-- A field of a context's register takes the value (R162, R293). -/
def State.takesCtx (s : State) (k : Nat) (x : FieldInfo) : Bool :=
  let off := s.ctxState (k / 128) == 0
  match k % 128 with
  | 0x00 => x.lo != 0 || off
  | 0x10 => off
  | 0x14 => off
  | 0x18 => off
  | 0x1C => off
  | 0x20 => decide (6 ≤ x.lo) || off
  | 0x30 => off
  | 0x34 => off
  | 0x40 => off
  | 0x44 => off
  | 0x48 => x.lo != 0 || off
  | _ => true

/-- A field takes the value that a write gives it: neither another field or state (as it stood before the write, R558) nor
the value itself makes the write of the field ignored. -/
def State.takes (s : State) (k : Nat) (x : FieldInfo) (v : Nat) : Bool :=
  let w := bits v x.hi x.lo
  let m := k % 2 ^ 30
  if m < 0x80000 then s.takesCtx k x
  else if rRingCtrl 0 ≤ m ∧ m < rRingCtrl 16384 then !s.ringOn ((m - rRingCtrl 0) / 16)
  else if rHwinNHostLo 0 ≤ m ∧ m < rHwinNHostLo 1024 then
    (m % 16 == 12 && x.lo == 0) || !s.rb (rHwinNCtrl ((m - rHwinNHostLo 0) / 16)) 0
  else if rSrtNBaseLo 0 ≤ m ∧ m < rSrtNBaseLo 256 then !s.srtActive ((m - rSrtNBaseLo 0) / 64)
  else if rSiteNStatus 0 ≤ m ∧ m < rSiteNStatus 6 ∧ (m - rSiteNStatus 0) % 8192 = 4 ∧ x.lo = 12 then w != 0
  else if 0xA0000 ≤ m ∧ m < 0xC0000 ∧ m % 256 = 12 ∧ x.lo = 0 then decide (10 ≤ w) && decide (w ≤ 30)
  else if m = rFltOpBaseLo ∨ m = rFltOpBaseHi then !s.opOn
  else if m = rSmpBaseLo ∨ m = rSmpBaseHi then !s.rb rSmpCtrl 0
  else if m = rMemCtrl then
    if x.lo = 0 then decide (70 ≤ w) && decide (w ≤ 100)
    else if x.lo = 8 then w != 0
    else if x.lo = 12 then decide (8 ≤ w) && decide (w ≤ 17)
    else true
  else if m = rPlzCtrl then x.lo != 0 || (decide (5 ≤ w) && decide (w ≤ 1000))
  else if m = rNocCtrl then decide (10 ≤ w)
  else if m = rFltCtrl then
    if x.lo = 0 then decide (1 ≤ w) && decide (w ≤ 256) else decide (1 ≤ w) && decide (w ≤ 12)
  else if m = rQosUrgThresh then
    decide (bits v 6 0 < bits v 13 7) && decide (bits v 13 7 < bits v 20 14) && decide (bits v 20 14 ≤ 100)
  else true

/-- Fields written into a register, or into the shadow where the register configures a unit in QUARANTINE (R434). -/
def putCfg (k : Nat) (fs : List FieldInfo) (v : Nat) (s : State) : State :=
  match regUnit? k with
  | some (ty, id) => if s.quarantined ty id then toShadow k (mergeFields fs (s.view k) v) s else putFields k fs v s
  | none => putFields k fs v s

/-- The writable fields of a register take the values of a write of function `f`; `part` keeps to the fields that the
table gives to the physical function. -/
def writeFields (f k : Nat) (part : Bool) (v : Nat) (s : State) : State :=
  let fs := (regFields (k % 2 ^ 30)).filter (fun x =>
    ((x.acc == .rw && !part) || (pfField x && f == 0)) && s.takes k x v)
  let u := (regFields (k % 2 ^ 30)).filter (fun x => x.acc == .w1s)
  putCfg k (fs ++ u) (mergeFields u v (v ||| s.view k)) s

/-! ### Writes: what each register does -/

/-- A write of a context's register. -/
def wrCtx (f k : Nat) (v : Nat) (s : State) : State :=
  let c := k / 128
  match k % 128 with
  | 0x04 => writeEnable c (bit v 0) s
  | 0x24 => writeCqHead c v s
  | 0x4C => wrHead (rCtxFltHead c) (rCtxFltTail c) v s
  | _ => writeFields f k false v s

/-- A write of RING_CTRL and its fellows, of the ring at key `k`. -/
def wrRing (f k : Nat) (part : Bool) (v : Nat) (s : State) : State :=
  let r := (k - rRingCtrl 0) / 16
  if k = rRingCtrl r ∧ part = false then
    let on := s.ringOn r
    let fs := (regFields k).filter (fun x => x.lo != 0 && (x.acc == .rw || (pfField x && f == 0)) && s.takes k x v)
    let s1 := putFields k fs v s
    if on then if bit v 0 then s1 else disableRing r s1
    else if bit v 0 then enableRing r s1 else s1
  else writeFields f k part v s

/-- A write of a word of a counter block by the physical function. -/
def wrCnt (k v : Nat) (s : State) : State :=
  let b := (k - 0xA0000) / 256
  let o := k % 256
  if 0x40 ≤ o ∧ o < 0x80 then wrCounter b ((o - 0x40) / 8) (o % 8 / 4) v s
  else
    let s1 := writeFields 0 k false v s
    if 0x20 ≤ o ∧ o < 0x40 then
      let i := b * 8 + (o - 0x20) / 4
      { s1 with cnt := { s1.cnt with selDue := if s1.cnt.selDue.contains i then s1.cnt.selDue else s1.cnt.selDue ++ [i] } }
    else s1

/-- A change back to the native mode discards every number that function `f` has latched (R530). -/
def dropLatched (f : Nat) (s : State) : State :=
  setReg (fnKey f rRegSqLast) 0 { s with regs := { s.regs with rc := s.regs.rc.map (fun e =>
    if e.1 / 2 ^ 40 = f then (e.1, { e.2 with latched := none }) else e) } }

/-- A write of a register of the function view. -/
def wrView (f k m v : Nat) (s : State) : State :=
  if m = rXltInvCtrl then wrXltInvCtrl f v s
  else if m = rBulkSel then writeBulkSel f v s
  else if m = rBulkData then writeBulkData f v s
  else if m = rRegCompat then
    let s1 := writeFields f k false v s
    if s.sqMode f && !s1.sqMode f then dropLatched f s1 else s1
  else writeFields f k false v s

/-- A write of SMP_CTRL: sizes outside 6 to 20 keep ENABLE clear. -/
def wrSmpCtrl (v : Nat) (s : State) : State :=
  let z := bits v 5 1
  writeFields 0 rSmpCtrl false (if 6 ≤ z ∧ z ≤ 20 then v else setBits v 0 0 0) s

/-- A write of MEM_CTRL: a stack is hot by the new threshold, and the floor of a stack out of service is the new one (R216,
R217). -/
def wrMemCtrl (v : Nat) (s : State) : State :=
  forEach (List.range 12) (fun k s =>
    let s1 := updStack k (fun x => { x with
      hot := s.rb (rStkStatus k) 24 || decide (s.rf rMemCtrl 7 0 ≤ s.rf (rStkTemp k) 7 0) }) s
    if s.inService uStack k then s1 else syncClocks k s1) (writeFields 0 rMemCtrl false v s)

/-- A write of a register at 0x10_0000 to 0x10_01FF. -/
def wrHub (m v : Nat) (s : State) : State :=
  if m = rBootCtrl then wrBootCtrl v s
  else if m = rTileRetire then wrTileRetire v s
  else if m = rHifContain then if bit v 0 then releaseContain s else s
  else if m = rPlzCtrl then
    let s1 := writeFields 0 m false v s
    if bit v 14 then flushAll s1 else s1
  else if m = rFltOpCtrl then wrFltOpCtrl v s
  else if m = rFltOpHead then wrHead rFltOpHead rFltOpTail v s
  else if m = rPartPCtrl 0 then if bit v 0 then resetPartition 0 s else s
  else if m = rPartPCtrl 1 then if bit v 0 then resetPartition 1 s else s
  else if m = rPartPCtrl 2 then if bit v 0 then resetPartition 2 s else s
  else if m = rSnapCtrl then wrSnapCtrl v s
  else if m = rSmpCtrl then wrSmpCtrl v s
  else if m = rFabNode then wrFabNode (bits v 15 0) s
  else if m = rFabCtrl then wrFabCtrl v s
  else if m = rFabRtData then wrFabRtData v s
  else if m = rPwrCmd then wrPwrCmd v s
  else if m = rPwrPkg then wrPwrPkg v s
  else if m = rPwrHubBudget then wrHubBudget v s
  else if m = rBulkMboxCtrl then wrMbox v s
  else if m = rMemCtrl then wrMemCtrl v s
  else writeFields 0 m false v s

/-- A write of a register at 0x10_1000 to 0x10_1FFF. -/
def wrSec (m v : Nat) (s : State) : State :=
  if m = rSecCtrl then wrSecCtrl v s
  else if rSecTokenI 0 ≤ m ∧ m ≤ rSecTokenI 7 then
    updSec (fun x => { x with token := Table.set x.token ((m - rSecTokenI 0) / 4) v }) s
  else if m = rSecLcCtrl then wrLcCtrl v s
  else if m = rSecGateOpenLo then wrGates 0 32 v s
  else if m = rSecGateOpenHi then wrGates 32 16 v s
  else if m = rSecDebug then wrSecDebug v s
  else if m = rSecUserData then wrUserData v s
  else writeFields 0 m false v s

/-- A write of STK_CTRL: its commands in the order of their bits, REJOIN not beside ISOLATE (R223). How a port
trains is open. -/
def wrStkCtrl (k v : Nat) (s : State) : State :=
  let s1 := if bit v 0 && !bit v 1 then rejoinStack k (Config.stackTraining s.free) { s with free := s.free + 1 } else s
  let s2 := if bit v 1 then isolateStack k ccOperator s1 else s1
  if bit v 2 then scheduleRetrain k (bits v 8 3) s2 else s2

/-- A write of SITE_n_CTRL: its fields, then its commands in the order of their bits, REJOIN not beside ISOLATE (R324). -/
def wrSiteCtrl (n v : Nat) (s : State) : State :=
  let s1 := writeFields 0 (rSiteNCtrl n) false v s
  let s2 := if bit v 0 then resetSite n s1 else s1
  let s3 := if bit v 1 && !bit v 2 then startRejoin n s2 else s2
  let s4 := if bit v 2 then loseSite n ccOperator s3 else s3
  let s5 := if bit v 3 then retrainSite n (bits v 9 4) s4 else s4
  if bit v 10 then winFence n s5 else s5

/-- A write of a register above 0x10_2000, each by the unit it belongs to. -/
def wrUnit (m v : Nat) (s : State) : State :=
  if rPwrClkC 0 ≤ m ∧ m ≤ rPwrClkC 17 then wrClock ((m - rPwrClkC 0) / 4) v s
  else if rPwrStkSBudget 0 ≤ m ∧ m ≤ rPwrStkSBudget 11 ∧ (m - rPwrStkSBudget 0) % 8 = 0 then
    wrStackBudget ((m - rPwrStkSBudget 0) / 8) v s
  else if rStkCtrl 0 ≤ m ∧ m ≤ rStkCtrl 11 ∧ (m - rStkCtrl 0) % 16 = 0 then wrStkCtrl ((m - rStkCtrl 0) / 16) v s
  else if rQosClassCCtrl 0 ≤ m ∧ m ≤ rQosClassCCtrl 15 ∨ rQosResRK 0 0 ≤ m ∧ m < rQosResRK 62 0 then
    let s1 := writeFields 0 m false v s
    { s1 with net := { s1.net with guarDue := true } }
  else if rSrtNBaseLo 0 ≤ m ∧ m < rSrtNBaseLo 256 ∧ (m - rSrtNBaseLo 0) % 64 = 0x14 then
    wrSrtCtrl ((m - rSrtNBaseLo 0) / 64) v s
  else if rFabPortNStatus 0 ≤ m ∧ m < rFabPortNStatus 16 ∧ (m - rFabPortNStatus 0) % 128 = 4 then
    let s1 := writeFields 0 m false v s
    if bit v 0 then retrainPort ((m - rFabPortNStatus 0) / 128) s1 else s1
  else if rSiteNStatus 0 ≤ m ∧ m < rSiteNStatus 6 ∧ (m - rSiteNStatus 0) % 8192 = 4 then
    wrSiteCtrl ((m - rSiteNStatus 0) / 8192) v s
  else if rSiteNStatus 0 ≤ m ∧ m < rSiteNStatus 6 ∧ (m - rSiteNStatus 0) % 8192 = 0x14 then
    wrSiteBudget ((m - rSiteNStatus 0) / 8192) v s
  else writeFields 0 m false v s

/-- A write of the register at key `k`. -/
def writeKey (f k : Nat) (part : Bool) (v : Nat) (s : State) : State :=
  let m := k % 2 ^ 30
  if m < 0x80000 then wrCtx f k v s
  else if m < 0x90000 then doorbell ((m - 0x80000) / 4) v s
  else if m < 0xA0000 then s
  else if m < 0xC0000 then wrCnt k v s
  else if m < 0x100000 then wrView f k m v s
  else if m < 0x101000 then wrHub m v s
  else if m < 0x102000 then wrSec m v s
  else if m < 0x4000000 then wrUnit m v s
  else if m < 0x5000000 then wrRing f k part v s
  else setReg k v s

/-- The virtual functions whose TDI holds locked values (R414). -/
def State.lockedFns (s : State) : List Nat :=
  (List.range 128).filter (fun f => f != 0 && ((s.fn f).tdi == .locked || (s.fn f).tdi == .run))

/-- A write that changed a locked value of R413 moves the TDI to ERROR (R414). -/
def checkLocked (was s : State) : State :=
  forEach was.lockedFns (fun f s => if was.tdiReport f = s.tdiReport f then s else tdiError f tdiLockedValue s) s

/-- A write of the 4 bytes at `off` of function `f`'s BAR0. -/
def writeReg (f off v : Nat) (s : State) : State :=
  if !s.ready && !bootOffset off then s
  else if 0xE0000 ≤ off ∧ off < 0xF0000 then
    writeMsix f (.entry (Fin.ofNat 4096 ((off - 0xE0000) / 16)) (Fin.ofNat 4 (off % 16 / 4)) (BitVec.ofNat 32 v)) s
  else match s.locate f off with
    | none => s
    | some (k, part) =>
      let fs := regFields (k % 2 ^ 30)
      if s.sqMode f && fs.any (fun x => x.acc == .rc) then sqClear f k off fs v s
      else checkLocked s (writeKey f k part v (writeRsvd f off k fs v s))

/-- REGISTER_WRITE: function `f` writes a register. -/
def execRegisterWrite (f : Fin 128) (off : BitVec 26) (v : BitVec 32) (s : State) : Host.Outcome State Fault Refusal :=
  settled (.next (if s.mmio f then writeReg f (off.toNat / 4 * 4) v.toNat s else s))

/-- BULK_SEL_WRITE. -/
def execBulkSelWrite (f : Fin 128) (v : BitVec 32) (s : State) : Host.Outcome State Fault Refusal :=
  .next (if s.mmio f then writeReg f rBulkSel v.toNat s else s)

/-- BULK_DATA_ACCESS: a read (none), or a write. A read that waits for an answer is made again. -/
def execBulkDataAccess (f : Fin 128) (w : Option (BitVec 32)) (s : State) : Host.Outcome State Fault Refusal :=
  settled (.next (
    if !s.mmio f then s
    else match w with
      | some v => writeReg f rBulkData v.toNat s
      | none =>
        match readReg f rBulkData s with
        | (some v, s1) => emit (.regRead f rBulkData (BitVec.ofNat 32 v)) s1
        | (none, s1) => s1))

/-! ### Memory requests of the host (R397, R523, R526, R533, R543) -/

/-- The burst aperture takes an access of `n` bytes at `off`. -/
def burstOk (off n : Nat) : Bool :=
  decide (0xD0000 ≤ off) && off % 4 == 0 && n % 4 == 0 && decide (4 ≤ n) && decide (n ≤ 512) && decide (off + n ≤ 0xD1000)

/-- An access of BAR0 that R523 does not accept. -/
def badAccess (f off : Nat) (s : State) : State := regFlag f 0 off s

/-- Words of BAR0 read one after the other. -/
def readRegs (f : Nat) : List Nat → State → Option (List Byte) × State
  | [], s => (some [], s)
  | off :: l, s =>
    match readReg f off s with
    | (none, s1) => (none, s1)
    | (some v, s1) =>
      match readRegs f l s1 with
      | (some bs, s2) => (some (natToBytes 4 v ++ bs), s2)
      | r => r

/-- The words of an aligned access. -/
def accWords (off n : Nat) : List Nat := bulkWords off n

/-- A read of `n` bytes at `off` of BAR0: the bytes; Unsupported Request; or none yet. -/
inductive BarRead where
  | bytes (bs : List Byte)
  | ur
  | waits
  deriving DecidableEq, Repr

/-- A read of BAR0. What an access of the MSI-X table that is not made of whole words reads is open. -/
def readBar0 (f off n : Nat) (s : State) : BarRead × State :=
  let give (r : Option (List Byte) × State) : BarRead × State :=
    match r with
    | (some bs, s1) => (.bytes bs, s1)
    | (none, s1) => (.waits, s1)
  if 0xD0000 ≤ off ∧ off < 0xD1000 then
    if burstOk off n then give (bulkRead f ((s.bulkAddr f + (off - 0xD0000)) % 2 ^ 52) n s) else (.ur, badAccess f off s)
  else if 0xE0000 ≤ off ∧ off < 0xE0000 + 16 * vectors f then
    if off % 4 = 0 ∧ n % 4 = 0 ∧ 0 < n then give (readRegs f (accWords off n) s)
    else
      let g := fresh s
      (.bytes (natToBytes n g.1.toNat), g.2)
  else if (n = 4 ∧ off % 4 = 0) ∨ (n = 8 ∧ off % 8 = 0) then give (readRegs f (accWords off n) s)
  else (.ur, badAccess f off s)

/-- A write of bytes at `off` of BAR0. -/
def writeBar0 (f off : Nat) (bs : List Byte) (s : State) : State :=
  let n := bs.length
  let words (s : State) : State :=
    forEach (accWords off n) (fun o s => writeReg f o (bytesToNat ((bs.drop (o - off)).take 4)) s) s
  if 0xD0000 ≤ off ∧ off < 0xD1000 then
    if burstOk off n then bulkWrite f ((s.bulkAddr f + (off - 0xD0000)) % 2 ^ 52) bs s else badAccess f off s
  else if 0xE0000 ≤ off ∧ off < 0xE0000 + 16 * vectors f then
    if off % 4 = 0 ∧ n % 4 = 0 then words s else s
  else if (n = 4 ∧ off % 4 = 0) ∨ (n = 8 ∧ off % 8 = 0) then words s
  else badAccess f off s

/-- A read of BAR0 by the host. -/
def hostRead (t : HostTlp) (off n : Nat) (s : State) : State :=
  match s.serves t true with
  | .ur => failHostRead t 1 s
  | .ca => failHostRead t 4 s
  | .yes =>
    match readBar0 t.fn off n s with
    | (.bytes bs, s1) => hostCpl t 0 bs false s1
    | (.ur, s1) => failHostRead t 1 s1
    | (.waits, s1) => s1

/-- A write of BAR0 by the host; a poisoned one is dropped. -/
def hostWrite (t : HostTlp) (off : Nat) (bs : List Byte) (s : State) : State :=
  if t.poisoned then logError t.fn 12 s
  else if s.serves t true = .yes then writeBar0 t.fn off bs s
  else s

/-- HOST_MEMORY_REQUEST: a read of `len` bytes (none) of BAR0 or BAR2, or a write. -/
def execHostMemoryRequest (t : HostTlp) (bar2 : Bool) (off : BitVec 36) (len : BitVec 13) (w : Option (List Byte))
    (s : State) : Host.Outcome State Fault Refusal :=
  let s1 := countEvent blkHost 0x72 none none none 1 s
  settled (.next (match bar2, w with
    | true, none => readApt t off.toNat len.toNat s1
    | true, some bs => storeApt t off.toNat bs s1
    | false, none => hostRead t off.toNat len.toNat s1
    | false, some bs => hostWrite t off.toNat bs s1))

/-- BULK_BURST_ACCESS: an access at offset `o` of the burst aperture. -/
def execBulkBurstAccess (t : HostTlp) (o : Fin 4096) (len : BitVec 13) (w : Option (List Byte)) (s : State) :
    Host.Outcome State Fault Refusal :=
  let s1 := countEvent blkHost 0x72 none none none 1 s
  settled (.next (match w with
    | none => hostRead t (0xD0000 + o) len.toNat s1
    | some bs => hostWrite t (0xD0000 + o) bs s1))

/-- A register that lies in the host port's own clock domain (R525). -/
def hostDomain (off : Nat) : Bool :=
  off == rHifStatus || off == rHifContain || (decide (0xC0040 ≤ off) && decide (off < 0x100000))

/-- REGISTER_STALL_TIMEOUT: the unit of a register outside the host port's domain gives no answer within 2 µs. -/
def execRegisterStallTimeout (t : HostTlp) (off : BitVec 26) (write : Bool) (s : State) :
    Host.Outcome State Fault Refusal :=
  let o := off.toNat / 4 * 4
  .next (if s.serves t true ≠ .yes ∨ hostDomain o = true ∨ (s.ready = false ∧ bootOffset o = false) ∨
        (s.locate t.fn o).isNone = true then s
    else
      let s1 := regFlag t.fn 2 o s
      if write then s1 else failHostRead t 4 s1)

end Sys2Proof.Machine
end

