-- ==== Sys2Proof/Machine/Pins.lean ====
section
/-!
DEFINITION. The management ports: the test access port (R473, R554) and the I3C target (R547, R553).
-/
namespace Sys2Proof.Machine

/-! ### The test access port -/

/-- The instruction register of the test access port by instruction: 0 IDCODE, which a reset of the port selects,
1 BYPASS, 2 SAMPLE/PRELOAD, 3 EXTEST, others from 4 on. -/
def tapCode : TapInstr → Nat
  | .idcode => 0
  | .bypass => 1
  | .samplePreload => 2
  | .extest => 3
  | .gate g on => 4 + 2 * g.val + b2n on
  | .other c => 100 + c.toNat

/-- The port takes an instruction and shows a value of its data register. -/
def tapTake (i : TapInstr) (v : Nat) (s : State) : State :=
  emit (.tap (tapCode i) v) { s with pins := { s.pins with tapIr := tapCode i } }

/-- As `tapTake`, with a value that the spec leaves open: the levels of pins, or the contents of a unit under test. -/
def tapOpen (i : TapInstr) (s : State) : State :=
  let f := fresh s
  tapTake i f.1.toNat f.2

/-- TAP_INSTRUCTION: IDCODE, BYPASS and SAMPLE/PRELOAD in every state; EXTEST only while RESET_N is low; a request to open
or close a gate under R473; any other instruction only while a gate is open. -/
def execTapInstruction (i : TapInstr) (s : State) : Host.Outcome State Fault Refusal :=
  .next (match i with
    | .idcode => tapTake i 0xB04B6A35 s
    | .bypass => tapTake i 0 s
    | .samplePreload => tapOpen i s
    | .extest => if s.pins.resetLow then tapOpen i s else s
    | .gate g on => tapTake i 0 (if on then openGate g s else closeGate g s)
    | .other _ => if s.gatesOpen.isEmpty then s else tapOpen i s)

/-! ### The I3C target -/

/-- The I3C target answers: S0 has ended. -/
def State.i3cUp (s : State) : Bool := s.boot.reset == .running && decide (1 ≤ s.stage)

/-- The static address that the straps give (R547). -/
def State.i3cStatic (s : State) : Nat := 0x50 + s.pins.strap

/-- SETDASA: a dynamic address for a static one. -/
def execSetdasa (static dynamic : BitVec 7) (s : State) : Host.Outcome State Fault Refusal :=
  .next (if s.i3cUp && static.toNat == s.i3cStatic && s.pins.i3cAddr.isNone then
      { s with pins := { s.pins with i3cAddr := some dynamic.toNat } }
    else s)

/-- ENTDAA: a target without a dynamic address takes part; `won` says that it wins the arbitration, and is then given
the address. -/
def execEntdaa (won : Bool) (dynamic : BitVec 7) (s : State) : Host.Outcome State Fault Refusal :=
  .next (if s.i3cUp && won && s.pins.i3cAddr.isNone then
      { s with pins := { s.pins with i3cAddr := some dynamic.toNat } }
    else s)

/-- Junction sensor `k` as a signed temperature. -/
def State.junction (s : State) (k : Nat) : Int := signed 8 (s.rf (rPwrTempK k) 7 0)

/-- The hottest junction sensor; of equals the lowest. -/
def State.hottest (s : State) : Nat :=
  (List.range 54).foldl (fun b k => if s.junction b < s.junction k then k else b) 0

/-- The register at an index of the I3C target; none beyond the five that R553 lists. -/
def State.i3cWord? (s : State) (i : Nat) : Option Nat :=
  match i with
  | 0x00 => some (s.reg rBootStatus)
  | 0x04 => some (s.reg rPwrTrip)
  | 0x08 => some (s.reg rPwrHubPower)
  | 0x0C => some (s.rf (rPwrTempK s.hottest) 7 0 + 2 ^ 8 * s.hottest)
  | 0x10 => some (s.rf rSecStatus 2 0)
  | _ => none

/-- I3C_READ: a read of a register at the target's dynamic address; what another index reads as is open. -/
def execI3cRead (addr : BitVec 7) (index : BitVec 8) (s : State) : Host.Outcome State Fault Refusal :=
  .next (if s.i3cUp && s.pins.i3cAddr == some addr.toNat then
      match s.i3cWord? index.toNat with
      | some v => emit (.i3c v) s
      | none =>
        let f := fresh s
        emit (.i3c (f.1.toNat % 2 ^ 32)) f.2
    else s)

end Sys2Proof.Machine
end

