-- ==== Sys2Proof/Machine/TileCore.lean ====
section
/-!
DEFINITION. The control core of a tile (R43 to R55, R61, R67): fetch, the instruction groups, the functions of
ecall, and the instructions of Xkolgil but xk.issue. A command executes the word that INSTRUCTION_FETCH has put
before the core; one for another group, or for a core that cannot execute, changes nothing (log entry 14).
-/
namespace Sys2Proof.Machine

/-! ### Fetch (R48) -/

/-- A line put into the instruction cache of 128 sets of four lines (R42). Which set an address has and which line of a full set
goes the spec does not say: the set is that of the address bits above the line, the line is free (log entry 112). -/
def Tile.addLine (x : Tile) (pick base : Nat) (d : UnitData) : Tile :=
  let same := (x.lines.map (·.1)).filter (fun b => b / 64 % 128 == base / 64 % 128)
  let kept := if same.length < 4 then x.lines else Table.erase x.lines (same.getD (pick % same.length) 0)
  { x with lines := Table.set kept base d, stall := .none }

/-- The instruction cache line of an address filled: it is there, or the fetch goes on. -/
def fillLine (t va : Nat) (s : State) : State :=
  let x := s.tile t
  let base := va / 64 * 64
  if (Table.find? x.lines base).isSome then s
  else
    let who := Who.tileFetch t
    match xlate who x.ctx base .exec s with
    | (.ok tgt _, s1) =>
      match agentRead opRecord who (tgtAlign 64 tgt) 0 x.cls s1 with
      | (some (d, none), s2) =>
        let r := fresh s2
        updTile t (fun x => x.addLine r.1.toNat base d) r.2
      | (some (_, some m), s2) => failTile t m.cause m.detail s2
      | (none, s2) => s2
    | (.stalled, s1) => updTile t (fun x => { x with stall := .fetch }) s1
    | (.aborted, s1) => failTile t 0x24 0 s1
    | (.wait, s1) => s1

/-- The 16-bit parcel at an address that the instruction cache holds. -/
def Tile.parcel? (x : Tile) (va : Nat) : Option Nat :=
  (Table.find? x.lines (va / 64 * 64)).map (fun d => bits d.toNat (8 * (va % 64) + 15) (8 * (va % 64)))

/-- A fetch at an address: outside the 55-bit virtual space it is an instruction access fault (R47, R53). -/
def fetchAt (t va : Nat) (s : State) : State :=
  if 2 ^ 55 ≤ va then userException t 1 (BitVec.ofNat 64 va) s else fillLine t va s

/-- An instruction of the user program comes before the core: the line of pc, and of a second parcel where it is 32 bits
long, come into the cache. -/
def userFetch (t : Nat) (s : State) : State :=
  let pc := (s.tile t).pc.toNat
  let s1 := fetchAt t pc s
  if (s1.tile t).running then
    match (s1.tile t).parcel? pc with
    | some h =>
      if h % 4 = 3 then
        let s2 := fetchAt t (pc + 2) s1
        if (s2.tile t).running then
          match (s2.tile t).parcel? (pc + 2) with
          | some g => updTile t (fun x => { x with ir := some (h + 2 ^ 16 * g, 4), stall := .none }) s2
          | none => s2
        else s2
      else updTile t (fun x => { x with ir := some ((expandC h).getD 0, 2), stall := .none }) s1
    | none => s1
  else s1

/-- The 16-bit parcel at an address of monitor memory. -/
def Tile.monParcel? (x : Tile) (a : Nat) : Option Nat :=
  if 0x30000000 ≤ a ∧ a + 2 ≤ 0x30008000 then
    some (bytesToNat [x.monByte (a - 0x30000000), x.monByte (a + 1 - 0x30000000)])
  else none

/-- An instruction of the tile monitor comes before the core: machine mode fetches from monitor memory alone, and from
elsewhere takes an instruction access fault (R47). -/
def machineFetch (t : Nat) (s : State) : State :=
  let x := s.tile t
  let pc := x.pc.toNat
  match x.monParcel? pc with
  | none => coreException t 1 x.pc s
  | some h =>
    if h % 4 = 3 then
      match x.monParcel? (pc + 2) with
      | none => coreException t 1 (x.pc + 2) s
      | some g => updTile t (fun x => { x with ir := some (h + 2 ^ 16 * g, 4) }) s
    else updTile t (fun x => { x with ir := some ((expandC h).getD 0, 2) }) s

/-- INSTRUCTION_FETCH (R47, R48): the next instruction comes before the core; a pending abort interrupt is taken instead by a
core that does not run a user program (R46). -/
def execInstructionFetch (t : Fin 72) (s : State) : Host.Outcome State Fault Refusal :=
  let x := s.tile t
  .next (
    if (x.stall == .none || x.stall == .fetch) && x.ir.isNone && !s.tripped then
      if x.running then userFetch t s
      else if x.interruptDue then updTile t (fun x => x.trap causeMei 0) s
      else if x.mode == .machine then machineFetch t s
      else s
    else s)

/-! ### Integer instructions, loads, stores and atomics -/

/-- ALU_INSTRUCTION (R43): the integer, multiply, divide, branch and jump instructions, fence, mret, and every word
that is illegal. -/
def execAluInstruction (t : Fin 72) (s : State) : Host.Outcome State Fault Refusal :=
  .next (
    match s.instrAt? t noStall (fun c => c == .alu || c == .fence || c == .mret || c == .illegal) with
    | some (w, len) =>
      let x := s.tile t
      if rvClass w == .alu then
        let r := aluResult w len x.pc (x.gpr (rvRs1 w)) (x.gpr (rvRs2 w))
        retire t r.2 (match r.1 with
          | some v => updTile t (fun x => x.setGpr (rvRd w) v) s
          | none => s)
      else if rvClass w == .fence then retire t (x.pc + BitVec.ofNat 64 len) s
      else if rvClass w == .mret && x.mode == .machine then retire t x.csr.mepc (updTile t Tile.mret s)
      else illegalInstr t s
    | none => s)

/-- LOAD (R47, R49). -/
def execLoad (t : Fin 72) (ue : Bool) (s : State) : Host.Outcome State Fault Refusal :=
  .next (
    match s.instrAt? t noStall (· == .load) with
    | some (w, len) =>
      let x := s.tile t
      let a := x.gpr (rvRs1 w) + rvImmI w
      let n := rvSize (rvF3 w)
      if a.toNat % n ≠ 0 then coreException t 4 a s
      else match localArea? x.memMode a.toNat n false with
        | none => coreException t 5 a s
        | some ar =>
          let s1 := maySpoil t ue ar s
          if s1.areaBad t ar then storeFaults t (coreException t 26 a s1)
          else
            let r := readArea t ar n s1
            retire t (x.pc + BitVec.ofNat 64 len)
              (updTile t (fun x => x.setGpr (rvRd w) (loadExtend (rvF3 w) r.1)) r.2)
    | none => s)

/-- STORE (R47). -/
def execStore (t : Fin 72) (s : State) : Host.Outcome State Fault Refusal :=
  .next (
    match s.instrAt? t noStall (· == .store) with
    | some (w, len) =>
      let x := s.tile t
      let a := x.gpr (rvRs1 w) + rvImmS w
      let n := rvSize (rvF3 w)
      if a.toNat % n ≠ 0 then coreException t 6 a s
      else match localArea? x.memMode a.toNat n true with
        | none => coreException t 7 a s
        | some ar => retire t (x.pc + BitVec.ofNat 64 len) (writeArea t ar n (x.gpr (rvRs2 w)).toNat s)
    | none => s)

/-- AMO (R46): LR, SC and the AMOs on DMEM; on any other address a store/AMO access fault. -/
def execAmo (t : Fin 72) (ue : Bool) (s : State) : Host.Outcome State Fault Refusal :=
  .next (
    match s.instrAt? t noStall (· == .amo) with
    | some (w, len) =>
      let x := s.tile t
      let a := x.gpr (rvRs1 w)
      let n := rvSize (rvF3 w)
      let f5 := bits w 31 27
      let nxt := x.pc + BitVec.ofNat 64 len
      if a.toNat % n ≠ 0 then coreException t 6 a s
      else match localArea? x.memMode a.toNat n true with
        | some (.dmem o) =>
          if f5 = 3 then
            let ok : Bool := x.reserv == some (o / 8)
            let s1 := if ok then writeArea t (.dmem o) n (x.gpr (rvRs2 w)).toNat s else s
            retire t nxt (updTile t (fun x => { x.setGpr (rvRd w) (if ok then 0 else 1) with reserv := none }) s1)
          else
            let s1 := maySpoil t ue (.dmem o) s
            if s1.areaBad t (.dmem o) then coreException t 26 a s1
            else
              let old := Mem.readNat x.dmem o n
              let s2 := if f5 = 2 then updTile t (fun x => { x with reserv := some (o / 8) }) s1
                else writeArea t (.dmem o) n (amoOp f5 n old (x.gpr (rvRs2 w)).toNat) s1
              retire t nxt (updTile t (fun x => x.setGpr (rvRd w) (loadExtend (rvF3 w) old)) s2)
        | _ => coreException t 7 a s
    | none => s)

/-- FENCE_I (R48): the instruction cache is invalidated. -/
def execFenceI (t : Fin 72) (s : State) : Host.Outcome State Fault Refusal :=
  .next (
    match s.instrAt? t noStall (· == .fenceI) with
    | some (_, len) =>
      retire t ((s.tile t).pc + BitVec.ofNat 64 len) (updTile t (fun x => { x with lines := [] }) s)
    | none => s)

/-- EBREAK (R53): the task ends with BREAKPOINT, or the tile halts for the debugger; mtval is open. -/
def execEbreak (t : Fin 72) (s : State) : Host.Outcome State Fault Refusal :=
  .next (
    match s.instrAt? t noStall (· == .ebreak) with
    | some _ =>
      if s.debugOn && (s.tile t).mode == .user then updTile t (fun x => { x with stall := .halted }) s
      else
        let r := fresh s
        coreException t 3 r.1 r.2
    | none => s)

/-- WFI (R46): an illegal instruction in user mode; in machine mode the core waits for the abort interrupt, unless it is
pending. -/
def execWfi (t : Fin 72) (s : State) : Host.Outcome State Fault Refusal :=
  .next (
    match s.instrAt? t noStall (· == .wfi) with
    | some (_, len) =>
      let x := s.tile t
      if x.mode == .user then illegalInstr t s
      else
        let s1 := retire t (x.pc + BitVec.ofNat 64 len) s
        if bit x.csr.mip.toNat 11 then s1 else updTile t (fun x => { x with stall := .wfi }) s1
    | none => s)

/-- The value of a readable CSR in user mode (R44, R67); cycle counts tile clocks, whose number is open. -/
def csrValue (x : Tile) (cyc : W64) (c : Nat) : Option W64 :=
  let n (v : Nat) : Option W64 := some (BitVec.ofNat 64 v)
  let occ (q : Nat) : Nat := (x.queue q).entries.length
  if c = 0xC00 then some cyc
  else if c = 0xC02 then some x.instret
  else if c = 0xCC0 then n (x.rank + 2 ^ 16 * x.count)
  else if c = 0xCC1 then n x.logical
  else if c = 0xCC2 then n (x.ctx + 2 ^ 16 * x.cls + 2 ^ 20 * b2n x.dotFast + 2 ^ 21 * x.round)
  else if c = 0xCC3 then some x.seed
  else if c = 0xCC4 then n (occ 0 + 2 ^ 8 * occ 1 + 2 ^ 16 * occ 2 + 2 ^ 24 * occ 3)
  else if c = 0xCC5 then n x.cswSize
  else none

/-- The value of a machine-mode CSR of tile `t` (R67): RV64IMAC with U-mode and the custom extension in misa, the three
counters of R44 readable in user mode, the identity in mhartid; the counters of Zihpm read zero. -/
def machineCsr? (t : Nat) (x : Tile) (cyc : W64) (c : Nat) : Option W64 :=
  match c with
  | 0x300 => some x.csr.mstatus
  | 0x301 => some 0x8000000000901105
  | 0x304 => some x.csr.mie
  | 0x305 => some x.csr.mtvec
  | 0x306 => some 5
  | 0x30A => some x.csr.menvcfg
  | 0x320 => some 0
  | 0x340 => some x.csr.mscratch
  | 0x341 => some x.csr.mepc
  | 0x342 => some x.csr.mcause
  | 0x343 => some x.csr.mtval
  | 0x344 => some x.csr.mip
  | 0xB00 => some cyc
  | 0xB02 => some x.instret
  | 0xF14 => some (BitVec.ofNat 64 t)
  | c =>
    if (0x323 ≤ c ∧ c ≤ 0x33F) ∨ (0xB03 ≤ c ∧ c ≤ 0xB1F) then some 0
    else if c = 0xF11 ∨ c = 0xF12 ∨ c = 0xF13 ∨ c = 0xF15 then some (Config.machineId c)
    else none

/-- A CSR as the mode of the core may read it. -/
def readCsr? (t : Nat) (x : Tile) (cyc : W64) (c : Nat) : Option W64 :=
  match csrValue x cyc c with
  | some v => some v
  | none => if x.mode == .machine then machineCsr? t x cyc c else none

/-- A machine-mode CSR written: the fields implemented take the value, MPP only a mode that exists, mtvec only the modes direct
and vectored; a write of minstret stands in place of the count of its own instruction. -/
def Tile.writeCsr (x : Tile) (c : Nat) (v : W64) : Tile :=
  let n := v.toNat
  match c with
  | 0x300 =>
    let d := x.csr.setStatus (bit n 3) (bit n 7) (if bits n 12 11 = 0 ∨ bits n 12 11 = 3 then bits n 12 11
      else bits x.csr.mstatus.toNat 12 11)
    { x with csr := { d with mstatus := BitVec.ofNat 64 (setBits d.mstatus.toNat 17 17 (bits n 17 17)) } }
  | 0x304 => { x with csr := { x.csr with mie := v &&& 0x800 } }
  | 0x305 => { x with csr := { x.csr with mtvec := v &&& ~~~(2 : W64) } }
  | 0x30A => { x with csr := { x.csr with menvcfg := v &&& 1 } }
  | 0x340 => { x with csr := { x.csr with mscratch := v } }
  | 0x341 => { x with csr := { x.csr with mepc := v &&& ~~~(1 : W64) } }
  | 0x342 => { x with csr := { x.csr with mcause := v } }
  | 0x343 => { x with csr := { x.csr with mtval := v } }
  | 0xB02 => { x with instret := v - 1 }
  | _ => x

/-- What a CSR instruction of `f3` writes: the source, or the old value with its bits set or cleared. -/
def csrNext (f3 : Nat) (old src : W64) : W64 :=
  match f3 % 4 with
  | 1 => src
  | 2 => old ||| src
  | _ => old &&& ~~~src

/-- CSR_ACCESS (R67): a CSR that the mode may read is read, and in machine mode one that is not read-only may be written;
everything else is an illegal instruction. -/
def execCsrAccess (t : Fin 72) (s : State) : Host.Outcome State Fault Refusal :=
  .next (
    match s.instrAt? t noStall (· == .csr) with
    | some (w, len) =>
      let x := s.tile t
      let c := bits w 31 20
      let writes := rvF3 w % 4 == 1 || rvRs1 w != 0
      let r := if c = 0xC00 ∨ c = 0xB00 then fresh s else (0, s)
      match readCsr? t x r.1 c with
      | some v =>
        if writes && bits c 11 10 == 3 then illegalInstr t s
        else
          let src := if 4 ≤ rvF3 w then BitVec.ofNat 64 (rvRs1 w) else x.gpr (rvRs1 w)
          retire t (x.pc + BitVec.ofNat 64 len) (updTile t (fun x =>
            (if writes then x.writeCsr c (csrNext (rvF3 w) v src) else x).setGpr (rvRd w) v) r.2)
      | none => illegalInstr t s
    | none => s)

/-! ### ecall (R51) -/

/-- A user program's ecall waits before the core. -/
def State.ecallAt? (s : State) (t : Nat) (st : Stall → Bool) (ok : Nat → Bool) : Option Nat :=
  match s.instrAt? t st (· == .ecall) with
  | some (_, len) => if (s.tile t).running && ok ((s.tile t).gpr 17).toNat then some len else none
  | none => none

/-- The ecall of a user program traps to the monitor (mcause 8), which the abort of a stall comes before. -/
def Tile.ecall (x : Tile) : Tile := x.trap 8 0

/-- The monitor returns from an ecall to the next instruction. -/
def Tile.served (x : Tile) (nxt : W64) : Tile :=
  let y := x.ecall
  { y with csr := { y.csr with mepc := nxt } }.mret

/-- TASK_END (R51): once every queue is empty the tile is done. -/
def execTaskEnd (t : Fin 72) (s : State) : Host.Outcome State Fault Refusal :=
  .next (
    match s.ecallAt? t (fun k => k == .none || k == .taskEnd) (· == 0) with
    | some _ =>
      if (s.tile t).idle then
        updTile t (fun x => emptyFtq { x.ecall with ending := some .done }) s
      else updTile t (fun x => { x with stall := .taskEnd }) s
    | none => s)

/-- TASK_FAIL (R51, R63). -/
def execTaskFail (t : Fin 72) (s : State) : Host.Outcome State Fault Refusal :=
  .next (
    match s.ecallAt? t noStall (· == 1) with
    | some _ => failTile t 0x10 (((s.tile t).gpr 10).toNat % 2 ^ 16) (updTile t Tile.ecall s)
    | none => s)

/-- TRACE (R51); a buffer that is full keeps the latest 256 entries. -/
def execTrace (t : Fin 72) (s : State) : Host.Outcome State Fault Refusal :=
  .next (
    match s.ecallAt? t noStall (· == 2) with
    | some len =>
      let nxt := (s.tile t).pc + BitVec.ofNat 64 len
      retire t nxt (updTile t (fun x =>
        let l := x.trace ++ [x.gpr 10]
        (if s.debugOn then { x with trace := l.drop (l.length - 256) } else x).served nxt) s)
    | none => s)

/-- ILLEGAL_ECALL (R51): no function of a7; in machine mode every ecall is an exception of its own (mcause 11). -/
def execIllegalEcall (t : Fin 72) (s : State) : Host.Outcome State Fault Refusal :=
  .next (
    match s.ecallAt? t noStall (fun a => decide (3 ≤ a)) with
    | some _ => failTile t 0x11 0 (updTile t Tile.ecall s)
    | none =>
      match s.instrAt? t noStall (· == .ecall) with
      | some _ => if (s.tile t).mode == .machine then coreException t 11 0 s else s
      | none => s)

/-! ### Xkolgil (R55, R58, R61) -/

/-- XK_WAIT: stalls until the ticket completes, then writes its status word. -/
def execXkWait (t : Fin 72) (s : State) : Host.Outcome State Fault Refusal :=
  .next (
    match s.instrAt? t (fun k => match k with
        | .none => true
        | .wait _ _ _ => true
        | _ => false) (· == .xkWait) with
    | some (w, len) =>
      let x := s.tile t
      let q := rvF7 w % 4
      let n := (x.gpr (rvRs1 w)).toNat
      let d := x.queue q
      if d.issued < n then coreException t 25 (x.gpr (rvRs1 w)) s
      else if d.complete n then
        retire t (x.pc + BitVec.ofNat 64 len)
          (updTile t (fun x => (x.observe q n).setGpr (rvRd w) (BitVec.ofNat 64 (d.statusWord n))) s)
      else updTile t (fun x => { x with stall := .wait q n (rvRd w) }) s
    | none => s)

/-- XK_TEST: the status word of a completed ticket, or 0. -/
def execXkTest (t : Fin 72) (s : State) : Host.Outcome State Fault Refusal :=
  .next (
    match s.instrAt? t noStall (· == .xkTest) with
    | some (w, len) =>
      let x := s.tile t
      let n := (x.gpr (rvRs1 w)).toNat
      let q := rvF7 w % 4
      let d := x.queue q
      if d.issued < n then coreException t 25 (x.gpr (rvRs1 w)) s
      else
        retire t (x.pc + BitVec.ofNat 64 len)
          (updTile t (fun x => (if d.complete n then x.observe q n else x).setGpr (rvRd w)
            (if d.complete n then BitVec.ofNat 64 (d.statusWord n) else 0)) s)
    | none => s)

/-- XK_QFENCE: stalls until every command issued to the masked queues has completed. -/
def execXkQfence (t : Fin 72) (s : State) : Host.Outcome State Fault Refusal :=
  .next (
    match s.instrAt? t (fun k => match k with
        | .none => true
        | .qfence _ => true
        | _ => false) (· == .xkQfence) with
    | some (w, len) =>
      let x := s.tile t
      let mask := rvF7 w % 16
      if (List.range 4).all (fun q => !bit mask q || (x.queue q).entries.isEmpty) then
        retire t (x.pc + BitVec.ofNat 64 len) (updTile t (fun x =>
          (List.range 4).foldl (fun x q => if bit mask q then x.observe q (x.queue q).done else x) x) s)
      else updTile t (fun x => { x with stall := .qfence mask }) s
    | none => s)

/-- XK_BPUT: a broadcast port is written at once. -/
def execXkBput (t : Fin 72) (s : State) : Host.Outcome State Fault Refusal :=
  .next (
    match s.instrAt? t noStall (· == .xkBput) with
    | some (w, len) =>
      let x := s.tile t
      retire t (x.pc + BitVec.ofNat 64 len)
        (updTile t (fun x => { x with ports := x.ports.setIfInBounds (rvF7 w % 2) (x.gpr (rvRs1 w)) }) s)
    | none => s)

/-- XK_BGET: a broadcast port is read. -/
def execXkBget (t : Fin 72) (s : State) : Host.Outcome State Fault Refusal :=
  .next (
    match s.instrAt? t noStall (· == .xkBget) with
    | some (w, len) =>
      let x := s.tile t
      retire t (x.pc + BitVec.ofNat 64 len)
        (updTile t (fun x => x.setGpr (rvRd w) (vget 0 x.ports (rvF7 w % 2))) s)
    | none => s)

/-- Tile `t` counts as arrived at barrier `b` of its task: it waits there, or has executed TASK_END (R61). -/
def State.arrived (s : State) (l : Live) (b t : Nat) : Bool :=
  (vget [] l.bars b).contains t || (s.tile t).stall == .taskEnd || (s.tile t).ending == some .done

/-- XK_BAR: the tile's arrival is counted and it stalls; alone in its task, or without one, it goes on at once. -/
def execXkBar (t : Fin 72) (s : State) : Host.Outcome State Fault Refusal :=
  .next (
    match s.instrAt? t noStall (· == .xkBar), s.liveAt t with
    | some (w, len), some l =>
      let b := rvF7 w % 4
      if l.tiles.length = 1 then
        retire t ((s.tile t).pc + BitVec.ofNat 64 len)
          (updLive l.id (fun l => { l with barUse := vupd 0 l.barUse b (· + 1) }) s)
      else
        updTile t (fun x => { x with stall := .bar b })
          (updLive l.id (fun l => { l with bars := vupd [] l.bars b (· ++ [t.val]) }) s)
    | some (_, len), none => retire t ((s.tile t).pc + BitVec.ofNat 64 len) s
    | none, _ => s)

/-- BARRIER_RELEASE: after the last arrival every waiting tile goes on, and the barrier advances to its next
use. -/
def execBarrierRelease (id : Nat) (b : Fin 4) (s : State) : Host.Outcome State Fault Refusal :=
  .next (
    match s.liveOf? id with
    | some l =>
      let w := vget [] l.bars b
      if !w.isEmpty && l.tiles.all (s.arrived l b) && !s.tripped then
        forEach w (fun t s =>
          if (s.tile t).stall == .bar b && (s.tile t).awake then retire t ((s.tile t).pc + 4) s else s)
          (updLive id (fun l => { l with bars := vupd [] l.bars b (fun _ => []),
                                         barUse := vupd 0 l.barUse b (· + 1) }) s)
      else s
    | none => s)

end Sys2Proof.Machine
end

