-- ==== Sys2Proof/Machine/Dispatch.lean ====
section
/-!
DEFINITION. The dispatch of commands: one arm for each constructor of Instr, each one direct call of the
command's meaning.
-/
namespace Sys2Proof.Machine

/-- The effect of a command on everything but the queue. -/
def exec (i : Instr) (s : State) : Host.Outcome State Fault Refusal :=
  match i with
  | .aluInstruction a => Sys2Proof.Machine.execAluInstruction a s
  | .load a b => Sys2Proof.Machine.execLoad a b s
  | .store a => Sys2Proof.Machine.execStore a s
  | .amo a b => Sys2Proof.Machine.execAmo a b s
  | .fenceI a => Sys2Proof.Machine.execFenceI a s
  | .ebreak a => Sys2Proof.Machine.execEbreak a s
  | .wfi a => Sys2Proof.Machine.execWfi a s
  | .csrAccess a => Sys2Proof.Machine.execCsrAccess a s
  | .instructionFetch a => Sys2Proof.Machine.execInstructionFetch a s
  | .taskEnd a => Sys2Proof.Machine.execTaskEnd a s
  | .taskFail a => Sys2Proof.Machine.execTaskFail a s
  | .trace a => Sys2Proof.Machine.execTrace a s
  | .illegalEcall a => Sys2Proof.Machine.execIllegalEcall a s
  | .xkIssue a b => Sys2Proof.Machine.execXkIssue a b s
  | .xkWait a => Sys2Proof.Machine.execXkWait a s
  | .xkTest a => Sys2Proof.Machine.execXkTest a s
  | .xkQfence a => Sys2Proof.Machine.execXkQfence a s
  | .xkBput a => Sys2Proof.Machine.execXkBput a s
  | .xkBget a => Sys2Proof.Machine.execXkBget a s
  | .xkBar a => Sys2Proof.Machine.execXkBar a s
  | .barrierRelease a b => Sys2Proof.Machine.execBarrierRelease a b s
  | .commandStart a b => Sys2Proof.Machine.execCommandStart a b s
  | .commandComplete a b => Sys2Proof.Machine.execCommandComplete a b s
  | .copyIn a => Sys2Proof.Machine.execCopyIn a s
  | .copyOut a => Sys2Proof.Machine.execCopyOut a s
  | .csIn a => Sys2Proof.Machine.execCsIn a s
  | .csOut a => Sys2Proof.Machine.execCsOut a s
  | .dmaTransferUnit a => Sys2Proof.Machine.execDmaTransferUnit a s
  | .matmul a b c => Sys2Proof.Machine.execMatmul a b c s
  | .ftqSlotFull a => Sys2Proof.Machine.execFtqSlotFull a s
  | .ftqDeadlock a => Sys2Proof.Machine.execFtqDeadlock a s
  | .vopCopy a b => Sys2Proof.Machine.execVopCopy a b s
  | .vopAdd a b => Sys2Proof.Machine.execVopAdd a b s
  | .vopSub a b => Sys2Proof.Machine.execVopSub a b s
  | .vopMul a b => Sys2Proof.Machine.execVopMul a b s
  | .vopFma a b => Sys2Proof.Machine.execVopFma a b s
  | .vopMax a b => Sys2Proof.Machine.execVopMax a b s
  | .vopMin a b => Sys2Proof.Machine.execVopMin a b s
  | .vopAbs a b => Sys2Proof.Machine.execVopAbs a b s
  | .vopNeg a b => Sys2Proof.Machine.execVopNeg a b s
  | .vopExp a b => Sys2Proof.Machine.execVopExp a b s
  | .vopLog a b => Sys2Proof.Machine.execVopLog a b s
  | .vopRcp a b => Sys2Proof.Machine.execVopRcp a b s
  | .vopRsqrt a b => Sys2Proof.Machine.execVopRsqrt a b s
  | .vopTanh a b => Sys2Proof.Machine.execVopTanh a b s
  | .vopErf a b => Sys2Proof.Machine.execVopErf a b s
  | .vopCmplt a b => Sys2Proof.Machine.execVopCmplt a b s
  | .vopCmple a b => Sys2Proof.Machine.execVopCmple a b s
  | .vopCmpeq a b => Sys2Proof.Machine.execVopCmpeq a b s
  | .vopSel a b => Sys2Proof.Machine.execVopSel a b s
  | .vopUrand a b => Sys2Proof.Machine.execVopUrand a b s
  | .compress a b => Sys2Proof.Machine.execCompress a b s
  | .expand a b => Sys2Proof.Machine.execExpand a b s
  | .mxpack a b => Sys2Proof.Machine.execMxpack a b s
  | .rsum a b => Sys2Proof.Machine.execRsum a b s
  | .rsumInclusiveScan a b => Sys2Proof.Machine.execRsumInclusiveScan a b s
  | .rsumExclusiveScan a b => Sys2Proof.Machine.execRsumExclusiveScan a b s
  | .rmax a b => Sys2Proof.Machine.execRmax a b s
  | .rmin a b => Sys2Proof.Machine.execRmin a b s
  | .rargmax a b => Sys2Proof.Machine.execRargmax a b s
  | .rtopk a b => Sys2Proof.Machine.execRtopk a b s
  | .taskDelivery a => Sys2Proof.Machine.execTaskDelivery a s
  | .abortInterrupt a => Sys2Proof.Machine.execAbortInterrupt a s
  | .tileReport a => Sys2Proof.Machine.execTileReport a s
  | .doorbell a b => Sys2Proof.Machine.execDoorbell a b s
  | .descriptorFetch a => Sys2Proof.Machine.execDescriptorFetch a s
  | .dispatch a => Sys2Proof.Machine.execDispatch a s
  | .taskPlacement a => Sys2Proof.Machine.execTaskPlacement a s
  | .taskReserving a => Sys2Proof.Machine.execTaskReserving a s
  | .nop a => Sys2Proof.Machine.execNop a s
  | .task a => Sys2Proof.Machine.execTask a s
  | .copy a => Sys2Proof.Machine.execCopy a s
  | .reduce a => Sys2Proof.Machine.execReduce a s
  | .barrier a => Sys2Proof.Machine.execBarrier a s
  | .snapshot a => Sys2Proof.Machine.execSnapshot a s
  | .resumePage a => Sys2Proof.Machine.execResumePage a s
  | .descriptorComplete a => Sys2Proof.Machine.execDescriptorComplete a s
  | .contextEnable a => Sys2Proof.Machine.execContextEnable a s
  | .contextDrain a => Sys2Proof.Machine.execContextDrain a s
  | .contextQuiesced a => Sys2Proof.Machine.execContextQuiesced a s
  | .contextOff a => Sys2Proof.Machine.execContextOff a s
  | .ringEnable a => Sys2Proof.Machine.execRingEnable a s
  | .ringDisable a => Sys2Proof.Machine.execRingDisable a s
  | .cqHeadWrite a b => Sys2Proof.Machine.execCqHeadWrite a b s
  | .mrd a b c d => Sys2Proof.Machine.execMrd a b c d s
  | .mwr a b c => Sys2Proof.Machine.execMwr a b c s
  | .mirrorHeal a b c => Sys2Proof.Machine.execMirrorHeal a b c s
  | .bondMonitorWindow a b => Sys2Proof.Machine.execBondMonitorWindow a b s
  | .patrolRead a b c => Sys2Proof.Machine.execPatrolRead a b c s
  | .moduleRetrainStart a b => Sys2Proof.Machine.execModuleRetrainStart a b s
  | .moduleRetrainDone a b => Sys2Proof.Machine.execModuleRetrainDone a b s
  | .stkCtrlRetrain a b => Sys2Proof.Machine.execStkCtrlRetrain a b s
  | .stkCtrlIsolate a => Sys2Proof.Machine.execStkCtrlIsolate a s
  | .stkCtrlRejoin a b => Sys2Proof.Machine.execStkCtrlRejoin a b s
  | .stackRejoinFillDone a => Sys2Proof.Machine.execStackRejoinFillDone a s
  | .stackClockLost a => Sys2Proof.Machine.execStackClockLost a s
  | .stackTrainingLost a => Sys2Proof.Machine.execStackTrainingLost a s
  | .stackBaseReset a => Sys2Proof.Machine.execStackBaseReset a s
  | .stackSweepDone a => Sys2Proof.Machine.execStackSweepDone a s
  | .stackTempReport a b c => Sys2Proof.Machine.execStackTempReport a b c s
  | .throttleStepDown a => Sys2Proof.Machine.execThrottleStepDown a s
  | .throttleStepUp a => Sys2Proof.Machine.execThrottleStepUp a s
  | .telemetryStale a => Sys2Proof.Machine.execTelemetryStale a s
  | .srtValidSet a b => Sys2Proof.Machine.execSrtValidSet a b s
  | .srtValidClear a b => Sys2Proof.Machine.execSrtValidClear a b s
  | .trackerStart a b c => Sys2Proof.Machine.execTrackerStart a b c s
  | .rdShared a b c => Sys2Proof.Machine.execRdShared a b c s
  | .rdUnique a b c => Sys2Proof.Machine.execRdUnique a b c s
  | .rdOnce a b c => Sys2Proof.Machine.execRdOnce a b c s
  | .wrFull a b c => Sys2Proof.Machine.execWrFull a b c s
  | .wrPart a b c => Sys2Proof.Machine.execWrPart a b c s
  | .atomic a b c => Sys2Proof.Machine.execAtomic a b c s
  | .writeback a b => Sys2Proof.Machine.execWriteback a b s
  | .evictClean a b => Sys2Proof.Machine.execEvictClean a b s
  | .flushLine a b => Sys2Proof.Machine.execFlushLine a b s
  | .snpFwdShared a => Sys2Proof.Machine.execSnpFwdShared a s
  | .snpFwdUnique a => Sys2Proof.Machine.execSnpFwdUnique a s
  | .snpFwdOnce a => Sys2Proof.Machine.execSnpFwdOnce a s
  | .snpRecall a => Sys2Proof.Machine.execSnpRecall a s
  | .snpDrop a => Sys2Proof.Machine.execSnpDrop a s
  | .snpInvPass a b => Sys2Proof.Machine.execSnpInvPass a b s
  | .snpInvReturn a => Sys2Proof.Machine.execSnpInvReturn a s
  | .ringSlotMark a => Sys2Proof.Machine.execRingSlotMark a s
  | .snpRsp a => Sys2Proof.Machine.execSnpRsp a s
  | .compAck a => Sys2Proof.Machine.execCompAck a s
  | .wbData a => Sys2Proof.Machine.execWbData a s
  | .stashAck a => Sys2Proof.Machine.execStashAck a s
  | .memDone a => Sys2Proof.Machine.execMemDone a s
  | .data a b => Sys2Proof.Machine.execData a b s
  | .comp a => Sys2Proof.Machine.execComp a s
  | .wrAck a => Sys2Proof.Machine.execWrAck a s
  | .wbAck a => Sys2Proof.Machine.execWbAck a s
  | .snoopTimeout a => Sys2Proof.Machine.execSnoopTimeout a s
  | .flushAll => Sys2Proof.Machine.execFlushAll s
  | .flushAllDone => Sys2Proof.Machine.execFlushAllDone s
  | .cxlRdshared a b c => Sys2Proof.Machine.execCxlRdshared a b c s
  | .cxlRdany a b c => Sys2Proof.Machine.execCxlRdany a b c s
  | .cxlRdown a b c => Sys2Proof.Machine.execCxlRdown a b c s
  | .cxlRdownnodata a b c => Sys2Proof.Machine.execCxlRdownnodata a b c s
  | .cxlRdcurr a b c => Sys2Proof.Machine.execCxlRdcurr a b c s
  | .cxlItomwr a b c d e f => Sys2Proof.Machine.execCxlItomwr a b c d e f s
  | .cxlWrcur a b c d e f => Sys2Proof.Machine.execCxlWrcur a b c d e f s
  | .cxlWrinv a b c d e f => Sys2Proof.Machine.execCxlWrinv a b c d e f s
  | .cxlWowrinv a b c d e f => Sys2Proof.Machine.execCxlWowrinv a b c d e f s
  | .cxlWowrinvf a b c d e f => Sys2Proof.Machine.execCxlWowrinvf a b c d e f s
  | .cxlDirtyevict a b c => Sys2Proof.Machine.execCxlDirtyevict a b c s
  | .cxlCleanevict a b c => Sys2Proof.Machine.execCxlCleanevict a b c s
  | .cxlCleanevictnodata a b c => Sys2Proof.Machine.execCxlCleanevictnodata a b c s
  | .cxlClflush a b c => Sys2Proof.Machine.execCxlClflush a b c s
  | .cxlCacheflushed a => Sys2Proof.Machine.execCxlCacheflushed a s
  | .cxlOtherRequest a => Sys2Proof.Machine.execCxlOtherRequest a s
  | .cxlSnoopResponse a b c d => Sys2Proof.Machine.execCxlSnoopResponse a b c d s
  | .siteOwnerSweepDone a => Sys2Proof.Machine.execSiteOwnerSweepDone a s
  | .translationWalkStep a b => Sys2Proof.Machine.execTranslationWalkStep a b s
  | .faultArrival a b => Sys2Proof.Machine.execFaultArrival a b s
  | .faultRecordDelivery a => Sys2Proof.Machine.execFaultRecordDelivery a s
  | .keptRecordWrite => Sys2Proof.Machine.execKeptRecordWrite s
  | .resumeAtWalker a => Sys2Proof.Machine.execResumeAtWalker a s
  | .resumeWakeDone a b => Sys2Proof.Machine.execResumeWakeDone a b s
  | .hostWaitExpiry a b => Sys2Proof.Machine.execHostWaitExpiry a b s
  | .xltInv a b => Sys2Proof.Machine.execXltInv a b s
  | .xltInvDone a => Sys2Proof.Machine.execXltInvDone a s
  | .fltOpEnable a => Sys2Proof.Machine.execFltOpEnable a s
  | .fltOpDisable a => Sys2Proof.Machine.execFltOpDisable a s
  | .fltHeadWrite a b => Sys2Proof.Machine.execFltHeadWrite a b s
  | .siteFlit a b c => Sys2Proof.Machine.execSiteFlit a b c s
  | .siteNak a b => Sys2Proof.Machine.execSiteNak a b s
  | .siteSeqGapTimeout a => Sys2Proof.Machine.execSiteSeqGapTimeout a s
  | .siteAckTimer a => Sys2Proof.Machine.execSiteAckTimer a s
  | .kspReqAdmission a => Sys2Proof.Machine.execKspReqAdmission a s
  | .wdata a b => Sys2Proof.Machine.execWdata a b s
  | .memData a => Sys2Proof.Machine.execMemData a s
  | .memAck a => Sys2Proof.Machine.execMemAck a s
  | .tgtTimeout a b => Sys2Proof.Machine.execTgtTimeout a b s
  | .caps a b c d e f g h j k => Sys2Proof.Machine.execCaps a b c d e f g h j k s
  | .joined a => Sys2Proof.Machine.execJoined a s
  | .status a b => Sys2Proof.Machine.execStatus a b s
  | .powerReport a b c => Sys2Proof.Machine.execPowerReport a b c s
  | .bondFail a b c => Sys2Proof.Machine.execBondFail a b c s
  | .repairDone a b => Sys2Proof.Machine.execRepairDone a b s
  | .siteRepairTimeout a b => Sys2Proof.Machine.execSiteRepairTimeout a b s
  | .certData a b => Sys2Proof.Machine.execCertData a b s
  | .response a b => Sys2Proof.Machine.execResponse a b s
  | .resetNotice a => Sys2Proof.Machine.execResetNotice a s
  | .pllUnlock a => Sys2Proof.Machine.execPllUnlock a s
  | .flushed a => Sys2Proof.Machine.execFlushed a s
  | .mbox a b => Sys2Proof.Machine.execMbox a b s
  | .siteBudgetTimer a => Sys2Proof.Machine.execSiteBudgetTimer a s
  | .siteBudgetWrite a b => Sys2Proof.Machine.execSiteBudgetWrite a b s
  | .sidebandLost a => Sys2Proof.Machine.execSidebandLost a s
  | .siteClockLost a b => Sys2Proof.Machine.execSiteClockLost a b s
  | .siteOverpower a b => Sys2Proof.Machine.execSiteOverpower a b s
  | .siteClampTimeout a b => Sys2Proof.Machine.execSiteClampTimeout a b s
  | .siteUnclamp a => Sys2Proof.Machine.execSiteUnclamp a s
  | .siteReset a => Sys2Proof.Machine.execSiteReset a s
  | .siteRejoin a => Sys2Proof.Machine.execSiteRejoin a s
  | .siteIsolate a => Sys2Proof.Machine.execSiteIsolate a s
  | .siteRetrain a b => Sys2Proof.Machine.execSiteRetrain a b s
  | .siteWinFence a => Sys2Proof.Machine.execSiteWinFence a s
  | .siteWinFenceDone a => Sys2Proof.Machine.execSiteWinFenceDone a s
  | .siteRejoined a => Sys2Proof.Machine.execSiteRejoined a s
  | .siteRejoinFailed a => Sys2Proof.Machine.execSiteRejoinFailed a s
  | .packetInject a b => Sys2Proof.Machine.execPacketInject a b s
  | .packetEject a b => Sys2Proof.Machine.execPacketEject a b s
  | .linkFlitError a b c d => Sys2Proof.Machine.execLinkFlitError a b c d s
  | .flushMarkerReturn a => Sys2Proof.Machine.execFlushMarkerReturn a s
  | .deadTargetTimeout a b => Sys2Proof.Machine.execDeadTargetTimeout a b s
  | .crossingLinkLost a b => Sys2Proof.Machine.execCrossingLinkLost a b s
  | .crossingDrainDone a b => Sys2Proof.Machine.execCrossingDrainDone a b s
  | .qosPeriodBoundary a => Sys2Proof.Machine.execQosPeriodBoundary a s
  | .fabricFlit a b => Sys2Proof.Machine.execFabricFlit a b s
  | .fabricNak a b => Sys2Proof.Machine.execFabricNak a b s
  | .fabricAckTimer a => Sys2Proof.Machine.execFabricAckTimer a s
  | .kflRd a => Sys2Proof.Machine.execKflRd a s
  | .kflWr a => Sys2Proof.Machine.execKflWr a s
  | .kflWrPart a => Sys2Proof.Machine.execKflWrPart a s
  | .kflAtomic a => Sys2Proof.Machine.execKflAtomic a s
  | .rdData a => Sys2Proof.Machine.execRdData a s
  | .kflWrAck a => Sys2Proof.Machine.execKflWrAck a s
  | .fabricRspTimeout a b => Sys2Proof.Machine.execFabricRspTimeout a b s
  | .faultWaitExpiry a b => Sys2Proof.Machine.execFaultWaitExpiry a b s
  | .hello a => Sys2Proof.Machine.execHello a s
  | .helloTimer a => Sys2Proof.Machine.execHelloTimer a s
  | .lanePlan a => Sys2Proof.Machine.execLanePlan a s
  | .laneErrorWindow a b c d e => Sys2Proof.Machine.execLaneErrorWindow a b c d e s
  | .laneLockLost a b => Sys2Proof.Machine.execLaneLockLost a b s
  | .fabricRetrain a => Sys2Proof.Machine.execFabricRetrain a s
  | .fabricRetrainDone a => Sys2Proof.Machine.execFabricRetrainDone a s
  | .fabricRetrainTimeout a => Sys2Proof.Machine.execFabricRetrainTimeout a s
  | .noPeerRetry a => Sys2Proof.Machine.execNoPeerRetry a s
  | .fabNodeWrite a => Sys2Proof.Machine.execFabNodeWrite a s
  | .fabRtDataAccess a => Sys2Proof.Machine.execFabRtDataAccess a s
  | .fabWinFence => Sys2Proof.Machine.execFabWinFence s
  | .fabWinFenceDone => Sys2Proof.Machine.execFabWinFenceDone s
  | .reduceArm a => Sys2Proof.Machine.execReduceArm a s
  | .redReady a => Sys2Proof.Machine.execRedReady a s
  | .redReadyRepeat a b => Sys2Proof.Machine.execRedReadyRepeat a b s
  | .redData a => Sys2Proof.Machine.execRedData a s
  | .redAbort a => Sys2Proof.Machine.execRedAbort a s
  | .reduceTimeout a => Sys2Proof.Machine.execReduceTimeout a s
  | .reduceComplete a => Sys2Proof.Machine.execReduceComplete a s
  | .hostMemoryRequest a b c d e => Sys2Proof.Machine.execHostMemoryRequest a b c d e s
  | .hostAtomicop a b c d e f g => Sys2Proof.Machine.execHostAtomicop a b c d e f g s
  | .apertureAccess a b c d => Sys2Proof.Machine.execApertureAccess a b c d s
  | .hostCompletion a b c => Sys2Proof.Machine.execHostCompletion a b c s
  | .completionTimeout a b => Sys2Proof.Machine.execCompletionTimeout a b s
  | .portUncorrectableError a b => Sys2Proof.Machine.execPortUncorrectableError a b s
  | .containmentRelease => Sys2Proof.Machine.execContainmentRelease s
  | .hotReset => Sys2Proof.Machine.execHotReset s
  | .hostLinkDown => Sys2Proof.Machine.execHostLinkDown s
  | .configWrite a b => Sys2Proof.Machine.execConfigWrite a b s
  | .flr a => Sys2Proof.Machine.execFlr a s
  | .flrDone a => Sys2Proof.Machine.execFlrDone a s
  | .msixTableWrite a b => Sys2Proof.Machine.execMsixTableWrite a b s
  | .getVersion => Sys2Proof.Machine.execGetVersion s
  | .getCapabilities => Sys2Proof.Machine.execGetCapabilities s
  | .negotiateAlgorithms a => Sys2Proof.Machine.execNegotiateAlgorithms a s
  | .getDigests => Sys2Proof.Machine.execGetDigests s
  | .getCertificate a b c => Sys2Proof.Machine.execGetCertificate a b c s
  | .challenge a b => Sys2Proof.Machine.execChallenge a b s
  | .getMeasurements a b c => Sys2Proof.Machine.execGetMeasurements a b c s
  | .keyExchange a => Sys2Proof.Machine.execKeyExchange a s
  | .finish a b => Sys2Proof.Machine.execFinish a b s
  | .heartbeat a => Sys2Proof.Machine.execHeartbeat a s
  | .keyUpdate a b => Sys2Proof.Machine.execKeyUpdate a b s
  | .endSession a => Sys2Proof.Machine.execEndSession a s
  | .ideKm a b => Sys2Proof.Machine.execIdeKm a b s
  | .lockInterfaceRequest a b c => Sys2Proof.Machine.execLockInterfaceRequest a b c s
  | .getDeviceInterfaceReport a b => Sys2Proof.Machine.execGetDeviceInterfaceReport a b s
  | .getDeviceInterfaceState a b => Sys2Proof.Machine.execGetDeviceInterfaceState a b s
  | .startInterfaceRequest a b c => Sys2Proof.Machine.execStartInterfaceRequest a b c s
  | .stopInterfaceRequest a b => Sys2Proof.Machine.execStopInterfaceRequest a b s
  | .resetAssert => Sys2Proof.Machine.execResetAssert s
  | .resetRelease a => Sys2Proof.Machine.execResetRelease a s
  | .railUndervoltage => Sys2Proof.Machine.execRailUndervoltage s
  | .stageS0Done a b c => Sys2Proof.Machine.execStageS0Done a b c s
  | .hostLinkTrained a b => Sys2Proof.Machine.execHostLinkTrained a b s
  | .imageReady => Sys2Proof.Machine.execImageReady s
  | .imageAdmission => Sys2Proof.Machine.execImageAdmission s
  | .trainingDone a => Sys2Proof.Machine.execTrainingDone a s
  | .selftestDone a => Sys2Proof.Machine.execSelftestDone a s
  | .qualificationDone a => Sys2Proof.Machine.execQualificationDone a s
  | .ready => Sys2Proof.Machine.execReady s
  | .stageTimeout a b => Sys2Proof.Machine.execStageTimeout a b s
  | .partitionReset a => Sys2Proof.Machine.execPartitionReset a s
  | .partitionResetDone a => Sys2Proof.Machine.execPartitionResetDone a s
  | .quarantineExit a b => Sys2Proof.Machine.execQuarantineExit a b s
  | .tileRetire a => Sys2Proof.Machine.execTileRetire a s
  | .certIssue => Sys2Proof.Machine.execCertIssue s
  | .reissue => Sys2Proof.Machine.execReissue s
  | .svnCommit => Sys2Proof.Machine.execSvnCommit s
  | .lcTransitionGo a => Sys2Proof.Machine.execLcTransitionGo a s
  | .lcTransition a => Sys2Proof.Machine.execLcTransition a s
  | .userStoreBurn a => Sys2Proof.Machine.execUserStoreBurn a s
  | .gateOpen a => Sys2Proof.Machine.execGateOpen a s
  | .gateClose a => Sys2Proof.Machine.execGateClose a s
  | .debugEnable => Sys2Proof.Machine.execDebugEnable s
  | .debugDisable => Sys2Proof.Machine.execDebugDisable s
  | .rngHealthFail => Sys2Proof.Machine.execRngHealthFail s
  | .tapInstruction a => Sys2Proof.Machine.execTapInstruction a s
  | .setdasa a b => Sys2Proof.Machine.execSetdasa a b s
  | .entdaa a b => Sys2Proof.Machine.execEntdaa a b s
  | .i3cRead a b => Sys2Proof.Machine.execI3cRead a b s
  | .powerCommand a b c => Sys2Proof.Machine.execPowerCommand a b c s
  | .powerCommandApply a => Sys2Proof.Machine.execPowerCommandApply a s
  | .powerTransitionDone a => Sys2Proof.Machine.execPowerTransitionDone a s
  | .stackPowerSweepDone a => Sys2Proof.Machine.execStackPowerSweepDone a s
  | .stackBudgetTimer => Sys2Proof.Machine.execStackBudgetTimer s
  | .stackBudgetWrite a b => Sys2Proof.Machine.execStackBudgetWrite a b s
  | .stackPowerReport a b => Sys2Proof.Machine.execStackPowerReport a b s
  | .fieldPowerSample a b => Sys2Proof.Machine.execFieldPowerSample a b s
  | .stackClampTimeout a b => Sys2Proof.Machine.execStackClampTimeout a b s
  | .stackUnclamp a => Sys2Proof.Machine.execStackUnclamp a s
  | .pllLockLost a => Sys2Proof.Machine.execPllLockLost a s
  | .refclkLost => Sys2Proof.Machine.execRefclkLost s
  | .tempSensorRead a b => Sys2Proof.Machine.execTempSensorRead a b s
  | .counterWrap => Sys2Proof.Machine.execCounterWrap s
  | .bwWindowEnd a => Sys2Proof.Machine.execBwWindowEnd a s
  | .counterLoRead a b c => Sys2Proof.Machine.execCounterLoRead a b c s
  | .snapRequest => Sys2Proof.Machine.execSnapRequest s
  | .snapshotBegin => Sys2Proof.Machine.execSnapshotBegin s
  | .snapshotMarker a b c => Sys2Proof.Machine.execSnapshotMarker a b c s
  | .snapshotComplete => Sys2Proof.Machine.execSnapshotComplete s
  | .rcRead a b => Sys2Proof.Machine.execRcRead a b s
  | .sqClear a b c => Sys2Proof.Machine.execSqClear a b c s
  | .registerWrite a b c => Sys2Proof.Machine.execRegisterWrite a b c s
  | .registerStallTimeout a b c => Sys2Proof.Machine.execRegisterStallTimeout a b c s
  | .bulkSelWrite a b => Sys2Proof.Machine.execBulkSelWrite a b s
  | .bulkDataAccess a b => Sys2Proof.Machine.execBulkDataAccess a b s
  | .bulkBurstAccess a b c d => Sys2Proof.Machine.execBulkBurstAccess a b c d s
  | .debugResume a => Sys2Proof.Machine.execDebugResume a s
  | .debugEndTask a => Sys2Proof.Machine.execDebugEndTask a s
  | .mboxSend a b => Sys2Proof.Machine.execMboxSend a b s
  | .mboxInAck a b => Sys2Proof.Machine.execMboxInAck a b s
  | .railBackInRange => Sys2Proof.Machine.execRailBackInRange s
  | .hostLinkRetrained a b => Sys2Proof.Machine.execHostLinkRetrained a b s
  | .channelLost a => Sys2Proof.Machine.execChannelLost a s
  | .routerFailure a => Sys2Proof.Machine.execRouterFailure a s
  | .siteMonitorWindow a b c => Sys2Proof.Machine.execSiteMonitorWindow a b c s
  | .cxlMemResponse a b c d => Sys2Proof.Machine.execCxlMemResponse a b c d s
  | .cxlD2hData a b c d e => Sys2Proof.Machine.execCxlD2hData a b c d e s
  | .mboxOutDone a => Sys2Proof.Machine.execMboxOutDone a s
  | .hubPowerSample a => Sys2Proof.Machine.execHubPowerSample a s

end Sys2Proof.Machine
end

