-- ==== Sys2Proof/Safety.lean ====
section
/-!
DEFINITION. What the statements speak of: the rules that the certificates of a hub obey in every state (R456 to R458,
R472), and what a command leaves alone.
-/
namespace Sys2Proof.Machine

/-- The leaves and blocks of the attestation key (R456 to R458): no boot issues more than one block of 4,096
certificates; the reservation bits are kept as a strictly rising list of bits below 32,768; the block of the boot
is burned; and the certificate that stands names a leaf of that block below the next one to use. -/
def Sec.LeavesOk (x : Sec) : Prop :=
  x.issued ≤ 4096 ∧ x.otp.reserve.Pairwise (· < ·) ∧ (∀ b ∈ x.otp.reserve, b < 32768) ∧
    (∀ b, x.block = some b → b ∈ x.otp.reserve) ∧
    ∀ c, x.cert = some c → ∃ b i, x.block = some b ∧ i < x.issued ∧ c.leaf = 4096 * b + i

/-- What only few commands change: the queue, the security state, the tiles that hold logical numbers (R27) and the
digest of the floor-plan report (R40). -/
@[simp] abbrev Kept (a b : State) : Prop :=
  a.pending = b.pending ∧ a.sec = b.sec ∧ a.boot.tilesAt = b.boot.tilesAt ∧ a.boot.digest = b.boot.digest

/-- The same for the commands that act on the security state: they keep the rules of its leaves. -/
@[simp] abbrev Held (a b : State) : Prop :=
  a.pending = b.pending ∧ a.boot.tilesAt = b.boot.tilesAt ∧ a.boot.digest = b.boot.digest ∧
    (b.sec.LeavesOk → a.sec.LeavesOk)

/-- A command answers a next state that has a property. -/
def Runs (c : Instr) (s : State) (P : State → Prop) : Prop := ∃ t, exec c s = .next t ∧ P t

/-- Two states differ at most in tile `t` and in the counters of R506 that the step bumps. -/
def TileOnly (t : Nat) (a b : State) : Prop :=
  a = { b with tiles := a.tiles, cnt := a.cnt } ∧ ∀ u, u ≠ t → a.tile u = b.tile u

/-- The word `w`, `len` bytes long, waits before the core of tile `t`, which nothing keeps from executing it. -/
def State.AtInstr (s : State) (t w len : Nat) : Prop :=
  (s.tile t).ir = some (w, len) ∧ (s.tile t).awake = true ∧ (s.tile t).stall = .none ∧ s.tripped = false

/-- An instruction of tile `t` has retired: pc is at `nxt`, the destination, if it has one, is written (x0 reads zero,
R43), every other general register is as before, and the rest of the tile is that of `y`. -/
def Retired (t : Nat) (nxt : W64) (rd : Option (Nat × W64)) (y : Tile) (a b : State) : Prop :=
  TileOnly t a b ∧
    a.tile t = { y with pc := nxt, ir := none, stall := .none, instret := (b.tile t).instret + 1, x := (a.tile t).x } ∧
    ∀ r, r < 32 → (a.tile t).gpr r = match rd with
      | some (d, v) => if r = d ∧ d ≠ 0 then v else (b.tile t).gpr r
      | none => (b.tile t).gpr r

/-! ### What commands leave alone -/

/-- Two states agree on the tiles, the tasks under way, the clusters and the power records. -/
@[simp] abbrev Calm (a b : State) : Prop := a.tiles = b.tiles ∧ a.lives = b.lives ∧ a.clusters = b.clusters ∧ a.pwr = b.pwr

/-- What the loss of a site goes by. -/
def Site.base (x : Site) : List Nat × List (KMsg × UnitData) × Nat × JoinStep := (x.retired, x.inbox, x.absCause, x.join)

/-- Two states agree on what the loss of a site and a sweep go by. -/
@[simp] abbrev Swept (a b : State) : Prop :=
  a.sites.map Site.base = b.sites.map Site.base ∧ a.plz.ownerSweep = b.plz.ownerSweep ∧
    a.plz.stackSweep = b.plz.stackSweep ∧ a.plz.flushing = b.plz.flushing

/-- What the requests of a site and its clamp go by. -/
def Site.asks (x : Site) : List OpenReq × List AgentReq × List CxlDue × Option Nat := (x.opens, x.agents, x.due, x.clampBudget)

/-- Two states agree on them and on the sweeps. -/
@[simp] abbrev Asked (a b : State) : Prop :=
  a.sites.map Site.asks = b.sites.map Site.asks ∧ a.plz.ownerSweep = b.plz.ownerSweep ∧
    a.plz.stackSweep = b.plz.stackSweep ∧ a.plz.flushing = b.plz.flushing

/-! ### How tasks end -/

/-- Tile `t` has stopped its task with report `r` (R51, R63): the core has left every stall, commands that had not started
are gone, walks under way for it are dropped, and its stores, registers and every other tile are as before. -/
def Stopped (t : Nat) (r : Report) (a b : State) : Prop :=
  a = { b with tiles := a.tiles, xlt := a.xlt, plz := a.plz } ∧
    a.plz = { b.plz with arrivals := a.plz.arrivals, asked := a.plz.asked } ∧ (∀ u, u ≠ t → a.tile u = b.tile u) ∧
    (a.tile t).ending = some r ∧ (a.tile t).mode = .machine ∧ (a.tile t).stall = .none ∧ (a.tile t).ir = none ∧
    (a.tile t).x = (b.tile t).x ∧ (a.tile t).store = (b.tile t).store ∧ (a.tile t).dmem = (b.tile t).dmem ∧
    ∀ q, q < 4 → ((a.tile t).queue q).entries =
      if q = 3 then ((b.tile t).queue q).entries.filter (·.started) else []

/-- The core of tile `t` has trapped (R53): the CSRs say where and why, pc is at the monitor's entry, the task has failed with
the exception's cause, and every other tile is as before. -/
def Trapped (t mcause : Nat) (a b : State) : Prop :=
  (a.tile t).csr.mepc = (b.tile t).pc ∧ (a.tile t).csr.mcause = BitVec.ofNat 64 mcause ∧
    (a.tile t).pc = (b.tile t).csr.mtvec &&& ~~~(3 : W64) ∧ (a.tile t).ending = some (.failed (exceptionCause mcause) 0) ∧ (a.tile t).mode = .machine ∧
    (a.tile t).x = (b.tile t).x ∧ (a.tile t).store = (b.tile t).store ∧ (a.tile t).dmem = (b.tile t).dmem ∧
    (∀ u, u ≠ t → a.tile u = b.tile u) ∧ a.lives = b.lives ∧ a.clusters = b.clusters

/-- An ecall with function `f` in a7 waits before the core of tile `t` (R51). -/
def State.AtCall (s : State) (t w len f : Nat) : Prop :=
  s.AtInstr t w len ∧ (s.tile t).running = true ∧ rvClass w = .ecall ∧ ((s.tile t).gpr 17).toNat = f

/-! ### Groups of commands -/

/-- The VOP commands with their operation codes (R140). -/
def vopCommands : List (Nat × (Fin 72 → Option (Fin 65536) → Instr)) :=
  [(0x00, .vopCopy), (0x01, .vopAdd), (0x02, .vopSub), (0x03, .vopMul), (0x04, .vopFma), (0x05, .vopMax),
   (0x06, .vopMin), (0x07, .vopAbs), (0x08, .vopNeg), (0x09, .vopExp), (0x0A, .vopLog), (0x0B, .vopRcp),
   (0x0C, .vopRsqrt), (0x0D, .vopTanh), (0x0E, .vopErf), (0x10, .vopCmplt), (0x11, .vopCmple), (0x12, .vopCmpeq),
   (0x13, .vopSel), (0x14, .vopUrand)]

/-- The other vector commands with their opcodes and what a block of each does (R147 to R149). -/
def blockCommands : List (Nat × (Tile → Tile → QCmd → BlockRes) × (Fin 72 → Option (Fin 65536) → Instr)) :=
  [(2, compressBlock, .compress), (3, expandBlock, .expand), (4, mxpackBlock, .mxpack)]

/-- A reduction command: the words it takes, whether its rows are strided, and the values and indices of a row. -/
structure RedCommand where
  takes : List Nat → Bool
  strided : Bool
  row : Tile → List Nat → Nat → List Nat × List Nat
  cmd : Fin 72 → Option (Fin 65536) → Instr

/-- The reduction commands (R150 to R155). -/
def redCommands : List RedCommand :=
  [{ takes := isRsum 0, strided := false, cmd := .rsum,
     row := fun x ws i => ([rowSum x.dotFast (redRow x ws i)], []) },
   { takes := isRsum 1, strided := true, cmd := .rsumInclusiveScan,
     row := fun x ws i => (inclusiveScan x.dotFast (redRow x ws i), []) },
   { takes := isRsum 2, strided := true, cmd := .rsumExclusiveScan,
     row := fun x ws i => (exclusiveScan x.dotFast (redRow x ws i), []) },
   { takes := isRed 2, strided := false, cmd := .rmax,
     row := fun x ws i => ((topK 1 (redCands x ws i)).map (·.1), []) },
   { takes := isRed 3, strided := false, cmd := .rmin, row := fun x ws i => ([rowMin (redRow x ws i)], []) },
   { takes := isRed 4, strided := false, cmd := .rargmax,
     row := fun x ws i => ((topK 1 (redCands x ws i)).map (·.1), (topK 1 (redCands x ws i)).map (·.2.1)) },
   { takes := isRed 5, strided := true, cmd := .rtopk,
     row := fun x ws i => ((topK (wf ws 9 22 16) (redCands x ws i)).map (·.1),
       (topK (wf ws 9 22 16) (redCands x ws i)).map (·.2.1)) }]

/-- The resets of the hub (R392, R549, R550). -/
def ResetCommand (c : Instr) : Prop := c = .hotReset ∨ c = .resetAssert ∨ c = .railUndervoltage

/-- The commands that write a register of BAR0. -/
def BarWrite (c : Instr) : Prop :=
  (∃ f off v, c = .registerWrite f off v) ∨ (∃ f v, c = .bulkSelWrite f v) ∨ (∃ f w, c = .bulkDataAccess f w) ∨
    (∃ t b off len w, c = .hostMemoryRequest t b off len w) ∨ ∃ t o len w, c = .bulkBurstAccess t o len w

/-- The commands through which the security state changes: its own commands, the stages of bring-up that sense or burn OTP,
the first certificate of READY, a gate opened through the test access port, and what writes its registers. -/
def SecCommand (c : Instr) : Prop :=
  ResetCommand c ∨ BarWrite c ∨ c = .certIssue ∨ c = .reissue ∨ c = .svnCommit ∨ (∃ t, c = .lcTransitionGo t) ∨
    (∃ b, c = .lcTransition b) ∨ (∃ v, c = .userStoreBurn v) ∨ (∃ g, c = .gateOpen g) ∨ c = .debugEnable ∨ c = .rngHealthFail ∨
    (∃ a b d, c = .stageS0Done a b d) ∨ c = .imageAdmission ∨ c = .ready ∨ ∃ i, c = .tapInstruction i

/-- A command answers a next state: its own effect gives a state that has a property, and everything that waits inside the
hub then goes on as far as it can. -/
def Settles (c : Instr) (s : State) (P : State → Prop) : Prop := ∃ v, exec c s = .next (serveWaiting v) ∧ P v

/-- Nothing waits inside the hub. -/
def State.Calmed (s : State) : Prop :=
  s.plz.failed = [] ∧ (∀ n, n < 6 → (s.site n).opens = []) ∧ (∀ p, p < 16 → (s.port p).winReqs = []) ∧ s.host.apt = []

/-- Two states agree on the bring-up state with the floor plan, the contexts, the rings and the mailbox. -/
@[simp] abbrev Still (a b : State) : Prop := a.boot = b.boot ∧ a.ctxs = b.ctxs ∧ a.rings = b.rings ∧ a.mbox = b.mbox

/-- Site `n` has been declared ABSENT with a cause (R253 steps 1 to 3, R322): it is marked so ahead of its record, what it had
under way is gone, and the plazas sweep the lines it owned. -/
def SiteLost (n cause : Nat) (a b : State) : Prop :=
  a.status uSite n = stAbsent ∧ Table.find? a.boot.marked (unitKey uSite n) = some stAbsent ∧
    a.unit uSite n = b.unit uSite n ∧ n ∈ a.plz.ownerSweep ∧
    (n < 6 → (a.site n).inbox = [] ∧ (a.site n).join = .none ∧ (a.site n).absCause = cause) ∧
    (∀ x ∈ a.plz.snoops, x.site ≠ n) ∧ Kept a b

/-- The commands of a CXL device that read or flush a line, with the message of the chiplet protocol they become, the
request at the home and whether the bridge discards the data (R250). -/
def CxlLineCommand (rights : Nat) (kind : TKind) (nodata : Bool) (c : Fin 6 → Fin 4096 → BitVec 52 → Instr) : Prop :=
  (rights = 9 ∧ kind = .rdShared ∧ nodata = false ∧ (c = .cxlRdshared ∨ c = .cxlRdany)) ∨
    (rights = 11 ∧ kind = .rdUnique ∧ nodata = false ∧ c = .cxlRdown) ∨
    (rights = 11 ∧ kind = .rdUnique ∧ nodata = true ∧ c = .cxlRdownnodata) ∨
    (rights = 1 ∧ kind = .flushLine ∧ nodata = false ∧ c = .cxlClflush)

/-- The commands of a CXL device that write (R250). -/
def CxlWriteCommand (c : Fin 6 → Fin 4096 → BitVec 52 → LineData → BitVec 128 → Bool → Instr) : Prop :=
  c = .cxlItomwr ∨ c = .cxlWrcur ∨ c = .cxlWrinv ∨ c = .cxlWowrinv ∨ c = .cxlWowrinvf

/-- A command that isolates a stack, with its cause (R214, R218). -/
def IsolateCommand (cause : Nat) (c : Fin 12 → Instr) : Prop :=
  (cause = ccOperator ∧ c = .stkCtrlIsolate) ∨ (cause = ccClock ∧ c = .stackClockLost) ∨
    (cause = ccLink ∧ c = .stackTrainingLost) ∨ (cause = ccBaseReset ∧ c = .stackBaseReset) ∨
    (cause = ccChannel ∧ c = .channelLost)

/-- The oldest request `t` of a line can start at a home that is alive (R235). -/
def State.Starts (s : State) (lk : Nat) (t : Txn) : Prop :=
  s.ready? lk = some t ∧ s.rb rPwrTrip 0 = false ∧ s.homeDead lk = false

/-- The snoop commands with the code, the transaction and the requester of the message that each carries (R234, R236). -/
def SnoopCommand (code : Nat) (c : Fin 6 → Instr) (m : Nat → Nat → Nat → CMsg) (r : Req) : Prop :=
  (code = 0x11 ∧ c = .snpFwdShared ∧ m = fun n lk t => .snpFwdShared n lk t r) ∨
    (code = 0x12 ∧ c = .snpFwdUnique ∧ m = fun n lk t => .snpFwdUnique n lk t r) ∨
    (code = 0x13 ∧ c = .snpFwdOnce ∧ m = fun n lk t => .snpFwdOnce n lk t r) ∨
    (code = 0x14 ∧ c = .snpRecall ∧ m = .snpRecall ∧ r = .none) ∨
    (code = 0x15 ∧ c = .snpDrop ∧ m = .snpDrop ∧ r = .none)

/-- The losses of R322 that one notice brings, with their causes. -/
def LossCommand (cause : Nat) (c : Fin 6 → Instr) : Prop :=
  (cause = ccChipletReset ∧ c = .resetNotice) ∨ (cause = ccChipletClock ∧ c = .pllUnlock) ∨
    (cause = ccSideband ∧ c = .sidebandLost) ∨ (cause = ccOperator ∧ c = .siteIsolate)

/-- Port `n` has begun a retrain at which the lanes `ok` can be kept (R367 steps 1 and 2): LANE_PLAN is the first of its
messages, and leaves as soon as flits and credits allow. -/
def Retraining (n ok : Nat) (a b : State) : Prop :=
  ∃ w m l, a = kflFlush n w ∧ (w.port n).held = m :: l ∧ m.msg = 0x32 ∧ m.w2 = ok ∧ w.portState n = 1 ∧
    w.rf (rFabPortNStatus n) 13 6 = ok ∧ w = { b with regs := w.regs, fab := w.fab, cnt := w.cnt, out := w.out }

end Sys2Proof.Machine
end

