-- ==== Sys2Proof/WellFormed.lean ====
section
/-!
DEFINITION. The commands that a sender can form. Operands that name a unit are bounded by their types; the checks here
are those of payloads whose length a message or a request states, and of fields that stand in a message as plain numbers.
-/
namespace Sys2Proof

/-- Corrected symbols: at most two, each one of the 72 positions of a unit's code (R199). -/
def symbolsWf (l : List Nat) : Bool := decide (l.length ≤ 2) && l.all (fun j => decide (j < 72))

/-- Read outcomes that R200 knows: corrections of at most two symbols, after one or two further reads at most. -/
def EccOutcome.wf : EccOutcome → Bool
  | .corrected l => symbolsWf l
  | .linkRetry n l => (n == 1 || n == 2) && symbolsWf l
  | _ => true

/-- A host request of 1 to 4,096 bytes; a write brings as many bytes as it states. -/
def accessWf (len : BitVec 13) (w : Option (List Byte)) : Bool :=
  decide (1 ≤ len.toNat) && decide (len.toNat ≤ 4096) &&
    (match w with
     | some bs => bs.length == len.toNat
     | none => true)

/-- A command that a sender can form. -/
def Instr.wf : Instr → Bool
  | .aluInstruction .. => true
  | .load .. => true
  | .store .. => true
  | .amo .. => true
  | .fenceI .. => true
  | .ebreak .. => true
  | .wfi .. => true
  | .csrAccess .. => true
  | .instructionFetch .. => true
  | .taskEnd .. => true
  | .taskFail .. => true
  | .trace .. => true
  | .illegalEcall .. => true
  | .xkIssue .. => true
  | .xkWait .. => true
  | .xkTest .. => true
  | .xkQfence .. => true
  | .xkBput .. => true
  | .xkBget .. => true
  | .xkBar .. => true
  | .barrierRelease .. => true
  | .commandStart .. => true
  | .commandComplete .. => true
  | .copyIn .. => true
  | .copyOut .. => true
  | .csIn .. => true
  | .csOut .. => true
  | .dmaTransferUnit .. => true
  | .matmul .. => true
  | .ftqSlotFull .. => true
  | .ftqDeadlock .. => true
  | .vopCopy .. => true
  | .vopAdd .. => true
  | .vopSub .. => true
  | .vopMul .. => true
  | .vopFma .. => true
  | .vopMax .. => true
  | .vopMin .. => true
  | .vopAbs .. => true
  | .vopNeg .. => true
  | .vopExp .. => true
  | .vopLog .. => true
  | .vopRcp .. => true
  | .vopRsqrt .. => true
  | .vopTanh .. => true
  | .vopErf .. => true
  | .vopCmplt .. => true
  | .vopCmple .. => true
  | .vopCmpeq .. => true
  | .vopSel .. => true
  | .vopUrand .. => true
  | .compress .. => true
  | .expand .. => true
  | .mxpack .. => true
  | .rsum .. => true
  | .rsumInclusiveScan .. => true
  | .rsumExclusiveScan .. => true
  | .rmax .. => true
  | .rmin .. => true
  | .rargmax .. => true
  | .rtopk .. => true
  | .taskDelivery .. => true
  | .abortInterrupt .. => true
  | .tileReport .. => true
  | .doorbell .. => true
  | .descriptorFetch .. => true
  | .dispatch .. => true
  | .taskPlacement .. => true
  | .taskReserving .. => true
  | .nop .. => true
  | .task .. => true
  | .copy .. => true
  | .reduce .. => true
  | .barrier .. => true
  | .snapshot .. => true
  | .resumePage .. => true
  | .descriptorComplete .. => true
  | .contextEnable .. => true
  | .contextDrain .. => true
  | .contextQuiesced .. => true
  | .contextOff .. => true
  | .ringEnable .. => true
  | .ringDisable .. => true
  | .cqHeadWrite .. => true
  | .mrd _ _ ev ev2 => ev.wf && ev2.wf
  | .mwr _ _ symbols => symbolsWf symbols
  | .mirrorHeal _ _ ev2 => ev2.wf
  | .bondMonitorWindow .. => true
  | .patrolRead _ ev ev2 => ev.wf && ev2.wf
  | .moduleRetrainStart .. => true
  | .moduleRetrainDone .. => true
  | .stkCtrlRetrain .. => true
  | .stkCtrlIsolate .. => true
  | .stkCtrlRejoin .. => true
  | .stackRejoinFillDone .. => true
  | .stackClockLost .. => true
  | .stackTrainingLost .. => true
  | .stackBaseReset .. => true
  | .stackSweepDone .. => true
  | .stackTempReport .. => true
  | .throttleStepDown .. => true
  | .throttleStepUp .. => true
  | .telemetryStale .. => true
  | .srtValidSet .. => true
  | .srtValidClear .. => true
  | .trackerStart .. => true
  | .rdShared .. => true
  | .rdUnique .. => true
  | .rdOnce .. => true
  | .wrFull .. => true
  | .wrPart .. => true
  | .atomic .. => true
  | .writeback .. => true
  | .evictClean .. => true
  | .flushLine .. => true
  | .snpFwdShared .. => true
  | .snpFwdUnique .. => true
  | .snpFwdOnce .. => true
  | .snpRecall .. => true
  | .snpDrop .. => true
  | .snpInvPass .. => true
  | .snpInvReturn .. => true
  | .ringSlotMark .. => true
  | .snpRsp .. => true
  | .compAck .. => true
  | .wbData .. => true
  | .stashAck .. => true
  | .memDone .. => true
  | .data .. => true
  | .comp .. => true
  | .wrAck .. => true
  | .wbAck .. => true
  | .snoopTimeout .. => true
  | .flushAll .. => true
  | .flushAllDone .. => true
  | .cxlRdshared .. => true
  | .cxlRdany .. => true
  | .cxlRdown .. => true
  | .cxlRdownnodata .. => true
  | .cxlRdcurr .. => true
  | .cxlItomwr .. => true
  | .cxlWrcur .. => true
  | .cxlWrinv .. => true
  | .cxlWowrinv .. => true
  | .cxlWowrinvf .. => true
  | .cxlDirtyevict .. => true
  | .cxlCleanevict .. => true
  | .cxlCleanevictnodata .. => true
  | .cxlClflush .. => true
  | .cxlCacheflushed .. => true
  | .cxlOtherRequest .. => true
  | .cxlSnoopResponse .. => true
  | .siteOwnerSweepDone .. => true
  | .translationWalkStep .. => true
  | .faultArrival .. => true
  | .faultRecordDelivery .. => true
  | .keptRecordWrite .. => true
  | .resumeAtWalker .. => true
  | .resumeWakeDone .. => true
  | .hostWaitExpiry .. => true
  | .xltInv .. => true
  | .xltInvDone .. => true
  | .fltOpEnable .. => true
  | .fltOpDisable .. => true
  | .fltHeadWrite .. => true
  | .siteFlit .. => true
  | .siteNak .. => true
  | .siteSeqGapTimeout .. => true
  | .siteAckTimer .. => true
  | .kspReqAdmission .. => true
  | .wdata .. => true
  | .memData .. => true
  | .memAck .. => true
  | .tgtTimeout .. => true
  | .caps .. => true
  | .joined .. => true
  | .status .. => true
  | .powerReport .. => true
  | .bondFail .. => true
  | .repairDone .. => true
  | .siteRepairTimeout .. => true
  | .certData _ bytes => decide (bytes.length ≤ 256)
  | .response _ sig => sig.length == 96
  | .resetNotice .. => true
  | .pllUnlock .. => true
  | .flushed .. => true
  | .mbox _ bytes => decide (bytes.length ≤ 256)
  | .siteBudgetTimer .. => true
  | .siteBudgetWrite .. => true
  | .sidebandLost .. => true
  | .siteClockLost .. => true
  | .siteOverpower .. => true
  | .siteClampTimeout .. => true
  | .siteUnclamp .. => true
  | .siteReset .. => true
  | .siteRejoin .. => true
  | .siteIsolate .. => true
  | .siteRetrain .. => true
  | .siteWinFence .. => true
  | .siteWinFenceDone .. => true
  | .siteRejoined .. => true
  | .siteRejoinFailed .. => true
  | .packetInject .. => true
  | .packetEject .. => true
  | .linkFlitError .. => true
  | .flushMarkerReturn .. => true
  | .deadTargetTimeout .. => true
  | .crossingLinkLost .. => true
  | .crossingDrainDone .. => true
  | .qosPeriodBoundary .. => true
  | .fabricFlit .. => true
  | .fabricNak .. => true
  | .fabricAckTimer .. => true
  | .kflRd .. => true
  | .kflWr .. => true
  | .kflWrPart .. => true
  | .kflAtomic .. => true
  | .rdData .. => true
  | .kflWrAck .. => true
  | .fabricRspTimeout .. => true
  | .faultWaitExpiry .. => true
  | .hello .. => true
  | .helloTimer .. => true
  | .lanePlan .. => true
  | .laneErrorWindow .. => true
  | .laneLockLost .. => true
  | .fabricRetrain .. => true
  | .fabricRetrainDone .. => true
  | .fabricRetrainTimeout .. => true
  | .noPeerRetry .. => true
  | .fabNodeWrite .. => true
  | .fabRtDataAccess .. => true
  | .fabWinFence .. => true
  | .fabWinFenceDone .. => true
  | .reduceArm .. => true
  | .redReady .. => true
  | .redReadyRepeat .. => true
  | .redData .. => true
  | .redAbort .. => true
  | .reduceTimeout .. => true
  | .reduceComplete .. => true
  | .hostMemoryRequest _ _ _ len w => accessWf len w
  | .hostAtomicop _ _ _ op w _ _ => decide (op.val < 3) && [4, 8, 16].contains w.val
  | .apertureAccess _ _ len w => accessWf len w
  | .hostCompletion _ st bytes => if st = .ok then bytes.length == 64 else bytes.isEmpty
  | .completionTimeout .. => true
  | .portUncorrectableError .. => true
  | .containmentRelease .. => true
  | .hotReset .. => true
  | .hostLinkDown .. => true
  | .configWrite .. => true
  | .flr .. => true
  | .flrDone .. => true
  | .msixTableWrite .. => true
  | .getVersion .. => true
  | .getCapabilities .. => true
  | .negotiateAlgorithms .. => true
  | .getDigests .. => true
  | .getCertificate .. => true
  | .challenge .. => true
  | .getMeasurements .. => true
  | .keyExchange .. => true
  | .finish .. => true
  | .heartbeat .. => true
  | .keyUpdate .. => true
  | .endSession .. => true
  | .ideKm .. => true
  | .lockInterfaceRequest .. => true
  | .getDeviceInterfaceReport .. => true
  | .getDeviceInterfaceState .. => true
  | .startInterfaceRequest .. => true
  | .stopInterfaceRequest .. => true
  | .resetAssert .. => true
  | .resetRelease .. => true
  | .railUndervoltage .. => true
  | .stageS0Done .. => true
  | .hostLinkTrained .. => true
  | .imageReady .. => true
  | .imageAdmission .. => true
  | .trainingDone .. => true
  | .selftestDone .. => true
  | .qualificationDone .. => true
  | .ready .. => true
  | .stageTimeout .. => true
  | .partitionReset .. => true
  | .partitionResetDone .. => true
  | .quarantineExit .. => true
  | .tileRetire .. => true
  | .certIssue .. => true
  | .reissue .. => true
  | .svnCommit .. => true
  | .lcTransitionGo .. => true
  | .lcTransition .. => true
  | .userStoreBurn .. => true
  | .gateOpen .. => true
  | .gateClose .. => true
  | .debugEnable .. => true
  | .debugDisable .. => true
  | .rngHealthFail .. => true
  | .tapInstruction .. => true
  | .setdasa .. => true
  | .entdaa .. => true
  | .i3cRead .. => true
  | .powerCommand .. => true
  | .powerCommandApply .. => true
  | .powerTransitionDone .. => true
  | .stackPowerSweepDone .. => true
  | .stackBudgetTimer .. => true
  | .stackBudgetWrite .. => true
  | .stackPowerReport .. => true
  | .fieldPowerSample .. => true
  | .stackClampTimeout .. => true
  | .stackUnclamp .. => true
  | .pllLockLost .. => true
  | .refclkLost .. => true
  | .tempSensorRead .. => true
  | .counterWrap .. => true
  | .bwWindowEnd .. => true
  | .counterLoRead .. => true
  | .snapRequest .. => true
  | .snapshotBegin .. => true
  | .snapshotMarker .. => true
  | .snapshotComplete .. => true
  | .rcRead .. => true
  | .sqClear .. => true
  | .registerWrite .. => true
  | .registerStallTimeout .. => true
  | .bulkSelWrite .. => true
  | .bulkDataAccess .. => true
  | .bulkBurstAccess _ _ len w => accessWf len w
  | .debugResume .. => true
  | .debugEndTask .. => true
  | .mboxSend .. => true
  | .mboxInAck .. => true
  | .railBackInRange .. => true
  | .hostLinkRetrained .. => true
  | .channelLost .. => true
  | .routerFailure .. => true
  | .siteMonitorWindow .. => true
  | .cxlMemResponse .. => true
  | .cxlD2hData .. => true
  | .mboxOutDone .. => true
  | .hubPowerSample .. => true

end Sys2Proof
end

