-- ==== Sys2Proof/Certificates/Slice0/Obligations.lean ====
section
/-!
DEFINITION. The statements for the provers, chapter by chapter of the spec: what each command does to the state, and what no
command changes. `Runs` and `Settles` (Sys2Proof/Safety.lean) say that a command completes and with what; an equation
`u = (s with some fields of u)` is the frame of a command: every field not named is as before.
-/
open Sys2Proof Sys2Proof.Machine

/-! ## Stepping -/

/-- A step takes the command at the front of the queue and is `exec` of it on the state with the queue's rest.
With an empty queue the block idles (log entry 1). Every command that a sender can form (`Instr.wf`: all but those with a payload
of a wrong length) is answered by a next state, in every state. -/
def Obligations.StepRunsFront : Prop :=
  (∀ (c : Instr) (q : List Instr) (s : State), s.pending = c :: q → step s = exec c { s with pending := q }) ∧
  (∀ s : State, s.pending = [] → step s = .next s) ∧
  (∀ (c : Instr) (s : State), c.wf = true → ∃ u, exec c s = .next u)

/-! ## The control core of a tile -/

/-- ALU instructions, FENCE, FENCE.I and CSR reads of instret and of the task's values, in either mode; in machine mode mret,
and a CSR of the privileged architecture read and written.
What ADD, SUB, XOR, MUL, ADDI with an immediate of 0 to 2047 and a short forward BEQ compute from their words (RISC-V, PRESUMED, log entry 10).
What the instruction cache holds at pc is fetched: 16 bits, or 32 where the low bits are 11. -/
def Obligations.CoreInstructions : Prop :=
  (∀ (t : Fin 72) (w len : Nat) (s : State), s.AtInstr t w len →
     (rvClass w = .alu → Runs (.aluInstruction t) s (fun u =>
       let r := aluResult w len (s.tile t).pc ((s.tile t).gpr (rvRs1 w)) ((s.tile t).gpr (rvRs2 w))
       Retired t r.2 (r.1.map (fun v => (rvRd w, v))) (s.tile t) u s)) ∧
     (rvClass w = .fence → Runs (.aluInstruction t) s (fun u =>
       Retired t ((s.tile t).pc + BitVec.ofNat 64 len) none (s.tile t) u s)) ∧
     (rvClass w = .fenceI → Runs (.fenceI t) s (fun u =>
       Retired t ((s.tile t).pc + BitVec.ofNat 64 len) none { s.tile t with lines := [] } u s)) ∧
     (rvClass w = .csr → (rvF3 w = 2 ∨ rvF3 w = 3) → rvRs1 w = 0 → ∀ v : W64,
       (bits w 31 20 = 0xC02 ∧ v = (s.tile t).instret) ∨
         (bits w 31 20 = 0xCC1 ∧ v = BitVec.ofNat 64 (s.tile t).logical) ∨
         (bits w 31 20 = 0xCC3 ∧ v = (s.tile t).seed) →
       Runs (.csrAccess t) s (fun u =>
         Retired t ((s.tile t).pc + BitVec.ofNat 64 len) (some (rvRd w, v)) (s.tile t) u s)) ∧
     (rvClass w = .mret → (s.tile t).mode = .machine → Runs (.aluInstruction t) s (fun u => TileOnly t u s ∧
       (u.tile t).pc = (s.tile t).csr.mepc ∧ (u.tile t).x = (s.tile t).x ∧
       (u.tile t).mode = (if bits (s.tile t).csr.mstatus.toNat 12 11 = 3 then .machine else .user) ∧
       (u.tile t).csr.mepc = (s.tile t).csr.mepc ∧ (u.tile t).store = (s.tile t).store ∧ (u.tile t).dmem = (s.tile t).dmem)) ∧
     (rvClass w = .csr → (s.tile t).mode = .machine → bits w 31 20 = 0x340 → rvF3 w = 1 → rvRs1 w < 32 →
       Runs (.csrAccess t) s (fun u => Retired t ((s.tile t).pc + BitVec.ofNat 64 len)
         (some (rvRd w, (s.tile t).csr.mscratch))
         { s.tile t with csr := { (s.tile t).csr with mscratch := (s.tile t).gpr (rvRs1 w) } } u s))) ∧
  (∀ (rd rs1 rs2 : Nat) (pc a b : W64), rd < 32 → rs1 < 32 → rs2 < 32 →
     (aluResult (encR 0x33 rd 0 rs1 rs2 0) 4 pc a b = (some (a + b), pc + 4) ∧
       rvClass (encR 0x33 rd 0 rs1 rs2 0) = .alu ∧ rvRd (encR 0x33 rd 0 rs1 rs2 0) = rd ∧
       rvRs1 (encR 0x33 rd 0 rs1 rs2 0) = rs1 ∧ rvRs2 (encR 0x33 rd 0 rs1 rs2 0) = rs2) ∧
     aluResult (encR 0x33 rd 0 rs1 rs2 32) 4 pc a b = (some (a - b), pc + 4) ∧
     aluResult (encR 0x33 rd 4 rs1 rs2 0) 4 pc a b = (some (a ^^^ b), pc + 4) ∧
     aluResult (encR 0x33 rd 0 rs1 rs2 1) 4 pc a b = (some (a * b), pc + 4) ∧
     (∀ imm, imm < 2048 → aluResult (encI 0x13 rd 0 rs1 imm) 4 pc a b = (some (a + BitVec.ofNat 64 imm), pc + 4)) ∧
     (∀ imm, imm < 16 → aluResult (encB 0 rs1 rs2 (2 * imm)) 4 pc a b =
       (none, if a = b then pc + BitVec.ofNat 64 (2 * imm) else pc + 4))) ∧
  (∀ (t : Fin 72) (s : State) (h : Nat), (s.tile t).running = true → s.tripped = false → (s.tile t).ir = none →
     (s.tile t).stall = .none → (s.tile t).parcel? (s.tile t).pc.toNat = some h → (s.tile t).pc.toNat + 2 < 2 ^ 55 →
     (h % 4 ≠ 3 → Runs (.instructionFetch t) s (fun u => TileOnly t u s ∧
       u.tile t = { s.tile t with ir := some ((expandC h).getD 0, 2) })) ∧
     (∀ g, h % 4 = 3 → (s.tile t).parcel? ((s.tile t).pc.toNat + 2) = some g →
       Runs (.instructionFetch t) s (fun u => TileOnly t u s ∧
         u.tile t = { s.tile t with ir := some (h + 2 ^ 16 * g, 4) })))

/-- Loads and stores of DMEM and the tile store, aligned and on good units; a load sees the tile store as it stands where no write
of another queue is unobserved, and a store is kept with what it overwrites (R62).
LR, SC and the AMOs on DMEM: the reservation is the aligned 8 bytes, and only SC under it stores. -/
def Obligations.CoreMemoryAccesses : Prop :=
  (∀ (t : Fin 72) (w len : Nat) (s : State), s.AtInstr t w len →
     let x := s.tile t
     let n := rvSize (rvF3 w)
     (rvClass w = .load → ∀ o, x.gpr (rvRs1 w) + rvImmI w = BitVec.ofNat 64 (0x10000000 + o) → o % n = 0 →
       o + n ≤ 0xC000 → x.dmemUe.contains (o / 8) = false →
       Runs (.load t false) s (fun u => Retired t (x.pc + BitVec.ofNat 64 len)
         (some (rvRd w, loadExtend (rvF3 w) (Mem.readNat x.dmem o n))) x u s)) ∧
     (rvClass w = .load → ∀ o, x.gpr (rvRs1 w) + rvImmI w = BitVec.ofNat 64 o → o % n = 0 → o + n ≤ 0x400000 →
       x.storeUe.contains (o / 64) = false → Table.find? x.storeMarks (o / 64) = none →
       (∀ e ∈ x.unord, x.ordered none e = true) →
       Runs (.load t false) s (fun u => Retired t (x.pc + BitVec.ofNat 64 len)
         (some (rvRd w, loadExtend (rvF3 w) (Mem.readNat x.store o n))) x u s)) ∧
     (rvClass w = .store → ∀ o, x.gpr (rvRs1 w) + rvImmS w = BitVec.ofNat 64 o → o % n = 0 → o + n ≤ 0x400000 →
       Runs (.store t) s (fun u => Retired t (x.pc + BitVec.ofNat 64 len) none
         (noteWrites 4 x.issues x { x with store := Mem.writeNat x.store o n (x.gpr (rvRs2 w)).toNat }) u s)) ∧
     (rvClass w = .store → ∀ o, x.gpr (rvRs1 w) + rvImmS w = BitVec.ofNat 64 (0x10000000 + o) → o % n = 0 →
       o + n ≤ 0xC000 →
       Runs (.store t) s (fun u => Retired t (x.pc + BitVec.ofNat 64 len) none
         { x with dmem := Mem.writeNat x.dmem o n (x.gpr (rvRs2 w)).toNat,
                  dmemUe := if n = 8 then x.dmemUe.filter (· != o / 8) else x.dmemUe } u s))) ∧
  (∀ (t : Fin 72) (w len o : Nat) (s : State), s.AtInstr t w len → rvClass w = .amo →
     let x := s.tile t
     let n := rvSize (rvF3 w)
     let nxt := x.pc + BitVec.ofNat 64 len
     let src := (x.gpr (rvRs2 w)).toNat
     let wrote (v : Nat) : Tile :=
       { x with dmem := Mem.writeNat x.dmem o n v, dmemUe := if n = 8 then x.dmemUe.filter (· != o / 8) else x.dmemUe }
     x.gpr (rvRs1 w) = BitVec.ofNat 64 (0x10000000 + o) → o % n = 0 → o + n ≤ 0xC000 →
     x.dmemUe.contains (o / 8) = false →
     (bits w 31 27 = 2 → Runs (.amo t false) s (fun u =>
       Retired t nxt (some (rvRd w, loadExtend (rvF3 w) (Mem.readNat x.dmem o n)))
         { x with reserv := some (o / 8) } u s)) ∧
     (bits w 31 27 = 3 → x.reserv = some (o / 8) → Runs (.amo t false) s (fun u =>
       Retired t nxt (some (rvRd w, 0)) { (wrote src) with reserv := none } u s)) ∧
     (bits w 31 27 = 3 → x.reserv ≠ some (o / 8) → Runs (.amo t false) s (fun u =>
       Retired t nxt (some (rvRd w, 1)) { x with reserv := none } u s)) ∧
     (bits w 31 27 ≠ 2 → bits w 31 27 ≠ 3 → Runs (.amo t false) s (fun u =>
       Retired t nxt (some (rvRd w, loadExtend (rvF3 w) (Mem.readNat x.dmem o n)))
         (wrote (amoOp (bits w 31 27) n (Mem.readNat x.dmem o n) src)) u s)))

/-- TASK_END, TASK_FAIL, TRACE and an unknown ecall of a user program.
EBREAK, WFI and the exceptions of loads, stores and atomics in user mode; WFI in machine mode waits. -/
def Obligations.EcallsAndExceptions : Prop :=
  (∀ (t : Fin 72) (w len f : Nat) (s : State), s.AtCall t w len f →
     let x := s.tile t
     (f = 0 → x.idle = true → Runs (.taskEnd t) s (fun u => TileOnly t u s ∧
       u.tile t = emptyFtq { x.trap 8 0 with ending := some .done })) ∧
     (f = 0 → x.idle = false → Runs (.taskEnd t) s (fun u => TileOnly t u s ∧ u.tile t = { x with stall := .taskEnd })) ∧
     (f = 1 → Runs (.taskFail t) s (fun u => Stopped t (.failed 0x10 ((x.gpr 10).toNat % 2 ^ 16)) u s)) ∧
     (f = 2 → Runs (.trace t) s (fun u => Retired t (x.pc + BitVec.ofNat 64 len) none
       ((if s.debugOn then { x with trace := (x.trace ++ [x.gpr 10]).drop (x.trace.length + 1 - 256) } else x).served
         (x.pc + BitVec.ofNat 64 len)) u s)) ∧
     (3 ≤ f → Runs (.illegalEcall t) s (fun u => Stopped t (.failed 0x11 0) u s))) ∧
  ((∀ (t : Fin 72) (w len : Nat) (s : State), s.AtInstr t w len → (s.tile t).mode = .user →
     let x := s.tile t
     (rvClass w = .ebreak → s.debugOn = true →
       Runs (.ebreak t) s (fun u => TileOnly t u s ∧ u.tile t = { x with stall := .halted })) ∧
     (rvClass w = .ebreak → s.debugOn = false → Runs (.ebreak t) s (fun u => Trapped t 3 u s)) ∧
     (rvClass w = .illegal → Runs (.aluInstruction t) s (fun u => Trapped t 2 u s)) ∧
     (rvClass w = .wfi → Runs (.wfi t) s (fun u => Trapped t 2 u s)) ∧
     (rvClass w = .load → (x.gpr (rvRs1 w) + rvImmI w).toNat % rvSize (rvF3 w) ≠ 0 →
       Runs (.load t false) s (fun u => Trapped t 4 u s)) ∧
     (rvClass w = .store → (x.gpr (rvRs1 w) + rvImmS w).toNat % rvSize (rvF3 w) ≠ 0 →
       Runs (.store t) s (fun u => Trapped t 6 u s)) ∧
     (rvClass w = .amo → (x.gpr (rvRs1 w)).toNat % rvSize (rvF3 w) = 0 → (x.gpr (rvRs1 w)).toNat < 0x10000000 →
       Runs (.amo t false) s (fun u => Trapped t 7 u s))) ∧
   (∀ (t : Fin 72) (w len : Nat) (s : State), s.AtInstr t w len → (s.tile t).mode = .machine → rvClass w = .wfi →
     bit (s.tile t).csr.mip.toNat 11 = false → Runs (.wfi t) s (fun u => TileOnly t u s ∧
       u.tile t = { s.tile t with pc := (s.tile t).pc + BitVec.ofNat 64 len, ir := none, stall := .wfi,
                                  instret := (s.tile t).instret + 1 })))

/-- The instructions on tickets, broadcast ports and barriers.
The last arrival releases a barrier: every tile that waits there goes on. -/
def Obligations.TicketsPortsBarriers : Prop :=
  (∀ (t : Fin 72) (w len : Nat) (s : State), s.AtInstr t w len →
     let x := s.tile t
     let nxt := x.pc + BitVec.ofNat 64 len
     let d := x.queue (rvF7 w % 4)
     let n := (x.gpr (rvRs1 w)).toNat
     (rvClass w = .xkWait → n ≤ d.done → d.done ≤ d.issued →
       Runs (.xkWait t) s (fun u => Retired t nxt (some (rvRd w, BitVec.ofNat 64 (d.statusWord n)))
         (x.observe (rvF7 w % 4) n) u s)) ∧
     (rvClass w = .xkWait → d.done < n → n ≤ d.issued →
       Runs (.xkWait t) s (fun u => TileOnly t u s ∧ u.tile t = { x with stall := .wait (rvF7 w % 4) n (rvRd w) })) ∧
     (rvClass w = .xkTest → n ≤ d.issued → Runs (.xkTest t) s (fun u =>
       Retired t nxt (some (rvRd w, if n ≤ d.done then BitVec.ofNat 64 (d.statusWord n) else 0))
         (if n ≤ d.done then x.observe (rvF7 w % 4) n else x) u s)) ∧
     (rvClass w = .xkQfence → (∀ q, q < 4 → bit (rvF7 w % 16) q = true → (x.queue q).entries = []) →
       Runs (.xkQfence t) s (fun u => Retired t nxt none { x with seen := (u.tile t).seen } u s ∧
         ∀ q, q < 4 → vget 0 (u.tile t).seen q =
           if bit (rvF7 w % 16) q then max (x.queue q).done (vget 0 x.seen q) else vget 0 x.seen q)) ∧
     (rvClass w = .xkBput → Runs (.xkBput t) s (fun u =>
       Retired t nxt none { x with ports := x.ports.setIfInBounds (rvF7 w % 2) (x.gpr (rvRs1 w)) } u s)) ∧
     (rvClass w = .xkBget → Runs (.xkBget t) s (fun u =>
       Retired t nxt (some (rvRd w, vget 0 x.ports (rvF7 w % 2))) x u s)) ∧
     (∀ l, rvClass w = .xkBar → s.liveAt t = some l → l.tiles.length ≠ 1 → Runs (.xkBar t) s (fun u =>
       u.tile t = { x with stall := .bar (rvF7 w % 4) } ∧
       TileOnly t u (updLive l.id (fun l => { l with bars := vupd [] l.bars (rvF7 w % 4) (· ++ [t.val]) }) s)))) ∧
  (∀ (id : Nat) (b : Fin 4) (s : State) (l : Live), s.liveOf? id = some l → vget [] l.bars b ≠ [] → s.tripped = false →
     (∀ t ∈ l.tiles, s.arrived l b t = true) → (vget [] l.bars b).Nodup → (∀ t ∈ vget [] l.bars b, t < 72) →
     Runs (.barrierRelease id b) s (fun u =>
       (∀ t, t ∈ vget [] l.bars b → (s.tile t).stall = .bar b → (s.tile t).awake = true →
         u.tile t = { s.tile t with pc := (s.tile t).pc + 4, ir := none, stall := .none, instret := (s.tile t).instret + 1 }) ∧
       (∀ t, t ∉ vget [] l.bars b → u.tile t = s.tile t) ∧
       u.lives = (updLive id (fun l => { l with bars := vupd [] l.bars b (fun _ => []),
                                                barUse := vupd 0 l.barUse b (· + 1) }) s).lives ∧
       u = { s with tiles := u.tiles, lives := u.lives, cnt := u.cnt }))

/-- XK_ISSUE of a block that passes its checks, into a queue with room.
Commands start in order once their dependencies are met, and complete with their ticket and flags.
The finished-tile queue: a slot that is FILLING becomes FULL; a core that waits for commands none of which can go on
fails its task. -/
def Obligations.CommandQueues : Prop :=
  (∀ (t : Fin 72) (w len off : Nat) (s : State), s.AtInstr t w len → rvClass w = .xkIssue →
     let x := s.tile t
     let q := rvF7 w % 4
     let d := x.queue q
     let ws := wordsOf (Mem.readBytes x.dmem off 64) 16
     x.gpr (rvRs1 w) = BitVec.ofNat 64 (0x10000000 + off) → off % 64 = 0 → off + 64 ≤ 0xC000 → x.dmemUe = [] →
     commandOk x q ws = true → d.issued < 2 ^ 32 - 1 →
     (d.entries.length < queueCap q → Runs (.xkIssue t none) s (fun u =>
       let y := u.tile t
       TileOnly t u s ∧ y.pc = x.pc + BitVec.ofNat 64 len ∧ y.ir = none ∧
         (rvRd w ≠ 0 → y.gpr (rvRd w) = BitVec.ofNat 64 (d.issued + 1)) ∧
         (∀ r, r < 32 → r ≠ rvRd w → y.gpr r = x.gpr r) ∧
         (y.queue q).issued = d.issued + 1 ∧ (y.queue q).done = d.done ∧
         (∃ e, (y.queue q).entries = d.entries ++ [e] ∧ e.ticket = d.issued + 1 ∧ e.words = ws ∧ e.started = false ∧
           e.port0 = vget 0 x.ports 0 ∧ e.port1 = vget 0 x.ports 1) ∧
         (∀ p, p ≠ q → y.queue p = x.queue p) ∧ y.store = x.store ∧ y.dmem = x.dmem)) ∧
     (d.entries.length = queueCap q → Runs (.xkIssue t none) s (fun u =>
       TileOnly t u s ∧ u.tile t = { x with stall := .issue q }))) ∧
  (∀ (t : Fin 72) (q : Fin 4) (e : QCmd) (es : List QCmd) (s : State),
     let x := s.tile t
     let d := x.queue q
     d.entries = e :: es → x.running = true → s.tripped = false →
     (e.started = false → x.depsMet e = true → Runs (.commandStart t q) s (fun u => TileOnly t u s ∧
       u.tile t = x.updQueue q (fun d => { d with entries := { e with started := true } :: es }))) ∧
     (e.started = true → s.commandDone t q e = true → (e.tagged && s.rb rSmpCtrl 0) = false →
       Runs (.commandComplete t q) s (fun u => TileOnly t u s ∧
         u.tile t = x.updQueue q (fun d => { d with entries := es, done := d.done + 1,
                                                    flags := ((e.sat, e.nan) :: d.flags).take 256 })))) ∧
  (∀ (t : Fin 72) (s : State),
     let x := s.tile t
     (∀ i, i < 8 → (vget .init x.ftq ((x.ftqTail + i) % 8)).st = .filling →
       (∀ j, j < i → (vget .init x.ftq ((x.ftqTail + j) % 8)).st ≠ .filling) →
       (vget .init x.ftq ((x.ftqTail + i) % 8)).hist = false →
       Runs (.ftqSlotFull t) s (fun u => TileOnly t u s ∧ u.tile t =
         { x with ftq := vupd .init x.ftq ((x.ftqTail + i) % 8) (fun f => { f with st := .full }) })) ∧
     (x.running = true → s.tripped = false → x.held = true → x.idle = false →
       (∀ q, q < 4 → s.canProgress t q = false) →
       Runs (.ftqDeadlock t) s (fun u => Stopped t (.failed 0x18 0) u s)))

/-! ## The engines of a tile and of a cluster -/

/-- The vector engine does the next block of the running command, whose units are good; a slot of the finished-tile queue is
first taken, and empty again after its block.
What the element operations give on FP32 encodings. -/
def Obligations.VectorEngine : Prop :=
  (∀ (t : Fin 72) (e : QCmd) (s : State), s.runningCmd? t 1 = some e → e.pos < vecBlocks e.words →
     (s.tile t).storeUe = [] → (s.tile t).storeMarks = [] → (s.tile t).unord = [] →
     let does (block : Tile → Tile → QCmd → BlockRes) (u : State) : Prop :=
       let x := s.tile t
       let r := block x x e
       let y := (noteWrites 1 e.ticket x r.tile).progress 1 (e.pos + 1) r.sat r.nan
       TileOnly t u s ∧ u.tile t = if vecMode e.words 0 = 5 then y.freeSlot else y
     (vecMode e.words 0 = 5 → (vget .init (s.tile t).ftq (s.tile t).ftqTail).st = .draining) →
     (∀ p ∈ vopCommands, wf e.words 0 15 0 = 1 → wf e.words 10 31 24 = p.1 → Runs (p.2 t none) s (does vopBlock)) ∧
     (∀ p ∈ blockCommands, wf e.words 0 15 0 = p.1 → Runs (p.2.2 t none) s (does p.2.1))) ∧
  (∀ (t : Fin 72) (e : QCmd) (s : State), s.runningCmd? t 1 = some e → e.pos < vecBlocks e.words → vecMode e.words 0 = 5 →
     (s.tile t).ftqTail < 8 → (vget .init (s.tile t).ftq (s.tile t).ftqTail).st = .full →
     (vget .init (s.tile t).ftq (s.tile t).ftqTail).fp32 = (vecFmt e.words 0 == 1) → ∀ bad,
     (∀ p ∈ vopCommands, wf e.words 0 15 0 = 1 → wf e.words 10 31 24 = p.1 → Runs (p.2 t bad) s (fun u => TileOnly t u s ∧
       (vget .init (u.tile t).ftq (s.tile t).ftqTail).st = .draining ∧ (u.tile t).ftqTail = (s.tile t).ftqTail ∧
       (u.tile t).store = (s.tile t).store)) ∧
     (wf e.words 0 15 0 = 4 → Runs (.mxpack t bad) s (fun u => TileOnly t u s ∧
       (vget .init (u.tile t).ftq (s.tile t).ftqTail).st = .draining ∧ (u.tile t).store = (s.tile t).store))) ∧
  (∀ (x y z : Nat) (m : Bool), x < 2 ^ 32 → y < 2 ^ 32 →
     let isNan (c : Nat) : Prop := Fmt.fp32.decode c = .nan
     vopResult 0x01 x y z m = vopResult 0x01 y x z m ∧ vopResult 0x03 x y z m = vopResult 0x03 y x z m ∧
     (isNan x ∨ isNan y → vopResult 0x05 x y z m = 0x7FC00000 ∧ vopResult 0x06 x y z m = 0x7FC00000 ∧
       vopResult 0x10 x y z m = 0 ∧ vopResult 0x11 x y z m = 0 ∧ vopResult 0x12 x y z m = 0) ∧
     (¬ isNan x → vopResult 0x07 x y z m = x % 2 ^ 31 ∧ vopResult 0x08 x y z m = (x + 2 ^ 31) % 2 ^ 32) ∧
     (¬ isNan x → ¬ isNan y → vopResult 0x11 x y z m = max (vopResult 0x10 x y z m) (vopResult 0x12 x y z m)) ∧
     (isNan x → vopResult 0x07 x y z m = 0x7FC00000 ∧ vopResult 0x09 x y z m = 0x7FC00000) ∧
     vopResult 0x09 0x7F800000 y z m = 0x7F800000 ∧ vopResult 0x09 0xFF800000 y z m = 0 ∧
     vopResult 0x0A 0x3F800000 y z m = 0 ∧ vopResult 0x0B 0x80000000 y z m = 0xFF800000)

/-- The reduction unit does the next block of the running command and writes the results of its rows with the last one.
The matrix engine computes the next output tile and writes it to C, or into an EMPTY slot; with DEST 1 and no such slot the tile
waits in an accumulator bank. -/
def Obligations.MatrixAndReductionUnits : Prop :=
  (∀ r ∈ redCommands, ∀ (t : Fin 72) (e : QCmd) (s : State), s.runningCmd? t 2 = some e → r.takes e.words = true →
     e.pos < redBlocks e.words → (s.tile t).storeUe = [] → (s.tile t).storeMarks = [] → (s.tile t).unord = [] →
     let x := s.tile t
     let rs := (redRows e.words e.pos).map (fun i => (i, r.row x e.words i))
     (redLast e.words e.pos = true → Runs (r.cmd t none) s (fun u => TileOnly t u s ∧
       u.tile t = (noteWrites 2 e.ticket x (redWrite r.strided e.words rs x)).progress 2 (e.pos + 1) false
         (rs.any (fun r => r.2.1.any (isNanCode .fp32))))) ∧
     (redLast e.words e.pos = false → Runs (r.cmd t none) s (fun u => TileOnly t u s ∧
       u.tile t = x.progress 2 (e.pos + 1) false false))) ∧
  (∀ (t : Fin 72) (e : QCmd) (s : State), s.runningCmd? t 0 = some e →
     let c := matCfg e.words
     let x := s.tile t
     e.pos < c.tiles → x.storeUe = [] → x.storeMarks = [] → x.unord = [] → c.hist = false →
     (c.ftq = false → Runs (.matmul t none false) s (fun u =>
       let y := (c.rows e.pos).foldl (fun (y : Tile) p => y.writeElems (c.cBase p.1) c.fo.bits (64 * p.2)
         ((List.range 64).map (fun col => some (c.output x p.1 p.2 col).1))) x
       TileOnly t u s ∧ (u.tile t).store = y.store ∧ (u.tile t).x = x.x ∧ (u.tile t).dmem = x.dmem ∧
         (u.tile t).ftq = x.ftq ∧ ∃ d es, ((u.tile t).queue 0).entries = d :: es ∧ d.pos = e.pos + 1 ∧ d.words = e.words)) ∧
     (c.ftq = true → x.accs.length < 2 → (vget .init x.ftq x.ftqHead).st ≠ .empty → Runs (.matmul t none false) s (fun u =>
       TileOnly t u s ∧ (u.tile t).store = x.store ∧ (u.tile t).ftq = x.ftq ∧ (u.tile t).ftqHead = x.ftqHead ∧
         ∃ f, (u.tile t).accs = x.accs ++ [f] ∧ f.st = .filling ∧ f.ticket = e.ticket ∧ f.index = e.pos % 2 ^ 16)) ∧
     (c.ftq = true → x.accs.length = 2 → exec (.matmul t none false) s = .next s) ∧
     (c.ftq = true → x.accs = [] → (vget .init x.ftq x.ftqHead).st = .empty → x.ftqHead < 8 → Runs (.matmul t none false) s (fun u =>
       TileOnly t u s ∧ (u.tile t).store = x.store ∧ (u.tile t).ftqHead = (x.ftqHead + 1) % 8 ∧
         (vget .init (u.tile t).ftq x.ftqHead).st = .filling ∧ (vget .init (u.tile t).ftq x.ftqHead).ticket = e.ticket ∧
         (vget .init (u.tile t).ftq x.ftqHead).index = e.pos % 2 ^ 16 ∧ (u.tile t).accs = [] ∧
         (vget .init (u.tile t).ftq x.ftqHead).rows = (c.rows e.pos).length)))

/-- The cluster's engine moves units between the tile store and the task's window of the cluster store.
The cluster's engine moves units between the tile store and device virtual addresses, serves whoever has the turn, and
moves the units of a COPY. -/
def Obligations.DmaEngine : Prop :=
  (∀ (t : Fin 72) (e : QCmd) (s : State) (l : Live), s.runningCmd? t 3 = some e → s.liveAt t = some l →
     s.dmaTurn? (tileCluster t) = some (t.val % 4) → e.pos < dmaUnits e.words → dmaOk (s.tile t) e.words = true →
     let x := s.tile t
     let ws := e.words
     let c := tileCluster t
     let gs := Table.get [] l.windows c
     let row := (rowPos (wf ws 7 22 0) e.pos).1
     let off := (rowPos (wf ws 7 22 0) e.pos).2
     let n := min 32 ((wf ws 7 22 0 - off) / 64)
     let ts := wf ws 6 21 0 + row * wf ws 11 22 0 + off
     let o := ((wd ws 4 : Int) + stride48 ws 9 10 * (row : Int) + (off : Int)).toNat
     gs.Nodup → o + 64 * n ≤ 65536 * gs.length → x.storeUe = [] → x.unord = [] → Mem.wf x.store = true →
     Mem.wf (s.cluster c).store = true →
     (wf ws 0 15 0 = 3 → Runs (.csIn t) s (fun u =>
       (∀ i, i < 64 * n → Mem.read (u.tile t).store (ts + i) = Mem.read (s.cluster c).store (windowAddr gs (o + i))) ∧
       (∀ a, a < ts ∨ ts + 64 * n ≤ a → Mem.read (u.tile t).store a = Mem.read x.store a) ∧
       (u.cluster c).store = (s.cluster c).store ∧ (∀ k, k ≠ t.val → u.tile k = s.tile k) ∧
       (∃ d es, ((u.tile t).queue 3).entries = d :: es ∧ d.pos = e.pos + n) ∧ (u.cluster c).turn = (t.val % 4 + 1) % 5)) ∧
     (wf ws 0 15 0 = 4 → Runs (.csOut t) s (fun u =>
       (∀ i, i < 64 * n → Mem.read (u.cluster c).store (windowAddr gs (o + i)) = Mem.read x.store (ts + i)) ∧
       (∀ a, (∀ i, i < 64 * n → a ≠ windowAddr gs (o + i)) →
         Mem.read (u.cluster c).store a = Mem.read (s.cluster c).store a) ∧
       (u.tile t).store = x.store ∧ (∀ k, k ≠ t.val → u.tile k = s.tile k) ∧
       (∃ d es, ((u.tile t).queue 3).entries = d :: es ∧ d.pos = e.pos + n) ∧ (u.cluster c).turn = (t.val % 4 + 1) % 5))) ∧
  ((∀ (t : Fin 72) (e : QCmd) (s : State) (f : CacheEnt) (k a ent lvl : Nat), s.runningCmd? t 3 = some e →
     s.dmaTurn? (tileCluster t) = some (t.val % 4) → e.pos < dmaUnits e.words → dmaOk (s.tile t) e.words = true →
     let x := s.tile t
     let ws := e.words
     let row := (rowPos (wf ws 7 22 0) e.pos).1
     let off := (rowPos (wf ws 7 22 0) e.pos).2
     let ts := wf ws 6 21 0 + row * wf ws 11 22 0 + off
     let va := strided55 (wva ws 4 5) (stride48 ws 9 10) row off
     let left := (wf ws 7 22 0 - off) / 64
     s.xlt.aborted = [] → s.xlt.stalled = [] → (s.cacheOf (.tileDma t)).find? (fun e => e.hits x.ctx va) = some f →
     (∀ d, wf ws 0 15 0 = 1 → Mem.wf x.store = true →
       s.useLeaf x.ctx f.entry f.level va .read = .ok (.stacked k a) ent lvl → s.plz.arrivals = [] → s.plz.asked = [] →
       s.homeDead (lineKey k a) = false → s.lineFree (lineKey k a) = true → s.stackOut? k = none →
       (s.pline (lineKey k a)).unit? (a / 64 % 2) = some (d, none) →
       Runs (.copyIn t) s (fun u =>
         Mem.readBytes (u.tile t).store ts 64 = natToBytes 64 d.toNat ∧ (∀ k, k ≠ t.val → u.tile k = s.tile k) ∧
         (∀ a, a < ts ∨ ts + 64 * left ≤ a → Mem.read (u.tile t).store a = Mem.read x.store a) ∧
         (∃ c es, ((u.tile t).queue 3).entries = c :: es ∧ e.pos < c.pos) ∧
         (u.cluster (tileCluster t)).turn = (t.val % 4 + 1) % 5)) ∧
     (wf ws 0 15 0 = 2 → s.useLeaf x.ctx f.entry f.level va .write = .ok (.stacked k a) ent lvl →
       x.storeUe = [] → x.unord = [] → left ≤ 32 → left ≤ (512 - va % 512) / 64 →
       Runs (.copyOut t) s (fun u => ∃ s2, s2 = { s with cnt := s2.cnt } ∧
         let r := agentStore opRecord (.tileDma t) (fun i => Table.find? x.storeMarks (ts / 64 + i)) (hintOf (wf ws 12 3 0))
           x.cls (entMirror ent) (64 * left + 1) 0 (.stacked k a) (Mem.readBytes x.store ts (64 * left)) s2
         u.plz = r.2.plz ∧ u.dram = r.2.dram ∧ (u.tile t).store = x.store ∧ (∀ k, k ≠ t.val → u.tile k = s.tile k) ∧
         (∃ c es, ((u.tile t).queue 3).entries = c :: es ∧ c.pos = e.pos + left ∧ c.outst = e.outst + r.1.1) ∧
         (u.cluster (tileCluster t)).turn = (t.val % 4 + 1) % 5))) ∧
   (∀ (c : Fin 18) (s : State), (∀ p, s.dmaTurn? c = some p → exec (.dmaTransferUnit c) s = .next (dmaServe c p s)) ∧
     (s.dmaTurn? c = none → exec (.dmaTransferUnit c) s = .next s) ∧
     (∀ (t : Fin 72) (e : QCmd), s.runningCmd? t 3 = some e → tileCluster t = c.val → s.dmaTurn? c = some (t.val % 4) →
       (wf e.words 0 15 0 = 1 → exec (.dmaTransferUnit c) s = exec (.copyIn t) s) ∧
       (wf e.words 0 15 0 = 2 → exec (.dmaTransferUnit c) s = exec (.copyOut t) s) ∧
       (wf e.words 0 15 0 = 3 → exec (.dmaTransferUnit c) s = exec (.csIn t) s) ∧
       (wf e.words 0 15 0 = 4 → exec (.dmaTransferUnit c) s = exec (.csOut t) s)) ∧
     (∀ (id : Nat) (l : Live), s.liveOf? id = some l → l.opcode = 2 → l.cluster = c.val → s.dmaTurn? c = some 4 →
       s.nextCopy? c = some id → exec (.dmaTransferUnit c) s = exec (.copy id) s)) ∧
   (∀ (id : Nat) (l : Live) (s : State) (f : CacheEnt) (kd ad ent lvl : Nat) (g : Nat → CacheEnt) (tgt : Nat → Nat × Nat)
     (d : Nat → UnitData), s.liveOf? id = some l → l.opcode = 2 → l.cluster < 18 →
     s.dmaTurn? l.cluster = some 4 → s.nextCopy? l.cluster = some id →
     let ws := l.words
     let row := (rowPos (wf ws 9 22 0) l.progress).1
     let off := (rowPos (wf ws 9 22 0) l.progress).2
     let dst := strided55 (wva ws 7 8) (signed 48 (wd ws 13 % 2 ^ 32 + 2 ^ 32 * wf ws 12 31 16)) row off
     let src (i : Nat) : Nat :=
       strided55 (wva ws 5 6) (signed 48 (wd ws 11 % 2 ^ 32 + 2 ^ 32 * wf ws 12 15 0)) row (off + 64 * i)
     let n := min ((wf ws 9 22 0 - off) / 64) ((512 - dst % 512) / 64)
     s.xlt.aborted = [] → s.xlt.stalled = [] → s.plz.arrivals = [] → s.plz.asked = [] →
     (s.cacheOf (.copy id)).find? (fun e => e.hits l.ctx dst) = some f →
     s.useLeaf l.ctx f.entry f.level dst .write = .ok (.stacked kd ad) ent lvl →
     (∀ i, i < n → ∃ ei li, (s.cacheOf (.copy id)).find? (fun e => e.hits l.ctx (src i)) = some (g i) ∧
       s.useLeaf l.ctx (g i).entry (g i).level (src i) .read = .ok (.stacked (tgt i).1 (tgt i).2) ei li ∧
       s.homeDead (lineKey (tgt i).1 (tgt i).2) = false ∧ s.lineFree (lineKey (tgt i).1 (tgt i).2) = true ∧
       s.stackOut? (tgt i).1 = none ∧
       (s.pline (lineKey (tgt i).1 (tgt i).2)).unit? ((tgt i).2 / 64 % 2) = some (d i, none)) →
     Runs (.copy id) s (fun u => (u.cluster l.cluster).turn = 0 ∧ u.tiles = s.tiles ∧
       ∃ s2, s2 = { s with cnt := s2.cnt, clusters := s2.clusters } ∧
         let r := agentStore opRecord (.copy id) (fun _ => none) (hintOf (wf ws 14 3 0)) (wf ws 0 11 8) (entMirror ent)
           (64 * n + 1) 0 (.stacked kd ad) ((List.range n).flatMap (fun i => natToBytes 64 (d i).toNat)) s2
         u.plz = r.2.plz ∧ u.dram = r.2.dram ∧ ∃ m, u.liveOf? id = some m ∧
           m = { l with progress := l.progress + n, outst := l.outst + r.1.1, started := true })))

/-! ## Work submission -/

/-- RING_DB: the producer count of an enabled ring of an ACTIVE context moves forward within the ring's size, and what it adds
waits for the host's writes before it; a value beyond it sets DB_ERROR, one that would move it backwards and one to a ring that
is off change nothing.
RING_CTRL.ENABLE and CQ_HEAD. -/
def Obligations.RingRegisters : Prop :=
  (∀ (r : Fin 16384) (v : BitVec 32) (s : State),
     let ahead (a b : Nat) : Nat := (a + 2 ^ 32 - b) % 2 ^ 32
     (s.ringOn r = true → s.ctxState (s.ringCtx r) = 1 → ahead v.toNat (s.reg (rRingHead r)) ≤ s.ringSize r →
       ahead v.toNat (s.ring r).prod < 2 ^ 31 →
       Runs (.doorbell r v) s (fun u => u = { s with rings := u.rings } ∧
         (let ids := s.hostWrites (s.owner (s.ringCtx r))
          u.ring r = { s.ring r with prod := v.toNat, fenceLook := true, gates :=
            if ids = [] then (s.ring r).gates else (s.ring r).gates ++ [((s.ring r).prod, ids)] }) ∧
         ∀ k, k ≠ r.val → u.ring k = s.ring k)) ∧
     (s.ringOn r = true → s.ctxState (s.ringCtx r) = 1 → s.ringSize r < ahead v.toNat (s.reg (rRingHead r)) →
       exec (.doorbell r v) s = .next (rcFlag (rRingStatus r) 0 s)) ∧
     (s.ringOn r = true → s.ctxState (s.ringCtx r) = 1 → ahead v.toNat (s.reg (rRingHead r)) ≤ s.ringSize r →
       2 ^ 31 ≤ ahead v.toNat (s.ring r).prod → exec (.doorbell r v) s = .next s) ∧
     (s.ringOn r = false → exec (.doorbell r v) s = .next s)) ∧
  ((∀ (r : Fin 16384) (s : State),
     (∀ e, s.ringOn r = false → s.ctxState (s.ringCtx r) = 1 → (setRf (rRingCtrl r) 0 0 1 s).checkRing r = some e →
       Runs (.ringEnable r) s (fun u => u.ringOn r = true ∧ u = { s with regs := u.regs, rings := u.rings } ∧
         u.ring r = { s.ring r with held := some e, fetched := s.reg (rRingHead r), fenceLook := true })) ∧
     (s.ringOn r = false → s.ctxState (s.ringCtx r) ≠ 1 →
       exec (.ringEnable r) s = .next (setRf (rRingCtrl r) 0 0 1 s)) ∧
     (s.ringOn r = true → exec (.ringEnable r) s = .next s) ∧
     Runs (.ringDisable r) s (fun u => u.ringOn r = false ∧ u = { s with regs := u.regs, rings := u.rings } ∧
       (u.ring r).queue = [] ∧ (u.ring r).prod = (s.ring r).prod ∧ (u.ring r).fetched = s.reg (rRingHead r) ∧
       u.reg (rRingHead r) = s.reg (rRingHead r))) ∧
   (∀ (c : Fin 4096) (v : BitVec 32) (s : State),
     ((s.reg (rCqTail c) + 2 ^ 32 - v.toNat) % 2 ^ 32 < 2 ^ 31 → Runs (.cqHeadWrite c v) s (fun u =>
       u = { s with regs := u.regs } ∧ u.reg (rCqHead c) = v.toNat ∧ ∀ k, k ≠ rCqHead c → u.reg k = s.reg k)) ∧
     (2 ^ 31 ≤ (s.reg (rCqTail c) + 2 ^ 32 - v.toNat) % 2 ^ 32 → exec (.cqHeadWrite c v) s = .next s)))

/-- The next position below the producer count is read once and joins the ring's queue; RING_HEAD does not move. A descriptor
behind a host's write that is not accepted is not fetched.
DISPATCH, in its turn, of a head that is judged, fenced off by nothing and has its completion slot. -/
def Obligations.FetchAndDispatch : Prop :=
  (∀ (r : Fin 16384) (s : State) (e : CacheEnt) (k a : Nat) (d : UnitData), s.ringServed r = true →
     (s.ring r).fetched ≠ (s.ring r).prod → s.fetchWaits r = false → (s.ring r).held = some e →
     let pos := (s.ring r).fetched
     let va := s.base55 (rRingBaseLo r) (rRingBaseHi r) + 64 * (pos % s.ringSize r)
     heldTgt e va = .stacked k a → s.plz.arrivals = [] → s.plz.asked = [] → s.homeDead (lineKey k a) = false →
     s.lineFree (lineKey k a) = true → s.stackOut? k = none → (s.pline (lineKey k a)).unit? (a / 64 % 2) = some (d, none) →
     Runs (.descriptorFetch r) s (fun u => (u.ring r).fetched = (pos + 1) % 2 ^ 32 ∧
       (u.ring r).queue = (s.ring r).queue ++
         [{ pos := pos, words := wordsOf (natToBytes 64 d.toNat) 16, poison := false }] ∧
       (u.ring r).prod = (s.ring r).prod ∧ u.reg (rRingHead r) = s.reg (rRingHead r) ∧
       (∀ k, k ≠ r.val → u.ring k = s.ring k) ∧
       u = { s with rings := u.rings, regs := u.regs, cnt := u.cnt })) ∧
  (∀ (r : Fin 16384) (s : State), (s.fetchWaits r = true ∨ s.ringServed r = false ∨ (s.ring r).fetched = (s.ring r).prod) →
     exec (.descriptorFetch r) s = .next s) ∧
  (∀ (r : Fin 16384) (s : State) (d : Fetched) (q : List Fetched) (j : Nat × Nat × Bool × Bool), s.ringServed r = true →
     (s.ring r).queue = d :: q → (s.ring r).judged = some j → (s.ring r).slot = true → s.servedFirst r = true →
     let c := s.ringCtx r
     let gone (l : Live) (u : State) : Prop :=
       u.lives = s.lives ++ [l] ∧ u.nextLive = s.nextLive + 1 ∧ u.reg (rRingHead r) = (s.reg (rRingHead r) + 1) % 2 ^ 32 ∧
         (u.ring r).queue = q ∧ (u.ring r).slot = false ∧ u.tiles = s.tiles ∧
         (∀ k, k ≠ r.val → u.ring k = s.ring k)
     let l := { Live.init s.nextLive r d.pos c d with dotFast := j.2.2.1, forced := j.2.2.2 }
     let op := wf d.words 0 7 0
     (j.1 ≠ 0 → Runs (.dispatch r) s (gone { l with finished := some (j.1, j.2.1) })) ∧
     (j.1 = 0 → op = 0 ∨ op = 3 ∨ op = 6 → Runs (.dispatch r) s (gone l)) ∧
     (j.1 = 0 → op = 4 → Runs (.dispatch r) s
       (gone { l with waitFor := (s.lives.filter (fun k => k.ctx == c)).map (·.id) })) ∧
     (j.1 = 0 → op = 5 → Runs (.dispatch r) s (gone { l with snapFrom := (s.cnt.seqRun + 1) % 2 ^ 32 })))

/-- A TASK that waits is placed on the tiles that its placement gives, or reserves tiles.
A task starts, is delivered to its tiles, is aborted and reported. -/
def Obligations.TasksOnTiles : Prop :=
  (∀ (r : Fin 16384) (s : State) (d : Fetched), s.waitingTask? r = some d →
     (∀ ts, s.servedFirst r = true → s.placeFails d.words = none → (s.ring r).reserving = false →
       s.placement? r d.words = some ts → (∀ t ∈ ts, t < 72) → Runs (.taskPlacement r) s (fun u =>
         (s.liveOf? s.nextLive = none → ∃ l, u.liveOf? s.nextLive = some l ∧ l.tiles = ts ∧ l.ring = r.val ∧ l.words = d.words ∧
           l.reports = [] ∧ l.started = false) ∧
         (∀ t ∈ ts, (u.tile t).live = some s.nextLive ∧ (u.tile t).mode = .machine ∧ (u.tile t).ending = none) ∧
         (∀ t, t ∉ ts → u.tile t = s.tile t) ∧
         u.reg (rRingHead r) = (s.reg (rRingHead r) + 1) % 2 ^ 32)) ∧
     (∀ k v, s.servedFirst r = true → s.placeFails d.words = some (k, v) → Runs (.taskPlacement r) s (fun u => u.tiles = s.tiles ∧
       ∃ l, u.lives = s.lives ++ [l] ∧ l.finished = some (k, v) ∧ l.ring = r.val ∧ l.words = d.words)) ∧
     ((s.ring r).reserving = false → Runs (.taskReserving r) s (fun u => u = { s with rings := u.rings } ∧
       (u.ring r).reserving = true ∧
       (u.ring r).fixed = (s.chooseTiles r d.words s.tileUp (fun _ => true)).getD []))) ∧
  ((∀ (id : Nat) (l : Live) (s : State), s.liveOf? id = some l → l.opcode = 1 → l.stopping = false → l.finished = none →
     Runs (.task id) s (fun u => u = updLive id (fun l => { l with started := true }) s)) ∧
   (∀ (t : Fin 72) (l : Live) (s : State), s.liveAt t = some l →
     let x := s.tile t
     (l.started = true → l.stopping = false → x.mode = .machine → x.ending = none → s.tripped = false →
       s.tileUp t = true → Runs (.taskDelivery t) s (fun u =>
         let y := u.tile t
         u = { s with tiles := u.tiles, regs := u.regs } ∧ (∀ k, k ≠ t.val → u.tile k = s.tile k) ∧ y.mode = .user ∧
         y.pc = BitVec.ofNat 64 (wva l.words 9 10) ∧ (∀ r, y.gpr r = 0) ∧ y.stall = .none ∧ y.ir = none ∧ y.lines = [] ∧
         y.block = l.words ∧ y.ctx = l.ctx ∧ y.count = l.tiles.length ∧ y.prevCtx = some l.ctx ∧ y.idle = true ∧
         y.seed = BitVec.ofNat 64 (wd l.words 11 + 2 ^ 32 * wd l.words 12) ∧
         (x.prevCtx = some l.ctx → y.store = x.store ∧ y.dmem = x.dmem) ∧
         (x.prevCtx ≠ some l.ctx → y.store = [] ∧ ∀ a, a < 0xC000 → Mem.read y.dmem a = 0) ∧
         (∀ i, i < 8 → (vget .init y.ftq i).st = .empty))) ∧
     (l.stopping = true → x.ending = none → s.status uTile t = stGood →
       Runs (.abortInterrupt t) s (fun u => Stopped t (.failed 0 0) u s)) ∧
     (∀ rep, x.ending = some rep → x.reported = false → (x.queue 3).entries.all (fun e => e.outst == 0) = true →
       s.awaits (isTile t) = false → Runs (.tileReport t) s (fun u =>
         (u.tile t).reported = true ∧ (u.tile t).store = x.store ∧ (∀ k, k ≠ t.val → u.tile k = s.tile k) ∧
         ∃ m, u.liveOf? l.id = some m ∧ m.reports = l.reports ++ [t.val] ∧ m.sat = (l.sat || x.sat) ∧
           m.nan = (l.nan || x.nan) ∧ (rep = .done → m.firstFail = l.firstFail ∧ m.stopping = l.stopping) ∧
           (∀ k v, rep = .failed k v → k ≠ 0 → l.firstFail = none →
             m.firstFail = some { cause := k, detail := v, tile := x.logical } ∧ m.stopping = true)))))

/-- What dispatched descriptors of the other opcodes do.
A descriptor that has ended completes: its record, where it wants one, takes the next slot of the completion ring, and once it is
accepted CQ_TAIL counts it and its tiles are free again. -/
def Obligations.DescriptorsEnd : Prop :=
  (∀ (id : Nat) (l : Live) (s : State),
     (s.openLive? id 0 = some l → exec (.nop id) s = .next (updLive id (fun l => { l with finished := some (0, 0) }) s)) ∧
     (s.openLive? id 4 = some l → (∀ k ∈ l.waitFor, s.liveOf? k = none) →
       exec (.barrier id) s = .next (updLive id (fun l => { l with finished := some (0, 0) }) s)) ∧
     (s.openLive? id 4 = some l → (∃ k ∈ l.waitFor, s.liveOf? k ≠ none) → exec (.barrier id) s = .next s) ∧
     (s.openLive? id 5 = some l → Runs (.snapshot id) s (fun u =>
       u = { s with lives := u.lives, regs := u.regs, cnt := u.cnt } ∧ u.cnt = { s.cnt with asked := true } ∧
       u.lives = (updLive id (fun l => { l with started := true }) s).lives ∧ u.rf rSnapStatus 0 0 = 1 ∧
       ∀ k, k ≠ rSnapStatus → u.reg k = s.reg k)) ∧
     (s.openLive? id 6 = some l → l.started = false → Runs (.resumePage id) s (fun u =>
       u = { s with lives := u.lives, xlt := u.xlt } ∧
       u.xlt = { s.xlt with resumes := s.xlt.resumes ++ [(id, wf l.words 7 1 0, wf l.words 7 9 2)] } ∧
       u.lives = (updLive id (fun l => { l with started := true }) s).lives))) ∧
  (∀ (id : Nat) (l : Live) (k v : Nat) (s : State), s.liveOf? id = some l → s.endOf? l = some (k, v) →
     (s.context l.ctx).waiting = [] → l.step = 0 → s.recordUnderway l.ctx = false → s.writesHist l = false → l.ctx < 4096 →
     let ended (u : State) : Prop := u.liveOf? id = none ∧ (∀ t ∈ l.tiles, t < 72 → (u.tile t).live ≠ some id) ∧
       ∀ m, m ≠ id → u.liveOf? m = s.liveOf? m
     let now (n : Nat) : Live := { l with finished := some (k, v), step := n }
     let s1 := updLive id (fun l => { l with finished := some (k, v), step := max 1 l.step }) (updCtx l.ctx (fun x => { x with waiting := [id] }) s)
     let r := recordStep (now 0) k v s1
     (l.records k = false → Runs (.descriptorComplete id) s ended) ∧
     (l.records k = true → r.1 = .made → r.2.recordUnderway l.ctx = false → Runs (.descriptorComplete id) s (fun u =>
       ended u ∧ u.reg (rCqTail l.ctx) = (s.reg (rCqTail l.ctx) + 1) % 2 ^ 32)) ∧
     (l.records k = true → r.1 = .made → r.2.recordUnderway l.ctx = true → Runs (.descriptorComplete id) s (fun u =>
       u.liveOf? id = some (now 2) ∧ u.reg (rCqTail l.ctx) = s.reg (rCqTail l.ctx) ∧ u.tiles = r.2.tiles)) ∧
     (l.records k = true → r.1 = .waits → exec (.descriptorComplete id) s = .next r.2))

/-- Contexts: enabled from OFF, drained from ACTIVE, quiesced once nothing is left of them, and OFF again. -/
def Obligations.ContextLifeCycle : Prop :=
  ∀ (c : Fin 4096) (s : State),
    (∀ a, s.ctxState c = 0 → s.tdiLocked c = false → s.activation? c = some a → s.ringsOf c = [] →
      Runs (.contextEnable c) s (fun u => u.ctxState c = 1 ∧ u.rb (rCtxCtrl c) 0 = true ∧ u.reg (rCqHead c) = 0 ∧
        u.reg (rCqTail c) = 0 ∧ (∀ n, n < 64 → u.reg (rCtxFenceN c n) = 0) ∧
        u.context c = { Ctx.init with heldCq := some a.1, heldHist := a.2.1, heldFlt := some a.2.2 } ∧
        u.tiles = s.tiles ∧ u.lives = s.lives)) ∧
    (s.ctxState c = 0 → s.tdiLocked c = false → s.activation? c = none →
      exec (.contextEnable c) s = .next (setRf (rCtxCtrl c) 0 0 0 (rcFlag (rCtxStatus c) 3 (setCtxState c 0 s)))) ∧
    (s.ctxState c = 1 → exec (.contextEnable c) s = .next s) ∧
    (s.ctxState c = 1 → (s.context c).waiting = [] → s.fab.groups = [] → Runs (.contextDrain c) s (fun u =>
      (u.context c).drainCause = 0x40 ∧ (∀ m, u.liveOf? m = (s.liveOf? m).map (fun l =>
        if l.ctx = c.val then { l with stopping := true } else l)) ∧ u.tiles = s.tiles)) ∧
    (s.ctxState c ≠ 1 → Runs (.contextDrain c) s (fun u => u.rb (rCtxCtrl c) 0 = false ∧ u.ctxState c = s.ctxState c ∧
      u.tiles = s.tiles ∧ u.lives = s.lives)) ∧
    (s.ctxState c = 2 → s.ctxBusy c = false → Runs (.contextQuiesced c) s (fun u => u.ctxState c = 3 ∧
      u.reg (rCqHead c) = 0 ∧ u.reg (rCqTail c) = 0 ∧ (∀ n, n < 64 → u.reg (rCtxFenceN c n) = 0) ∧
      (∀ t, (u.tile t).prevCtx ≠ some c.val) ∧ u.lives = s.lives)) ∧
    (s.ctxState c = 3 → s.rb (rCtxStatus c) 2 = false → Runs (.contextOff c) s (fun u => u.ctxState c = 0 ∧
      u.context c = Ctx.init ∧ u = { s with regs := u.regs, ctxs := u.ctxs }))

/-- REDUCE: its reduction descriptor is read and checked once, its group armed, its chunks formed, and its end. -/
def Obligations.ReduceGroups : Prop :=
  (∀ (id : Nat) (l : Live) (s s1 : State) (bs : List Byte), s.reduceOf? id = some l → s.groupOf? id = none →
    readRange (.reduce 0 id) l.ctx (redClass l) (redVa l 11) 64 s = (.ok bs none, s1) →
    let ws := (chunks 4 64 bs).map bytesToNat
    let ok := rdescOk ws && !(rdExec ws :: rdTree ws).any s1.portDown
    (ok = true → Runs (.reduce id) s (fun u => u = { s1 with fab := { s1.fab with groups := s1.fab.groups ++
      [{ live := id, port := rdExec ws, words := ws, armed := false, limitUp := 0, inputs := [], formed := 0, wrote := 0,
         outst := 0, mark := none }] } })) ∧
    (ok = false → Runs (.reduce id) s (fun u =>
      u = updLive id (fun l => { l with finished := some (0x25, 9 + 16 * rdExec ws) }) s1))) ∧
  (∀ (id : Nat) (l : Live) (g : Group) (s : State), s.reduceOf? id = some l → s.groupOf? id = some g →
    (g.chunkReady l = false → exec (.reduce id) s = .next s) ∧
    (∀ s1 bs m, g.chunkReady l = true → rdRoot g.words = false →
      readRange (.reduce g.port id) l.ctx (redClass l) (chunkSpan (redVa l 5) (redIn32 l) l g.formed).1
        (chunkSpan (redVa l 5) (redIn32 l) l g.formed).2 s = (.ok bs m, s1) →
      Runs (.reduce id) s (fun u => ∃ h, u.groupOf? id = some h ∧ h.formed = g.formed + 1 ∧ h.armed = true ∧
        h.words = g.words ∧ u.tiles = s.tiles ∧ u.lives = s.lives)) ∧
    (g.armed = false → s.mayArm l g = true → Runs (.reduceArm id) s (fun u =>
      u.groupOf? id = some { g with armed := true } ∧ u.tiles = s.tiles ∧ u.lives = s.lives)) ∧
    (g.armed = false → s.mayArm l g = false → exec (.reduceArm id) s = .next s) ∧
    (∀ p : Fin 16, g.armed = true → p.val ∈ rdChildren g.words → g.formed < redChunks l →
      exec (.redReadyRepeat id p) s = .next (redReady p l g s)) ∧
    (g.armed = true → Runs (.reduceTimeout id) s (fun u =>
      u.groupOf? id = some { g with armed := false, inputs := [] } ∧ u.tiles = s.tiles ∧
      ∃ m, u.liveOf? id = some m ∧ m.stopping = true ∧
        (l.firstFail = none → m.firstFail = some { cause := 0x25, detail := 6 + 16 * g.port, tile := 0xFFFF }))) ∧
    (g.armed = true → g.wrote = redChunks l → g.outst = 0 → s.downUnacked l g = false →
      Runs (.reduceComplete id) s (fun u => u.groupOf? id = none ∧ u.tiles = s.tiles ∧ u.dram = s.dram ∧
        (l.firstFail = none → g.mark = none → u.liveOf? id = some { l with finished := some (0, 0) }) ∧
        (∀ f, l.firstFail = some f → u.liveOf? id = some { l with finished := some (f.cause, f.detail) }) ∧
        (∀ m, l.firstFail = none → g.mark = some m → u.liveOf? id = some { l with finished := some (m.cause, m.detail) }))))

/-! ## Stacked memory -/

/-- Memory controllers: a read of a good unit changes no byte, one that is uncorrectable is stored as poison or healed, one of a
module in a retrain is held, a write stores the plaza's DIRTY unit with its mark and nothing else, patrol goes on to the next
unit. -/
def Obligations.StackReadsAndWrites : Prop :=
  ∀ (k : Fin 12) (i : Fin (2 ^ 30)) (s : State),
    let a := 64 * i.val
    (∀ ev2, s.issues k a = true → s.stackOut? k = none → Runs (.mrd k i .clean ev2) s (fun u =>
      u = { s with stks := u.stks, cnt := u.cnt } ∧ ∀ j, j ≠ k.val → u.stack j = s.stack j)) ∧
    (∀ ev ev2, s.issues k a = false → s.stackOut? k = none → exec (.mrd k i ev ev2) s = .next
      (updStack k (fun x => { x with retry := x.retry ++ [.mrd i ev ev2] }) s)) ∧
    (∀ ev2, s.issues k a = true → s.stackOut? k = none → s.mirrorOf? k a = none →
      exec (.mrd k i .dramUncorrectable ev2) s = .next (countUnits (blkStack k) 0 1 (countEvent (blkStack k) 0x40 none none
        none 1 (convertPoison opRecord k a 0 (countBonds k a [] s)).2))) ∧
    (∀ symbols d m, ((s.pline (lineKey k a)).unit? (i.val % 2)) = some (d, m) → (s.pline (lineKey k a)).dirty (i.val % 2) = true →
      s.ownerSite? (lineKey k a) = none → s.issues k a = true → s.stackOut? k = none →
      (m = none ∧ s.dramMark k a = none) ∨ s.regionOf? k a = none → Runs (.mwr k i symbols) s (fun u =>
        u = { s with dram := u.dram, plz := u.plz, stks := u.stks, cnt := u.cnt, out := u.out } ∧
        u.dram = (putDram k a d m s).dram ∧ u.out = (putDram k a d m s).out ∧
        (u.pline (lineKey k a)).dirty (i.val % 2) = false ∧
        ((u.pline (lineKey k a)).unit? (i.val % 2)) = some (d, m))) ∧
    (∀ ev2 n k' a' d v, s.issues k a = true → s.mirrorOf? k a = some (n, k', a') → s.stackOut? k = none →
      s.stackOut? k' = none → readUnit opRecord k' a' ev2 s = ((d, none), v) → s.poisoned k a = false → v.poisoned k a = false →
      exec (.mirrorHeal k i ev2) s = .next
        (opRecord 0x0202 false ([n, k.val] ++ words2 a) (countEvent (blkStack k) 0x45 none none none 1
          (setReg (rSrtNHeals n) (min (v.reg (rSrtNHeals n) + 1) (2 ^ 32 - 1)) (putDram k a d none v))))) ∧
    (∀ ev2, (s.stack k).patrol = i.val → s.issues k a = true → s.stackOut? k = none →
      Runs (.patrolRead k .clean ev2) s (fun u => (u.stack k).patrol = (i.val + 1) % 2 ^ 30 ∧ u.dram = s.dram ∧
        u = { s with stks := u.stks, cnt := u.cnt })) ∧
    (∀ m : Fin 64, Runs (.bondMonitorWindow k m) s (fun u => u = { s with stks := u.stks } ∧
      (u.stack k).bondCount = (s.stack k).bondCount.filter (fun e => e.1 / 128 != m.val) ∧
      (u.stack k).failing = (s.stack k).failing ∧ ∀ j, j ≠ k.val → u.stack j = s.stack j))

/-- Retrains of the modules of a stack: scheduled, started, and done with failing bonds moved to spares.
Temperatures and throttles of the stacks. -/
def Obligations.StackModulesAndThrottle : Prop :=
  (∀ (k : Fin 12) (m : Fin 64) (s : State),
     (s.inService uStack k = true → Runs (.stkCtrlRetrain k m) s (fun u => u = { s with stks := u.stks } ∧
       m.val ∈ (u.stack k).retrainDue ∧ (u.stack k).retraining = (s.stack k).retraining)) ∧
     (s.inService uStack k = false → exec (.stkCtrlRetrain k m) s = .next s) ∧
     (s.inService uStack k = true → m.val ∈ (s.stack k).retrainDue → Runs (.moduleRetrainStart k m) s (fun u =>
       u = { s with stks := u.stks } ∧ m.val ∈ (u.stack k).retraining ∧ m.val ∉ (u.stack k).retrainDue)) ∧
     (m.val ∈ (s.stack k).retraining → (s.stack k).retry = [] →
       let rest := (s.stack k).retraining.filter (· != m.val)
       let used := ((s.stack k).spared.filter (fun x => x / 128 == m.val)).length
       ((∀ b ∈ (s.stack k).failing, b / 128 ≠ m.val) → Runs (.moduleRetrainDone k m) s (fun u =>
         u = { s with stks := u.stks, regs := u.regs, boot := u.boot } ∧ (u.stack k).retraining = rest ∧
         (u.stack k).spared = (s.stack k).spared ∧ (u.stack k).failing = (s.stack k).failing ∧
         (u.stack k).retired = (s.stack k).retired ∧ u.boot.plan.rev = s.boot.plan.rev ∧
         ∀ ty id, u.unit ty id = s.unit ty id)) ∧
       (∀ b, (s.stack k).failing.filter (fun b => b / 128 == m.val) = [b] → used < 4 →
         Runs (.moduleRetrainDone k m) s (fun u => ∃ w, w = { s with stks := w.stks, regs := w.regs, boot := w.boot } ∧
           (w.stack k).retraining = rest ∧ (w.stack k).spared = (s.stack k).spared ++ [b] ∧ b ∉ (w.stack k).failing ∧
           (w.stack k).retired = (s.stack k).retired ∧ w.unit uStack k =
             { s.unit uStack k with spares := (s.unit uStack k).spares - 1 } ∧
           u = updStack k (fun x => { x with retry := [] }) (opRecord 0x0206 false [k.val, m.val, b % 128] w))) ∧
       (∀ b ∈ (s.stack k).failing, b / 128 = m.val → 4 ≤ used → m.val ∉ (s.stack k).retired →
         (m.val ^^^ 1) ∉ (s.stack k).retired → Runs (.moduleRetrainDone k m) s (fun u =>
           (u.stack k).retraining = rest ∧ (u.stack k).retired = (s.stack k).retired ++ [m.val] ∧
           (u.unit uStack k).status = stDegraded ∧ (u.unit uStack k).cause = ccModule ∧
           (u.unit uStack k).width = (s.unit uStack k).width - 1)))) ∧
  (∀ (k : Fin 12) (s : State),
     (∀ dies base, s.inService uStack k = true → (Table.get .init s.pwr.units (unitKey uStack k)).now ≠ 3 →
       (∀ i, i < 16 → ((dies.toList.map (·.toNat)).getD i 0) < 105) →
       Runs (.stackTempReport k dies base) s (fun u =>
         let h := hottestDie (dies.toList.map (·.toNat))
         u = { s with regs := u.regs, stks := u.stks, pwr := u.pwr } ∧ u.rf (rStkTemp k) 7 0 = h.1 ∧
         u.rf (rStkTemp k) 11 8 = h.2 ∧ u.rf (rStkTemp k) 19 12 = base.toNat ∧ (u.stack k).hot = decide (s.rf rMemCtrl 7 0 ≤ h.1) ∧
         u.rb (rStkStatus k) 24 = false)) ∧
     (s.throttles k = true → (s.stack k).hot = true → exec (.throttleStepDown k) s = .next
       (syncClocks k (updStack k (fun x =>
         { x with ceiling := max (x.ceiling - 1) (min x.ceiling (s.rf rMemCtrl 16 12)) }) s))) ∧
     (s.throttles k = true → (s.stack k).hot = false → (s.stack k).restrains = true →
       s.rf (rStkTemp k) 7 0 ≤ s.rf rMemCtrl 7 0 - s.rf rMemCtrl 11 8 → exec (.throttleStepUp k) s = .next
         (syncClocks k (updStack k (fun x => { x with ceiling := min 17 (x.ceiling + 1) }) s))) ∧
     (s.throttles k = true → s.rb (rStkStatus k) 24 = false → exec (.telemetryStale k) s = .next
       (opRecord 0x020B false [k.val] (setRf (rStkStatus k) 24 24 1 (updStack k (fun x => { x with hot := true }) s)))) ∧
     (s.throttles k = false → exec (.throttleStepDown k) s = .next s ∧ exec (.throttleStepUp k) s = .next s ∧
       exec (.telemetryStale k) s = .next s))

/-- A stack in service that is lost is ISOLATED at once with its cause and swept; it comes back by REJOIN. -/
def Obligations.StackIsolation : Prop :=
  (∀ cause c, IsolateCommand cause c → ∀ (k : Fin 12) (s : State),
    (s.inService uStack k = true → Runs (c k) s (fun u => u.status uStack k = stIsolated ∧
      u.unit uStack k = s.unit uStack k ∧ (u.stack k).isoCause = cause ∧ (u.stack k).retry = [] ∧ k.val ∈ u.plz.stackSweep ∧
      Calm u s ∧ Kept u s)) ∧
    (s.status uStack k = stIsolated → exec (c k) s = .next s)) ∧
  (∀ (k : Fin 12) (s : State),
    (∀ t, s.status uStack k = stIsolated → Sys2Proof.Machine.StackTrain.serves t = true → Runs (.stkCtrlRejoin k t) s (fun u =>
      u.status uStack k = stQuarantine ∧ (u.unit uStack k).cause = ccRejoin ∧ (u.stack k).rejoining = true ∧
      (u.stack k).failing = [] ∧ u.tiles = s.tiles ∧ u.lives = s.lives ∧
      (∀ sp rt, t = .trained sp rt → (u.stack k).spared = sp.map (·.val) ∧ (u.unit uStack k).spares = 256 - sp.length))) ∧
    (∀ t, s.status uStack k = stIsolated → Sys2Proof.Machine.StackTrain.serves t = false →
      exec (.stkCtrlRejoin k t) s = .next s) ∧
    (∀ t, s.status uStack k ≠ stIsolated → exec (.stkCtrlRejoin k t) s = .next s) ∧
    (s.status uStack k = stQuarantine → (s.stack k).rejoining = true → k.val ∉ s.plz.stackSweep → s.regions = [] →
      Runs (.stackRejoinFillDone k) s (fun u => (u.stack k).rejoining = false ∧ Calm u s ∧ Kept u s ∧
        (∀ q, Table.find? s.boot.quar (unitKey uStack k) = some q → u.quarStep uStack k = 1) ∧
        (∀ a, a < 2 ^ 36 → ∃ m, u.dramMark k a = some m ∧ m.detail = 2 * 16 + k.val ∧ m.cause = cMemoryPoison))) ∧
    (k.val ∈ s.plz.stackSweep → s.status uStack k = stIsolated → (∀ t ∈ s.plz.txns, lineStack t.line ≠ k.val) →
      (∀ e ∈ s.plz.owners, lineStack e.1 ≠ k.val) →
      let swept := updPlz (fun p => { p with stackSweep := p.stackSweep.filter (· != k.val) })
        (forEach (s.plz.lines.filter (fun e => lineStack e.1 == k.val)) (fun e s =>
          sweepUnit k e.1 1 (sweepUnit k e.1 0 s)) s)
      exec (.stackSweepDone k) s = .next (serviceRequest uStack k (swept.stack k).isoCause
        (if (swept.stack k).isoCause = ccOperator then 1 else 3)
        (opRecord 0x0208 true [k.val, (swept.stack k).isoCause] (recordMarked uStack k (swept.stack k).isoCause swept)))))

/-- The shared-region table: an entry that passes the checks becomes ACTIVE, one that does not sets its error flag; a
region is taken out again with its counts. -/
def Obligations.SharedRegions : Prop :=
  ∀ (n : Fin 256) (m : Bool) (s : State),
    let s1 := setRf (rSrtNCtrl n) 1 1 (b2n m) s
    (s.srtActive n = false → s1.srtCheck n m = true → Runs (.srtValidSet n m) s (fun u => u = { s with regs := u.regs } ∧
      u.srtActive n = true ∧ u.rb (rSrtNCtrl n) 0 = true ∧ u.srtMirrored n = m ∧
      ∀ j, j ≠ rSrtNCtrl n → j ≠ rSrtNStatus n → u.reg j = s.reg j)) ∧
    (s.srtActive n = false → s1.srtCheck n m = false →
      exec (.srtValidSet n m) s = .next (rcFlag (rSrtNStatus n) 3 s1)) ∧
    (s.srtActive n = true → exec (.srtValidSet n m) s = .next s) ∧
    (s.srtActive n = true → Runs (.srtValidClear n m) s (fun u => u = { s with regs := u.regs } ∧
      u.srtActive n = false ∧ u.rb (rSrtNCtrl n) 0 = false ∧ u.reg (rSrtNPoisonUnits n) = 0 ∧
      u.reg (rSrtNHeals n) = 0 ∧ u.rf (rSrtNStatus n) 2 0 = 0)) ∧
    (s.srtActive n = false → exec (.srtValidClear n m) s = .next s1)

/-! ## Homes and the sites -/

/-- Homes carry out the requests of R236 on a line that the plaza holds, that no site owns and, where that matters, none shares. -/
def Obligations.HomeRequests : Prop :=
  ∀ (k : Fin 12) (l : Fin (2 ^ 29)) (s : State) (t : Txn), s.Starts (lineOf k l) t →
    let lk := lineOf k l
    let p := s.pline lk
    let d := joinUnits p.u0 p.u1
    let noRegion : Prop := s.regionOf? (lineStack lk) (lineAddr lk) = none ∧ s.regionOf? (lineStack lk) (lineAddr lk + 64) = none
    let only (u : State) : Prop := u = { s with plz := u.plz, regs := u.regs, cnt := u.cnt }
    let marked (u : State) : Prop := u = { s with plz := u.plz, regs := u.regs, cnt := u.cnt, dram := u.dram } ∧
      u.dram.bytes = s.dram.bytes
    s.ownerSite? lk = none → p.v0 = true → p.v1 = true → s.stackOut? (lineStack lk) = none →
    (t.kind = .rdShared → Runs (.rdShared k l noEv) s (fun u => only u ∧
      u.plz.msgs = s.plz.msgs ++ [.data t.req lk d p.m0 p.m1 .s] ∧ u.pline lk = { p with sharedOut := true } ∧
      u.plz.owners = s.plz.owners)) ∧
    (∀ n txn, t.kind = .rdUnique → t.req = .site n txn → s.inService uSite n = true → p.sharedOut = false →
      s.recall? t = none → Runs (.rdUnique k l noEv) s (fun u => marked u ∧ (p.m0 = none → p.m1 = none → only u) ∧
        u.plz.msgs = s.plz.msgs ++ [.data t.req lk d p.m0 p.m1 (if p.d0 || p.d1 then .m else .e)] ∧
        u.plz.lines = Table.erase s.plz.lines lk ∧ u.ownerSite? lk = some n)) ∧
    (t.kind = .rdOnce true → Runs (.rdOnce k l noEv) s (fun u => only u ∧
      u.plz.msgs = s.plz.msgs ++ [.data t.req lk d p.m0 p.m1 .none] ∧ u.plz.lines = s.plz.lines ∧
      u.plz.owners = s.plz.owners ∧ u.plz.txns = s.plz.txns.filter (fun x => x.id != t.id))) ∧
    (∀ c, p.sharedOut = false → t.mirror = false → t.hint = 0 → t.mask = BitVec.ofNat 128 (2 ^ 128 - 1) → noRegion →
      (t.kind = .wrFull ∧ c = .wrFull k l noEv) ∨ (t.kind = .wrPart ∧ c = .wrPart k l noEv) →
      Runs c s (fun u => marked u ∧ u.plz.msgs = s.plz.msgs ++ [.wrAck t.req lk 0] ∧ u.plz.owners = s.plz.owners ∧
        u.pline lk = (p.put 0 (lineUnit t.data 0) t.m0 true).put 1 (lineUnit t.data 1) t.m1 true)) ∧
    (∀ off w op x cmp, t.kind = .atomic off w op x cmp → p.sharedOut = false → t.mirror = false → noRegion → off < 128 →
      (∀ r v, p.unit? (off / 64) = some (r, none) → off % w = 0 →
        let o := off % 64
        let old := bits r.toNat (8 * (o + w) - 1) (8 * o)
        atomicOp op w old x cmp = some v → Runs (.atomic k l noEv) s (fun u => marked u ∧ u.plz.owners = s.plz.owners ∧
          u.plz.msgs = s.plz.msgs ++ [.data t.req lk (if off / 64 = 0 then joinUnits (BitVec.ofNat 512 old) 0
            else joinUnits 0 (BitVec.ofNat 512 old)) none none .none] ∧
          u.pline lk = p.put (off / 64) (BitVec.ofNat 512 (setBits r.toNat (8 * (o + w) - 1) (8 * o) v)) none true)) ∧
      (∀ r m, p.unit? (off / 64) = some (r, some m) → Runs (.atomic k l noEv) s (fun u => only u ∧ u.plz.lines = s.plz.lines ∧
        u.plz.msgs = s.plz.msgs ++ [.data t.req lk (joinUnits 0 0) (if off / 64 = 0 then some m else none)
          (if off / 64 = 1 then some m else none) .none]))) ∧
    (t.kind = .flushLine → p.sharedOut = false → exec (.flushLine k l) s = .next
      (endTxn t (sendMsg (.wrAck t.req lk 0) (dropLine lk (cleanLine opRecord lk (countRequest t s))))))

/-- A line owned by site `j` is recalled, dropped or forwarded by the snoop of its request, and one that sites may share is
invalidated by an SNP_INV; the home waits for the answer.
Directed snoops and the SNP_INV of the Ring Road at the stops of the sites, which it passes in their order on the ring. -/
def Obligations.Snoops : Prop :=
  (∀ (k : Fin 12) (l : Fin (2 ^ 29)) (s : State) (t : Txn), s.Starts (lineOf k l) t → t.mirror = false →
     s.noRoom? t = none → s.recall? t = none →
     let lk := lineOf k l
     let quiet (u : State) (m : CMsg) : Prop :=
       u = { s with plz := u.plz, sites := u.sites, cnt := u.cnt } ∧ u.plz.lines = s.plz.lines ∧ u.plz.owners = s.plz.owners ∧
         u.plz.msgs = s.plz.msgs ++ [m]
     let waits (u : State) (j : Nat) (wb : Bool) : Prop := u.plz.txns = s.plz.txns.map (fun x => if x.id = t.id then
         { x with
           phase := .snooping
           owner := some j
           rsp := true
           wb := wb
           invSeen := 0
           noData := false } else x)
     (∀ j, s.ownerSite? lk = some j → reqSite? t.req ≠ some j →
       (t.kind = .rdShared → Runs (.rdShared k l noEv) s (fun u => quiet u (.snpFwdShared j lk t.id t.req) ∧ waits u j true)) ∧
       (t.kind = .rdUnique → Runs (.rdUnique k l noEv) s (fun u => quiet u (.snpFwdUnique j lk t.id t.req) ∧ waits u j false)) ∧
       (∀ b, t.kind = .rdOnce b → Runs (.rdOnce k l noEv) s (fun u =>
         quiet u (.snpFwdOnce j lk t.id t.req) ∧ waits u j false)) ∧
       (t.kind = .wrFull → Runs (.wrFull k l noEv) s (fun u => quiet u (.snpDrop j lk t.id) ∧ waits u j false)) ∧
       (t.kind = .wrPart → Runs (.wrPart k l noEv) s (fun u => quiet u (.snpRecall j lk t.id) ∧ waits u j true)) ∧
       (∀ off w op x cmp, t.kind = .atomic off w op x cmp → Runs (.atomic k l noEv) s (fun u =>
         quiet u (.snpRecall j lk t.id) ∧ waits u j true)) ∧
       (t.kind = .flushLine → Runs (.flushLine k l) s (fun u => quiet u (.snpRecall j lk t.id) ∧ waits u j true))) ∧
     (s.ownerSite? lk = none → (s.pline lk).sharedOut = true → needsInv t.kind = true → s.memStops t = false →
       Runs (.trackerStart k l noEv) s (fun u => quiet u (.snpInv lk t.id ((reqSite? t.req).getD 6) none 0 0) ∧
         u.plz.txns = s.plz.txns.map (fun x => if x.id = t.id then
           { x with
             phase := .invalidating
             rsp := false
             ring := true
             inv := 0 } else x)))) ∧
  ((∀ code c m r, SnoopCommand code c m r → ∀ (n : Fin 6) (lk t : Nat) (s : State),
     s.msgAt? (.snp code n) 0 = some (m n lk t) →
     (s.inService uSite n = true → s.siteCxl n = true → Runs (c n) s (fun u =>
       u = { s with plz := u.plz, cnt := u.cnt, out := .cxl n (cxlSnoop code) lk 0 :: s.out } ∧
       u.plz = { s.plz with msgs := s.plz.msgs.erase (m n lk t), snoops := s.plz.snoops ++ [{ site := n, line := lk, txn := t }] })) ∧
     (s.inService uSite n = true → s.siteCxl n = false → ∃ h v, exec (c n) s = .next (toSite n h 0 v) ∧ h.msg = code ∧
       h.txn = t % 4096 ∧ h.addr = linePa lk ∧ v = { s with plz := v.plz, cnt := v.cnt } ∧
       v.plz = { s.plz with msgs := s.plz.msgs.erase (m n lk t), snoops := s.plz.snoops ++ [{ site := n, line := lk, txn := t }] }) ∧
     (s.inService uSite n = false → exec (c n) s = .next (snpRsp n (t % 4096) false false 0
       (updPlz (fun p => { p with snoops := p.snoops ++ [{ site := n, line := lk, txn := t }] }) (takeMsg (m n lk t) s))))) ∧
   (∀ (n : Fin 6) (txn lk t skip dist mask i : Nat) (slot : Option Nat) (m : CMsg) (s : State),
     s.onRing? txn = some (m, .snpInv lk t skip slot dist mask, i) →
     let stop := plazaStop (s.homePlaza lk)
     let far := stopsTo stop (siteStop n)
     let moved (mask' : Nat) : List CMsg := s.plz.msgs.map (fun y => if y = m then .snpInv lk t skip slot far mask' else y)
     ((far ≤ dist ∨ ∃ k, k < 6 ∧ dist < stopsTo stop (siteStop k) ∧ stopsTo stop (siteStop k) < far) →
       exec (.snpInvPass n txn) s = .next s) ∧
     (dist < far → (∀ k, k < 6 → dist < stopsTo stop (siteStop k) → far ≤ stopsTo stop (siteStop k)) →
       (s.siteServes n = false ∨ s.siteCaching n = false ∨ skip = n.val → Runs (.snpInvPass n txn) s (fun u =>
         u = { s with plz := u.plz } ∧ u.plz = { s.plz with msgs := moved mask, ringMarks := u.plz.ringMarks })) ∧
       (s.siteServes n = true → s.inService uSite n = true → s.siteCaching n = true → skip ≠ n.val → (s.site n).join = .none →
         Runs (.snpInvPass n txn) s (fun u => u.tiles = s.tiles ∧ u.plz.msgs = moved (mask + 2 ^ n.val) ∧
           u.plz.snoops = s.plz.snoops ++ [{ site := n, line := lk, txn := t }])))) ∧
   (∀ (txn lk t skip dist i : Nat) (slot : Option Nat) (m : CMsg) (x : Txn) (s : State),
     s.onRing? txn = some (m, .snpInv lk t skip slot dist 0, i) → s.txn? t = some x →
     ((∃ k, k < 6 ∧ dist < stopsTo (plazaStop (s.homePlaza lk)) (siteStop k)) → exec (.snpInvReturn txn) s = .next s) ∧
     ((∀ k, k < 6 → stopsTo (plazaStop (s.homePlaza lk)) (siteStop k) ≤ dist) → s.memStops x = false →
       exec (.snpInvReturn txn) s = .next
         (let y := { x with ring := false, inv := 0 }
          let v := updTxn t (fun _ => y) (takeMsg m s)
          serveTxn y y.rsp (setPline lk { v.pline lk with sharedOut := false } v)))) ∧
   (∀ (stop : Fin 42) (s : State),
     ((∀ e ∈ s.plz.ringMarks, e.1 ≠ stop.val) → (∃ m ∈ s.plz.msgs, s.waitsAt m stop = true) → ∀ i, i < 42 →
       (∀ e ∈ s.plz.ringMarks, e.2 ≠ i) → (∀ j, j < i → ∃ e ∈ s.plz.ringMarks, e.2 = j) →
       exec (.ringSlotMark stop) s = .next { s with plz := { s.plz with ringMarks := s.plz.ringMarks ++ [(stop.val, i)] } }) ∧
     ((∃ e ∈ s.plz.ringMarks, e.1 = stop.val) ∨ (∀ m ∈ s.plz.msgs, s.waitsAt m stop = false) →
       exec (.ringSlotMark stop) s = .next s)))

/-- WRITEBACK and EVICT_CLEAN from the owner of a line and from another; the command TRACKER_START starts the oldest
request whatever its sort, and a line with none, or with another sort at its head, starts nothing. -/
def Obligations.ReturnsAndStarts : Prop :=
  ∀ (k : Fin 12) (l : Fin (2 ^ 29)) (s : State),
    let lk := lineOf k l
    (∀ t n txn, s.Starts lk t → t.req = .site n txn → s.ownerSite? lk = some n →
      (t.kind = .evictClean → Runs (.evictClean k l) s (fun u => u = { s with plz := u.plz, regs := u.regs, cnt := u.cnt } ∧
        u.plz.owners = Table.erase s.plz.owners lk ∧ u.plz.lines = s.plz.lines ∧
        u.plz.msgs = s.plz.msgs ++ [.wbAck t.req lk true])) ∧
      (t.kind = .writeback → s.stackOut? (lineStack lk) = none → s.regions = [] → s.hasRoom lk = true →
        Runs (.writeback k l) s (fun u => u = { s with plz := u.plz, regs := u.regs, cnt := u.cnt, dram := u.dram } ∧
        u.dram.bytes = s.dram.bytes ∧ u.plz.owners = Table.erase s.plz.owners lk ∧
        u.pline lk = ((s.pline lk).put 0 (lineUnit t.data 0) t.m0 true).put 1 (lineUnit t.data 1) t.m1 true ∧
        u.plz.msgs = s.plz.msgs ++ [.wbAck t.req lk true]))) ∧
    (∀ t c, s.Starts lk t → reqSite? t.req ≠ s.ownerSite? lk ∨ s.ownerSite? lk = none → s.hasRoom lk = true →
      (t.kind = .evictClean ∧ c = .evictClean k l) ∨ (t.kind = .writeback ∧ c = .writeback k l) →
      Runs c s (fun u => u = { s with plz := u.plz, regs := u.regs, cnt := u.cnt } ∧ u.plz.lines = s.plz.lines ∧
        u.plz.owners = s.plz.owners ∧ u.plz.msgs = s.plz.msgs ++ [.wbAck t.req lk false])) ∧
    (∀ t ev, s.ready? lk = some t →
      (s.ownerSite? lk ≠ none ∨ s.memStops t = false → s.mirrorBusy? t = none →
        exec (.trackerStart k l ev) s = .next (startTxn t ev s) ∧
        (s.homeDead lk = true → exec (.trackerStart k l ev) s = .next (absorbTxn t s))) ∧
      (s.ownerSite? lk = none → s.memStops t = true → exec (.trackerStart k l ev) s = .next s) ∧
      (t.kind ≠ .rdShared → exec (.rdShared k l ev) s = .next s) ∧
      (t.kind ≠ .wrFull → exec (.wrFull k l ev) s = .next s)) ∧
    (∀ ev, s.ready? lk = none → exec (.trackerStart k l ev) s = .next s)

/-- What a chiplet answers reaches the home: SNP_RSP, WB_DATA, COMP_ACK and STASH_ACK, and one that fits no transaction is
a PROTOCOL_ERROR; MEM_DONE ends a read and WB_ACK releases the site's request.
FLUSH_ALL: FLUSH_BUSY is set until every DIRTY line that no site owns is in memory; a second one changes nothing. -/
def Obligations.HomeAnswersAndFlush : Prop :=
  ((∀ (n : Fin 6) (m : KMsg) (d : UnitData) (s s1 : State),
     (takeInbox n 3 (fun m => m.msg == 0x21 && !s.answerStops n m.txn) s = some ((m, d), s1) →
       (s1.plz.snoops.find? (fun x => x.site == n.val && x.txn % 4096 == m.txn) = none →
         exec (.snpRsp n) s = .next (protocolError n 0x21 s1)) ∧
       (∀ x t q a, s1.plz.snoops.find? (fun x => x.site == n.val && x.txn % 4096 == m.txn) = some x → s1.txn? x.txn = some t →
         t.phase = .snooping → t.kind = .rdUnique → t.wb = false → m.toReq = true → t.req = .site q a → Runs (.snpRsp n) s (fun u =>
           u = { s1 with plz := u.plz, regs := u.regs } ∧ u.ownerSite? t.line = some q ∧
           u.plz.msgs = s1.plz.msgs ++ [.comp t.req t.line t.id none] ∧ u.plz.snoops = s1.plz.snoops.erase x))) ∧
     (takeInbox n 3 (fun m => m.msg == 0x23) s = some ((m, d), s1) →
       let due := s1.plz.txns.find? (fun t => t.req == .site n m.txn && t.ack && t.phase == .closing)
       (due = none → exec (.compAck n) s = .next (protocolError n 0x23 s1)) ∧
       (∀ t, due = some t → Runs (.compAck n) s (fun u => u = { s1 with plz := u.plz, sites := u.sites, regs := u.regs } ∧
         u.plz = { s1.plz with txns := s1.plz.txns.filter (fun x => x.id != t.id) } ∧
         (u.site n).agents = (s1.site n).agents.filter (fun a => a.txn != m.txn)))) ∧
     (takeInbox n 3 (fun m => m.msg == 0x26) s = some ((m, d), s1) →
       let due := s1.plz.txns.find? (fun t => t.stash == some n.val && t.id % 4096 == m.txn)
       (due = none → exec (.stashAck n) s = .next (protocolError n 0x26 s1)) ∧
       (∀ t, due = some t → Runs (.stashAck n) s (fun u => u = { s1 with plz := u.plz, regs := u.regs } ∧
         u.plz = { s1.plz with txns := s1.plz.txns.filter (fun x => x.id != t.id) }))) ∧
     (takeInbox n 4 (fun m => m.msg == 0x32) s = some ((m, d), s1) →
       let due := s1.plz.txns.find? (fun t => t.id % 4096 == m.txn && t.owner == some n.val && t.phase == .snooping)
       (due = none → exec (.wbData n) s = .next (protocolError n 0x32 s1)) ∧
       (∀ t, due = some t → s1.plz.txns.find? (fun t => t.id % 4096 == m.txn && t.owner == some n.val) = some t →
         t.wb = true → t.invSeen = 0 → t.noData = false → s1.regions = [] → s1.stackOut? (lineStack t.line) = none → m.unit < 2 →
         Runs (.wbData n) s (fun u => u = { s1 with plz := u.plz, dram := u.dram } ∧ u.dram.bytes = s1.dram.bytes ∧
           u.plz.owners = s1.plz.owners ∧ u.plz.msgs = s1.plz.msgs ∧
           u.pline t.line = (s1.pline t.line).put m.unit d (s1.unitMark m t.line m.unit) m.dirty)))) ∧
   (∀ (i lk id : Nat) (t : Txn) (s : State), s.msgAt? .memDone i = some (.memDone lk id) → s.txn? id = some t → t.mem = true →
     (∀ a, a = lineAddr t.line ∨ a = lineAddr t.line + 64 → s.heldWrite? (lineStack t.line) a = none) →
     t.kind ≠ .wrFull → t.kind ≠ .wrPart → exec (.memDone i) s = .next (endTxn t (takeMsg (.memDone lk id) s))) ∧
   (∀ (i n txn lk : Nat) (ok : Bool) (s : State), s.msgAt? .wbAck i = some (.wbAck (.site n txn) lk ok) →
     (s.site n).agents.any (fun a => a.txn == txn && a.cxl) = true → Runs (.wbAck i) s (fun u =>
       u = { s with plz := u.plz, sites := u.sites, out := .cxl n "GO-I" 0 0 :: s.out } ∧
       u.plz = { s.plz with msgs := s.plz.msgs.erase (.wbAck (.site n txn) lk ok) } ∧
       (n < 6 → (u.site n).agents = (s.site n).agents.filter (fun a => a.txn != txn)))) ∧
   (∀ (i n txn lk : Nat) (ok : Bool) (s : State), s.msgAt? .wbAck i = some (.wbAck (.site n txn) lk ok) →
     (s.site n).agents.any (fun a => a.txn == txn && a.cxl) = false → ∃ v, exec (.wbAck i) s = .next
       (toSite n { KMsg.blank with msg := 0x25, txn := txn, cls := s.siteReqClass n txn, status := if ok then 0 else 2 } 0 v) ∧
       v = { s with plz := v.plz, sites := v.sites } ∧ (n < 6 → (v.site n).agents = (s.site n).agents.filter (fun a => a.txn != txn)))) ∧
  (∀ s : State,
     (s.rb rPlzCtrl 15 = true → exec .flushAll s = .next s) ∧
     (s.rb rPlzCtrl 15 = false → Runs .flushAll s (fun u => u = { s with plz := { s.plz with flushing := true }, regs := u.regs } ∧
       u.rb rPlzCtrl 15 = true ∧ ∀ j, j ≠ rPlzCtrl → u.reg j = s.reg j)) ∧
     (s.plz.flushing = true → (∀ e ∈ s.plz.lines, e.2.d0 = true ∨ e.2.d1 = true → s.blocked e.1 = false ∧ s.cleanStops e.1 = false) →
       Runs .flushAllDone s (fun u => u.plz.flushing = false ∧ u.rb rPlzCtrl 15 = false ∧ Calm u s ∧ Kept u s ∧
         (s.regions = [] → (∀ e ∈ s.plz.lines, s.stackOut? (lineStack e.1) = none) → u.plz.owners = s.plz.owners ∧
           ∀ lk, (s.pline lk).held = true → s.ownerSite? lk = none →
             (u.pline lk).held = true ∧ (u.pline lk).d0 = false ∧ (u.pline lk).d1 = false))) ∧
     (s.plz.flushing = false → exec .flushAllDone s = .next s))

/-- Requests of a CXL device become requests of the hub at the home of their line (R250), if the window table lets them
pass (R314, R316); others get GO-Err.
Snoop responses of a CXL device become SNP_RSP, and the data that a response forwards is awaited and passed on
(R250, R251). -/
def Obligations.CxlBridge : Prop :=
  (∀ (n : Fin 6) (tag : Fin 4096) (pa : BitVec 52) (k a : Nat) (s : State),
     s.siteCxl n = true → s.siteServes n = true → s.siteCaching n = true → s.openOf? n tag = none →
     bit (s.rff (rSiteNPolicy n) 15 0) (s.rff (rSiteNPolicy n) 19 16) = true →
     let asks (u : State) (kind : TKind) (nodata : Bool) (lk : Nat) : Prop :=
       u = { s with plz := u.plz, sites := u.sites, regs := u.regs } ∧
       (∃ t, u.plz.txns = s.plz.txns ++ [t] ∧ t.kind = kind ∧ t.req = .site n tag ∧ t.line = lk ∧ t.phase = .waiting) ∧
       ∃ g, (u.site n).agents = (s.site n).agents ++ [g] ∧ g.txn = tag.val ∧ g.kind = kind ∧ g.line = lk ∧ g.cxl = true ∧
         g.noData = nodata
     (paTarget (pa.toNat / 128 * 128) = .stacked k a →
       (∀ rights kind nodata c, CxlLineCommand rights kind nodata c →
         (s.physPass n (pa.toNat / 128 * 128) 128 rights = true → Runs (c n tag pa) s (fun u =>
           asks u kind nodata (lineKey k a))) ∧
         (s.physPass n (pa.toNat / 128 * 128) 128 rights = false → kind ≠ .flushLine → Runs (c n tag pa) s (fun u =>
           u.out.head? = some (.cxl n "GO-Err" (pa.toNat / 128 * 128) 0) ∧ Calm u s ∧ Kept u s))) ∧
       (∀ c, CxlWriteCommand c → ∀ (data : LineData) (mask : BitVec 128), mask ≠ 0 →
         s.physPass n (pa.toNat / 128 * 128) 128 2 = true → Runs (c n tag pa data mask false) s (fun u =>
           asks u (if mask = BitVec.ofNat 128 (2 ^ 128 - 1) then .wrFull else .wrPart) false (lineKey k a) ∧
           ∃ t, u.plz.txns = s.plz.txns ++ [t] ∧ t.data = data ∧ t.mask = mask ∧ t.m0 = none ∧ t.m1 = none))) ∧
     (paTarget (pa.toNat / 64 * 64) = .stacked k a → s.physPass n (pa.toNat / 64 * 64) 64 1 = true →
       Runs (.cxlRdcurr n tag pa) s (fun u => asks u (.rdOnce false) false (lineKey k a))) ∧
     (paTarget pa.toNat = .stacked k a →
       (∀ c : Fin 6 → Fin 4096 → BitVec 52 → Instr, c = .cxlCleanevict ∨ c = .cxlCleanevictnodata →
         Runs (c n tag pa) s (fun u => asks u .evictClean false (lineKey k a))) ∧
       Runs (.cxlDirtyevict n tag pa) s (fun u =>
         u = { s with sites := u.sites, out := .cxl n "GO-WritePull" (lineKey k a) 0 :: s.out } ∧ ∀ j, j < 6 →
           u.site j = if j = n.val then { s.site n with due := (s.site n).due ++
             [{ line := lineKey k a, txn := tag, code := 0, modified := true }] } else s.site j)) ∧
     exec (.cxlOtherRequest n) s = .next { s with out := .cxl n "GO-Err" 0 0 :: s.out } ∧ exec (.cxlCacheflushed n) s = .next s) ∧
  (∀ (n : Fin 6) (k : Fin 12) (l : Fin (2 ^ 29)) (s : State),
     let lk := lineOf k l
     (∀ r, s.siteCxl n = true → s.plz.snoops.find? (fun x => x.site == n.val && x.line == lk) = none →
       exec (.cxlSnoopResponse n k l r) s = .next (protocolError n 0x21 s)) ∧
     (∀ x t, s.siteCxl n = true → s.plz.snoops.find? (fun x => x.site == n.val && x.line == lk) = some x → s.txn? x.txn = some t →
       (∀ r left, (r, left) ∈ [(CxlRsp.rspIHitI, 0), (.rspIHitSE, 0), (.rspSHitSE, 1), (.rspVHitV, 2)] →
         exec (.cxlSnoopResponse n k l r) s = .next (snpRsp n (x.txn % 4096) false false left s)) ∧
       (∀ r left, (r, left) ∈ [(CxlRsp.rspSFwdM, 1), (.rspIFwdM, 0), (.rspVFwdV, 2)] → exec (.cxlSnoopResponse n k l r) s = .next
         (let c := snoopCode t
          snpRsp n (x.txn % 4096) (c == 0x11 || c == 0x12 || c == 0x13) (c == 0x11 || c == 0x14) left
           (updSite n (fun y => { y with due := y.due ++
             [{ line := lk, txn := x.txn % 4096, code := c, modified := r != .rspVFwdV }] }) s)))) ∧
     (∀ data poison, (∀ d ∈ (s.site n).due, d.line ≠ lk) → exec (.cxlD2hData n k l data poison) s = .next s) ∧
     (∀ data d, (s.site n).due.find? (fun d => d.line == lk) = some d → d.code = 0 → s.openOf? n d.txn = none →
       Runs (.cxlD2hData n k l data false) s (fun u => u = { s with plz := u.plz, sites := u.sites, regs := u.regs } ∧
         (u.site n).due = (s.site n).due.erase d ∧ ∃ t, u.plz.txns = s.plz.txns ++ [t] ∧ t.kind = .writeback ∧
           t.req = .site n d.txn ∧ t.data = data ∧ t.m0 = none ∧ t.m1 = none)) ∧
     (∀ data poison d, (s.site n).due.find? (fun d => d.line == lk) = some d → d.code = 0x15 ∨ d.code = 0x16 →
       Runs (.cxlD2hData n k l data poison) s (fun u => u = { s with sites := u.sites } ∧
         (u.site n).due = (s.site n).due.erase d)))

/-- The bond link (R299): a flit in its turn is delivered and acknowledged, a bad one or a lasting gap is NAKed, and a NAK
of the chiplet resends what follows the flits it holds.
Bonds of a site: counts restart with their window, a failing bond leaves with a REPAIR that names the next spare, a
module without spares, or not back in time, is retired (R300 to R302). -/
def Obligations.BondLinkAndRepair : Prop :=
  (∀ (n : Fin 6) (m : Fin 64) (s : State), s.mainBand n = true → m.val ∈ rotation (s.site n) →
     let wire (p : BitVec 704) (k : Nat) : Out := .flit n k p (Config.flitCheck p)
     let idle (nak : Bool) : BitVec 704 := flitPayload
       { seq := 0, ack := lastFlit (s.site n), ftype := .idle, nak := nak, credits := creditsNow (s.site n), slots := [],
         unit := 0, stream := [] }
     (∀ p : BitVec 704, (flitOf p).nak = false → (s.site n).held = [] → (s.site n).corrRun = [] →
       ((flitOf p).ftype = .idle → Settles (.siteFlit n m ⟨p, []⟩) s (fun v => v = { s with sites := v.sites } ∧
         (v.site n).rxSeq = (s.site n).rxSeq ∧ (v.site n).unacked = ackFlits (flitOf p).ack (s.site n).unacked ∧
         (v.site n).inbox = (s.site n).inbox ∧ ∀ i, i < 5 →
           (v.site n).credits.getD i 0 = (s.site n).credits.getD i 0 + (flitOf p).credits.getD i 0)) ∧
       ((flitOf p).seq = (s.site n).rxSeq → (s.site n).early = [] →
         (∀ h, (flitOf p).ftype = .hdrData → (flitOf p).slots = [h] → kspFromChiplet h.msg = true →
           h.epoch = (s.site n).epoch → Settles (.siteFlit n m ⟨p, []⟩) s (fun v =>
             v = { s with sites := v.sites, cnt := v.cnt, out := v.out } ∧ (v.site n).rxSeq = ((s.site n).rxSeq + 1) % 2 ^ 14 ∧
             (v.site n).inbox = (s.site n).inbox ++ [(h, (flitOf p).unit)])) ∧
         (∀ h r, (flitOf p).ftype = .hdr → (flitOf p).slots = h :: r → h.msg ≠ 0 → h.epoch ≠ (s.site n).epoch →
           (∀ g ∈ r, g.msg = 0) → Settles (.siteFlit n m ⟨p, []⟩) s (fun v => (v.site n).inbox = (s.site n).inbox ∧
             v.rf (rSiteNErrors n) 21 12 = min (s.rf (rSiteNErrors n) 21 12 + 1) 1023 ∧ Calm v s)))) ∧
     ((s.site n).naks < 15 →
       let nak (v : State) : Prop := v = { s with sites := v.sites, regs := v.regs, cnt := v.cnt, out := v.out } ∧
         (∃ k ∈ rotation (s.site n), v.out = wire (idle true) k :: s.out) ∧
         (v.site n).naks = (s.site n).naks + 1 ∧ (v.site n).gap = true ∧ (v.site n).early = [] ∧
         (v.site n).rxSeq = (s.site n).rxSeq
       (∀ p errs, 3 ≤ (wrongBonds (s.site n) m errs).length → (wrongBonds (s.site n) m errs).length ≤ 6 →
         Settles (.siteFlit n m ⟨p, errs⟩) s nak) ∧ ((s.site n).gap = true → Settles (.siteSeqGapTimeout n) s nak)) ∧
     (∀ p errs, (s.site n).naks = 15 → 3 ≤ (wrongBonds (s.site n) m errs).length →
       (wrongBonds (s.site n) m errs).length ≤ 6 →
       Settles (.siteFlit n m ⟨p, errs⟩) s (fun v => ∃ w, v = loseSite n ccLink w ∧ Kept w s)) ∧
     (∀ ack, (s.site n).held = [] → (s.site n).naksRx < 15 → Settles (.siteNak n ack) s (fun v => Calm v s ∧ Still v s ∧
       (v.site n).unacked = ackFlits ack.toNat (s.site n).unacked ∧
       (v.site n).naksRx = (if (ackFlits ack.toNat (s.site n).unacked).length < (s.site n).unacked.length then 1
         else (s.site n).naksRx + 1) ∧
       ∃ ks : List Nat, ks.length = (v.site n).unacked.length ∧ (∀ k ∈ ks, k ∈ rotation (s.site n)) ∧
         v.out = (List.zipWith (fun (g : Flit) k => wire (flitPayload { g with ack := lastFlit (s.site n) }) k)
           (v.site n).unacked ks).reverse ++ s.out)) ∧
     Runs (.siteAckTimer n) s (fun u => u = { s with sites := u.sites, out := u.out } ∧
       ∃ k ∈ rotation (s.site n), u.out = wire (idle false) k :: s.out)) ∧
  (∀ (n : Fin 6) (m : Fin 64) (s : State),
     (∀ b : Fin 96, Runs (.siteMonitorWindow n m b) s (fun u => u = { s with sites := u.sites } ∧
       (u.site n).corr = Table.erase (s.site n).corr (m.val * 128 + b.val) ∧ (u.site n).failing = (s.site n).failing)) ∧
     (∀ b : Fin 96, s.inService uSite n = true → (m.val, b.val) ∉ (s.site n).failing → m.val ∉ (s.site n).retired →
       (∀ j, Table.get 0 (s.site n).sparesUsed m = j → j < 4 → (s.site n).gap = false → Settles (.bondFail n m b) s (fun v =>
         v = { s with sites := v.sites, regs := v.regs, out := v.out } ∧ (v.site n).failing = (s.site n).failing ++ [(m.val, b.val)] ∧
         (v.site n).repairing = (s.site n).repairing ++ [(m.val, b.val, j)] ∧
         Table.get 0 (v.site n).sparesUsed m = j + 1 ∧
         Table.find? (v.site n).spareMap (128 * m.val + b.val) = some j ∧
         v.out = .sideband n [0x08 + 2 ^ 14 * (s.site n).sbSeq + 2 ^ 23 * packFields [(m, 6), (b, 7), (j, 2)]] :: s.out)) ∧
       (4 ≤ Table.get 0 (s.site n).sparesUsed m → Settles (.bondFail n m b) s (fun v => v = retireSiteModule n m s))) ∧
     ((∃ r ∈ (s.site n).repairing, r.1 = m.val) → Settles (.siteRepairTimeout n m) s (fun v => v = retireSiteModule n m s)) ∧
     (s.inService uSite n = true → m.val ∉ (s.site n).retired → (s.site n).retired.length < 32 →
       let v := retireSiteModule n m s
       (v.unit uSite n).status = stDegraded ∧ (v.unit uSite n).cause = ccModule ∧
         (v.unit uSite n).width = (s.unit uSite n).width - 1 ∧ (v.site n).retired = (s.site n).retired ++ [m.val] ∧ Kept v s) ∧
     (∀ b : Fin 96, (s.site n).repairing = [(m.val, b.val, 0)] → exec (.repairDone n m) s = .next
       (flushHeld n (opRecord 0x0401 false [n, m, b] (setRf (rSiteNStatus n) 21 13 (s.rf (rSiteNStatus n) 21 13 - 1)
         (rewriteUnits [(unitKey uSite n, fun u => { u with spares := u.spares - 1 })] (updSite n (fun x => { x with
           repairing := x.repairing.filter (fun r => r.1 != m.val)
           failing := x.failing.filter (fun f => f.1 != m.val) }) s)))))) ∧
     (s.inService uSite n = true → m.val ∉ (s.site n).retired → (∀ f ∈ (s.site n).failing, f.1 ≠ m.val) →
       (s.site n).gap = false → Runs (.siteRetrain n m) s (fun u => u = { s with sites := u.sites, regs := u.regs } ∧
         (u.site n).repairing = (s.site n).repairing ++ [(m.val, 96, 4)])))

/-- A site in service that is lost is ABSENT at once with its cause (R253, R322), and the plazas sweep its owner entries. -/
def Obligations.SiteLosses : Prop :=
  ∀ (n : Fin 6) (s : State),
    (s.inService uSite n = true →
      (∀ cause c, LossCommand cause c → Settles (c n) s (fun v => SiteLost n cause v s)) ∧
      (∀ valid, Settles (.siteClockLost n ⟨BitVec.allOnes 64, valid⟩) s (fun v => SiteLost n ccClock v s)) ∧
      ((∃ x ∈ s.plz.snoops, x.site = n.val) → Settles (.snoopTimeout n) s (fun v => SiteLost n ccSnoop v s)) ∧
      (∀ w, 1400 < w.toNat → (s.site n).clampBudget ≠ none → Settles (.siteClampTimeout n w) s (fun v =>
        SiteLost n ccOvercurrent v s ∧ v.rf (rSiteNStatus n) 24 23 = 3)) ∧
      ((s.site n).barred = false → Settles (.siteReset n) s (fun v => v.status uSite n = stAbsent ∧
        (v.site n).absCause = ccOperator ∧ (v.site n).join = .caps ∧ (v.site n).inbox = [] ∧
        v.rf (rSiteNStatus n) 24 23 = 0 ∧ ∃ w, v.out.head? = some (.sideband n [w]) ∧ w % 256 = 0x0E))) ∧
    (∀ m : Fin 64, (s.site n).retired = [] → s.inService uSite n = true →
      Settles (.siteClockLost n ⟨BitVec.ofNat 64 (2 ^ m.val), 0⟩) s (fun v => v = retireSiteModule n m s) ∧
      Settles (.siteClockLost n ⟨0, BitVec.ofNat 64 (2 ^ m.val)⟩) s (fun v => v = retireSiteModule n m s)) ∧
    (s.status uSite n = stEmpty → ∀ c, c = .siteIsolate n ∨ c = .sidebandLost n ∨ c = .resetNotice n →
      Settles c s (fun v => v = s)) ∧
    ((∀ x ∈ s.plz.snoops, x.site ≠ n.val) → Settles (.snoopTimeout n) s (fun v => v = s)) ∧
    (n.val ∈ s.plz.ownerSweep → (∀ t ∈ s.plz.txns, t.phase = .waiting) →
      let es := s.plz.owners.filter (fun e => e.2.site == n.val)
      let x := updPlz (fun p => { p with ownerSweep := p.ownerSweep.filter (· != n.val) })
        (forEach es (fun e s => freeOwner e.1 (poisonLine e.1 s)) s)
      n.val ∉ x.plz.ownerSweep ∧ exec (.siteOwnerSweepDone n) s = .next (serviceRequest uSite n (x.site n).absCause 1
        (opRecord 0x0304 true [n, (x.site n).absCause, (x.site n).poisoned + es.length]
          (recordMarked uSite n (x.site n).absCause x))))

/-- A site joins at S3 and comes back by the steps of R324: the declaration, the certificate and its challenge (R321),
JOINED, and the return to service; a step that fails keeps it out. -/
def Obligations.SiteJoining : Prop :=
  ∀ (n : Fin 6) (s : State),
    let sb (mtype : Nat) (fields : List (Nat × Nat)) (rest : List Nat) : Out := .sideband n
      ((mtype + 2 ^ 8 * rest.length + 2 ^ 14 * (s.site n).sbSeq + 2 ^ 23 * packFields fields) :: rest)
    (s.status uSite n = stAbsent → (s.site n).join = .none → (s.site n).barred = false → Runs (.siteRejoin n) s (fun u =>
      u = { s with sites := u.sites, regs := u.regs, pwr := u.pwr } ∧ (u.site n).join = .caps ∧ (u.site n).lastStep = 1 ∧
      u.rf (rSiteNStatus n) 24 23 = 0)) ∧
    (s.status uSite n ≠ stAbsent ∨ (s.site n).barred = true → exec (.siteRejoin n) s = .next s) ∧
    (∀ cxl caching rate aperture power vendor part certLen, s.stage = 3 → s.ready = false →
      let p := s.inForce (rSiteNPolicy n)
      let ok := bit p (if cxl then 21 else 20) = true ∧ aperture.toNat ≤ 1024 ∧ power.toNat ≤ 350 ∧ certLen.toNat ≤ 8192
      (ok → certLen.toNat ≠ 0 → Runs (.caps n cxl caching rate true aperture power vendor part certLen) s (fun u =>
        u = { s with sites := u.sites, regs := u.regs, out := sb 0x0A [(0, 13)] [] :: s.out } ∧
        u.rf (rSiteNCaps n) 13 3 = aperture.toNat ∧ u.rf (rSiteNCaps n) 22 14 = power.toNat ∧ u.rb (rSiteNCaps n) 23 = true ∧
        u.reg (rSiteNId n) = vendor.toNat + 2 ^ 16 * part.toNat ∧ u.siteCxl n = cxl ∧ u.siteCaching n = caching ∧
        (u.site n).join = .cert ∧ (u.site n).certLen = certLen.toNat)) ∧
      (¬ok → Runs (.caps n cxl caching rate true aperture power vendor part certLen) s (fun u =>
        u.status uSite n = stEmpty ∧ (u.unit uSite n).cause = ccCapsRejected ∧ (u.site n).join = .none ∧ Calm u s ∧ Kept u s))) ∧
    (∀ bytes, (s.site n).join = .cert → bytes.length ≤ 256 → s.sec.rngFailed = false →
      let c := ((s.site n).cert ++ bytes).take (s.site n).certLen
      (c.length < (s.site n).certLen → Runs (.certData n bytes) s (fun u => (u.site n).cert = c ∧ (u.site n).join = .cert ∧
        u = { s with sites := u.sites, out := sb 0x0A [(c.length, 13)] [] :: s.out })) ∧
      (c.length = (s.site n).certLen → Runs (.certData n bytes) s (fun u => (u.site n).cert = c ∧ (u.site n).join = .challenge ∧
        (u.site n).nonce = (nonce s).1 ∧ u.out = sb 0x0C [] (sbWords (nonce s).1) :: s.out ∧
        u = { s with sites := u.sites, free := s.free + 6, out := u.out }))) ∧
    (∀ bytes, 256 < bytes.length → exec (.certData n bytes) s = .fault .illFormed) ∧
    (∀ sig, sig.length ≠ 96 → exec (.response n sig) s = .fault .illFormed) ∧
    (∀ sig, sig.length = 96 → (s.site n).join = .challenge →
      let x := s.site n
      let good := Config.ecdsaVerify x.cert (x.nonce ++ x.digest) sig
      (good = true → s.ready = false → x.retired = [] → x.cert ≠ [] → Runs (.response n sig) s (fun u =>
        u.status uSite n = stGood ∧ (u.site n).firstDigest = some x.digest ∧ (u.site n).join = .none ∧ Calm u s ∧ Kept u s)) ∧
      (good = false → s.ready = false → Runs (.response n sig) s (fun u => u.status uSite n = stEmpty ∧
        (u.unit uSite n).cause = ccCertFailed ∧ (u.site n).join = .none ∧ Calm u s ∧ Kept u s)) ∧
      (good = true → s.ready = true → x.firstDigest ≠ some x.digest →
        Runs (.response n sig) s (fun u => u.status uSite n = stAbsent ∧ (u.unit uSite n).cause = ccIdentity ∧
          (u.site n).barred = true ∧ (u.site n).join = .none ∧ Calm u s ∧ Kept u s))) ∧
    ((s.site n).join = .join → Runs (.joined n) s (fun u =>
      u = { s with sites := u.sites, out := u.out } ∧ (u.site n).lastStep = 6 ∧
      (u.site n).join = (if s.inService uSite n then .none else .joined) ∧ (s.siteCxl n = true → u.out = s.out) ∧
      (s.siteCxl n = false → rotation (s.site n) ≠ [] → (u.site n).owed = [0, 0, 0, 0, 0] ∧
        ∃ k ∈ rotation (s.site n), u.out = (List.range 9).reverse.map (fun i =>
          let p := flitPayload { seq := 0, ack := lastFlit (s.site n), ftype := .idle, nak := false,
                                 credits := [min 63 (256 - 63 * i), 0, 0, min 63 (256 - 63 * i), min 63 (512 - 63 * i)],
                                 slots := [], unit := 0, stream := [] }
          Out.flit n k p (Config.flitCheck p)) ++ s.out))) ∧
    ((s.site n).join = .joined → Runs (.siteRejoined n) s (fun u => (u.site n).join = .none ∧ Calm u s ∧ Kept u s ∧
      u.status uSite n = (if (s.site n).retired.isEmpty then stGood else stDegraded) ∧
      u.boot.quar = Table.erase s.boot.quar (unitKey uSite n))) ∧
    ((s.site n).join ≠ .none → s.ready = true → Runs (.siteRejoinFailed n) s (fun u => (u.site n).join = .none ∧
      u.status uSite n = stAbsent ∧ Calm u s ∧ Kept u s))

/-- KSP requests of a chiplet: admission against the window table, the data of a write, and the answers to the hub's own
requests of its aperture, each to the requester that waits. -/
def Obligations.SiteRequests : Prop :=
  ∀ (n : Fin 6) (s s1 : State) (m : KMsg) (d : UnitData),
    ((serveSites s).siteServes n = false → exec (.kspReqAdmission n) s = .next (serveSites s)) ∧
    ((serveSites s).siteServes n = true → takeInbox n 0 (fun _ => true) (serveSites s) = some ((m, d), s1) →
      s1.siteCxl n = false → s1.siteCaching n = true → s1.openOf? n m.txn = none → m.virt = false →
      bit (s1.rff (rSiteNPolicy n) 15 0) m.cls = true →
      (∀ k a, paTarget m.addr = .stacked k a → (m.msg = 1 ∧ s1.physPass n m.addr 128 9 = true) ∨
          (m.msg = 2 ∧ s1.physPass n m.addr 128 11 = true) → Runs (.kspReqAdmission n) s (fun u =>
        u = { s1 with plz := u.plz, sites := u.sites, regs := u.regs } ∧ ∃ t, u.plz.txns = s1.plz.txns ++ [t] ∧
          t.kind = (if m.msg = 1 then .rdShared else .rdUnique) ∧ t.req = .site n m.txn ∧ t.line = lineKey k a ∧ t.phase = .waiting)) ∧
      (m.msg = 4 → s1.physPass n m.addr 128 2 = true → Runs (.kspReqAdmission n) s (fun u => u = { s1 with sites := u.sites } ∧
        ∃ o, (u.site n).opens = (s1.site n).opens ++ [o] ∧ o.hdr = m ∧ o.need = 2 ∧ o.fail = 0)) ∧
      (m.msg = 4 → s1.physPass n m.addr 128 2 = false → Runs (.kspReqAdmission n) s (fun u => Calm u s1 ∧ Kept u s1 ∧
        u.plz.ownerSweep = s1.plz.ownerSweep ∧ ∃ o, (u.site n).opens = (s1.site n).opens ++ [o] ∧ o.hdr = m ∧ o.need = 2 ∧
        o.fail = 3))) ∧
    (takeInbox n 4 (fun m => m.msg == 0x0A) s = some ((m, d), s1) →
      (s1.openOf? n m.txn = none → ∀ last, exec (.wdata n last) s = .next (protocolError n 0x0A s1)) ∧
      (∀ o last, s1.openOf? n m.txn = some o → o.hdr.msg = 4 → o.need = 2 → m.unit = 0 → Runs (.wdata n last) s (fun u =>
        u = { s1 with sites := u.sites } ∧ ∃ q, u.openOf? n m.txn = some q ∧ q.need = 1 ∧ q.hdr = o.hdr ∧
          q.data = joinUnits d (lineUnit o.data 1) ∧ q.m1 = o.m1)) ∧
      (∀ o last k a, s1.openOf? n m.txn = some o → o.hdr.msg = 4 → o.need = 1 → o.fail = 0 → o.hdr.virt = false → m.unit = 1 →
        paTarget o.hdr.addr = .stacked k a → Runs (.wdata n last) s (fun u =>
          u = { s1 with plz := u.plz, sites := u.sites, regs := u.regs } ∧ u.openOf? n m.txn = none ∧
          ∃ t, u.plz.txns = s1.plz.txns ++ [t] ∧ t.kind = .wrFull ∧ t.req = .site n m.txn ∧ t.line = lineKey k a ∧
            t.data = joinUnits (lineUnit o.data 0) d))) ∧
    (takeInbox n 4 (fun m => m.msg == 0x34) s = some ((m, d), s1) →
      (takeTgt n m.txn false s1 = none → Settles (.memData n) s (fun v => v =
        if (m.txn, false) ∈ (s1.site n).late then updSite n (fun x => { x with late := x.late.erase (m.txn, false) }) s1
        else protocolError n 0x34 s1)) ∧
      (∀ q s2, takeTgt n m.txn false s1 = some (q, s2) → Settles (.memData n) s (fun v => v = serveSites
        (arrive q.who q.key d (if m.poison then some absentMark else none) s2)))) ∧
    (takeInbox n 3 (fun m => m.msg == 0x27) s = some ((m, d), s1) →
      (takeTgt n m.txn true s1 = none → Settles (.memAck n) s (fun v => v =
        if (m.txn, true) ∈ (s1.site n).late then updSite n (fun x => { x with late := x.late.erase (m.txn, true) }) s1
        else protocolError n 0x27 s1)) ∧
      (∀ q s2, takeTgt n m.txn true s1 = some (q, s2) → Settles (.memAck n) s (fun v => v = serveSites
        (ackWrite q.who (match q.who with
          | .site _ _ => if m.status = 3 then some 3 else none
          | .fabWin _ _ _ => if m.status = 3 then some 2 else none
          | _ => none) s2)))) ∧
    (∀ (txn : Fin 4096) (q : TgtReq), (s.site n).tgts.find? (fun q => q.txn == txn.val) = some q →
      let s2 := updSite n (fun x => { x with tgts := x.tgts.erase q }) s
      let s3 := updSite n (fun x => { x with tgts := x.tgts.erase q, late := x.late ++ [(q.txn, q.write)] }) s
      Settles (.tgtTimeout n txn) s (fun v => v = serveSites (if q.write then ackDead q.who (protocolError n 0x42 s3)
        else arrive q.who q.key 0 (some absentMark) (protocolError n 0x41 s3))) ∧
      (∀ data poison, s.siteCxl n = true → Settles (.cxlMemResponse n txn data poison) s (fun v => v = serveSites
        (if q.write then ackWrite q.who none s2
         else arrive q.who q.key data (if poison then some absentMark else none) s2))))

/-- What a site reports, its budget and its clamp (R319, R320), the window fence (R317) and FLUSHED (R326). -/
def Obligations.SitePower : Prop :=
  ∀ (n : Fin 6) (s : State),
    (∀ w : BitVec 64, (w.toNat % 256 = 4 → Runs (.status n w) s (fun u => u = { s with sites := u.sites } ∧
        (u.site n).pll = w.getLsbD 23 ∧ ∀ j, j ≠ n.val → u.site j = s.site j)) ∧
      (w.toNat % 256 = 0 ∨ 0x13 < w.toNat % 256 → Runs (.status n w) s (fun u => u = { s with regs := u.regs } ∧
        u.rf (rSiteNErrors n) 21 12 = min (s.rf (rSiteNErrors n) 21 12 + 1) 1023))) ∧
    (∀ w q, Runs (.powerReport n w q) s (fun u => u = { s with regs := u.regs } ∧ u.rf (rSiteNPower n) 10 0 = w.toNat ∧
      ∀ j, j ≠ rSiteNPower n → u.reg j = s.reg j)) ∧
    (s.inService uSite n = true → (s.site n).clampBudget = none → Runs (.siteBudgetTimer n) s (fun u =>
      u = { s with sites := u.sites, out := .sideband n [0x05 + 2 ^ 14 * (s.site n).sbSeq +
        2 ^ 23 * packFields [(s.siteBudget n, 11), (0, 1), ((s.site n).budgetSeq, 9)]] :: s.out } ∧
      (u.site n).curBudget = s.siteBudget n ∧ s.siteBudget n ≤ 0x578)) ∧
    (∀ w, s.inService uSite n = true → (s.site n).clampBudget = none → Runs (.siteBudgetWrite n w) s (fun u =>
      u = { s with regs := u.regs, sites := u.sites, out := u.out } ∧ u.rf (rSiteNBudget n) 10 0 = w.toNat ∧
      (u.site n).curBudget = u.siteBudget n)) ∧
    (∀ w, s.status uSite n = stQuarantine → exec (.siteBudgetWrite n w) s = .next
      (toShadow (rSiteNBudget n) w.toNat s)) ∧
    (∀ w, 1400 < w.toNat → s.inService uSite n = true → (s.site n).clampBudget = none → Runs (.siteOverpower n w) s (fun u =>
      (u.site n).clampBudget = some ((s.site n).curBudget * 9 / 10) ∧ Calm u s ∧ Kept u s ∧ Still u s)) ∧
    (∀ w, w.toNat ≤ 1400 → Runs (.siteOverpower n w) s (fun u => u = setRf (rSiteNPower n) 21 11 w.toNat s)) ∧
    ((s.site n).clampBudget ≠ none → s.inService uSite n = true → Runs (.siteUnclamp n) s (fun u =>
      (u.site n).clampBudget = none ∧ Calm u s ∧ Kept u s ∧ Still u s)) ∧
    ((s.site n).clampBudget = none → exec (.siteUnclamp n) s = .next s) ∧
    Runs (.siteWinFence n) s (fun u => u = { s with sites := u.sites, regs := u.regs } ∧ u.rb (rSiteNCtrl n) 11 = true ∧
      ∀ o ∈ (u.site n).opens, o.fenced = true) ∧
    (s.rb (rSiteNCtrl n) 11 = true → (∀ o ∈ (s.site n).opens, o.fenced = false) → (∀ a ∈ (s.site n).agents, a.fenced = false) →
      Runs (.siteWinFenceDone n) s (fun u => u = { s with regs := u.regs } ∧ u.rb (rSiteNCtrl n) 11 = false ∧
        ∀ j, j ≠ rSiteNCtrl n → u.reg j = s.reg j)) ∧
    ((∃ o ∈ (s.site n).opens, o.fenced = true) → exec (.siteWinFenceDone n) s = .next s) ∧
    ((s.site n).flushing = true → (∀ e ∈ s.plz.owners, e.2.site ≠ n.val) → Runs (.flushed n) s (fun u =>
      u = { s with sites := u.sites } ∧ (u.site n).flushing = false)) ∧
    ((s.site n).flushing = false → exec (.flushed n) s = .next s)

/-! ## Translation, faults and recovery -/

/-- Walks and pending-fault tables: an entry read by a walk, a fault that joins an entry or takes a FREE one, and the ones that
wait without a record (R266, R277, R278, R281).
Records of faults and kept records go out, and RESUME_PAGE makes its entry WAKING, releases the stalled accesses and
frees it (R280, R283, R285, R290). -/
def Obligations.WalksFaultsAndResume : Prop :=
  ((∀ (p : Fin 3) (i : Nat) (w : Walk) (k a : Nat) (s : State), (s.walker p).walks[i]? = some w →
     paTarget (entryAt w.table w.level w.va) = .stacked k a →
     (∀ s1, agentRead opRecord (.walker p w.num) (.stacked k (a / 64 * 64)) 0 0 s = (none, s1) →
       Settles (.translationWalkStep p i) s (fun v => v = s1)) ∧
     (∀ u m s1, agentRead opRecord (.walker p w.num) (.stacked k (a / 64 * 64)) 0 0 s = (some (u, m), s1) →
       let e := bits u.toNat (8 * (a % 64) + 63) (8 * (a % 64))
       (m.isSome = true ∨ bit e 0 = false → Settles (.translationWalkStep p i) s (fun v => v = { s1 with xlt := v.xlt } ∧
         v.xlt.stalled = s1.xlt.stalled ++ [{ who := w.who, ctx := w.ctx, page := w.va / 65536 }] ∧
         ∃ f, (v.walker (w.va / 65536 % 3)).arriving.getLast? = some f ∧ f.who = w.who ∧ f.ctx = w.ctx ∧ f.va = w.va ∧
           f.acc = w.acc ∧ f.level = w.level ∧ f.cause = (if m.isSome then .tablePoison else .notPresent))) ∧
       (m = none → bit e 0 = true → formatOk e w.level = true → bit e 1 = false →
         Settles (.translationWalkStep p i) s (fun v => v = { s1 with xlt := v.xlt } ∧ v.xlt.stalled = s1.xlt.stalled ∧
           (v.walker p).walks = (s1.walker p).walks.set i { w with level := w.level + 1, table := entAddr e })))) ∧
   (∀ (p : Fin 3) (i : Fin 256) (m : FaultMsg) (rest : List FaultMsg) (s : State), (s.walker p).arriving = m :: rest →
     let live := (s.walker p).pft.filter (fun e => e.2.live && e.2.ctx == m.ctx)
     (∀ e, live.find? (fun e => e.2.page == m.va / 65536) = some e → Runs (.faultArrival p i) s (fun u =>
       u = { s with xlt := u.xlt } ∧ (u.walker p).arriving = rest ∧ (u.walker p).order = (s.walker p).order ∧
       Table.find? (u.walker p).pft e.1 = some { e.2 with
         access := e.2.access ||| accessBits m.acc, causes := e.2.causes ||| causeBit m.cause,
         bitmap := e.2.bitmap ||| 2 ^ s.position m.who })) ∧
     (live.find? (fun e => e.2.page == m.va / 65536) = none →
       (live.length < s.rf rFltCtrl 8 0 → Table.find? (s.walker p).pft i = none → Runs (.faultArrival p i) s (fun u =>
         u = { s with xlt := u.xlt, regs := u.regs } ∧ (u.walker p).arriving = rest ∧
         (u.walker p).order = (s.walker p).order ++ [i.val] ∧ (u.walker p).seq = ((s.walker p).seq + 1) % 2 ^ 32 ∧
         ∃ e, Table.find? (u.walker p).pft i = some e ∧ e.st = .undelivered ∧ e.ctx = m.ctx ∧ e.page = m.va / 65536 ∧
           e.seq = (s.walker p).seq ∧ e.bitmap = 2 ^ s.position m.who)) ∧
       (s.rf rFltCtrl 8 0 ≤ live.length → Runs (.faultArrival p i) s (fun u => u = { s with xlt := u.xlt } ∧
         (u.walker p).arriving = rest ∧ (u.walker p).noRecord = (s.walker p).noRecord ++ [m] ∧
         (u.walker p).pft = (s.walker p).pft)))) ∧
   (∀ (p : Fin 3) (i : Fin 256) (s : State), (s.walker p).arriving = [] → exec (.faultArrival p i) s = .next s)) ∧
  ((∀ (p : Fin 3) (i : Nat) (rest : List Nat) (e : Pft) (a : CacheEnt) (s s1 : State), (s.walker p).order = i :: rest →
     Table.find? (s.walker p).pft i = some e → s.fltRoom e.ctx = true → fltArea e.ctx s = (some a, s1) →
     s1.heldWaits a (s1.fltSlot e.ctx) 64 = false → exec (.faultRecordDelivery p) s = .next (updWalker p (fun w => { w with
       pft := Table.set w.pft i { e with st := .delivered }
       order := w.order.filter (· != i) }) (writeFlt e.ctx a (faultRecord p i e) s1))) ∧
   (∀ (p : Fin 3) (s : State), (∀ i ∈ (s.walker p).order, ∀ e, Table.find? (s.walker p).pft i = some e → s.fltRoom e.ctx = false) →
     exec (.faultRecordDelivery p) s = .next s) ∧
   (∀ s : State, (s.xlt.kept = [] ∨ s.opOn = false ∨ s.opRoom = false → exec .keptRecordWrite s = .next s) ∧
     ∀ r l, s.xlt.kept = r :: l → s.opOn = true → s.opRoom = true → exec .keptRecordWrite s = .next
       (placeLost (writeOp r (updXlt (fun x => { x with kept := l }) s)))) ∧
   (∀ (id p i : Nat) (l : Live) (s : State), s.xlt.resumes.find? (fun r => r.1 == id) = some (id, p, i) → s.liveOf? id = some l →
     let s1 := updXlt (fun x => { x with resumes := x.resumes.filter (fun q => q.1 != id) }) s
     let same (e : Pft) : Bool := e.live && e.ctx == l.ctx && e.page == wf l.words 5 31 16 + 2 ^ 16 * wf l.words 6 22 0 &&
       e.seq == wd l.words 8
     (∀ e, Table.find? (s.walker p).pft i = some e → same e = true → bit (wd l.words 7) 10 = false → p < 3 →
       Settles (.resumeAtWalker id) s (fun v => v = { s with xlt := v.xlt, regs := v.regs } ∧
         Table.find? (v.walker p).pft i = some { e with st := .waking, wake := id } ∧ i ∉ (v.walker p).order ∧
         v.xlt.stalled = s.xlt.stalled.filter (fun x =>
           !(x.ctx == e.ctx && x.page == e.page && bit e.bitmap (s.position x.who))))) ∧
     ((∀ e, Table.find? (s.walker p).pft i = some e → same e = false) → Settles (.resumeAtWalker id) s (fun v =>
       v = updLive id (fun l => { l with finished := some (0x04, 0) }) s1))) ∧
   (∀ (p : Fin 3) (i : Fin 256) (e : Pft) (s : State), Table.find? (s.walker p).pft i = some e →
     (e.st = .waking → Runs (.resumeWakeDone p i) s (fun u => u = { s with xlt := u.xlt, regs := u.regs, lives := u.lives } ∧
       (u.walker p).pft = Table.erase (s.walker p).pft i ∧
       (u.walker p).arriving = (s.walker p).noRecord ++ (s.walker p).arriving ∧ (u.walker p).noRecord = [] ∧
       u.lives = s.lives.map (fun l => if l.id = e.wake then { l with finished := l.finished.or (some (0, 0)) } else l))) ∧
     (e.st ≠ .waking → exec (.resumeWakeDone p i) s = .next s)) ∧
   (∀ (f : Fin 128) (id : Nat) (q : AptReq) (s : State), s.apt? id = some q → q.fn = f.val →
     s.isStalled (.host f id) q.ctx = true → Settles (.hostWaitExpiry f id) s (fun v =>
       v = { s with xlt := v.xlt, plz := v.plz, regs := v.regs } ∧ (.host f id, q.ctx, q.va / 65536) ∈ v.xlt.aborted ∧
       ∀ x ∈ v.xlt.stalled, x.who ≠ .host f id)))

/-- Invalidations (R274) and the fault rings' registers (R288). -/
def Obligations.InvalidationsAndRings : Prop :=
  (∀ (f : Fin 128) (v : BitVec 32) (s : State), bit v.toNat 19 = true →
    let st := fnKey f rXltInvStatus
    let s1 := setRf (fnKey f rXltInvCtrl) 18 0 v.toNat s
    let c := bits v.toNat 11 0
    let n := min (bits v.toNat 18 13) 39
    (s.rb st 0 = true → exec (.xltInv f v) s = .next (rcFlag st 1 s1)) ∧
    (s.rb st 0 = false → s.owner c ≠ f → exec (.xltInv f v) s = .next (rcFlag st 2 s1)) ∧
    (s.rb st 0 = false → s.owner c = f → Runs (.xltInv f v) s (fun u => u = { s with regs := u.regs, xlt := u.xlt } ∧
      u.rb st 0 = true ∧ ∃ i, u.xlt = { s.xlt with invs := s.xlt.invs ++ [i] } ∧ i.fn = f ∧ i.ctx = c ∧
        i.whole = bit v.toNat 12 ∧ i.lo % 2 ^ n = 0 ∧ i.hi + 1 = i.lo + 2 ^ n))) ∧
  (∀ (f : Fin 128) (v : Inval) (s : State), s.xlt.invs.find? (fun v => v.fn == f.val) = some v →
    (s.ctxOutstanding v.ctx = true → exec (.xltInvDone f) s = .next s) ∧
    (let x := invalidate v s
     x = { s with xlt := x.xlt, plz := x.plz, rings := x.rings, ctxs := x.ctxs } ∧
      (∀ p, p < 3 → ∀ e ∈ (x.walker p).cache, v.covers e = false) ∧ (∀ e ∈ x.xlt.hostCache, v.covers e = false) ∧
      (∀ n, n < 18 → ∀ e ∈ vget [] x.xlt.ctc n, v.covers e = false) ∧
      (∀ n, n < 6 → ∀ e ∈ vget [] x.xlt.siteCache n, v.covers e = false) ∧
      (∀ n, n < 16 → ∀ e ∈ vget [] x.xlt.fabCache n, v.covers e = false) ∧
      (∀ e, (x.context v.ctx).heldCq = some e ∨ (x.context v.ctx).heldHist = some e ∨ (x.context v.ctx).heldFlt = some e →
        v.covers e = false) ∧
      (s.ctxOutstanding v.ctx = false → Runs (.xltInvDone f) s (fun u =>
        u = setRf (fnKey f rXltInvStatus) 0 0 0
          (updXlt (fun y => { y with invs := y.invs.filter (fun w => w.fn != f.val) }) (retryAreas v.ctx x)) ∧
        u.rb (fnKey f rXltInvStatus) 0 = false ∧ ∀ w ∈ u.xlt.invs, w.fn ≠ f.val)))) ∧
  (∀ (v : BitVec 31) (s : State), s.opOn = false →
    let s2 := setReg rFltOpHead 0 (setReg rFltOpTail 0 (setRf rFltOpCtrl 16 4 (bits v.toNat 16 4) (setRf rFltOpCtrl 3 0 v.toNat s)))
    (s2.opRingOk = true → Runs (.fltOpEnable v) s (fun u => u = { s with regs := u.regs } ∧ u.opOn = true ∧
      u.reg rFltOpHead = 0 ∧ u.reg rFltOpTail = 0)) ∧
    (s2.opRingOk = false → exec (.fltOpEnable v) s = .next (rcFlag rFltOpStatus 1 s2))) ∧
  (∀ (v : BitVec 31) (s : State), Runs (.fltOpDisable v) s (fun u => u = { s with regs := u.regs } ∧ u.opOn = false ∧
    ∀ j, j ≠ rFltOpCtrl → u.reg j = s.reg j)) ∧
  (∀ (c : Option (Fin 4096)) (v : BitVec 32) (s : State),
    let head := match c with
      | none => rFltOpHead
      | some c => rCtxFltHead c
    let tail := match c with
      | none => rFltOpTail
      | some c => rCtxFltTail c
    let near : Prop := (s.reg tail + 2 ^ 32 - v.toNat) % 2 ^ 32 < 2 ^ 31
    (near → Runs (.fltHeadWrite c v) s (fun u => u = { s with regs := u.regs } ∧ u.reg head = v.toNat ∧
      ∀ j, j ≠ head → u.reg j = s.reg j)) ∧
    (¬near → exec (.fltHeadWrite c v) s = .next s))

/-- Units leave service and come back: retirement by the operator, a partition reset, flush markers and the epoch steps of
QUARANTINE (R340, R432, R435, R438, R440). -/
def Obligations.RetirementAndQuarantine : Prop :=
  (∀ (l : Fin 128) (s : State),
    (∀ t, s.tileAt? l = some t → s.running = true → s.status uTile t ≠ stFailed → s.status uTile t ≠ stDisabled →
      Runs (.tileRetire l) s (fun u => (u.unit uTile t).status = stFailed ∧ (u.unit uTile t).cause = ccOperator ∧
        u.boot.tilesAt = s.boot.tilesAt ∧ u.pending = s.pending ∧ u.sec = s.sec)) ∧
    (s.tileAt? l = none → exec (.tileRetire l) s = .next s) ∧
    (∀ t, s.tileAt? l = some t → s.status uTile t = stFailed → exec (.tileRetire l) s = .next s)) ∧
  (∀ (p : Fin 3) (s : State),
    (s.running = true → s.status uPartition p ≠ stQuarantine → s.status uPartition p ≠ stFailed →
      (Table.get PUnit.init s.pwr.units (unitKey uPartition p)).now ≠ 3 → Runs (.partitionReset p) s (fun u =>
        u.status uPartition p = stQuarantine ∧ u.epoch = (if s.epoch = 2 ^ 32 - 1 then 1 else s.epoch + 1) ∧
        Table.find? u.boot.partReset p = some 3 ∧
        Table.find? u.net.markers (unitKey uPartition p) = some allMarkers ∧ Kept u s ∧ u.lives = s.lives ∧
        ∀ j, j < 24 → s.status uTile (24 * p + j) ≠ stDisabled → s.status uTile (24 * p + j) ≠ stFailed →
          u.status uTile (24 * p + j) = stQuarantine ∧ u.tile (24 * p + j) = (s.tile (24 * p + j)).cleared)) ∧
    (s.status uPartition p = stQuarantine ∨ s.status uPartition p = stFailed → exec (.partitionReset p) s = .next s) ∧
    (Table.find? s.boot.partReset p = some 5 → exec (.partitionResetDone p) s = .next (opRecord 0x0803 true [p, s.goodTiles p]
      { s with boot := { s.boot with partReset := Table.erase s.boot.partReset p } }))) ∧
  (∀ (q : QuarUnit) (r : Fin 192) (vn plane : Fin 5) (phaseA : Bool) (s : State),
    let code := markerCode r vn plane phaseA
    (∀ l, Table.find? s.net.markers (markerKey q) = some l → code ∈ l → l.erase code ≠ [] →
      s.markerBehind (s.quarGroup q) r vn plane phaseA = false → Runs (.flushMarkerReturn ⟨q, r, vn, plane, phaseA⟩) s (fun u =>
        u = { s with net := { s.net with markers := u.net.markers } } ∧
        Table.find? u.net.markers (markerKey q) = some (l.erase code))) ∧
    (s.markerBehind (s.quarGroup q) r vn plane phaseA = true → exec (.flushMarkerReturn ⟨q, r, vn, plane, phaseA⟩) s = .next s) ∧
    (∀ l, Table.find? s.net.markers (markerKey q) = some l → code ∉ l →
      exec (.flushMarkerReturn ⟨q, r, vn, plane, phaseA⟩) s = .next s)) ∧
  (∀ (t : Fin 72) (s : State), s.status uTile t = stQuarantine → s.status uPartition (tilePart t) ≠ stQuarantine →
    (∀ (r : Fin 192) (vn plane : Fin 5) phaseA, s.markerBehind [(uTile, t.val)] r vn plane phaseA = false →
      Table.find? s.net.markers (unitKey uTile t) = some [markerCode r vn plane phaseA] → s.quarStep uTile t = 2 →
      Runs (.flushMarkerReturn ⟨.tile t, r, vn, plane, phaseA⟩) s (fun u =>
        u = { s with net := u.net, boot := u.boot } ∧ u.quarStep uTile t = 3 ∧
        Table.find? u.net.tags (unitKey uTile t) = some ((s.unit uTile t).epoch % 16 + 1))) ∧
    (Table.find? s.boot.quar (unitKey uTile t) ≠ none → s.quarStep uTile t < 2 → Settles (.quarantineExit (.tile t) []) s (fun v =>
      v = { s with tiles := v.tiles, regs := v.regs, boot := v.boot, net := v.net } ∧ v.quarStep uTile t = 2 ∧
      v.tile t = (s.tile t).cleared ∧ (v.unit uTile t).epoch = s.epoch ∧ v.status uTile t = stQuarantine ∧
      (s.boot.shadow = [] → v.rb (rMxePath t) 2 = false) ∧ Table.find? v.net.markers (unitKey uTile t) = some allMarkers)) ∧
    (s.quarStep uTile t = 3 → Settles (.quarantineExit (.tile t) []) s (fun v => (v.unit uTile t).status = stGood ∧
      (v.unit uTile t).cause = ccNone ∧ (v.unit uTile t).epoch = (s.unit uTile t).epoch ∧ Kept v s ∧ v.lives = s.lives ∧
      v.clusters = s.clusters ∧ v.pwr = s.pwr ∧ v.tile t = { s.tile t with monImage := some s.sec.digest, monMem := [] } ∧
      ∀ j, j ≠ t.val → v.tile j = s.tile j)))

/-! ## The fabric -/

/-- The link layer of a fabric port (R360), its lanes (R366) and its retrains (R367, R368). -/
def Obligations.FabricLinks : Prop :=
  ∀ (n : Fin 16) (s : State),
    let st := rFabPortNStatus n
    let off : Bool := (applyKey .linkRetrain (rFabPortNCtrl n) s).rff (rFabPortNCtrl n) 1 1 == 1
    let idle (nak : Bool) : Out := .kfl n (kflFlitBytes
      { seq := 0, ack := s.lastFlit n, idle := true, nak := nak, first := 0, credits := fabCredits (s.port n), slots := [],
        ends := [] })
    (s.portDown n = true → (∀ c b, exec (.fabricFlit n ⟨c, b⟩) s = .next s) ∧ (∀ a, exec (.fabricNak n a) s = .next s) ∧
      exec (.fabricAckTimer n) s = .next s ∧ ∀ l, Settles (.laneLockLost n l) s (fun v => v = s)) ∧
    (s.portDown n = false →
      Runs (.fabricAckTimer n) s (fun u => u = { s with fab := u.fab, out := idle false :: s.out } ∧
        u.port n = { s.port n with owed := fabPaid (s.port n) }) ∧
      (∀ c b, c = false ∨ kflFlitOf? b = none → (s.port n).naks < 15 → Runs (.fabricFlit n ⟨c, b⟩) s (fun u =>
        u = { s with fab := u.fab, regs := u.regs, cnt := u.cnt, out := idle true :: s.out } ∧
        (u.port n).naks = (s.port n).naks + 1 ∧ (u.port n).gap = true ∧ (u.port n).rxSeq = (s.port n).rxSeq ∧
        u.fab.arriving = s.fab.arriving)) ∧
      (∀ b f, kflFlitOf? b = some (1, f) → f.nak = false → (s.port n).held = [] → (s.port n).tx = [] →
        (∀ m rest, (s.port n).part = [] → kflParse 72 (f.slots.drop f.first) = ([m], rest) → kflKnown m.msg = true →
          f.seq = (s.port n).rxSeq → Runs (.fabricFlit n ⟨true, b⟩) s (fun u =>
            u = { s with fab := u.fab, cnt := u.cnt, out := u.out } ∧ u.fab.arriving = s.fab.arriving ++ [(n.val, m)] ∧
            (u.port n).part = rest ∧ (u.port n).rxSeq = ((s.port n).rxSeq + 1) % 2 ^ 16)) ∧
        (f.seq ≠ (s.port n).rxSeq → Runs (.fabricFlit n ⟨true, b⟩) s (fun u => u = { s with fab := u.fab } ∧
          u.fab.arriving = s.fab.arriving ∧ (u.port n).rxSeq = (s.port n).rxSeq))) ∧
      (∀ b ty f, kflFlitOf? b = some (ty, f) → 2 ≤ ty → exec (.fabricFlit n ⟨true, b⟩) s = .next s) ∧
      (∀ a, (s.port n).held = [] → (s.port n).tx = [] → (s.port n).naksRx < 15 → Runs (.fabricNak n a) s (fun u =>
        u = { s with fab := u.fab, regs := u.regs, cnt := u.cnt, out := u.out } ∧
        (u.port n).unacked = (match (s.port n).unacked.findIdx? (fun f => f.seq == a.toNat) with
          | some i => (s.port n).unacked.drop (i + 1)
          | none => (s.port n).unacked) ∧
        u.out = ((u.port n).unacked.map (fun f =>
          Out.kfl n (kflFlitBytes { f with ack := s.lastFlit n }))).reverse ++ s.out))) ∧
    (s.portState n = 0 → s.portWidth n ≠ 0 → off = false →
      (∀ l : Fin 8, bit (s.rf st 13 6) l = true →
        Settles (.laneLockLost n l) s (Retraining n (s.rf st 13 6 - 2 ^ l.val) · s) ∧
        (∀ e w most, 2 ^ 36 < e.toNat * 10000 → Settles (.laneErrorWindow n l e w most) s
          (Retraining n (s.rf st 13 6 - 2 ^ l.val) · s)) ∧
        (∀ e w, e.toNat * 10000 ≤ 2 ^ 36 → Settles (.laneErrorWindow n l e w false) s (fun v => v = { s with cnt := v.cnt }))) ∧
      Settles (.fabricRetrain n) s (Retraining n 0xFF · s) ∧
      (∀ m s1, kflTake n 0x32 s = some (m, s1) → Retraining n (s.rf st 13 6) (startRetrain n ccLane s1) s1 ∧
        Settles (.lanePlan n) s (fun v =>
          v = updPort n (fun x => { x with peerPlan := bits m.w2 7 0 }) (startRetrain n ccLane s1)))) ∧
    (s.portState n = 2 → s.portWidth n = 0 → off = false → s.running = true → (s.port n).cause = ccNoPeer →
      Runs (.noPeerRetry n) s (fun u => u = { s with regs := u.regs, fab := u.fab } ∧ u.portState n = 1 ∧
        (u.port n).peerPlan = 0xFF ∧ u.rf st 13 6 = s.rf st 13 6)) ∧
    (s.portState n = 1 →
      let w := planWidth (s.rf st 13 6 &&& (s.port n).peerPlan)
      (w = 0 → Settles (.fabricRetrainDone n) s (fun v => v = downPort n ccLane s)) ∧
      (w ≠ 0 → Settles (.fabricRetrainDone n) s (fun v => (v.unit uPort n).width = w ∧
        (v.unit uPort n).status = (if w = 8 then stGood else stDegraded) ∧ Kept v s ∧ v.tiles = s.tiles)) ∧
      Settles (.fabricRetrainTimeout n) s (fun v => v = downPort n ccRetrain s)) ∧
    (∀ c, s.portState n ≠ 2 → ((downPort n c s).unit uPort n).status = stDown ∧ ((downPort n c s).unit uPort n).cause = c ∧
      ((downPort n c s).unit uPort n).width = 0 ∧ Kept (downPort n c s) s)

/-- Requests from other packages are routed, admitted against their window, or denied with one record; answers find the
entry of their request, and one that never comes ends as a timeout (R365, R372, R376, R377). -/
def Obligations.FabricRequests : Prop :=
  (∀ (code : Nat) (c : Fin 17 → Instr), (code = 1 ∧ c = .kflRd) ∨ (code = 2 ∧ c = .kflWr) ∨ (code = 3 ∧ c = .kflWrPart) ∨
      (code = 4 ∧ c = .kflAtomic) → ∀ (n : Fin 17) (s : State),
    (kflTake n code s = none → exec (c n) s = .next s) ∧
    (∀ m s1, kflTake n code s = some (m, s1) →
      (∀ s2, routeKfl n m s1 = (false, s2) → exec (c n) s = .next s2) ∧
      (∀ s2, routeKfl n m s1 = (true, s2) →
        (s2.winAdmits m = false → exec (c n) s = .next (answerKfl m fsDenied [] []
          (opRecord 0x0604 false ([n.val % 16, m.src, kflWindow m] ++ words2 (kflOffset m))
            (countEvent (blkPort (n.val % 16)) 0x65 none none none 1 (rcCount (rFabPortNErrors (n.val % 16)) 31 22 1 s2))))) ∧
        (s2.winAdmits m = true → ∃ v r, exec (c n) s = .next (serveWin (n.val % 16) r.id v) ∧ v = { s2 with fab := v.fab } ∧
          (v.port (n.val % 16)).winReqs = (s2.port (n.val % 16)).winReqs ++ [r] ∧ r.msg = m ∧ r.win = kflWindow m ∧ r.outst = 0 ∧
          r.got = [] ∧ (v.port (n.val % 16)).nextWin = (s2.port (n.val % 16)).nextWin + 1)))) ∧
  (∀ (n : Fin 16) (m : KflMsg) (s : State), s.rf rFabNode 15 0 ≠ 0xFFFF →
    (m.dst = s.rf rFabNode 15 0 → routeKfl n m s = (true, s)) ∧
    (∀ out, m.dst ≠ s.rf rFabNode 15 0 → s.rb rFabCtrl 14 = true → s.routeOut? n m.dst = some out → out < 16 → m.hops ≠ 0 →
      routeKfl n m s = (false, kflSend out { m with
        hops := m.hops - 1, vl := if m.vl = 1 ∨ bit (s.route n m.dst) 5 = true then 1 else 0 } s))) ∧
  (∀ (code : Nat) (c : Fin 17 → Instr), (code = 0x11 ∧ c = .rdData) ∨ (code = 0x12 ∧ c = .kflWrAck) →
    ∀ (n : Fin 17) (m : KflMsg) (s s1 s2 : State), kflTake n code s = some (m, s1) → routeKfl n m s1 = (true, s2) →
      let p := bits m.w2 15 12
      let e := bits m.w2 11 0
      (∀ q, Table.find? (s2.port p).table e = some q → q.write = decide (code = 0x12) →
        Settles (c n) s (fun v => v = endRequest p e (bits m.w2 19 16) m.payload m.marks s2)) ∧
      (Table.find? (s2.port p).table e = none → Settles (c n) s (fun v => v = discardKfl (if n.val < 16 then n.val else p) s2))) ∧
  (∀ (p : Fin 16) (e : Fin 4096) (q : FabReq) (s : State), Table.find? (s.port p).table e = some q →
    let s1 := updPort p (fun x => { x with table := Table.erase x.table e }) s
    (q.write = true → Settles (.fabricRspTimeout p e) s (fun v =>
      v = ackWrite q.who (some (remoteDetail fsTimeout p)) s1) ∧
      endRequest p e 0 [] [] s = ackWrite q.who none s1) ∧
    (q.write = false → q.units = 1 →
      Settles (.fabricRspTimeout p e) s (fun v =>
        v = arrive q.who (tgtAdd 0 q.key) 0 (some (remoteMark (remoteDetail fsTimeout p))) s1) ∧
      ∀ u, endRequest p e 0 [u] [none] s = arrive q.who (tgtAdd 0 q.key) u none s1)) ∧
  (∀ (p : Fin 16) (id c : Nat) (r : WinReq) (s : State), s.winReq? p id = some r → r.ctx = some c →
    (s.isStalled (.fabWin p r.win id) c = true → Settles (.faultWaitExpiry p id) s (fun v =>
      v = answerWin p r fsAborted [] [] (leaveFaults (fun w _ => w == .fabWin p r.win id) s))) ∧
    (s.isStalled (.fabWin p r.win id) c = false → Settles (.faultWaitExpiry p id) s (fun v => v = s)))

/-- Neighbours, routing entries, the window fence and RED messages (R369, R371, R372, R378, R383, R386). -/
def Obligations.FabricControl : Prop :=
  (∀ (n : Fin 16) (m : KflMsg) (s s1 : State), kflTake n 0x31 s = some (m, s1) → (s1.port n).peerNode = none →
    m.src < 2 ^ 16 → Runs (.hello n) s (fun u => u = { s1 with regs := u.regs, fab := u.fab } ∧ u.rb (rFabPortNStatus n) 14 = true ∧
      u.rf (rFabPortNPeer n) 15 0 = m.src ∧ u.rf (rFabPortNPeer n) 19 16 = bits m.w2 3 0 ∧ (u.port n).peerNode = some m.src ∧
      ∀ k, k < 12 → u.reg (rFabPortNPeerIdK n k) = (m.payload.headD 0).toNat % 2 ^ 384 / 2 ^ (32 * k) % 2 ^ 32)) ∧
  (∀ (n : Fin 16) (s : State), let s1 := updPort n (fun x => { x with unreachNote := [] }) s
    (s.portState n ≠ 0 → exec (.helloTimer n) s = .next s1) ∧
    (s.portState n = 0 → exec (.helloTimer n) s = .next (redSend n { s1.redHead n 0x31 1 0 (n + s1.portWidth n % 16 * 16) 0 with
      payload := [BitVec.ofNat 512 s1.identityDigest]
      marks := [none] } s1))) ∧
  (∀ (v : BitVec 16) (s : State), (∀ n, n < 16 → s.portState n ≠ 0) → Runs (.fabNodeWrite v) s (fun u =>
    u = { s with regs := u.regs } ∧ u.rf rFabNode 15 0 = v.toNat ∧ ∀ j, j ≠ rFabNode → u.reg j = s.reg j)) ∧
  (∀ (v : BitVec 32) (s : State), s.rf rFabRtSel 20 16 ≤ 16 →
    let k := 2 ^ 16 * s.rf rFabRtSel 20 16 + s.rf rFabRtSel 15 0
    let next (u : State) : Prop := u.rf rFabRtSel 15 0 =
      (if s.rb rFabRtSel 21 then (s.rf rFabRtSel 15 0 + 1) % 2 ^ 16 else s.rf rFabRtSel 15 0)
    (bits v.toNat 5 0 ≠ 31 → Runs (.fabRtDataAccess (some v)) s (fun u => u = { s with regs := u.regs, fab := u.fab } ∧ next u ∧
      u.fab = { s.fab with routes := u.fab.routes } ∧ Table.get 31 u.fab.routes k = bits v.toNat 5 0 ∧
      ∀ j, j ≠ k → Table.get 31 u.fab.routes j = Table.get 31 s.fab.routes j)) ∧
    (bits v.toNat 5 0 = 31 → Runs (.fabRtDataAccess (some v)) s (fun u => u = { s with regs := u.regs, fab := u.fab } ∧ next u ∧
      u.fab = { s.fab with routes := Table.erase s.fab.routes k })) ∧
    Runs (.fabRtDataAccess none) s (fun u => next u ∧
      let w := s.withRsvd rFabRtData (Table.get 31 s.fab.routes k)
      u = { s with regs := u.regs, out := .regRead 0 rFabRtData (BitVec.ofNat 32 w) :: s.out })) ∧
  (∀ s : State, Runs .fabWinFence s (fun u => u = { s with fab := u.fab, regs := u.regs } ∧ u.rb rFabCtrl 13 = true ∧
      ∀ p, p < 16 → (u.port p).winReqs = (s.port p).winReqs.map (fun r => { r with fenced := true })) ∧
    (s.rb rFabCtrl 13 = true → (∀ p, p < 16 → ∀ r ∈ (s.port p).winReqs, r.fenced = false) → Runs .fabWinFenceDone s (fun u =>
      u = { s with regs := u.regs } ∧ u.rb rFabCtrl 13 = false ∧ ∀ j, j ≠ rFabCtrl → u.reg j = s.reg j)) ∧
    (∀ p, p < 16 → (∃ r ∈ (s.port p).winReqs, r.fenced = true) → exec .fabWinFenceDone s = .next s)) ∧
  (∀ (n : Fin 16) (m : KflMsg) (s s1 : State), s1.rf rFabNode 15 0 ≠ 0xFFFF →
    (kflTake n 0x22 s = some (m, s1) → (∀ g l, s1.armedGroup? (bits m.w2 15 0) = some (g, l) → rdRoot g.words = false →
      rdParent g.words = n → (m.payload.headD 0).toNat % 2 ^ 128 = readyParams l g → exec (.redReady n) s = .next
        (updGroup g.live (fun g => { g with limitUp := max g.limitUp (bits m.w3 20 0) }) s1)) ∧
      (s1.armedGroup? (bits m.w2 15 0) = none → exec (.redReady n) s = .next s1)) ∧
    (kflTake n 0x23 s = some (m, s1) → ∀ g l, s1.armedGroup? (bits m.w2 15 0) = some (g, l) →
      ((rdTree g.words).contains n.val = true → exec (.redAbort n) s = .next
        (failGroup g.live (bits m.w2 19 16) n (some n) s1)) ∧
      ((rdTree g.words).contains n.val = false → exec (.redAbort n) s = .next s1)) ∧
    (kflTake n 0x21 s = some (m, s1) →
      (s1.armedGroup? (bits m.w2 15 0) = none → exec (.redData n) s = .next (discardKfl n s1)) ∧
      (∀ g l ts s2, s1.armedGroup? (bits m.w2 15 0) = some (g, l) → g.wrote = bits m.w3 20 0 → g.wrote < redChunks l →
        bit m.w2 16 = true → rdRoot g.words = false → rdParent g.words = n →
        let bs := m.payload.flatMap (fun u => natToBytes 64 u.toNat)
        let dst := chunkSpan (redVa l 7) (redOut32 l) l g.wrote
        let mark := (m.marks.filterMap (fun x => x)).head?
        writeTargets (.reduce g.port g.live) l.ctx (chunkPieces dst.1 dst.2) s1 = (some ts, false, s2) →
        exec (.redData n) s = .next (forEach (rdChildren g.words) (fun p s =>
          redData p l true (redOut32 l) g.wrote (bs.take dst.2) mark s) (writeChunk g.live g l ts (bs.take dst.2) mark s2)))))

/-! ## The host endpoint -/

/-- DATA, COMP and WR_ACK reach the hub's own requesters (R231, R236, R254), and where nothing waits inside the hub nothing
more happens. -/
def Obligations.MessagesDelivered : Prop :=
  (∀ s : State, s.Calmed → serveWaiting s = s) ∧
  (∀ s : State, (∀ n lk t d m0 m1, CMsg.stash n lk t d m0 m1 ∉ s.plz.msgs) →
    (∀ (i : Nat) (who : Who) (tag lk : Nat) (d : LineData) (m0 m1 : Option Mark) (g : Grant),
      s.msgAt? .data i = some (.data (.agent who tag) lk d m0 m1 g) → Settles (.data none i) s (fun v =>
        v = { s with plz := v.plz } ∧ v.plz.msgs = s.plz.msgs.erase (.data (.agent who tag) lk d m0 m1 g) ∧
        ((who, unitTgt lk (tag % 2)) ∈ s.plz.asked → v.plz.arrivals = s.plz.arrivals ++
          [{ who := who, key := unitTgt lk (tag % 2), data := lineUnit d (tag % 2), mark := if tag % 2 = 0 then m0 else m1 }] ∧
          (who, unitTgt lk (tag % 2)) ∉ v.plz.asked) ∧
        ((who, unitTgt lk (tag % 2)) ∉ s.plz.asked → v.plz.arrivals = s.plz.arrivals))) ∧
    (∀ (i n txn lk : Nat) (d : LineData) (m0 m1 : Option Mark) (g : Grant) (a : AgentReq),
      s.msgAt? .data i = some (.data (.site n txn) lk d m0 m1 g) → (s.site n).agents.find? (fun a => a.txn == txn) = some a →
      a.cxl = true → a.needComp = true → a.gotComp = false → a.gotData = false → n < 6 → Settles (.data none i) s (fun v =>
        v = { s with plz := v.plz, sites := v.sites } ∧ ∃ b, (v.site n).agents.find? (fun a => a.txn == txn) = some b ∧
          b.gotData = true ∧ b.data = d ∧ b.m0 = m0 ∧ b.m1 = m1 ∧ b.grant = g ∧ b.kind = a.kind)) ∧
    (∀ (i lk st : Nat) (who : Who) (tag : Nat), s.msgAt? .wrAck i = some (.wrAck (.agent who tag) lk st) →
      Settles (.wrAck i) s (fun v => v = ackWrite who none (takeMsg (.wrAck (.agent who tag) lk st) s))) ∧
    (∀ (i n txn lk st : Nat), s.msgAt? .wrAck i = some (.wrAck (.site n txn) lk st) →
      (s.site n).agents.any (fun a => a.txn == txn && a.cxl) = true → n < 6 → Settles (.wrAck i) s (fun v =>
        v = { s with plz := v.plz, sites := v.sites, out := .cxl n (if st = 0 then "GO-I" else "GO-Err") 0 0 :: s.out } ∧
        (v.site n).agents = (s.site n).agents.filter (fun a => a.txn != txn)))) ∧
  (∀ (n : Fin 6) (i : Nat) (m : KMsg) (u : UnitData) (s s1 : State), takeInbox n 4 (fun m => m.msg == 0x31) s = some ((m, u), s1) →
    (∀ f ∈ s1.plz.fwds, f.num ≠ m.txn ∨ reqDest f.req ≠ m.addr % 2 ^ 16) →
    Settles (.data (some n) i) s (fun v => v = protocolError n 0x31 s1)) ∧
  (∀ (i id lk : Nat) (who : Who) (tag : Nat) (f : Fwd) (k : Mark) (s : State),
    s.msgAt? .comp i = some (.comp (.agent who tag) lk id (some k)) → s.plz.fwds.find? (fun f => f.num == id % 4096) = some f →
    Settles (.comp i) s (fun v => v = { s with plz := v.plz } ∧ (∀ x ∈ v.plz.fwds, x.num ≠ f.num) ∧
      ((who, unitTgt f.line (tag % 2)) ∈ s.plz.asked → v.plz.arrivals = s.plz.arrivals ++
        [{ who := who, key := unitTgt f.line (tag % 2), data := 0, mark := some k }])))

/-- Reads of the host complete, fail or time out (R398, R399), and port errors bring containment until it is released
(R400 to R403). -/
def Obligations.HostReadsAndContainment : Prop :=
  (∀ (tag : Nat) (q : HostReq) (s : State), s.host.reads.find? (fun r => r.tag == tag) = some q →
    (∀ bytes, Settles (.hostCompletion tag .ok bytes) s (fun v => v = arrive q.who q.key (BitVec.ofNat 512 (bytesToNat bytes)) none
        (countUnits blkHost 1 1 (endRead q s))) ∧
      Settles (.hostCompletion tag .ur bytes) s (fun v => v = arrive q.who q.key 0 (some (hostMark 2)) (endRead q (logError q.fn 20 s))) ∧
      Settles (.hostCompletion tag .ca bytes) s (fun v => v = arrive q.who q.key 0 (some (hostMark 3)) (endRead q (logError q.fn 15 s))) ∧
      Settles (.hostCompletion tag .ep bytes) s (fun v => v = arrive q.who q.key 0 (some (hostMark 4)) (endRead q (logError q.fn 12 s)))) ∧
    Settles (.completionTimeout tag true) s (fun v => v = arrive q.who q.key 0 (some (hostMark 1))
      (endRead q (logError q.fn 14 (countEvent blkHost 0x74 none none none 1 s)))) ∧
    Settles (.completionTimeout tag false) s (fun v => v = opRecord 0x0703 false (q.fn :: words2 (targetPa q.key))
      (arrive q.who q.key 0 (some (hostMark 1)) (endRead q (logError q.fn 14 (countEvent blkHost 0x74 none none none 1 s)))))) ∧
  (∀ (tag : Nat) (st : CplStatus) (bytes : List Byte) (s : State), (∀ r ∈ s.host.reads, r.tag ≠ tag) →
    (tag ∈ s.host.retired → Settles (.hostCompletion tag st bytes) s (fun v => v = { s with host := { s.host with
      retired := s.host.retired.filter (· != tag) } })) ∧
    (tag ∉ s.host.retired → Settles (.hostCompletion tag st bytes) s (fun v => v = logError 0 16 s)) ∧
    Settles (.completionTimeout tag true) s (fun v => v = s)) ∧
  (∀ s : State, s.rb rHifStatus 9 = false →
    let caught (b : Nat) (v : State) : Prop := ∃ w, v = opRecord 0x0701 true [b] w ∧ w.rb rHifStatus 9 = true ∧
      w.rf rHifContain 6 2 = b ∧ (∀ f, f < 128 → w.gateOpen f = false) ∧ bit (Table.get 0 w.host.errs 0) b = true ∧
      Calm w s ∧ Kept w s
    (∀ b : Fin 32, Settles (.portUncorrectableError b none) s (caught b) ∧
      ∀ k : Fin 8, (∀ f, f < 128 → (s.fn f).stream ≠ some k.val) → Settles (.portUncorrectableError b (some k)) s (fun v =>
        caught b v ∧ ∃ w, v = opRecord 0x0701 true [b] w ∧ w.host.streams = s.host.streams.filter (· != k.val))) ∧
    (s.rb rHifStatus 0 = true → Settles .hostLinkDown s (caught 5)) ∧ (s.rb rHifStatus 0 = false → Settles .hostLinkDown s (fun v => v = s))) ∧
  (∀ s : State,
    (s.rb rHifStatus 0 = true → s.errorsOpen = false → s.rb rHifStatus 10 = false → s.rb rHifStatus 9 = true →
      Settles .containmentRelease s (fun v => ∃ w, v = opRecord 0x0702 true [] w ∧ w.rb rHifStatus 9 = false ∧
        (∀ f, f < 128 → (w.fn f).frsHeld = false) ∧ Calm w s ∧ Kept w s)) ∧
    (s.rb rHifStatus 0 = false ∨ s.errorsOpen = true ∨ s.rb rHifStatus 10 = true → Settles .containmentRelease s (fun v =>
      v = rcFlag rHifContain 1 s)))

/-- Function-level resets, configuration writes, MSI-X tables, HOT_RESET and a retrained host link (R391, R392, R406 to
R410). -/
def Obligations.HostFunctions : Prop :=
  (∀ (f : Fin 128) (s : State),
    (f.val ≠ 0 → (s.fn f).present = true → (s.fn f).flr = false → s.liveCtxs f = [] → (∀ q ∈ s.host.reads, q.fn ≠ f.val) →
      Settles (.flr f) s (fun v => v = { s with host := v.host, regs := v.regs } ∧ (v.fn f).flr = true ∧
        v.rb (rHifFnFStatus f) 1 = true ∧ v.gateOpen f = false)) ∧
    (f.val ≠ 0 → (s.fn f).present = false → Settles (.flr f) s (fun v => v = s)) ∧
    (f.val ≠ 0 → (s.fn f).flr = true → (s.fn 0).flr = false → s.liveCtxs f = [] → (s.fn f).recorded = [] →
      s.rb rHifStatus 9 = false → Runs (.flrDone f) s (fun u => u = { s with host := u.host, regs := u.regs, out := .frs f :: s.out } ∧
        (u.fn f).flr = false ∧ (u.fn f).bme = false ∧ (u.fn f).tdi = .unlocked ∧ u.rb (rHifFnFStatus f) 1 = false)) ∧
    (f.val ≠ 0 → (s.fn f).flr = false ∨ s.liveCtxs f ≠ [] → exec (.flrDone f) s = .next s)) ∧
  (∀ (f : Fin 128) (w : CfgWrite) (s : State),
    ((s.fn f).present = false → exec (.configWrite f w) s = .next s) ∧
    ((s.fn f).present = true → (s.fn f).flr = true → Runs (.configWrite f w) s (fun u => u = { s with host := u.host } ∧
      (u.fn f).recorded = (s.fn f).recorded ++ [w] ∧ ∀ g, g ≠ f.val → u.fn g = s.fn g)) ∧
    ((s.fn f).present = true → (s.fn f).flr = false → (∀ on, w ≠ .vfEnable on) → exec (.configWrite f w) s = .next (applyCfg f w s)) ∧
    ((s.fn f).present = true → (s.fn f).flr = false → w = .bme false → Runs (.configWrite f w) s (fun u =>
      u = { s with host := u.host, regs := u.regs } ∧ (u.fn f).bme = false ∧ u.gateOpen f = false)) ∧
    (f.val = 0 → (s.fn 0).present = true → (s.fn 0).flr = false → w = .vfEnable false → exec (.configWrite f w) s = .next
      (forEach s.vfs startFlr { s with host := { s.host with vfEnable := false } }))) ∧
  (∀ (f : Fin 128) (v : Fin 4096) (k : Fin 4) (d : BitVec 32) (s : State), (s.fn f).present = true → (s.fn f).flr = false →
    (s.ready = true → s.mmio f = true → v.val < vectors f → (s.fn f).pba = [] → Runs (.msixTableWrite f (.entry v k d)) s (fun u =>
      u = { s with host := u.host } ∧ (k.val = 2 → (u.fn f).entry v = { (s.fn f).entry v with data := d.toNat }) ∧
      (k.val = 3 → (u.fn f).entry v = { (s.fn f).entry v with masked := d.toNat % 2 == 1 }) ∧
      ∀ w, w ≠ v.val → (u.fn f).entry w = (s.fn f).entry w)) ∧
    (s.ready = false ∨ s.mmio f = false → exec (.msixTableWrite f (.entry v k d)) s = .next s)) ∧
  (∀ s : State, (s.boot.reset = .held → exec .hotReset s = .next s) ∧
    (s.boot.reset ≠ .held → s.sec.lcMove = none → Runs .hotReset s (fun u => u.pending = s.pending ∧ u.out = pinsBack s ++ s.out ∧
      u.free = s.free ∧ u.sec.otp = s.sec.otp ∧ u.ready = false ∧ u.stage = 0 ∧ u.boot.reset = .running ∧
      u.tiles = State.reset.tiles ∧ u.dram = State.reset.dram ∧ u.rings = [] ∧ u.ctxs = [] ∧ u.lives = []))) ∧
  (∀ (rate : Fin 8) (width : Fin 17) (s : State),
    (s.running = true → rate.val ≠ 0 → width.val ≠ 0 → Runs (.hostLinkRetrained rate width) s (fun u =>
      u = { s with regs := u.regs, boot := u.boot, net := u.net } ∧ u.rb rHifStatus 0 = true ∧
      u.rf rHifStatus 3 1 = rate.val ∧ u.rf rHifStatus 8 4 = width.val ∧ (u.unit uHost 0).width = width.val ∧
      (u.unit uHost 0).status = (if rate.val = 7 ∧ width.val = 16 then stGood else stDegraded) ∧
      (u.unit uHost 0).cause = (if rate.val = 7 ∧ width.val = 16 then ccNone else ccLane))) ∧
    (s.running = false ∨ rate.val = 0 ∨ width.val = 0 → exec (.hostLinkRetrained rate width) s = .next s))

/-- Accesses of the host to its aperture and its AtomicOps: what is served goes through the context of its slot, what is
not completes with Unsupported Request or Completer Abort (R397, R401, R543). -/
def Obligations.HostAccesses : Prop :=
  ∀ (t : HostTlp) (off : BitVec 36) (s : State),
    let s1 := countEvent blkHost 0x72 none none none 1 s
    (∀ len : BitVec 13, len.toNat ≠ 0 →
      (s1.serves t false = .ur → exec (.apertureAccess t off len none) s = .next
        { (logError t.fn 20 s1) with out := .hostCpl t.fn t.tag.toNat 1 [] false :: s.out }) ∧
      (s1.serves t false = .ca → exec (.apertureAccess t off len none) s = .next
        { (logError t.fn 15 s1) with out := .hostCpl t.fn t.tag.toNat 4 [] false :: s.out }) ∧
      (s1.serves t false = .yes → s1.aptSlot? t.fn off.toNat false = none → exec (.apertureAccess t off len none) s = .next
        { (logError t.fn 20 s1) with out := .hostCpl t.fn t.tag.toNat 1 [] false :: s.out }) ∧
      (∀ c va, s1.serves t false = .yes → s1.aptSlot? t.fn off.toNat false = some (c, va) → ∃ q v,
        exec (.apertureAccess t off len none) s = .next (serveApt q.id v) ∧ v = { s1 with host := v.host } ∧
        v.host.apt = s.host.apt ++ [q] ∧ q.fn = t.fn.val ∧ q.tag = t.tag.toNat ∧ q.ctx = c ∧ q.va = va ∧ q.len = len.toNat ∧
        q.write = false ∧ q.atomic = none)) ∧
    (∀ (len : BitVec 13) (bs : List Byte),
      (t.poisoned = true → exec (.apertureAccess t off len (some bs)) s = .next (logError t.fn 12 s1)) ∧
      (t.poisoned = false → s1.serves t false ≠ .yes → exec (.apertureAccess t off len (some bs)) s = .next s1) ∧
      (∀ c va, t.poisoned = false → bs ≠ [] → s1.serves t false = .yes → s1.aptSlot? t.fn off.toNat true = some (c, va) → ∃ q v,
        exec (.apertureAccess t off len (some bs)) s = .next (serveApt q.id v) ∧ v = { s1 with host := v.host } ∧
        v.host.apt = s.host.apt ++ [q] ∧ q.fn = t.fn.val ∧ q.ctx = c ∧ q.va = va ∧ q.bytes = bs ∧ q.write = true ∧ q.atomic = none)) ∧
    (∀ (op : Fin 3) (w : Fin 17) (x cmp : BitVec 128),
      (s1.serves t true = .yes → exec (.hostAtomicop t false off op w x cmp) s = .next
        { (logError t.fn 20 s1) with out := .hostCpl t.fn t.tag.toNat 1 [] false :: s.out }) ∧
      (hostAtomicOk op w = false → s1.serves t false = .yes → exec (.hostAtomicop t true off op w x cmp) s = .next
        { (logError t.fn 20 s1) with out := .hostCpl t.fn t.tag.toNat 1 [] false :: s.out }) ∧
      (∀ c va, hostAtomicOk op w = true → s1.serves t false = .yes → s1.aptSlot? t.fn off.toNat true = some (c, va) → ∃ q v,
        exec (.hostAtomicop t true off op w x cmp) s = .next (serveApt q.id v) ∧ v = { s1 with host := v.host } ∧
        v.host.apt = s.host.apt ++ [q] ∧ q.ctx = c ∧ q.va = va ∧ q.len = w.val ∧
        q.atomic = some (op.val, w.val, x.toNat, cmp.toNat)))

/-! ## Registers -/

/-- Reads of BAR0 with clear on read, the sequence mode and the stall bound (R525, R529, R530, R531). -/
def Obligations.RegisterReads : Prop :=
  (∀ (f : Fin 128) (off : BitVec 26) (k : Nat) (s : State), let o := off.toNat / 4 * 4
    let rc := (regFields (k % 2 ^ 30)).filter (fun x => x.acc == .rc)
    s.mmio f = true → s.ready = true ∨ bootOffset o = true → s.locate f o = some (k, false) → rc ≠ [] →
    (s.counterDead o = true → Runs (.rcRead f off) s (fun u => u = { s with out := .regRead f o 0 :: s.out })) ∧
    (s.counterDead o = false → Runs (.rcRead f off) s (fun u => u = { s with regs := u.regs, pins := u.pins, out := u.out } ∧
      (k ≠ rSvcStatus → u.pins = s.pins ∧ u.out = .regRead f o (BitVec.ofNat 32 (readKey f k false s).1) :: s.out) ∧
      (k = rSvcStatus → u.pins.gpio3Low = false) ∧ u.regs.force = s.regs.force ∧
      (s.sqMode f = false → u.regs.val = s.regs.val ∧
        u.rcReg f k = { s.rcReg f k with val := mergeFields rc (s.rcReg f k).val 0 }) ∧
      (s.sqMode f = true → u.rf (fnKey f rRegSqLast) 16 0 = 2 ^ 16 + (s.rcReg f k).seq % 2 ^ 16 ∧
        u.rcReg f k = { s.rcReg f k with latched := some ((s.rcReg f k).seq, mergeFields rc 0 (s.rcReg f k).val) }) ∧
      ∀ g j, 2 ^ 40 * g + j ≠ 2 ^ 40 * f.val + k → u.rcReg g j = s.rcReg g j))) ∧
  (∀ (f : Fin 128) (off : BitVec 26) (s : State), s.mmio f = false ∨ s.locate f (off.toNat / 4 * 4) = none →
    exec (.rcRead f off) s = .next s) ∧
  (∀ (f : Fin 128) (off : BitVec 26) (n : BitVec 32) (k : Nat) (s : State), let o := off.toNat / 4 * 4
    let rc := (regFields (k % 2 ^ 30)).filter (fun x => x.acc == .rc)
    s.mmio f = true → s.ready = true ∨ bootOffset o = true → s.sqMode f = true → s.locate f o = some (k, false) → rc ≠ [] →
    (∀ v, (s.rcReg f k).latched = some (n.toNat, v) → Runs (.sqClear f off n) s (fun u => u = { s with regs := u.regs } ∧
      u.rcReg f k = { s.rcReg f k with val := rc.foldl (sqField (s.rcReg f k) n.toNat v) (s.rcReg f k).val } ∧
      u.regs.val = s.regs.val)) ∧
    ((∀ v, (s.rcReg f k).latched ≠ some (n.toNat, v)) → Runs (.sqClear f off n) s (fun u => u = { s with regs := u.regs } ∧
      u.rf (fnKey f rRegStatus) 31 8 = o / 4 ∧ u.rcf f (fnKey f rRegStatus) 3 3 = 1 ∧
      (k ≠ fnKey f rRegStatus → u.rcReg f k = s.rcReg f k)))) ∧
  (∀ (f : Fin 128) (off : BitVec 26) (n : BitVec 32) (s : State), s.mmio f = false ∨ s.sqMode f = false →
    exec (.sqClear f off n) s = .next s) ∧
  (∀ (t : HostTlp) (off : BitVec 26) (s : State), let o := off.toNat / 4 * 4
    (s.serves t true = .yes → hostDomain o = false → s.ready = true ∨ bootOffset o = true → (s.locate t.fn o).isSome = true →
      Runs (.registerStallTimeout t off true) s (fun u => u = { s with regs := u.regs } ∧ u.rf (fnKey t.fn rRegStatus) 31 8 = o / 4 ∧
        u.rcf t.fn (fnKey t.fn rRegStatus) 2 2 = 1) ∧
      Runs (.registerStallTimeout t off false) s (fun u => u = { s with regs := u.regs, host := u.host, out := u.out } ∧
        u.out = .hostCpl t.fn t.tag.toNat 4 [] false :: s.out ∧ u.rf (fnKey t.fn rRegStatus) 31 8 = o / 4)) ∧
    (s.serves t true ≠ .yes ∨ hostDomain o = true → ∀ w, exec (.registerStallTimeout t off w) s = .next s))

/-- Writes of BAR0: fields, reserved bits and apply points (R524, R527, R528, R530). -/
def Obligations.RegisterWrites : Prop :=
  (∀ (f : Fin 128) (off : BitVec 26) (v : BitVec 32) (s : State), let o := off.toNat / 4 * 4
    (s.mmio f = false → Settles (.registerWrite f off v) s (fun u => u = s)) ∧
    (s.mmio f = true → s.ready = false → bootOffset o = false → Settles (.registerWrite f off v) s (fun u => u = s)) ∧
    (s.mmio f = true → s.ready = true → o < 0xE0000 ∨ 0xF0000 ≤ o → s.locate f o = none →
      Settles (.registerWrite f off v) s (fun u => u = s)) ∧
    (∀ k part, s.mmio f = true → s.ready = true ∨ bootOffset o = true → o < 0xE0000 ∨ 0xF0000 ≤ o →
      s.locate f o = some (k, part) → let fs := regFields (k % 2 ^ 30)
      (s.sqMode f = true → fs.any (fun x => x.acc == .rc) = true →
        Settles (.registerWrite f off v) s (fun u => u = sqClear f k o fs v.toNat s)) ∧
      (s.sqMode f = false ∨ fs.any (fun x => x.acc == .rc) = false → Settles (.registerWrite f off v) s (fun u =>
        u = checkLocked s (writeKey f k part v.toNat (writeRsvd f o k fs v.toNat s)))))) ∧
  (∀ (f off k : Nat) (fs : List FieldInfo) (v : Nat) (s : State), s.gatesOpen = [] →
    ((∀ b, b < 32 → bit (fieldMask fs) b = false → bit (s.reg k) b = bit v b) → writeRsvd f off k fs v s = s) ∧
    ((∃ b, b < 32 ∧ bit (fieldMask fs) b = false ∧ bit (s.reg k) b ≠ bit v b) → writeRsvd f off k fs v s = regFlag f 1 off s)) ∧
  (∀ (k : Nat) (fs : List FieldInfo) (v : Nat) (s : State), (∀ x ∈ fs, x.lo ≤ x.hi ∧ x.hi < 32) →
    (∀ b, (∀ x ∈ fs, b < x.lo ∨ x.hi < b) → bit ((putFields k fs v s).reg k) b = bit (s.reg k) b) ∧
    (fs.Pairwise (fun x y => x.hi < y.lo ∨ y.hi < x.lo) → ∀ x ∈ fs, (putFields k fs v s).rf k x.hi x.lo = bits v x.hi x.lo) ∧
    (∀ j, j ≠ k → (putFields k fs v s).reg j = s.reg j) ∧
    putFields k fs v s = { s with regs := (putFields k fs v s).regs })

/-- The bulk window and the host's memory requests: the cursor, the areas' failures, and which accesses BAR0 takes (R397, R523,
R533). -/
def Obligations.HostRequestsAndBulk : Prop :=
  (∀ (f : Fin 128) (v : BitVec 32) (s : State), (s.mmio f = false → exec (.bulkSelWrite f v) s = .next s) ∧
    (s.mmio f = true → ∃ w,
      exec (.bulkSelWrite f v) s = .next (checkLocked s w) ∧ w = { s with regs := w.regs } ∧ w.bulkArea f = v.toNat % 8 ∧
      w.rb (fnKey f rBulkSel) 3 = bit v.toNat 3 ∧ w.bulkAddr f = 0)) ∧
  (∀ (f : Fin 128) (s : State), s.mmio f = true →
    (∀ v : BitVec 32, Settles (.bulkDataAccess f (some v)) s (fun u => u = checkLocked s (writeBulkData f v.toNat s))) ∧
    (∀ bs s1, readBulkData f s = (some bs, s1) → Settles (.bulkDataAccess f none) s (fun u =>
      u = emit (.regRead f rBulkData (BitVec.ofNat 32 (bytesToNat bs))) s1)) ∧
    (∀ s1, readBulkData f s = (none, s1) → Settles (.bulkDataAccess f none) s (fun u => u = s1))) ∧
  (∀ (f : Fin 128) (w : Option (BitVec 32)) (s : State), s.mmio f = false → Settles (.bulkDataAccess f w) s (fun u => u = s)) ∧
  (∀ (f a n b : Nat) (bs : List Byte) (s : State),
    (s.bulkFail f a n false = some b → bulkRead f a n s = (some (List.replicate n 0), bulkFlag f b s)) ∧
    (s.bulkFail f a bs.length true = some b → bulkWrite f a bs s = bulkFlag f b s) ∧
    (s.areaOpen f (s.bulkArea f) = false → s.bulkFail f a n false = some 2) ∧
    ((bulkStep f s).bulkAddr f = if s.rb (fnKey f rBulkSel) 3 then (s.bulkAddr f + 4) % 2 ^ 52 else s.bulkAddr f)) ∧
  (∀ (t : HostTlp) (off : BitVec 36) (len : BitVec 13) (s : State), let s1 := countEvent blkHost 0x72 none none none 1 s
    (s1.serves t true = .ur → Settles (.hostMemoryRequest t false off len none) s (fun u => u = failHostRead t 1 s1)) ∧
    (s1.serves t true = .ca → Settles (.hostMemoryRequest t false off len none) s (fun u => u = failHostRead t 4 s1)) ∧
    (∀ bs s2, s1.serves t true = .yes → readBar0 t.fn off.toNat len.toNat s1 = (.bytes bs, s2) →
      Settles (.hostMemoryRequest t false off len none) s (fun u => u = hostCpl t 0 bs false s2)) ∧
    (∀ s2, s1.serves t true = .yes → readBar0 t.fn off.toNat len.toNat s1 = (.waits, s2) →
      Settles (.hostMemoryRequest t false off len none) s (fun u => u = s2)) ∧
    (s1.serves t true = .yes → off.toNat < 0xD0000 ∨ 0xF0000 ≤ off.toNat →
      ¬(len.toNat = 4 ∧ off.toNat % 4 = 0) → ¬(len.toNat = 8 ∧ off.toNat % 8 = 0) →
      Settles (.hostMemoryRequest t false off len none) s (fun u => u = failHostRead t 1 (regFlag t.fn 0 off.toNat s1))) ∧
    Settles (.hostMemoryRequest t true off len none) s (fun u => u = readApt t off.toNat len.toNat s1) ∧
    (∀ bs, (t.poisoned = true → Settles (.hostMemoryRequest t false off len (some bs)) s (fun u => u = logError t.fn 12 s1)) ∧
      (t.poisoned = false → s1.serves t true ≠ .yes → Settles (.hostMemoryRequest t false off len (some bs)) s (fun u => u = s1)) ∧
      (t.poisoned = false → s1.serves t true = .yes →
        Settles (.hostMemoryRequest t false off len (some bs)) s (fun u => u = writeBar0 t.fn off.toNat bs s1)) ∧
      Settles (.hostMemoryRequest t true off len (some bs)) s (fun u => u = storeApt t off.toNat bs s1))) ∧
  (∀ (t : HostTlp) (o : Fin 4096) (len : BitVec 13) (s : State), let s1 := countEvent blkHost 0x72 none none none 1 s
    s1.serves t true = .yes →
    (∀ bs s2, burstOk (0xD0000 + o.val) len.toNat = true →
      bulkRead t.fn ((s1.bulkAddr t.fn + o.val) % 2 ^ 52) len.toNat s1 = (some bs, s2) →
      Settles (.bulkBurstAccess t o len none) s (fun u => u = hostCpl t 0 bs false s2)) ∧
    (burstOk (0xD0000 + o.val) len.toNat = false → Settles (.bulkBurstAccess t o len none) s (fun u =>
      u = failHostRead t 1 (regFlag t.fn 0 (0xD0000 + o.val) s1))) ∧
    (∀ bs, t.poisoned = false → burstOk (0xD0000 + o.val) bs.length = true → Settles (.bulkBurstAccess t o len (some bs)) s (fun u =>
      u = bulkWrite t.fn ((s1.bulkAddr t.fn + o.val) % 2 ^ 52) bs s1)))

/-- The debugger's control of a halted tile, the mailbox, and the management ports (R474, R535, R536, R547, R553, R554). -/
def Obligations.DebugMailboxAndPins : Prop :=
  (∀ (t : Fin 72) (s : State),
    (s.tileHalted t = true → Runs (.debugResume t) s (fun u => TileOnly t u s ∧
        u.tile t = { s.tile t with stall := .none, ir := none }) ∧
      exec (.debugEndTask t) s = .next (failTile t 0x15 0 s)) ∧
    (s.tileHalted t = false → exec (.debugResume t) s = .next s ∧ exec (.debugEndTask t) s = .next s)) ∧
  (∀ (n : Fin 8) (len : BitVec 9) (s : State), (s.ready = false → exec (.mboxSend n len) s = .next s ∧ exec (.mboxInAck n len) s = .next s) ∧
    (s.ready = true → n.val < 6 → s.inService uSite n = true → s.outBusy n = false → 1 ≤ len.toNat → len.toNat ≤ 256 →
      Runs (.mboxSend n len) s (fun u => u = { s with regs := u.regs, mbox := u.mbox } ∧ u.outBusy n = true ∧
        u.mbox.mem = s.mbox.mem ∧ Table.find? u.mbox.sending n = some (Mem.readBytes s.mbox.mem (n * 0x400) len.toNat))) ∧
    (s.ready = true → s.outBusy n = true → Runs (.mboxSend n len) s (fun u => u = { s with regs := u.regs })) ∧
    (s.ready = true → n.val < 6 → Runs (.mboxInAck n len) s (fun u => u = { s with regs := u.regs } ∧
      u.rb rBulkMboxStatus (6 + n) = false ∧ u.outBusy n = s.outBusy n))) ∧
  (∀ (n : Fin 6) (s : State), (Table.find? s.mbox.sending n = none → exec (.mboxOutDone n) s = .next s) ∧
    ∀ bs, Table.find? s.mbox.sending n = some bs → Runs (.mboxOutDone n) s (fun u => u.outBusy n = false ∧
      u = { s with regs := u.regs, mbox := u.mbox, sites := u.sites, out := u.out } ∧
      u.mbox = { s.mbox with sending := Table.erase s.mbox.sending n } ∧
      u.out = .sideband n ((0x13 + 2 ^ 8 * (sbWords bs).length + 2 ^ 14 * (s.site n).sbSeq +
        2 ^ 23 * packFields [(bs.length, 9)]) :: sbWords bs) :: s.out)) ∧
  (∀ (n : Fin 6) (bs : List Byte) (s : State), bs.length ≤ 256 →
    (s.ready = true → s.status uSite n ≠ stEmpty → s.rb rBulkMboxStatus (6 + n) = false → Runs (.mbox n bs) s (fun u =>
      u = { s with regs := u.regs, mbox := u.mbox } ∧ u.rb rBulkMboxStatus (6 + n) = true ∧
      u.mbox.mem = Mem.writeBytes s.mbox.mem (n * 0x400 + 0x100) bs ∧ Table.find? u.mbox.inLen n = some bs.length)) ∧
    (s.ready = true → s.status uSite n ≠ stEmpty → s.rb rBulkMboxStatus (6 + n) = true → Runs (.mbox n bs) s (fun u =>
      u = { s with regs := u.regs } ∧ u.rcf 0 rBulkMboxStatus (12 + n) (12 + n) = 1)) ∧
    (s.ready = false ∨ s.status uSite n = stEmpty → exec (.mbox n bs) s = .next s)) ∧
  (∀ (n : Fin 6) (bs : List Byte) (s : State), 256 < bs.length → exec (.mbox n bs) s = .fault .illFormed) ∧
  (∀ (i : TapInstr) (s : State),
    (i = .idcode → exec (.tapInstruction i) s = .next { s with pins := { s.pins with tapIr := 0 }, out := .tap 0 0xB04B6A35 :: s.out }) ∧
    (i = .bypass → exec (.tapInstruction i) s = .next { s with pins := { s.pins with tapIr := 1 }, out := .tap 1 0 :: s.out }) ∧
    (i = .samplePreload ∨ (i = .extest ∧ s.pins.resetLow = true) ∨ (∃ c, i = .other c ∧ s.gatesOpen ≠ []) →
      Runs (.tapInstruction i) s (fun u => u = { s with pins := { s.pins with tapIr := tapCode i }, free := u.free, out := u.out } ∧
        ∃ v, u.out = .tap (tapCode i) v :: s.out)) ∧
    ((i = .extest ∧ s.pins.resetLow = false) ∨ (∃ c, i = .other c ∧ s.gatesOpen = []) → exec (.tapInstruction i) s = .next s) ∧
    (∀ g on, i = .gate g on → ∃ w, exec (.tapInstruction i) s = .next { w with pins := { w.pins with tapIr := tapCode i }, out := .tap (tapCode i) 0 :: w.out } ∧
      w = (if on then openGate g s else closeGate g s))) ∧
  (∀ (a d : BitVec 7) (ix : BitVec 8) (won : Bool) (s : State),
    (s.i3cUp = true → s.pins.i3cAddr = none →
      (a.toNat = 0x50 + s.pins.strap → exec (.setdasa a d) s = .next { s with pins := { s.pins with i3cAddr := some d.toNat } }) ∧
      (a.toNat ≠ 0x50 + s.pins.strap → exec (.setdasa a d) s = .next s) ∧
      exec (.entdaa won d) s = .next (if won then { s with pins := { s.pins with i3cAddr := some d.toNat } } else s)) ∧
    (s.i3cUp = false ∨ s.pins.i3cAddr.isSome = true → exec (.setdasa a d) s = .next s ∧ exec (.entdaa won d) s = .next s) ∧
    (s.i3cUp = true → s.pins.i3cAddr = some a.toNat →
      (∀ v, s.i3cWord? ix.toNat = some v → exec (.i3cRead a ix) s = .next { s with out := .i3c v :: s.out }) ∧
      (s.i3cWord? ix.toNat = none → Runs (.i3cRead a ix) s (fun u => u = { s with free := s.free + 1, out := u.out } ∧
        ∃ v, u.out = .i3c v :: s.out))) ∧
    (s.i3cUp = false ∨ s.pins.i3cAddr ≠ some a.toNat → exec (.i3cRead a ix) s = .next s))

/-! ## The network -/

/-- Routes of the network: from the source's router to the destination's by neighbours, over links in service only, and none is
lost while a row is left (R334).
Packets: what injection tags and charges, and what ejection accepts, rejects as stale or absorbs (R333, R339, R341, R346 to
R348). -/
def Obligations.RoutesAndPackets : Prop :=
  (∀ (s : State) (a b : Nat), a < 192 → b < 192 → let r := s.pktRoute a b
     (r ≠ [] → r.head? = some a ∧ r.getLast? = some b) ∧
     (∀ i u v, r[i]? = some u → r[i + 1]? = some v → v < 192 ∧ (v = u + 24 ∨ u = v + 24 ∨
       (u / 24 = v / 24 ∧ (v = u + 1 ∨ u = v + 1)))) ∧
     (∀ l ∈ linksOf r, s.linkUp? l.1 l.2 = true) ∧
     (a % 24 / 8 = b % 24 / 8 ∨ (∃ y, y < 8 ∧ s.rowOk (a % 24) (b % 24) y = true) → r ≠ []) ∧
     (a % 24 / 8 = b % 24 / 8 → r.length = (a % 24 - b % 24) + (b % 24 - a % 24) + (a / 24 - b / 24) + (b / 24 - a / 24) + 1)) ∧
  ((∀ (p : Packet) (txn : Fin 4096) (cause : Option (Nat × Bool)) (s : State),
     (s.net.started = true → s.rb rNocStatus 16 = false → (attUnit? p.src).isSome = true → (attUnit? p.dst).isSome = true →
       cause = none ∨ (s.causeOf p cause).isSome = true → s.net.waiting = [] →
       let l := s.routeOf p
       (l = [] ∨ s.bufferFree (bufferOf (enterRoute p l)) = false → Runs (.packetInject p ⟨txn, cause⟩) s (fun u => ∃ o,
         u = { s with net := { s.net with waiting := [o], seen := u.net.seen } } ∧ o.pkt.src = p.src ∧ o.pkt.dst = p.dst ∧
         o.pkt.msg = p.msg)) ∧
       (l ≠ [] → s.bufferFree (bufferOf (enterRoute p l)) = true → Runs (.packetInject p ⟨txn, cause⟩) s (fun u => ∃ q,
         u = { s with net := u.net, cnt := u.cnt, regs := u.regs, free := u.free } ∧
         u.net = { s.net with packets := s.net.packets ++ [enterRoute q l], charges := u.net.charges, seen := u.net.seen } ∧
         q.src = p.src ∧ q.dst = p.dst ∧ q.msg = p.msg ∧ q.epoch.val = s.attEpoch p.src % 16 ∧
         (isRequest p.msg = true → (p.device = true → q.ctx = 0) ∧ (p.device = false → q.ctx = p.ctx)) ∧
         (isRequest p.msg = false → u.net.charges = s.net.charges ∧ ∀ c, s.causeOf p cause = some c → q.ctx = c.ctx ∧
           q.device = c.device ∧ q.cls = c.cls ∧ q.dotFast = c.dotFast ∧ q.urg = c.urg ∧ q.standing = c.standing) ∧
         (isRequest p.msg = true → p.point = none → q.cls = p.cls ∧ q.urg = 0 ∧ u.net.charges = s.net.charges ∧
           q.standing = (if p.standing = .background then .background else .system)) ∧
         (∀ n, isRequest p.msg = true → p.point = some n → let c := s.pointClass n txn p % 16
           q.cls.val = c ∧
           q.urg.val = min (s.rawUrgency n (if 90 ≤ n.val ∧ n.val < 96 then s.siteUrg (n - 90) txn else 0))
             (s.rff (rQosInjNCtrl n) 1 0) % 4 ∧
           (q.standing = .inBudget ↔ (s.budget n c = 0xFFFF ∨ s.charge n c < s.budget n c * 256)) ∧
           u.net.charges = Table.set s.net.charges (n * 16 + c) (s.charge n c + pktCharge p.msg))))) ∧
     (s.net.started = false ∨ s.rb rNocStatus 16 = true ∨ attUnit? p.src = none ∨ attUnit? p.dst = none ∨
       (cause ≠ none ∧ s.causeOf p cause = none) → exec (.packetInject p ⟨txn, cause⟩) s = .next s)) ∧
   (∀ (rank : Nat → Nat) (l : List Nat) (i : Nat), bestOf rank l = some i → i ∈ l ∧ ∀ j ∈ l, rank j ≤ rank i) ∧
   (∀ (r o plane i : Nat) (t : Transit) (s : State), s.linkChoice r o plane = some i → s.net.packets[i]? = some t →
     moveLink r o plane s = reachRouter (nextBuffer t) (leaveRouter t.pkt r o { s with net := { s.net with
       packets := s.net.packets.eraseIdx i ++ [nextBuffer t] } }) ∧
     s.bufferFree (bufferOf (nextBuffer t)) = true ∧ ∀ j, j < i → ∀ u, s.net.packets[j]? = some u → bufferOf u ≠ bufferOf t) ∧
   (∀ (moves : List NetMove) (a : Fin 768) (plane : Fin 5) (holds quiet : Bool) (s : State),
     (s.net.started = false ∨ s.rb rNocStatus 16 = true → exec (.packetEject moves ⟨a, plane, holds, quiet⟩) s = .next s) ∧
     (s.net.started = true → s.rb rNocStatus 16 = false →
       let s0 := forEach moves netMove s
       (s0.ejectChoice a plane holds = none → exec (.packetEject moves ⟨a, plane, holds, quiet⟩) s = .next s0) ∧
       (∀ i t, s0.ejectChoice a plane holds = some i → s0.net.packets[i]? = some t →
         let p := t.pkt
         let s1 := reachUnit t (leaveRouter p t.here (wantsOut t) { s0 with net := { s0.net with
           packets := s0.net.packets.eraseIdx i } })
         let b := blkRouter (attRouter p.dst)
         (s1.stale p = true → exec (.packetEject moves ⟨a, plane, holds, quiet⟩) s = .next
           (countEvent b 0x83 none none none 1 (rcCount rNocErrors 31 16 1 s1))) ∧
         (s1.stale p = false → s1.isolated p.dst (pktVn p.msg) = false →
           Runs (.packetEject moves ⟨a, plane, holds, quiet⟩) s (fun u =>
             u = { s1 with net := u.net, cnt := u.cnt, regs := u.regs, free := u.free } ∧
             u.net = { s1.net with absorbed := Table.erase s1.net.absorbed p.dst,
                                   seen := if pktVn p.msg < 2 then s1.net.seen ++ [p] else s1.net.seen })) ∧
         (s1.stale p = false → s1.isolated p.dst (pktVn p.msg) = true →
           let s2 := forEach (absorbAnswers p.msg) (fun m s => offerAnswer (s.answerTo p m) s) s1
           let n := Table.get 0 s2.net.absorbed p.dst + 1
           (isAbsorbedWrite p.msg = false → exec (.packetEject moves ⟨a, plane, holds, quiet⟩) s = .next
             (countEvent b 0x86 none none none 1 s2)) ∧
           (isAbsorbedWrite p.msg = true → ∃ v, v = { s2 with net := v.net, cnt := v.cnt } ∧
             v.net = { s2.net with absorbed := Table.set s2.net.absorbed p.dst n } ∧
             (n = 1 ∨ quiet = false → exec (.packetEject moves ⟨a, plane, holds, quiet⟩) s = .next
               (opRecord 0x0505 false [attRouter p.dst, p.dst.val % 4, n] v)) ∧
             (n ≠ 1 → quiet = true → exec (.packetEject moves ⟨a, plane, holds, quiet⟩) s = .next v)))))))

/-- Failures of the network: errored flits, the transit domain, dead targets and Crossing links (R337, R343 to R345). -/
def Obligations.NetworkFailures : Prop :=
  (∀ (r : Fin 192) (s : State),
    (s.ready = true → s.rb rNocStatus 16 = false → Runs (.routerFailure r) s (fun u => u.boot.newWork = false ∧
      u.boot.plan = s.boot.plan ∧ u.boot.dump.isSome = true ∧ u.cnt.run = none ∧ u.cnt.asked = false ∧ u.rb rHifStatus 10 = true ∧
      u.rf rHifContain 6 2 = 0x1F ∧ Kept u s ∧ ∀ l ∈ u.lives, l.opcode = 5 → l.stopping = false → l.finished.isSome = true)) ∧
    (s.ready = false ∨ s.rb rNocStatus 16 = true → exec (.routerFailure r) s = .next s)) ∧
  (∀ (r : Fin 192) (i : Nat) (c : Carried) (s : State),
    (s.ready = false → ∀ f, exec (.linkFlitError r i c f) s = .next s) ∧
    (s.ready = true → exec (.linkFlitError r i c .corrected) s = .next
      (countEvent (blkRouter r) 0x84 none none none 1 (rcCount rNocErrors 15 0 1 s))) ∧
    (∀ (t : Transit), s.ready = true → s.net.packets[i]? = some t →
      (t.here ≠ r.val → ∀ f, f ≠ .corrected → exec (.linkFlitError r i c f) s = .next s) ∧
      (t.here = r.val → (∀ k : Fin 4, Runs (.linkFlitError r i c (.payload k)) s (fun u =>
          u = { s with net := u.net, plz := u.plz, sites := u.sites, stks := u.stks } ∧
          u.net = { s.net with packets := s.net.packets.set i { t with
            pkt := { t.pkt with poison := Fin.ofNat 4 (t.pkt.poison.val ||| k.val) } } } ∧
          (c = .none → u.plz = s.plz ∧ u.sites = s.sites ∧ u.stks = s.stks) ∧
          (∀ j, c = .msg j → u.plz = { s.plz with msgs := listUpd s.plz.msgs j (poisonMsg k) }) ∧
          (∀ id, c = .txn id → u.plz = { s.plz with txns := s.plz.txns.map (fun x =>
            if x.id = id then { x with m0 := hitMark k 0 x.m0, m1 := hitMark k 1 x.m1 } else x) }) ∧
          (∀ n j, c = .inbox n j → k.val ≠ 0 → n < 6 → (u.site n).inbox = listUpd (s.site n).inbox j poisonSent))) ∧
        exec (.linkFlitError r i c .header) s = .next
          (failTransit r { s with net := { s.net with packets := s.net.packets.eraseIdx i } }))) ∧
    (s.net.packets.length ≤ i → ∀ f, f ≠ .corrected → exec (.linkFlitError r i c f) s = .next s)) ∧
  (∀ (r : Fin 192) (port : Fin 4) (s : State),
    (∀ ty id, attUnit? (4 * r.val + port.val) = some (ty, id) → s.running = true → s.isolated (4 * r.val + port.val) 4 = false →
      Settles (.deadTargetTimeout r port) s (fun v => v = failTarget ty id (opRecord 0x0504 true [r.val, port.val, ccDead]
        (isolateAtt (4 * r.val + port.val) (unitKey ty id) s)))) ∧
    (attUnit? (4 * r.val + port.val) = none ∨ s.running = false ∨ s.isolated (4 * r.val + port.val) 4 = true →
      exec (.deadTargetTimeout r port) s = .next s)) ∧
  (∀ (c : Fin 2) (y : Fin 8) (s : State),
    (s.ready = true → y.val ∈ s.linksLeft c → (∃ z ∈ s.linksLeft c, z ≠ y.val) → exec (.crossingLinkLost c y) s = .next
      { s with net := { s.net with heldLinks := s.net.heldLinks ++ [(c.val, y.val)] } }) ∧
    (s.ready = true → s.linksLeft c = [y.val] → exec (.crossingLinkLost c y) s = .next (failTransit (routerAt (7 + 8 * c) y)
      { s with net := { s.net with heldLinks := s.net.heldLinks ++ [(c.val, y.val)] } })) ∧
    (s.ready = false ∨ y.val ∉ s.linksLeft c → exec (.crossingLinkLost c y) s = .next s)) ∧
  (∀ (c : Fin 2) (y : Fin 8) (s : State),
    (s.rb rNocStatus 16 = false → (c.val, y.val) ∈ s.net.heldLinks →
      (∀ t ∈ s.net.packets, (c.val, y.val) ∉ linksOf (t.here :: t.ahead)) → ∃ v, exec (.crossingDrainDone c y) s = .next
        (syncCrossing c (serviceRequest uCrossing c ccLane 2 (opRecord 0x0506 true [c.val, y.val] v))) ∧
      v.linkUp? c y = false ∧ v.net.heldLinks = s.net.heldLinks.filter (· != (c.val, y.val)) ∧
      (v.unit uCrossing c).status = stDegraded ∧ (v.unit uCrossing c).width = ((List.range 8).filter (v.linkUp? c)).length ∧
      v = { s with regs := v.regs, net := v.net, boot := v.boot }) ∧
    (s.rb rNocStatus 16 = true ∨ (c.val, y.val) ∉ s.net.heldLinks ∨
      (∃ t ∈ s.net.packets, (c.val, y.val) ∈ linksOf (t.here :: t.ahead)) → exec (.crossingDrainDone c y) s = .next s))

/-- Periods and guarantees: charges start anew, a class that waits below its budget is a miss, and the guaranteed classes never
exceed a capacity (R347, R351, R353). -/
def Obligations.PeriodsAndGuarantees : Prop :=
  (∀ s : State, (s.net.started = false → ∀ w, exec (.qosPeriodBoundary w) s = .next s) ∧
    ∀ w, s.net.started = true → ∃ s1 v, s1 = forEach (w.filter (fun x => s.classWaits x.1 x.2)) (fun x s => missOf x.1 x.2 s) s ∧ v = { s1 with net := v.net, regs := v.regs } ∧
      v.net.charges = [] ∧ v.net.packets = s1.net.packets ∧ v.regs.val = s1.regs.val ∧ v.regs.rc = s1.regs.rc ∧
      exec (.qosPeriodBoundary w) s = .next (if v.net.guarDue then setGuarantees true v else v)) ∧
  (∀ (n c : Nat) (s : State), (s.budget n c * 256 ≤ s.charge n c → missOf n c s = s) ∧
    (s.charge n c < s.budget n c * 256 → s.rb rQosGuaranteed c = false → missOf n c s =
      countEvent (pointBlock n) 0xA2 none (some c) none 1 (rcCount rQosMiss 15 0 1 (setRf rQosMiss 26 16 (n + 2 ^ 7 * c) s)))) ∧
  (∀ s : State, let g := s.guarantees
    (∀ r, r < 62 → ((g.1).map (s.res r)).sum ≤ s.rf (rQosCapR r) 15 0) ∧
    (∀ c, (c ∈ g.1 ∨ ∃ r, (c, r) ∈ g.2) ↔ c < 16 ∧ s.rff (rQosClassCCtrl c) 4 4 = 1) ∧
    (∀ c r, (c, r) ∈ g.2 → r < 62 ∧ c ∉ g.1 ∧ s.rf (rQosCapR r) 15 0 < ((g.1).map (s.res r)).sum + s.res r c))

/-- Counters: wraps, bandwidth windows, snapshots, and what a function reads (R479, R506, R508, R512 to R521). -/
def Obligations.CountersAndSnapshots : Prop :=
  (∀ s : State, (s.cnt.wraps = [] → exec .counterWrap s = .next s) ∧
    ∀ (b i : Nat) (rest : List (Nat × Nat)), s.cnt.wraps = (b, i) :: rest → b < 353 → i < 8 →
      ∃ w, w = { s with cnt := { s.cnt with wraps := rest }, regs := w.regs } ∧ w.rcf 0 (rCntBOvf b) i i = 1 ∧ w.regs.val = s.regs.val ∧
        (72 ≤ b ∨ s.rb rSmpCtrl 0 = false → exec .counterWrap s = .next
          (if s.rb (rCntBSelI b i) 27 then sendVector 0 (s.rf rCntCtrl 12 1) w else w))) ∧
  (∀ (b : Fin 353) (s : State),
    (bits (s.inForce (rCntBBwCtrl b)) 5 5 = 0 → Runs (.bwWindowEnd b) s (fun u => u = { s with regs := u.regs, cnt := u.cnt } ∧
      u.cnt = { s.cnt with bw := u.cnt.bw } ∧ ∀ p, p < 4 →
        u.reg (rCntBBwP b p) = min (Table.get 0 s.cnt.bw (b * 4 + p)) (2 ^ 32 - 1) ∧
        Table.get 0 u.cnt.bw (b * 4 + p) = 0)) ∧
    (bits (s.inForce (rCntBBwCtrl b)) 5 5 ≠ 0 → exec (.bwWindowEnd b) s = .next s)) ∧
  (∀ (b : Fin 353) (port : Fin 8) (vn plane : Fin 5) (phaseA : Bool) (s : State), let ch := channelOf port vn plane phaseA
    (s.cnt.run = none ∨ s.markerSent b port = false ∨ ch ∉ inChannels b →
      exec (.snapshotMarker b port ⟨vn, plane, phaseA⟩) s = .next s) ∧
    (∀ r, s.cnt.run = some r → s.markerSent b port = true → ch ∈ inChannels b →
      Runs (.snapshotMarker b port ⟨vn, plane, phaseA⟩) s (fun u => ∃ q, u.cnt.run = some q ∧
      u = { s with cnt := u.cnt, regs := u.regs, free := u.free } ∧ b.val ∈ q.latched ∧ (2 ^ 16 * b.val + ch) ∈ q.arrived ∧
      (b.val ∈ r.latched → u = { s with cnt := { s.cnt with run := some q } } ∧ q.latched = r.latched) ∧
      (b.val ∉ r.latched → q.latched = r.latched ++ [b.val] ∧ ∀ i, i < 8 →
        (∀ j, j < 8 → Table.find? (s.cnt.bank s.cnt.seqRun) (b * 16 + j) = none) →
        Table.get (0, 0) (u.cnt.bank s.cnt.seqRun) (b * 16 + i) = (s.counter b i, 0)) ∧
      ((∀ c ∈ inChannels b, (2 ^ 16 * b.val + c) ∈ q.arrived) → b.val ∈ q.reported)))) ∧
  (∀ s : State,
    (s.running = true → s.rb rNocStatus 16 = false → Runs .snapRequest s (fun u => u = { s with regs := u.regs, cnt := u.cnt } ∧
      u.cnt = { s.cnt with asked := true } ∧ u.rb rSnapStatus 0 = true ∧ ∀ k, k ≠ rSnapStatus → u.reg k = s.reg k)) ∧
    (s.running = false ∨ s.rb rNocStatus 16 = true → exec .snapRequest s = .next s ∧ exec .snapshotBegin s = .next s) ∧
    (s.cnt.asked = true → s.cnt.run = none → s.running = true → s.rb rNocStatus 16 = false → Runs .snapshotBegin s (fun u =>
      u = { s with regs := u.regs, cnt := u.cnt } ∧ u.cnt.run = some { latched := [], reported := [], arrived := [], sels := [] } ∧
      u.cnt.asked = false ∧ u.cnt.seqRun = (s.cnt.seqRun + 1) % 2 ^ 32 ∧ u.cnt.bank u.cnt.seqRun = [] ∧
      u.rf rSnapStatus 1 1 = 1 - s.rf rSnapStatus 1 1 ∧ u.cnt.val = s.cnt.val)) ∧
    (s.cnt.asked = false ∨ s.cnt.run.isSome = true → exec .snapshotBegin s = .next s) ∧
    (∀ r, s.cnt.run = some r → (∀ b, b < 353 → b ∈ r.reported) → Runs .snapshotComplete s (fun u =>
      u = { s with regs := u.regs, cnt := { s.cnt with run := none }, lives := u.lives } ∧ u.reg rSnapSeq = s.cnt.seqRun % 2 ^ 32 ∧
      (∀ l ∈ s.lives, l.opcode = 5 → l.finished = none → l.stopping = false → 0 ≤ signed 32 (s.cnt.seqRun + 2 ^ 32 - l.snapFrom) →
        { l with finished := some (0, 0), result := s.cnt.seqRun } ∈ u.lives) ∧
      ∀ l ∈ s.lives, l.opcode ≠ 5 → l ∈ u.lives)) ∧
    (s.cnt.run = none ∨ (∃ r b, s.cnt.run = some r ∧ b < 353 ∧ b ∉ r.reported) → exec .snapshotComplete s = .next s)) ∧
  (∀ (fn : Fin 128) (b : Fin 353) (r : CntReg) (s : State), let i : Nat := (match r with
      | .cyc => 8
      | .shdCyc => 8
      | .val i => i.val
      | .shd i => i.val)
    (s.blockDead b = true ∨ s.mayCount fn b i = false → exec (.counterLoRead fn b r) s = .next
      { s with out := .regRead fn (rCntBCycLo b + counterLo r) 0 :: s.out }) ∧
    (s.blockDead b = false → s.mayCount fn b i = true → Runs (.counterLoRead fn b r) s (fun u =>
      u = { s with cnt := u.cnt, out := u.out, free := u.free } ∧ u.cnt = { s.cnt with hiCopy := u.cnt.hiCopy } ∧
      ∃ v, v = s.coarse fn (s.counterValue b r).1 ∧ u.out = .regRead fn (rCntBCycLo b + counterLo r) (BitVec.ofNat 32 v) :: s.out ∧
        Table.get 0 u.cnt.hiCopy (fnKey fn (rCntBCycLo b + counterHi r)) = v / 2 ^ 32 ∧ (r ≠ .cyc → u.free = s.free))))

/-! ## Power, clocks and temperature -/

/-- Power commands: refused, held, applied, and the end of a transition (R482, R485 to R488). -/
def Obligations.PowerCommands : Prop :=
  (∀ (ty id : BitVec 8) (p : Fin 4) (s : State), let i := id.toNat
    let old := s.pwrUnit ty.toNat i
    (s.running = false → Settles (.powerCommand ty id p) s (fun v => v = { s with regs := v.regs })) ∧
    (s.running = true → s.refusesPower ty.toNat i p = true → Settles (.powerCommand ty id p) s (fun v =>
      v = { s with regs := v.regs } ∧ v.rcf 0 rPwrCmd 19 19 = 1)) ∧
    (s.running = true → s.refusesPower ty.toNat i p = false → s.mustHold ty.toNat i p = true →
      Settles (.powerCommand ty id p) s (fun v => v = { s with regs := v.regs, pwr := v.pwr } ∧
        v.pwrUnit ty.toNat i = { old with target := p, held := some p.val } ∧
        ∀ t j, unitKey t j ≠ unitKey ty.toNat i → v.pwrUnit t j = s.pwrUnit t j)) ∧
    (s.running = true → s.refusesPower ty.toNat i p = false → s.mustHold ty.toNat i p = false →
      (old.now = p.val → Settles (.powerCommand ty id p) s (fun v => v = { s with regs := v.regs, pwr := v.pwr } ∧
        v.pwrUnit ty.toNat i = { old with target := p, held := none })) ∧
      (old.now < p.val → ty.toNat ≠ uStack → ty.toNat ≠ uSite → Settles (.powerCommand ty id p) s (fun v =>
        v = { s with regs := v.regs, pwr := v.pwr } ∧ v.pwrUnit ty.toNat i = { target := p, now := p, moving := some p.val, held := none })) ∧
      ∃ w, w = { s with regs := w.regs, pwr := w.pwr } ∧ w.pwrUnit ty.toNat i = { old with target := p, held := none } ∧
        Settles (.powerCommand ty id p) s (fun v => v = applyPower ty.toNat i p w))) ∧
  (∀ (u : QuarUnit) (s : State), let x := quarPair u
    let old := s.pwrUnit x.1 x.2
    (old.held = none → exec (.powerCommandApply u) s = .next s) ∧
    (∀ p, old.held = some p → s.mustHold x.1 x.2 p = true → exec (.powerCommandApply u) s = .next s) ∧
    (∀ p, old.held = some p → s.mustHold x.1 x.2 p = false → ∃ w, w = { s with pwr := w.pwr } ∧
      w.pwrUnit x.1 x.2 = { old with held := none } ∧ Settles (.powerCommandApply u) s (fun v =>
        v = if w.refusesPower x.1 x.2 p then w else applyPower x.1 x.2 p w))) ∧
  (∀ (u : QuarUnit) (s : State), let x := quarPair u
    let old := s.pwrUnit x.1 x.2
    (old.moving = none ∨ s.status x.1 x.2 = stQuarantine → exec (.powerTransitionDone u) s = .next s) ∧
    (∀ p, old.moving = some p → s.status x.1 x.2 ≠ stQuarantine →
      ((∃ t, u = .tile t) ∨ (∃ c, u = .cluster c) ∨ (∃ q, u = .partition q) → Settles (.powerTransitionDone u) s (fun v =>
        v = { s with pwr := v.pwr, tiles := v.tiles, clusters := v.clusters, xlt := v.xlt } ∧
        v.pwrUnit x.1 x.2 = { old with now := p, moving := none } ∧ (p ≠ 3 → v = { s with pwr := v.pwr }) ∧
        (∀ t, u = .tile t → p = 3 → (v.effPower uTile t = 3 → v.tile t = (s.tile t).cleared) ∧ ∀ j, j ≠ t.val → v.tile j = s.tile j))) ∧
      (∀ k, u = .stack k → k.val ∈ s.plz.stackSweep → exec (.powerTransitionDone u) s = .next s) ∧
      (∀ k, u = .stack k → k.val ∉ s.plz.stackSweep → ∃ w, exec (.powerTransitionDone u) s = .next (syncClocks k w) ∧
        w = { s with pwr := w.pwr, dram := w.dram, stks := w.stks } ∧ w.pwrUnit uStack k = { old with now := p, moving := none } ∧
        (p = 3 → ∀ e ∈ w.dram.bytes, e.1 / 2 ^ 36 ≠ k.val) ∧ (p ≠ 3 → w.dram = s.dram)) ∧
      (∀ n, u = .site n → (s.site n).flushing = false → (s.site n).join = .none → (∀ e ∈ s.plz.owners, e.2.site ≠ n.val) →
        old.now ≠ 3 ∨ s.inService uSite n = true → Runs (.powerTransitionDone u) s (fun v =>
          v = { s with pwr := v.pwr, regs := v.regs, sites := v.sites, out := v.out } ∧ v.rf (rSiteNStatus n) 24 23 = p % 4 ∧
          v.pwrUnit uSite n = { old with now := p, moving := none })) ∧
      (∀ n, u = .site n → (s.site n).flushing = true ∨ (s.site n).join ≠ .none ∨ (∃ e ∈ s.plz.owners, e.2.site = n.val) →
        exec (.powerTransitionDone u) s = .next s))) ∧
  (∀ (k : Fin 12) (s : State), let busy := s.plz.txns.any (fun t => lineStack t.line == k.val && t.phase != .waiting)
    let old := s.pwrUnit uStack k
    let dirty := s.plz.lines.any (fun e => lineStack e.1 == k.val && (e.2.d0 || e.2.d1) && s.cleanStops e.1)
    (old.moving = none ∨ k.val ∉ s.plz.stackSweep ∨ s.inService uStack k = false ∨ busy = true ∨ dirty = true →
      exec (.stackPowerSweepDone k) s = .next s) ∧
    (∀ p, old.moving = some p → k.val ∈ s.plz.stackSweep → s.inService uStack k = true → busy = false → dirty = false →
      ((∃ e ∈ s.plz.owners, lineStack e.1 = k.val) → exec (.stackPowerSweepDone k) s = .next (recallStack k s)) ∧
      ((∀ e ∈ s.plz.owners, lineStack e.1 ≠ k.val) → ∃ w, exec (.stackPowerSweepDone k) s = .next (syncClocks k w) ∧
        k.val ∉ w.plz.stackSweep ∧ w.pwrUnit uStack k = { old with now := p } ∧ Kept w s ∧
        ((∀ e ∈ s.plz.lines, lineStack e.1 ≠ k.val) → w = { s with plz := w.plz, pwr := w.pwr } ∧ w.plz.lines = s.plz.lines))))

/-- Stack budgets, clamps and power readings (R489 to R493).
Clocks and temperature: a PLL that loses lock takes its units out, the reference is reported, and a sensor at 115 °C twice in
succession trips the hub (R496, R499 to R501). -/
def Obligations.BudgetsClocksTemperature : Prop :=
  ((∀ s : State, (s.running = false ∨ (∀ k, k < 12 → s.stackOn k = false) → exec .stackBudgetTimer s = .next s) ∧
     (s.running = true → Runs .stackBudgetTimer s (fun u => u = { s with stks := u.stks, out := u.out } ∧
       ∀ k, k < 12 → (s.stackOn k = true → (u.stack k).budgetSeq = ((s.stack k).budgetSeq + 1) % 512 ∧
         (u.stack k).curBudget = ((s.stack k).clampBudget.getD (min (s.rf (rPwrStkSBudget k) 8 0) 0x1B8)) ∧
         (u.stack k).clampBudget = (s.stack k).clampBudget) ∧ (s.stackOn k = false → u.stack k = s.stack k)))) ∧
   (∀ (k : Fin 12) (w : BitVec 9) (s : State),
     (s.status uStack k ≠ stQuarantine → Runs (.stackBudgetWrite k w) s (fun u => u = { s with regs := u.regs, stks := u.stks, out := u.out } ∧
       u.rf (rPwrStkSBudget k) 8 0 = w.toNat ∧
       (s.running = true → s.stackOn k = true → (s.stack k).clampBudget = none →
         (u.stack k).curBudget = min w.toNat 0x1B8 ∧ u.out = .stack k "BUDGET" (min w.toNat 0x1B8 + 2 ^ 10 * (s.stack k).budgetSeq) :: s.out) ∧
       (s.running = false ∨ s.stackOn k = false ∨ (s.stack k).clampBudget ≠ none → u.stks = s.stks ∧ u.out = s.out))) ∧
     (s.status uStack k = stQuarantine → exec (.stackBudgetWrite k w) s = .next (toShadow (rPwrStkSBudget k) w.toNat s)) ∧
     (s.stackOn k = true → Runs (.stackPowerReport k w) s (fun u => u = { s with regs := u.regs } ∧ u.rf (rPwrStkSPower k) 8 0 = w.toNat ∧
       u.rf (rPwrStkSPower k) 18 9 = s.rf (rPwrStkSPower k) 18 9 ∧ ∀ j, j ≠ rPwrStkSPower k → u.reg j = s.reg j)) ∧
     (s.stackOn k = false → exec (.stackPowerReport k w) s = .next s)) ∧
   (∀ (n : Fin 6) (w : BitVec 11) (s : State), Runs (.fieldPowerSample (.site n) w) s (fun u => u = { s with regs := u.regs } ∧
     u.rf (rSiteNPower n) 21 11 = w.toNat ∧ ∀ j, j ≠ rSiteNPower n → u.reg j = s.reg j)) ∧
   (∀ (k : Fin 12) (w : BitVec 11) (s : State),
     (w.toNat ≤ 440 ∨ s.running = false ∨ s.stackOn k = false ∨ (s.stack k).clampBudget ≠ none →
       Runs (.fieldPowerSample (.stack k) w) s (fun u => u = { s with regs := u.regs } ∧ u.rf (rPwrStkSPower k) 17 9 = min w.toNat 511)) ∧
     (440 < w.toNat → s.running = true → s.stackOn k = true → (s.stack k).clampBudget = none →
       let b := (s.stack k).curBudget * 9 / 10
       ∃ v, exec (.fieldPowerSample (.stack k) w) s = .next (opRecord 0x0A01 true [k.val, b] v) ∧
         v = { s with regs := v.regs, stks := v.stks, out := v.out } ∧ v.rb (rPwrStkSPower k) 18 = true ∧
         v.rf (rPwrStkSPower k) 17 9 = min w.toNat 511 ∧ (v.stack k).clampBudget = some b ∧ (v.stack k).curBudget = b ∧
         v.out = .stack k "BUDGET" (b + 2 ^ 9 + 2 ^ 10 * (s.stack k).budgetSeq) :: s.out) ∧
     (440 < w.toNat → (s.stack k).clampBudget ≠ none → ∃ v, exec (.stackClampTimeout k w) s = .next (isolateStack k ccOvercurrent v) ∧
       v = { s with regs := v.regs } ∧ v.rf (rPwrStkSPower k) 17 9 = min w.toNat 511) ∧
     (w.toNat ≤ 440 ∨ (s.stack k).clampBudget = none → exec (.stackClampTimeout k w) s = .next s) ∧
     ((s.stack k).clampBudget = none → exec (.stackUnclamp k) s = .next s) ∧
     ((s.stack k).clampBudget ≠ none → ∃ v, exec (.stackUnclamp k) s = .next (opRecord 0x0A02 true [k.val] v) ∧
       v = { s with regs := v.regs, stks := v.stks, out := v.out } ∧ v.rb (rPwrStkSPower k) 18 = false ∧ (v.stack k).clampBudget = none ∧
       (s.stackOn k = true → (v.stack k).curBudget = min (s.rf (rPwrStkSBudget k) 8 0) 0x1B8) ∧ (s.stackOn k = false → v.out = s.out))) ∧
   (∀ (w : BitVec 12) (s : State), Runs (.hubPowerSample w) s (fun u => u = { s with regs := u.regs } ∧
     u.rf rPwrHubPower 11 0 = w.toNat ∧ (u.rb rPwrPkg 13 = true ↔ s.rf rPwrHubBudget 11 0 < w.toNat) ∧
     ∀ j, j ≠ rPwrHubPower → j ≠ rPwrPkg → u.reg j = s.reg j))) ∧
  ((∀ (p : Pll) (s : State), (s.ready = false → exec (.pllLockLost p) s = .next s) ∧
     (s.ready = true → (∀ q, p = .tile q → Settles (.pllLockLost p) s (fun v => v = opRecord 0x0A03 true [0, q.val] (failPartition q ccClock s))) ∧
       (∀ k, p = .stack k → Settles (.pllLockLost p) s (fun v => v = opRecord 0x0A03 true [1, k.val] (isolateStack k ccClock s))) ∧
       (∀ n, p = .site n → Settles (.pllLockLost p) s (fun v => v = opRecord 0x0A03 true [2, n.val] (loseSite n ccClock s))) ∧
       (∀ e, p = .fabric e → Settles (.pllLockLost p) s (fun v => v = opRecord 0x0A03 true [3, e.val]
         (forEach (List.range 8) (fun i s => downPort (8 * e.val + i) ccClock s) s))) ∧
       (p = .network ∨ p = .management → exec (.pllLockLost p) s = .next (failTransit hostRouter s)))) ∧
   (∀ s : State, (s.ready = false → exec .refclkLost s = .next s) ∧
     (s.ready = true → exec .refclkLost s = .next (serviceRequest uHost 0 ccClock 4 (opRecord 0x0A04 true [] s)))) ∧
   (∀ (k : Fin 54) (t : BitVec 8) (s : State), let hot := 115 ≤ t.toNat ∧ t.toNat < 128
     (s.boot.reset ≠ .running → exec (.tempSensorRead k t) s = .next s) ∧
     (s.boot.reset = .running → ∃ v, v = { s with regs := v.regs, pwr := v.pwr } ∧ v.rf (rPwrTempK k) 7 0 = t.toNat ∧
       (k.val ∈ v.pwr.hotLast ↔ hot) ∧ v.pwr.units = s.pwr.units ∧
       (hot → k.val ∈ s.pwr.hotLast → exec (.tempSensorRead k t) s = .next (thermalTrip k 0 0 t.toNat v)) ∧
       (¬ hot ∨ k.val ∉ s.pwr.hotLast → exec (.tempSensorRead k t) s = .next v))) ∧
   (∀ (sensor stack die temp : Nat) (s : State), (s.tripped = true → thermalTrip sensor stack die temp s = s) ∧
     (s.tripped = false → ∃ v, thermalTrip sensor stack die temp s =
         opRecord 0x0A05 true [if sensor = 63 then stack else sensor, die, temp] v ∧ v.tripped = true ∧ v.pins.thermtripLow = true ∧
       (∀ n, n < 6 → (v.site n).curBudget = 0) ∧ v = { s with regs := v.regs, pins := v.pins, out := v.out, sites := v.sites } ∧
       .pin "THERMTRIP_N" 0 ∈ v.out)))

/-! ## Security -/

/-- Certificates: an issue uses the next leaf and binds what it states, a boot's first issue burns the lowest free reservation bit, and
REISSUE and SVN_COMMIT do what R455 and R463 say (R455 to R463). -/
def Obligations.CertificateIssue : Prop :=
  (∀ s : State,
    (s.sec.due = false ∨ s.ready = false ∨ 4096 ≤ s.sec.issued → exec .certIssue s = .next s) ∧
    (s.sec.due = true → s.ready = true → s.sec.issued < 4096 →
      let issues (b : Nat) (w : State) : Prop := w = { s with sec := w.sec, regs := w.regs } ∧
        exec .certIssue s = .next (opRecord 0x0901 false [4096 * b + s.sec.issued, s.epoch] w) ∧
        w.sec.issued = s.sec.issued + 1 ∧ w.sec.block = some b ∧ w.sec.due = false ∧
        (∃ c, w.sec.cert = some c ∧ c.leaf = 4096 * b + s.sec.issued ∧ c.epoch = s.epoch ∧ c.lc = s.lcState ∧
          c.debug = s.debugStatus ∧ c.blocks = w.sec.otp.reserve.length) ∧
        w.rb rSecCtrl 2 = false ∧ w.rb rSecStatus 4 = true ∧ w.rf rSecLmsStatus 28 16 = (s.sec.issued + 1) % 2 ^ 13
      (∀ b, s.sec.block = some b → ∃ w, issues b w ∧ w.sec.otp = s.sec.otp) ∧
      (∀ b, s.sec.block = none → s.sec.otp.nextBlock? = some b → ∃ w, issues b w ∧ b ∉ s.sec.otp.reserve ∧
        w.sec.otp = { s.sec.otp with reserve := w.sec.otp.reserve } ∧
        ∀ x, x ∈ w.sec.otp.reserve ↔ x = b ∨ x ∈ s.sec.otp.reserve) ∧
      (s.sec.block = none → s.sec.otp.nextBlock? = none → ∃ w, exec .certIssue s = .next (opRecord 0x0903 true [] w) ∧
        w = { s with sec := { s.sec with due := false }, regs := w.regs } ∧ w.rb rSecLmsStatus 30 = true))) ∧
  (∀ o : Otp, (∀ b, o.nextBlock? = some b → b < 32768 ∧ b ∉ o.reserve ∧ ∀ x, x < b → x ∈ o.reserve) ∧
    (o.nextBlock? = none → ∀ x, x < 32768 → x ∈ o.reserve)) ∧
  (∀ s : State,
    (s.ready = false ∨ s.sec.otp.keysPresent = false ∨ s.sec.due = true → exec .reissue s = .next s) ∧
    (s.ready = true → s.sec.otp.keysPresent = true → s.sec.due = false → s.sec.issued < 4094 → s.rb rSecLmsStatus 30 = false →
      Runs .reissue s (fun u => u = { s with sec := { s.sec with due := true }, regs := u.regs } ∧ u.rb rSecCtrl 2 = true)) ∧
    (s.sec.issued < 4094 → s.rb rSecLmsStatus 30 = true → exec .reissue s = .next s) ∧
    (s.ready = true → s.sec.otp.keysPresent = true → s.sec.due = false → 4094 ≤ s.sec.issued → Runs .reissue s (fun u =>
      u = { s with regs := u.regs } ∧ u.rcf 0 rSecCtrl 3 3 = 1)) ∧
    (s.ready = true → s.sec.otp.svnFloor < s.rf rSecFwSvn 6 0 → Runs .svnCommit s (fun u =>
      u = { s with sec := u.sec, regs := u.regs } ∧ u.sec.otp = { s.sec.otp with svnFloor := s.rf rSecFwSvn 6 0 } ∧
      u.rf rSecFwSvn 14 8 = s.rf rSecFwSvn 6 0)) ∧
    (s.ready = false ∨ s.rf rSecFwSvn 6 0 ≤ s.sec.otp.svnFloor → exec .svnCommit s = .next s) ∧
    (s.imageNat 0xC 1 < s.sec.otp.svnFloor → s.admission ≠ 0))

/-- Life-cycle transitions and the user store (R466 to R472). -/
def Obligations.LifeCycle : Prop :=
  (∀ (t : Fin 8) (s : State), let s1 : State := { s with sec := { s.sec with token := [] } }
    let right := (Config.sha384 s.tokenBytes).toNat = vget 0 s.sec.otp.tokenDigest (t.val - 1)
    (s.running = false ∨ s.sec.lcMove.isSome = true → exec (.lcTransitionGo t) s = .next (refuseLc 1 s)) ∧
    (s.running = true → s.sec.lcMove = none →
      ((∃ e ∈ s.ctxs, s.ctxState e.1 ≠ 0) → exec (.lcTransitionGo t) s = .next (refuseLc 2 s)) ∧
      ((∀ e ∈ s.ctxs, s.ctxState e.1 = 0) →
        (s.rb rSecLcStatus 11 = true → exec (.lcTransitionGo t) s = .next (refuseLc 5 s)) ∧
        (s.rb rSecLcStatus 11 = false → s.sec.otp.mayMove t = false → exec (.lcTransitionGo t) s = .next (refuseLc 3 s1)) ∧
        (s.rb rSecLcStatus 11 = false → s.sec.otp.mayMove t = true → ¬ right → ∃ w, exec (.lcTransitionGo t) s = .next (refuseLc 4 w) ∧
          w = { s1 with regs := w.regs } ∧ w.rf rSecLcStatus 10 7 = min (s.rf rSecLcStatus 10 7 + 1) 8 ∧
          (w.rb rSecLcStatus 11 = true ↔ 7 ≤ s.rf rSecLcStatus 10 7)) ∧
        (s.rb rSecLcStatus 11 = false → s.sec.otp.mayMove t = true → right → Runs (.lcTransitionGo t) s (fun u =>
          u = { s with sec := u.sec, regs := u.regs } ∧ u.rf rSecLcStatus 6 0 = 1 ∧
          u.sec = { s.sec with token := [], lcMove := some { src := s.sec.otp.lcCode, dst := t } }))))) ∧
  (∀ (r : Nat) (s : State), ∃ w, refuseLc r s = opRecord 0x0907 false [r] w ∧ w = { s with regs := w.regs } ∧
    w.rf rSecLcStatus 6 4 = r % 8 ∧ w.rf rSecLcStatus 2 1 = 2) ∧
  (∀ (ok : Bool) (s : State), (s.sec.lcMove = none → exec (.lcTransition ok) s = .next s) ∧
    ∀ m, s.sec.lcMove = some m →
      (ok = true → Runs (.lcTransition ok) s (fun u => u.boot.hubHeld = true ∧ u.boot.plan = s.boot.plan ∧ u.pending = s.pending ∧
        u.sec.lcMove = none ∧ u.sec.otp.lcA = s.sec.otp.lcA ||| lcWord m.dst ∧ u.sec.otp.lcB = s.sec.otp.lcB ||| lcWord m.dst ∧
        (m.dst < 3 → u.sec = { s.sec with lcMove := none, otp := { s.sec.otp with lcA := u.sec.otp.lcA, lcB := u.sec.otp.lcB } }) ∧
        (3 ≤ m.dst → u.sec.otp.idkPriv = 2 ^ 384 - 1 ∧ u.sec.otp.lmsPriv = 2 ^ 320 - 1 ∧ u.sec.otp.memKey = 2 ^ 512 - 1 ∧
          (∀ i, i < 512 → Table.get 0 u.sec.otp.user i = 2 ^ 32 - 1)))) ∧
      (ok = false → ∃ w, exec (.lcTransition ok) s = .next (refuseLc 6 w) ∧ w.sec = { s.sec with otp := s.burnCut.1, lcMove := none } ∧
        w = { s with sec := w.sec, regs := w.regs, free := s.burnCut.2 } ∧ w.rb rSecLcStatus 0 = false)) ∧
  (∀ (o : Otp) (dst : Nat), o.mayMove dst = true ↔
    (o.lcCode, dst) ∈ [(0, 1), (0, 4), (1, 2), (1, 4), (2, 3), (2, 4), (3, 4)] ∨
      (o.lcCode = 7 ∧ 1 ≤ dst ∧ dst ≤ 4 ∧ o.lcA ||| lcWord dst = lcWord dst ∧ o.lcB ||| lcWord dst = lcWord dst)) ∧
  (∀ (v : BitVec 32) (s : State), let i := s.rf rSecUserSel 8 0
    (s.running = true → s.lcState = 1 ∨ s.lcState = 2 → Runs (.userStoreBurn v) s (fun u => u = { s with sec := u.sec } ∧
      u.sec = { s.sec with otp := { s.sec.otp with user := u.sec.otp.user } } ∧
      Table.get 0 u.sec.otp.user i = Table.get 0 s.sec.otp.user i ||| v.toNat ∧
      ∀ j, j ≠ i → Table.get 0 u.sec.otp.user j = Table.get 0 s.sec.otp.user j)) ∧
    (s.running = false ∨ (s.lcState ≠ 1 ∧ s.lcState ≠ 2) → exec (.userStoreBurn v) s = .next s) ∧
    s.readWord rSecUserData = Table.get 0 s.sec.otp.user i) ∧
  (∀ (f : Nat) (s : State), f ≠ 0 → s.locate f rSecUserData = none ∧ s.locate f rSecUserSel = none)

/-- Test gates, operator debug and the health of the random source (R452, R473 to R476). -/
def Obligations.GatesAndDebug : Prop :=
  (∀ (g : Fin 48) (s : State), let k := if g.val < 32 then rSecGateOpenLo else rSecGateOpenHi
    (s.ready = false → exec (.gateOpen g) s = .next s ∧ exec (.gateClose g) s = .next s) ∧
    (gateAllowed s.lcState g = false ∨ s.rb k (g.val % 32) = true → exec (.gateOpen g) s = .next s) ∧
    (s.ready = true → s.stage ≠ 0 → gateAllowed s.lcState g = true → s.rb k (g.val % 32) = false →
      ∃ w, w = { s with regs := w.regs, sec := { s.sec with due := w.sec.due } } ∧ w.rb k (g.val % 32) = true ∧ w.rb rSecDebug 2 = true ∧
        (s.rb rSecDebug 2 = true → w.sec = s.sec) ∧
        (s.rb rSecDebug 2 = false → s.sec.otp.keysPresent = true → s.rb rSecLmsStatus 30 = false → w.sec.due = true) ∧
        (g.val ∈ s.sec.gatesSeen → exec (.gateOpen g) s = .next w) ∧
        (g.val ∉ s.sec.gatesSeen → exec (.gateOpen g) s = .next (opRecord 0x0905 true [g.val]
          { w with sec := { w.sec with gatesSeen := w.sec.gatesSeen ++ [g.val] } }))) ∧
    (s.ready = true → Runs (.gateClose g) s (fun u => u = { s with regs := u.regs } ∧ u.rb k (g.val % 32) = false ∧
      (∀ b, b ≠ g.val % 32 → u.rb k b = s.rb k b) ∧ ∀ j, j ≠ k → u.reg j = s.reg j))) ∧
  (∀ lc g : Nat, gateAllowed lc g = true → g ≤ 38 ∧ (lc = 0 ∨ (lc = 1 ∧ 8 ≤ g ∧ g ≤ 27) ∨ (lc = 3 ∧ g ≠ 37))) ∧
  (∀ s : State,
    (s.running = false ∨ s.lcState = 7 ∨ s.lcState = 4 ∨ s.debugOn = true → exec .debugEnable s = .next s) ∧
    (s.running = true → s.lcState ≠ 7 → s.lcState ≠ 4 → s.debugOn = false →
      (∀ f, f < 128 → (s.fn f).tdi ≠ .locked ∧ (s.fn f).tdi ≠ .run) → ∃ w, w.debugOn = true ∧ w.rb rSecDebug 1 = true ∧
        (s.rb rSecDebug 1 = true → exec .debugEnable s = .next w ∧ w = { s with regs := w.regs }) ∧
        (s.rb rSecDebug 1 = false → exec .debugEnable s = .next (opRecord 0x0904 true [] w) ∧
          w = { s with regs := w.regs, sec := { s.sec with due := w.sec.due } } ∧
          (s.sec.otp.keysPresent = true → s.rb rSecLmsStatus 30 = false → w.sec.due = true))) ∧
    (s.running = true → s.lcState ≠ 7 → s.lcState ≠ 4 → s.debugOn = false →
      Runs .debugEnable s (fun u => u.pending = s.pending ∧ u.sec.otp = s.sec.otp)) ∧
    Runs .debugDisable s (fun u => u = { s with regs := u.regs } ∧ u.debugOn = false ∧ ∀ j, j ≠ rSecDebug → u.reg j = s.reg j)) ∧
  (∀ s : State, (s.sec.rngFailed = true → exec .rngHealthFail s = .next s) ∧
    (s.sec.rngFailed = false → let s1 : State := { s with sec := { s.sec with rngFailed := true } }
      exec .rngHealthFail s = .next (serviceRequest uHost 0 ccNone 1 s1)))

/-- The SPDM responder: negotiation in order, answers with the certificate, sessions (R411, R412, R461 to R464).
TDISP: a TDI is locked to a stream with keys, runs with the nonce of its lock, and is unlocked by STOP (R413 to R415). -/
def Obligations.SpdmAndTdisp : Prop :=
  ((∀ s : State,
     let answers (c : Instr) (what : String) (words : List Nat) (bytes : List Byte) (f : Spdm → Spdm) (n : Nat) : Prop :=
       exec c s = .next { s with host := { s.host with spdm := f s.host.spdm }, free := s.free + n, out := .doe what words bytes :: s.out }
     let fails (c : Instr) (code : Nat) : Prop := answers c "ERROR" [code] [] id 0
     s.running = true →
     answers .getVersion "VERSION" [0x13] [] (fun x => { x with version := true, caps := false, algs := false }) 0 ∧
     (s.host.spdm.version = true → answers .getCapabilities "CAPABILITIES" [] [] (fun x => { x with caps := true }) 0) ∧
     (s.host.spdm.version = false → fails .getCapabilities 4) ∧
     (∀ on, s.host.spdm.caps = false → fails (.negotiateAlgorithms on) 4) ∧
     (s.host.spdm.caps = true → answers (.negotiateAlgorithms true) "ALGORITHMS" [] [] (fun x => { x with algs := true }) 0 ∧
       fails (.negotiateAlgorithms false) 1) ∧
     (∀ c, c = .getDigests ∨ (∃ a b d, c = .getCertificate a b d) ∨ (∃ a b, c = .challenge a b) ∨ (∃ a b d, c = .getMeasurements a b d) ∨
         (∃ sid, c = .keyExchange sid) →
       (s.host.spdm.algs = false → fails c 4) ∧
       (s.host.spdm.algs = true → s.sec.cert = none → s.sec.due = true → fails c 3) ∧
       (s.host.spdm.algs = true → s.sec.cert = none → s.sec.due = false → fails c 5)) ∧
     (∀ x, s.host.spdm.algs = true → s.sec.cert = some x →
       answers .getDigests "DIGESTS" [1] (natToBytes 48 (Config.sha384 (s.chainBytes x)).toNat) id 0 ∧
       (∀ (slot : BitVec 8) (off len : BitVec 16), let chain := s.chainBytes x
         let part := (chain.drop off.toNat).take len.toNat
         (slot.toNat = 0 → off.toNat < chain.length → answers (.getCertificate slot off len) "CERTIFICATE"
           [part.length, chain.length - off.toNat - part.length] part id 0) ∧
         (slot.toNat ≠ 0 ∨ chain.length ≤ off.toNat → fails (.getCertificate slot off len) 1)) ∧
       (∀ (slot : BitVec 8) (nonce : BitVec 256),
         let body := natToBytes 48 (Config.sha384 (s.chainBytes x)).toNat ++ natToBytes 32 (Config.freeLine s.free).toNat
         (slot.toNat = 0 → answers (.challenge slot nonce) "CHALLENGE_AUTH" [x.leaf]
           (body ++ Config.aliasSign s.sec.otp.idkPriv x.leaf (natToBytes 32 nonce.toNat ++ body)) id 1) ∧
         (slot.toNat ≠ 0 → fails (.challenge slot nonce) 1)) ∧
       (∀ (i : BitVec 8) (sign : Bool) (nonce : BitVec 256),
         (13 < i.toNat → i.toNat ≠ 255 → fails (.getMeasurements i sign nonce) 1) ∧
         (i.toNat = 0 → answers (.getMeasurements i false nonce) "MEASUREMENTS" [13] [] id 0) ∧
         (1 ≤ i.toNat → i.toNat ≤ 13 → answers (.getMeasurements i false nonce) "MEASUREMENTS" [i.toNat] (s.measurement i.toNat) id 0 ∧
           answers (.getMeasurements i true nonce) "MEASUREMENTS" [i.toNat] (s.measurement i.toNat ++
             natToBytes 32 (Config.freeLine s.free).toNat ++ Config.aliasSign s.sec.otp.idkPriv x.leaf (natToBytes 32 nonce.toNat ++
               s.measurement i.toNat ++ natToBytes 32 (Config.freeLine s.free).toNat)) id 1)) ∧
       (∀ sid : BitVec 32, (s.sec.rngFailed = true → fails (.keyExchange sid) 5) ∧
         (s.sec.rngFailed = false → let n := natToBytes 128 (Config.freeLine s.free).toNat
           answers (.keyExchange sid) "KEY_EXCHANGE_RSP" [sid.toNat] (n ++ Config.aliasSign s.sec.otp.idkPriv x.leaf n)
             (fun y => { y with sessions := Table.set y.sessions sid.toNat { secured := false, leaf := x.leaf, keyGen := 0 } }) 1))) ∧
     (∀ (sid : BitVec 32) (ok : Bool), ((∀ x, Table.find? s.host.spdm.sessions sid.toNat = some x → x.secured = true) → fails (.finish sid ok) 4) ∧
       (∀ x, Table.find? s.host.spdm.sessions sid.toNat = some x → x.secured = false →
         answers (.finish sid true) "FINISH_RSP" [sid.toNat] [] (fun y => { y with
           sessions := Table.set y.sessions sid.toNat { x with secured := true } }) 0 ∧
         answers (.finish sid false) "ERROR" [6] [] (fun y => { y with sessions := Table.erase y.sessions sid.toNat }) 0)) ∧
     (∀ sid : BitVec 32, s.secured sid = true → answers (.heartbeat sid) "HEARTBEAT_ACK" [sid.toNat] [] id 0 ∧
       answers (.endSession sid) "END_SESSION_ACK" [sid.toNat] [] (fun y => { y with sessions := Table.erase y.sessions sid.toNat }) 0 ∧
       (∀ op : BitVec 8, Runs (.keyUpdate sid op) s (fun u => u = { s with host := u.host, out := u.out } ∧
         u.out = .doe "KEY_UPDATE_ACK" [sid.toNat, op.toNat] [] :: s.out ∧ ∀ x, Table.find? s.host.spdm.sessions sid.toNat = some x →
           Table.find? u.host.spdm.sessions sid.toNat = some { x with keyGen := x.keyGen + 1 })) ∧
       (∀ k : Fin 8, Runs (.ideKm sid k) s (fun u => u = { s with host := { s.host with streams := u.host.streams }, out := u.out } ∧
         k.val ∈ u.host.streams ∧ ∀ j, j ≠ k.val → (j ∈ u.host.streams ↔ j ∈ s.host.streams)))) ∧
     (∀ (sid : BitVec 32) (c : Instr), s.secured sid = false → c = .heartbeat sid ∨ (∃ op, c = .keyUpdate sid op) ∨ c = .endSession sid ∨
       (∃ k, c = .ideKm sid k) ∨ (∃ f k, c = .lockInterfaceRequest sid f k) ∨ (∃ f, c = .getDeviceInterfaceReport sid f) ∨
       (∃ f, c = .getDeviceInterfaceState sid f) ∨ (∃ f n, c = .startInterfaceRequest sid f n) ∨ (∃ f, c = .stopInterfaceRequest sid f) →
       fails c 4)) ∧
   (∀ s : State, s.running = false → ∀ c, c = .getVersion ∨ c = .getCapabilities ∨ (∃ b, c = .negotiateAlgorithms b) ∨ c = .getDigests ∨
     (∃ a b d, c = .getCertificate a b d) ∨ (∃ a b, c = .challenge a b) ∨ (∃ a b d, c = .getMeasurements a b d) ∨
     (∃ a, c = .keyExchange a) ∨ (∃ a b, c = .finish a b) ∨ (∃ a, c = .heartbeat a) ∨ (∃ a b, c = .keyUpdate a b) → exec c s = .next s)) ∧
  (∀ (sid : BitVec 32) (f : Fin 128) (s : State), s.running = true → s.secured sid = true →
     let fails (c : Instr) (code : Nat) : Prop := exec c s = .next { s with out := .doe "TDISP_ERROR" [code] [] :: s.out }
     (f.val = 0 ∨ (s.fn f).present = false → ∀ k n, fails (.lockInterfaceRequest sid f k) 4 ∧ fails (.getDeviceInterfaceReport sid f) 4 ∧
       fails (.getDeviceInterfaceState sid f) 4 ∧ fails (.startInterfaceRequest sid f n) 4 ∧ fails (.stopInterfaceRequest sid f) 4) ∧
     (f.val ≠ 0 → (s.fn f).present = true →
       (∀ k : Fin 8, ((s.fn f).tdi ≠ .unlocked → fails (.lockInterfaceRequest sid f k) 5) ∧
         ((s.fn f).tdi = .unlocked → k.val ∉ s.host.streams → fails (.lockInterfaceRequest sid f k) 1) ∧
         ((s.fn f).tdi = .unlocked → k.val ∈ s.host.streams → let n := natToBytes 32 (Config.freeLine s.free).toNat
           Runs (.lockInterfaceRequest sid f k) s (fun u => u = { s with host := u.host, regs := u.regs, free := s.free + 1, out := u.out } ∧
             (u.fn f).tdi = .locked ∧ (u.fn f).stream = some k.val ∧ (u.fn f).nonce = some (bytesToNat n) ∧
             u.rf (rHifFnFStatus f) 3 2 = 1 ∧ u.out.head? = some (.doe "LOCK_INTERFACE_RESPONSE" [f.val] n) ∧
             ∀ g, g ≠ f.val → (u.fn g).tdi = (s.fn g).tdi))) ∧
       ((s.fn f).tdi = .locked ∨ (s.fn f).tdi = .run → exec (.getDeviceInterfaceReport sid f) s = .next
         { s with out := .doe "DEVICE_INTERFACE_REPORT" (s.tdiReport f) [] :: s.out }) ∧
       ((s.fn f).tdi ≠ .locked → (s.fn f).tdi ≠ .run → fails (.getDeviceInterfaceReport sid f) 5) ∧
       exec (.getDeviceInterfaceState sid f) s = .next
         { s with out := .doe "DEVICE_INTERFACE_STATE" [s.rf (rHifFnFStatus f) 3 2] [] :: s.out } ∧
       (∀ n : BitVec 256, ((s.fn f).tdi ≠ .locked → fails (.startInterfaceRequest sid f n) 5) ∧
         ((s.fn f).tdi = .locked → (s.fn f).nonce ≠ some n.toNat → fails (.startInterfaceRequest sid f n) 1) ∧
         ((s.fn f).tdi = .locked → (s.fn f).nonce = some n.toNat → ∃ w v, exec (.startInterfaceRequest sid f n) s = .next
             { v with out := .doe "START_INTERFACE_RESPONSE" [f.val] [] :: v.out } ∧
           w = { s with host := w.host, regs := w.regs, out := w.out } ∧ (w.fn f).tdi = .run ∧ (w.fn f).nonce = none ∧
           w.rf (rHifFnFStatus f) 3 2 = 2 ∧ Kept v w ∧
           ((w.ownedCtxs f).filter (fun c => w.ctxState c == 0 && w.rb (rCtxStatus c) 2) = [] → v = w))) ∧
       Runs (.stopInterfaceRequest sid f) s (fun u => u = { s with host := u.host, regs := u.regs, out := u.out } ∧
         (u.fn f).tdi = .unlocked ∧ (u.fn f).stream = none ∧ (u.fn f).nonce = none ∧ u.rf (rHifFnFStatus f) 3 2 = 0 ∧
         ∀ g, g ≠ f.val → (u.fn g).tdi = (s.fn g).tdi)))

/-! ## Bring-up -/

/-- Resets, rails and the stages up to the image: what a reset leaves, how a stage reports, and what S0, S1 and S2 do (R391, R418 to
R421, R427, R453 to R455, R459, R466, R471, R549, R550). -/
def Obligations.ResetsAndFirstStages : Prop :=
  (∀ s : State, let fresh (st : ResetState) (u : State) : Prop := u.pending = s.pending ∧ u.out = pinsBack s ++ s.out ∧ u.boot.reset = st ∧
      u.sec.otp = s.burnCut.1 ∧ u.sec.issued = 0 ∧ u.sec.cert = none ∧ u.regs = State.reset.regs ∧ u.tiles = State.reset.tiles ∧
      u.clusters = State.reset.clusters ∧ u.dram = State.reset.dram ∧ u.plz = State.reset.plz ∧ u.host = State.reset.host ∧
      u.net = State.reset.net ∧ u.pwr = State.reset.pwr ∧ u.ctxs = [] ∧ u.rings = [] ∧ u.lives = []
    (s.sec.lcMove = none → s.burnCut.1 = s.sec.otp) ∧
    Runs .resetAssert s (fun u => fresh (if s.boot.reset = .railWait then .railWait else .held) u ∧ u.pins.resetLow = true) ∧
    Runs .railUndervoltage s (fresh .railWait) ∧
    (s.boot.reset = .railWait → exec .railBackInRange s = .next { s with boot := { s.boot with
      reset := if s.pins.resetLow then .held else .running } }) ∧
    (s.boot.reset ≠ .railWait → exec .railBackInRange s = .next s) ∧
    (∀ k : Fin 4, (s.pins.resetLow = false → exec (.resetRelease k) s = .next s) ∧
      (s.pins.resetLow = true → Runs (.resetRelease k) s (fun u => u = { s with pins := u.pins, boot := u.boot } ∧
        u.pins = { s.pins with resetLow := false, strap := k } ∧
        u.boot = { s.boot with reset := if s.boot.reset = .held then .running else s.boot.reset })))) ∧
  (∀ (n err : Nat) (us : List (Nat × Nat)) (data : List Nat) (s : State),
    let out := us.filter (fun u => s.status u.1 u.2 != stGood)
    let wrote (result err : Nat) (u : State) : Prop := ∃ ws, Table.find? u.boot.reports n = some ws ∧ ws[0]? = some 0x4B425250 ∧
      ws[1]? = some (n + result * 16 + 2 ^ 16 * err) ∧ ws[4]? = some ((us.length - out.length) + 2 ^ 16 * out.length) ∧
      (∀ d l, data = d :: l → ws[7]? = some d)
    (wrote (b2n (!out.isEmpty)) 0 (passStage n us data s) ∧ (passStage n us data s).stage = min (n + 1) 6 % 8 ∧
      (passStage n us data s).boot.plan = s.boot.plan) ∧
    (wrote 2 err (failStage n err us data s) ∧ (failStage n err us data s).rb rBootStatus 4 = true ∧
      (failStage n err us data s).rf rBootStatus 31 16 = err % 2 ^ 16 ∧ (failStage n err us data s).boot.hubHeld = true ∧
      (failStage n err us data s).stage = s.stage)) ∧
  (∀ (ok : Bool) (hot : Option (Fin 54)) (temp : BitVec 8) (s : State),
    (s.inStage 0 = false → exec (.stageS0Done ok hot temp) s = .next s) ∧
    (s.inStage 0 = true → ok = false → exec (.stageS0Done ok hot temp) s = .next (failStage 0 1 [] [] s)) ∧
    (s.inStage 0 = true → ok = true → hot = none → let lc := s.sec.otp.lcCode
      Runs (.stageS0Done ok hot temp) s (fun u => u.lcState = lc % 8 ∧ (u.rb rSecStatus 3 = u.sec.otp.keysPresent) ∧
        u.rf rSecFwSvn 14 8 = u.sec.otp.svnFloor % 128 ∧ (u.rb rSecLmsStatus 29 = true ↔ 29492 ≤ u.sec.otp.reserve.length) ∧
        u.sec.otp = (if lc = 3 ∨ lc = 4 then wipeOtp lc s.sec.otp else s.sec.otp) ∧
        (∀ t ∈ s.sec.otp.disabled, lc ≠ 3 → lc ≠ 4 → (u.unit uTile t).status = stDisabled) ∧
        (lc = 4 → u.boot.hubHeld = true ∧ u.rb rBootStatus 4 = true) ∧ (lc ≠ 4 → u.stage = 1)))) ∧
  (∀ (rate : Fin 8) (width : Fin 17) (s : State),
    (s.inStage 1 = false ∨ rate.val = 0 ∨ width.val = 0 → exec (.hostLinkTrained rate width) s = .next s) ∧
    (s.inStage 1 = true → rate.val ≠ 0 → width.val ≠ 0 → Runs (.hostLinkTrained rate width) s (fun u =>
      u.stage = 2 ∧ (u.fn 0).present = true ∧ u.rf rHifStatus 8 0 = 1 + rate.val * 2 + width.val * 16 ∧
      (u.unit uHost 0).status = (if rate.val = 7 ∧ width.val = 16 then stGood else stDegraded) ∧
      (u.unit uHost 0).cause = (if rate.val = 7 ∧ width.val = 16 then ccNone else ccLane) ∧ (u.unit uHost 0).width = width.val))) ∧
  (∀ s : State,
    (s.ready = true ∨ s.rb rBootStatus 5 = true ∨ s.stage ≠ 2 ∨ s.boot.reset ≠ .running → exec .imageReady s = .next s) ∧
    (s.ready = false → s.rb rBootStatus 5 = false → s.stage = 2 → s.boot.reset = .running → Runs .imageReady s (fun u =>
      u = { s with regs := u.regs, boot := { s.boot with hubHeld := false } } ∧ u.rb rBootStatus 5 = true ∧ u.rb rBootStatus 4 = false ∧
      u.rf rBootStatus 31 16 = 0 ∧ u.stage = 2)) ∧
    (s.inStage 2 = false ∨ s.rb rBootStatus 5 = false → exec .imageAdmission s = .next s) ∧
    (s.inStage 2 = true → s.rb rBootStatus 5 = true →
      (s.admission ≠ 0 → Runs .imageAdmission s (fun u => u.sec = s.sec ∧ u.boot.hubHeld = true ∧ u.rf rBootStatus 31 16 = 3 ∧
        u.rf rSecStatus 8 5 = s.admission ∧ u.stage = 2)) ∧
      (s.admission = 0 → let slot := s.imageNat 0xD 1 % 4
        Runs .imageAdmission s (fun u => u.stage = 3 ∧ u.rb rBootStatus 5 = false ∧ u.rf rSecStatus 10 9 = slot ∧
          u.rf rSecFwSvn 6 0 = s.imageNat 0xC 1 % 128 ∧
          u.sec = { s.sec with otp := { s.sec.otp with fwKey := u.sec.otp.fwKey }, version := s.imageNat 4 4, digest := u.sec.digest } ∧
          u.sec.digest = (Config.sha384 (s.imageBytes 0 (64 + s.imageNat 8 4))).toNat ∧
          ∀ i, i < 4 → vget (0, false) u.sec.otp.fwKey i = ((vget (0, false) s.sec.otp.fwKey i).1,
            (vget (0, false) s.sec.otp.fwKey i).2 || (bit (s.imageNat 0xE 1) i && i != slot))))))

/-- Training, self-test and qualification take units out by R422 to R425, and READY numbers the GOOD tiles, fixes the first floor plan
and starts the network (R27, R40, R418, R426, R506). -/
def Obligations.LaterStagesAndReady : Prop :=
  (∀ (tr : Training) (s : State), (s.inStage 3 = false → exec (.trainingDone tr) s = .next s) ∧
    (s.inStage 3 = true → Runs (.trainingDone tr) s (fun u => u = endTraining tr s ∧
      (Table.find? u.boot.reports 3).isSome = true))) ∧
  (∀ (k : Nat) (sp : List (Fin 8192)) (rt : List (Fin 64)) (s : State), k < 12 →
    let u := trainStack k (some (.trained sp rt)) s
    ((∃ m ∈ rt, ∃ m' ∈ rt, m'.val = m.val ^^^ 1) → u.status uStack k = stIsolated ∧ (u.unit uStack k).cause = ccChannel) ∧
    ((∀ m ∈ rt, ∀ m' ∈ rt, m'.val ≠ m.val ^^^ 1) → (u.unit uStack k).status = (if rt = [] then stGood else stDegraded)) ∧
    (trainStack k (some (.failed sp)) s).status uStack k = stIsolated ∧ (trainStack k none s).status uStack k = stIsolated ∧
    (trainStack k (some (.channelLost sp)) s).status uStack k = stIsolated) ∧
  (∀ (n : Nat) (o : Option SiteTrain) (s : State), n < 6 →
    (s.status uSite n ≠ stEmpty → (s.site n).everAccepted = false → (trainSite n o s).status uSite n = stEmpty) ∧
    (s.status uSite n ≠ stEmpty → (s.site n).everAccepted = true → o = none ∨ o = some .failed →
      (trainSite n o s).status uSite n = stEmpty ∧ ((trainSite n o s).unit uSite n).cause = ccTrain)) ∧
  (∀ (t : SelfTest) (s : State), (s.inStage 4 = false → exec (.selftestDone t) s = .next s) ∧
    (s.inStage 4 = true → Runs (.selftestDone t) s (fun u => u.dram = { bytes := [], marks := [], good := [] } ∧ u.plz.lines = [] ∧
      (∀ i, i < 72 → (u.tile i).store = [] ∧ (u.tile i).dmem = [] ∧ (u.tile i).storeMarks = []) ∧
      (∀ c, c < 18 → (u.cluster c).store = [] ∧ (u.cluster c).marks = []) ∧
      (∀ i ∈ t.tiles, s.status uTile i ≠ stDisabled → (u.unit uTile i).status = stFailed) ∧
      (∀ c ∈ t.clusters, u.status uCluster c = stFailed) ∧ (∀ p ∈ t.plazas, u.status uPlaza p = stFailed) ∧
      (t.transit = true → u.rf rBootStatus 31 16 = 5 ∧ u.boot.hubHeld = true) ∧
      (t.transit = false → t.hostPort = true → u.rf rBootStatus 31 16 = 6 ∧ u.boot.hubHeld = true)))) ∧
  (∀ (q : Qualification) (s : State), (s.inStage 5 = false → exec (.qualificationDone q) s = .next s) ∧
    (s.inStage 5 = true → Runs (.qualificationDone q) s (fun u => u = endQualification q s ∧
      (Table.find? u.boot.reports 5).isSome = true))) ∧
  (∀ d : Dwell, (d.errors ≠ 0 → d.errors ≤ d.bits → let r := rateFields d
      1 ≤ r.1 ∧ r.1 ≤ 9 ∧ d.errors * 10 ^ r.2 ≤ r.1 * d.bits ∧ (r.1 - 1) * d.bits < d.errors * 10 ^ r.2) ∧
    (d.errors = 0 → (rateFields d).1 = 0)) ∧
  (∀ s : State, (s.inStage 6 = false → exec .ready s = .next s) ∧
    (s.inStage 6 = true → Runs .ready s (fun u => u.pending = s.pending ∧ u.boot.newWork = true ∧
      u.boot.tilesAt = (List.range 72).filter (fun t => s.status uTile t == stGood) ∧ u.boot.plan.epoch = 1 ∧ u.boot.plan.rev = 0 ∧
      u.boot.rev0 = u.boot.plan ∧ u.boot.latches = [] ∧
      (∀ x ∈ epochUnits, (u.unit x.1 x.2).epoch = 1) ∧ ∃ v, u.boot.digest = (Config.sha384 (v.planBytes u.boot.plan)).toNat ∧
        v = { numberTiles s with boot := { (numberTiles s).boot with plan := u.boot.plan, rev0 := u.boot.plan, latches := [], newWork := true } }))) ∧
  (∀ (tr : Training) (q : Qualification) (s : State),
    (s.inStage s.stage = false ∨ (s.stage = 2 ∧ s.rb rBootStatus 5 = false) → exec (.stageTimeout tr q) s = .next s) ∧
    (s.inStage s.stage = true → (s.stage = 3 → exec (.stageTimeout tr q) s = .next (endTraining tr s)) ∧
      (s.stage = 5 → exec (.stageTimeout tr q) s = .next (endQualification q s)) ∧
      (s.stage ≠ 3 → s.stage ≠ 5 → s.stage ≠ 2 ∨ s.rb rBootStatus 5 = true →
        exec (.stageTimeout tr q) s = .next (failStage s.stage 9 [] [] s))))

/-! ## The whole machine -/

/-- Logical numbers never change while the hub runs: the tiles that hold them and the digest of the first floor plan change only at
READY, which numbers the tiles that are GOOD then, and at a reset, which clears them for the next bring-up; a tile that is retired
keeps its number as a hole with status FAILED (R27, R40). -/
def Obligations.LogicalNumbersStay : Prop :=
  (∀ (c : Instr) (s t : State), exec c s = .next t →
    (c ≠ .ready ∨ s.inStage 6 = false → ¬ ResetCommand c → t.boot.tilesAt = s.boot.tilesAt ∧ t.boot.digest = s.boot.digest) ∧
    (c = .ready → s.inStage 6 = true → t.boot.tilesAt = (List.range 72).filter (fun k => s.status uTile k == stGood)) ∧
    (ResetCommand c → t = s ∨ (t.boot.tilesAt = [] ∧ t.ready = false))) ∧
  (∀ (t cause : Nat) (s : State), t < 72 → s.status uTile t ≠ stFailed → s.status uTile t ≠ stDisabled →
    ((retireTile t cause s).unit uTile t).status = stFailed ∧ (retireTile t cause s).logicalOf? t = s.logicalOf? t ∧
      (retireTile t cause s).boot.tilesAt = s.boot.tilesAt)

/-- No command changes the queue: what a sender has queued runs, in its order, after it.
Only the commands of the security chapter, bring-up, resets and writes of registers change the security state; every other
command leaves keys, certificate, life cycle and user store as they are (R449 to R472). -/
def Obligations.FewCommandsChange : Prop :=
  (∀ (c : Instr) (s t : State), exec c s = .next t → t.pending = s.pending) ∧
  (∀ (c : Instr) (s t : State), exec c s = .next t → ¬ SecCommand c → t.sec = s.sec)

/-- No certificate's leaf is used twice and no leaf outside a burned block (R456 to R458): the rules of the leaves hold after every
step from a state in which they hold. -/
def Obligations.LeafRulesHold : Prop :=
  ∀ s t : State, s.sec.LeavesOk → step s = .next t → t.sec.LeavesOk

/-- The state right after reset: its registers hold the reset values of the tables, nothing is stored, no context is active, the units
that wait for bring-up are out, and the rules of the leaves hold (R27, R418, R423, R449, R523). -/
def Obligations.ResetState : Prop :=
  State.reset.pending = [] ∧ State.reset.boot.reset = .held ∧ State.reset.pins.resetLow = true ∧ State.reset.ready = false ∧
  State.reset.stage = 0 ∧ State.reset.sec.LeavesOk ∧ State.reset.dram.bytes = [] ∧ State.reset.boot.tilesAt = [] ∧
  (∀ k, State.reset.reg k = regReset (k % 2 ^ 30) % 2 ^ 32) ∧ (∀ k, State.reset.inForce k = State.reset.reg k) ∧
  (∀ f k, (State.reset.rcReg f k).val = 0) ∧
  (∀ t r, (State.reset.tile t).gpr r = 0 ∧ (State.reset.tile t).live = none ∧ (State.reset.tile t).store = []) ∧
  (∀ c, c < 4096 → State.reset.ctxState c = 0) ∧ (∀ b i, State.reset.counter b i = 0)

/-- Memory: a byte reads as last written, a store leaves every other address alone, and every operation keeps the one canonical form
(R10, R34). -/
def Obligations.MemoryReadsBack : Prop :=
  ∀ (m : Mem) (a : Nat) (bs : List Byte), Mem.wf m = true → Mem.wf (Mem.writeBytes m a bs) = true ∧
    Mem.readBytes (Mem.writeBytes m a bs) a bs.length = bs ∧
    (∀ x, x < a ∨ a + bs.length ≤ x → Mem.read (Mem.writeBytes m a bs) x = Mem.read m x) ∧
    (∀ mask x, Mem.read (Mem.writeMasked m a mask bs) x = if a ≤ x ∧ x < a + bs.length ∧ mask.testBit (x - a) = true then
      bs.getD (x - a) 0 else Mem.read m x) ∧
    (∀ n v, Mem.readNat (Mem.writeNat m a n v) a n = v % 256 ^ n) ∧
    ∀ m' : Mem, Mem.wf m' = true → (∀ x, Mem.read m x = Mem.read m' x) → m = m'
end

