-- ==== Sys2Proof/Laws/AskedOps.lean ====
section
/-!
SUPPORT. Which functions of Machine/Ops.lean leave alone what a site's requests and its clamp go by
(`Asked` of Safety.lean): one lemma each.
-/
namespace Sys2Proof.Machine

@[simp] theorem updSite_retiredA (n : Nat) (f : Site → Site) (s : State) (h1 : ∀ x, (f x).opens = x.opens) (h2 : ∀ x, (f x).agents = x.agents) (h3 : ∀ x, (f x).due = x.due) (h4 : ∀ x, (f x).clampBudget = x.clampBudget) : (updSite n f s).sites.map Site.asks = s.sites.map Site.asks := by
  unfold updSite
  apply Vector.ext
  intro i hi
  simp only [Vector.getElem_map]
  unfold vupd
  rw [Vector.getElem_setIfInBounds]
  split
  · rename_i e
    subst e
    simp [Site.asks, vget, hi, h1, h2, h3, h4]
  · rfl
@[simp] theorem updPlz_osweepA (f : Plaza → Plaza) (s : State) (h : ∀ p, (f p).ownerSweep = p.ownerSweep) : (updPlz f s).plz.ownerSweep = s.plz.ownerSweep := h _
@[simp] theorem updPlz_ssweepA (f : Plaza → Plaza) (s : State) (h : ∀ p, (f p).stackSweep = p.stackSweep) : (updPlz f s).plz.stackSweep = s.plz.stackSweep := h _
@[simp] theorem updPlz_sites_A (f : Plaza → Plaza) (s : State) : (updPlz f s).sites = s.sites := rfl
@[simp] theorem updPlz_flushingA (f : Plaza → Plaza) (s : State) (h : ∀ p, (f p).flushing = p.flushing) : (updPlz f s).plz.flushing = s.plz.flushing := h _
@[simp] theorem updSite_plz_A (n : Nat) (f : Site → Site) (s : State) : (updSite n f s).plz = s.plz := rfl
@[simp] theorem updSite_fab_A (n : Nat) (f : Site → Site) (s : State) : (updSite n f s).fab = s.fab := rfl
@[simp] theorem updPort_sites_A (n : Nat) (f : FabPort → FabPort) (s : State) : (updPort n f s).sites = s.sites := rfl
@[simp] theorem updPort_plz_A (n : Nat) (f : FabPort → FabPort) (s : State) : (updPort n f s).plz = s.plz := rfl
theorem forEach_asked {α : Type} (l : List α) (f : α → State → State) (s s' : State) (hs : Asked s' s)
    (h : ∀ a u, Asked (f a u) u) : Asked (forEach l f s') s := by
  unfold forEach
  induction l generalizing s' with
  | nil => exact hs
  | cons a l ih =>
    simp only [List.foldl_cons]
    have k := h a s'
    exact ih _ ⟨k.1.trans hs.1, k.2.1.trans hs.2.1, k.2.2.1.trans hs.2.2.1, k.2.2.2.trans hs.2.2.2⟩
@[simp] theorem forEach_asked_retired {α : Type} (l : List α) (f : α → State → State) (s : State)
    (h : ∀ a u, Asked (f a u) u) : (forEach l f s).sites.map Site.asks = s.sites.map Site.asks :=
  (forEach_asked l f s s ⟨rfl, rfl, rfl, rfl⟩ h).1
@[simp] theorem ite_retiredA (c : Prop) [Decidable c] (a b : State) :
    (if c then a else b).sites.map Site.asks = if c then a.sites.map Site.asks else b.sites.map Site.asks := by split <;> rfl
@[simp] theorem forEach_asked_osweep {α : Type} (l : List α) (f : α → State → State) (s : State)
    (h : ∀ a u, Asked (f a u) u) : (forEach l f s).plz.ownerSweep = s.plz.ownerSweep :=
  (forEach_asked l f s s ⟨rfl, rfl, rfl, rfl⟩ h).2.1
@[simp] theorem ite_osweepA (c : Prop) [Decidable c] (a b : State) :
    (if c then a else b).plz.ownerSweep = if c then a.plz.ownerSweep else b.plz.ownerSweep := by split <;> rfl
@[simp] theorem forEach_asked_ssweep {α : Type} (l : List α) (f : α → State → State) (s : State)
    (h : ∀ a u, Asked (f a u) u) : (forEach l f s).plz.stackSweep = s.plz.stackSweep :=
  (forEach_asked l f s s ⟨rfl, rfl, rfl, rfl⟩ h).2.2.1
@[simp] theorem ite_ssweepA (c : Prop) [Decidable c] (a b : State) :
    (if c then a else b).plz.stackSweep = if c then a.plz.stackSweep else b.plz.stackSweep := by split <;> rfl
@[simp] theorem forEach_asked_flushing {α : Type} (l : List α) (f : α → State → State) (s : State)
    (h : ∀ a u, Asked (f a u) u) : (forEach l f s).plz.flushing = s.plz.flushing :=
  (forEach_asked l f s s ⟨rfl, rfl, rfl, rfl⟩ h).2.2.2
@[simp] theorem ite_flushingA (c : Prop) [Decidable c] (a b : State) :
    (if c then a else b).plz.flushing = if c then a.plz.flushing else b.plz.flushing := by split <;> rfl
theorem Asked.trans {a b c : State} (h : Asked a b) (k : Asked b c) : Asked a c :=
  ⟨h.1.trans k.1, h.2.1.trans k.2.1, h.2.2.1.trans k.2.2.1, h.2.2.2.trans k.2.2.2⟩
theorem Asked.refl (a : State) : Asked a a := ⟨rfl, rfl, rfl, rfl⟩
theorem Asked.ite {c : Prop} [Decidable c] {a b s : State} (ha : Asked a s) (hb : Asked b s) : Asked (if c then a else b) s := by
  split
  · exact ha
  · exact hb

@[simp] theorem updTile_asked (t : Nat) (f : Tile → Tile) (s : State) :
    Asked (updTile t f s) s := by
  simp [updTile]

@[simp] theorem updCluster_asked (c : Nat) (f : Cluster → Cluster) (s : State) :
    Asked (updCluster c f s) s := by
  simp [updCluster]

@[simp] theorem updStack_asked (k : Nat) (f : Stack → Stack) (s : State) :
    Asked (updStack k f s) s := by
  simp [updStack]

@[simp] theorem updCtx_asked (c : Nat) (f : Ctx → Ctx) (s : State) :
    Asked (updCtx c f s) s := by
  simp [updCtx]

@[simp] theorem updRing_asked (r : Nat) (f : Ring → Ring) (s : State) :
    Asked (updRing r f s) s := by
  simp [updRing]

@[simp] theorem updLive_asked (id : Nat) (f : Live → Live) (s : State) :
    Asked (updLive id f s) s := by
  simp [updLive]

@[simp] theorem updWalker_asked (p : Nat) (f : Walker → Walker) (s : State) :
    Asked (updWalker p f s) s := by
  simp [updWalker]

@[simp] theorem updPort_asked (n : Nat) (f : FabPort → FabPort) (s : State) :
    Asked (updPort n f s) s := by
  simp [updPort]

@[simp] theorem updFn_asked (f : Nat) (g : Fn → Fn) (s : State) :
    Asked (updFn f g s) s := by
  simp [updFn]

@[simp] theorem updXlt_asked (f : Xlt → Xlt) (s : State) :
    Asked (updXlt f s) s := by
  simp [updXlt]

@[simp] theorem emit_asked (o : Out) (s : State) :
    Asked (emit o s) s := by
  simp [emit]

@[simp] theorem fresh_asked (s : State) :
    Asked (fresh s).2 s := by
  simp [fresh]

@[simp] theorem setReg_asked (k v : Nat) (s : State) :
    Asked (setReg k v s) s := by
  simp [setReg]

@[simp] theorem setRf_asked (k hi lo v : Nat) (s : State) :
    Asked (setRf k hi lo v s) s := by
  simp [setRf]

@[simp] theorem addRf_asked (k hi lo n : Nat) (s : State) :
    Asked (addRf k hi lo n s) s := by
  simp [addRf]

@[simp] theorem putFields_asked (k : Nat) (fs : List FieldInfo) (v : Nat) (s : State) :
    Asked (putFields k fs v s) s := by
  simp [putFields]

@[simp] theorem applyKey_asked (ap : Apply) (k : Nat) (s : State) :
    Asked (applyKey ap k s) s := by
  simp only [applyKey]
  split <;> simp

@[simp] theorem applyAll_asked (ap : Apply) (p : Nat → Bool) (s : State) :
    Asked (applyAll ap p s) s := by
  simp [applyAll]

@[simp] theorem setRc_asked (fn k : Nat) (r : RcReg) (s : State) :
    Asked (setRc fn k r s) s := by
  simp [setRc]

@[simp] theorem rcEvent_asked (k hi lo : Nat) (f : Nat → Nat) (s : State) :
    Asked (rcEvent k hi lo f s) s := by
  simp [rcEvent]

@[simp] theorem rcFlag_asked (k b : Nat) (s : State) :
    Asked (rcFlag k b s) s := by
  simp [rcFlag]

@[simp] theorem rcCount_asked (k hi lo n : Nat) (s : State) :
    Asked (rcCount k hi lo n s) s := by
  simp [rcCount]

@[simp] theorem sendVector_asked (f v : Nat) (s : State) :
    Asked (sendVector f v s) s := by
  simp [sendVector]

@[simp] theorem sendPending_asked (f : Nat) (s : State) :
    Asked (sendPending f s) s := by
  simp [sendPending]

@[simp] theorem syncGate_asked (f : Nat) (s : State) :
    Asked (syncGate f s) s := by
  simp [syncGate]

@[simp] theorem syncGates_asked (s : State) :
    Asked (syncGates s) s := by
  simp [syncGates]

@[simp] theorem syncStatus_asked (s : State) :
    Asked (syncStatus s) s := by
  simp [syncStatus]

@[simp] theorem syncUnit_asked (key : Nat) (s : State) :
    Asked (syncUnit key s) s := by
  simp [syncUnit]

@[simp] theorem rewriteUnits_asked (ch : List (Nat × (UnitRec → UnitRec))) (s : State) :
    Asked (rewriteUnits ch s) s := by
  simp [rewriteUnits]

@[simp] theorem unmark_asked (key : Nat) (s : State) :
    Asked (unmark key s) s := by
  simp only [unmark]
  repeat' first
    | (simp [*]; done)
    | split
    | refine forEach_asked _ _ _ _ ?_ (fun a u => ?_)

@[simp] theorem markUnit_asked (ty id st : Nat) (s : State) :
    Asked (markUnit ty id st s) s := by
  simp only [markUnit]
  repeat' first
    | (simp [*]; done)
    | split
    | refine forEach_asked _ _ _ _ ?_ (fun a u => ?_)

@[simp] theorem setStatus_asked (ty id st cause : Nat) (s : State) :
    Asked (setStatus ty id st cause s) s := by
  simp [setStatus]

@[simp] theorem recordMarked_asked (ty id cause : Nat) (s : State) :
    Asked (recordMarked ty id cause s) s := by
  simp only [recordMarked]
  repeat' first
    | (simp [*]; done)
    | split
    | refine forEach_asked _ _ _ _ ?_ (fun a u => ?_)

@[simp] theorem bumpEpoch_asked (s : State) :
    Asked (bumpEpoch s) s := by
  simp [bumpEpoch]

@[simp] theorem enterQuarWith_asked (us : List (Nat × Nat)) (cause : Nat) (f : UnitRec → UnitRec) (s : State) :
    Asked (enterQuarWith us cause f s) s := by
  simp only [enterQuarWith]
  repeat' first
    | (simp [*]; done)
    | split
    | refine forEach_asked _ _ _ _ ?_ (fun a u => ?_)

@[simp] theorem unisolate_asked (ty id : Nat) (s : State) :
    Asked (unisolate ty id s) s := by
  simp only [unisolate]
  repeat' first
    | (simp [*]; done)
    | split
    | refine forEach_asked _ _ _ _ ?_ (fun a u => ?_)

@[simp] theorem enterQuar_asked (us : List (Nat × Nat)) (cause : Nat) (s : State) :
    Asked (enterQuar us cause s) s := by
  simp [enterQuar]

@[simp] theorem toShadow_asked (off v : Nat) (s : State) :
    Asked (toShadow off v s) s := by
  simp [toShadow]

@[simp] theorem bumpCounter_asked (b i n : Nat) (s : State) :
    Asked (bumpCounter b i n s) s := by
  simp [bumpCounter]

@[simp] theorem countEvent_asked (b ev : Nat) (ctx cls : Option Nat) (pv : Option (Nat × Nat)) (n : Nat) (s : State) :
    Asked (countEvent b ev ctx cls pv n s) s := by
  simp [countEvent]

@[simp] theorem countUnits_asked (b p n : Nat) (s : State) :
    Asked (countUnits b p n s) s := by
  simp [countUnits]

end Sys2Proof.Machine
end

