-- ==== Sys2Proof/Laws/AskedMemory.lean ====
section
/-!
SUPPORT. Which functions of Machine/Memory.lean leave alone what a site's requests and its clamp go by
(`Asked` of Safety.lean): one lemma each.
-/
namespace Sys2Proof.Machine

@[simp] theorem noteMark_asked (raise : Raise) (k a : Nat) (was is : Bool) (s : State) (hraise : ∀ c k ws u, Asked (raise c k ws u) u) :
    Asked (noteMark raise k a was is s) s := by
  simp only [noteMark]
  repeat' first
    | (simp [*]; done)
    | split

@[simp] theorem noteNotOn_asked (raise : Raise) (k source : Nat) (s : State) (hraise : ∀ c k ws u, Asked (raise c k ws u) u) :
    Asked (noteNotOn raise k source s) s := by
  simp only [noteNotOn]
  repeat' first
    | (simp [*]; done)
    | split

@[simp] theorem tracked_asked (raise : Raise) (k a : Nat) (f : State → State) (s : State)
    (hraise : ∀ c k ws u, Asked (raise c k ws u) u) (hf : ∀ u, Asked (f u) u) : Asked (tracked raise k a f s) s := by
  simp only [tracked]
  have := hf s
  simp_all

@[simp] theorem putDram_asked (k a : Nat) (d : UnitData) (m : Option Mark) (s : State) :
    Asked (putDram k a d m s) s := by
  simp [putDram]

@[simp] theorem clearMark_asked (k a : Nat) (s : State) :
    Asked (clearMark k a s) s := by
  simp [clearMark]

@[simp] theorem countBonds_asked (k a : Nat) (symbols : List Nat) (s : State) :
    Asked (countBonds k a symbols s) s := by
  simp [countBonds]

@[simp] theorem convertPoison_asked (raise : Raise) (k a source : Nat) (s : State) (hraise : ∀ c k ws u, Asked (raise c k ws u) u) :
    Asked (convertPoison raise k a source s).2 s := by
  simp only [convertPoison]
  repeat' first
    | (simp [*]; done)
    | split

@[simp] theorem readUnit_asked (raise : Raise) (k a : Nat) (ev : EccOutcome) (s : State) (hraise : ∀ c k ws u, Asked (raise c k ws u) u) :
    Asked (readUnit raise k a ev s).2 s := by
  simp only [readUnit]
  repeat' first
    | (simp [*]; done)
    | split

@[simp] theorem readOut_asked (raise : Raise) (k a src : Nat) (look : Nat → Nat → State → (UnitData × Option Mark) × State)
    (s : State) (hraise : ∀ c k ws u, Asked (raise c k ws u) u) (hlook : ∀ k a u, Asked (look k a u).2 u) :
    Asked (readOut raise k a src look s).2 s := by
  simp only [readOut]
  repeat' first
    | (simp [*]; done)
    | split

@[simp] theorem memLook_asked (raise : Raise) (k a : Nat) (s : State) (hraise : ∀ c k ws u, Asked (raise c k ws u) u) :
    Asked (memLook raise k a s).2 s := by
  simp only [memLook]
  repeat' first
    | (simp [*]; done)
    | split

@[simp] theorem healUnit_asked (raise : Raise) (n k a : Nat) (d : UnitData) (s : State) (hraise : ∀ c k ws u, Asked (raise c k ws u) u) :
    Asked (healUnit raise n k a d s) s := by
  simp only [healUnit]
  repeat' first
    | (simp [*]; done)
    | split

@[simp] theorem memRead_asked (raise : Raise) (k a : Nat) (ev ev2 : EccOutcome) (s : State) (hraise : ∀ c k ws u, Asked (raise c k ws u) u) :
    Asked (memRead raise k a ev ev2 s).2 s := by
  simp only [memRead]
  repeat' first
    | (simp [*]; done)
    | split

@[simp] theorem dropWrite_asked (raise : Raise) (k src : Nat) (s : State) (hraise : ∀ c k ws u, Asked (raise c k ws u) u) :
    Asked (dropWrite raise k src s) s := by
  simp only [dropWrite]
  repeat' first
    | (simp [*]; done)
    | split

@[simp] theorem memWrite_asked (raise : Raise) (k a : Nat) (d : UnitData) (m : Option Mark) (symbols : List Nat) (s : State) (hraise : ∀ c k ws u, Asked (raise c k ws u) u) :
    Asked (memWrite raise k a d m symbols s) s := by
  simp only [memWrite]
  repeat' first
    | (simp [*]; done)
    | split

@[simp] theorem holdMem_asked (k : Nat) (h : HeldMem) (s : State) :
    Asked (holdMem k h s) s := by
  simp [holdMem]

@[simp] theorem hubWrite_asked (raise : Raise) (k a : Nat) (d : UnitData) (m : Option Mark) (s : State) (hraise : ∀ c k ws u, Asked (raise c k ws u) u) :
    Asked (hubWrite raise k a d m s) s := by
  simp only [hubWrite]
  repeat' first
    | (simp [*]; done)
    | split

@[simp] theorem setPline_asked (lk : Nat) (l : PLine) (s : State) :
    Asked (setPline lk l s) s := by
  simp [setPline]

@[simp] theorem homeUnit_asked (raise : Raise) (lk u : Nat) (s : State) (hraise : ∀ c k ws u, Asked (raise c k ws u) u) :
    Asked (homeUnit raise lk u s).2 s := by
  simp only [homeUnit]
  repeat' first
    | (simp [*]; done)
    | split
    | refine forEach_asked _ _ _ _ ?_ (fun a u => ?_)

@[simp] theorem allocLine_asked (raise : Raise) (lk : Nat) (s : State) (hraise : ∀ c k ws u, Asked (raise c k ws u) u) :
    Asked (allocLine raise lk s) s := by
  simp only [allocLine]
  repeat' first
    | (simp [*]; done)
    | split
    | refine forEach_asked _ _ _ _ ?_ (fun a u => ?_)

@[simp] theorem storeUnitAt_asked (raise : Raise) (lk u : Nat) (d : UnitData) (m : Option Mark) (dirty : Bool) (s : State) (hraise : ∀ c k ws u, Asked (raise c k ws u) u) :
    Asked (storeUnitAt raise lk u d m dirty s) s := by
  refine tracked_asked _ _ _ _ _ hraise (fun u => ?_)
  repeat' first
    | (simp [*]; done)
    | split

@[simp] theorem mergeUnit_asked (raise : Raise) (stream : Bool) (lk u : Nat) (d : UnitData) (mask : Nat) (m : Option Mark) (s : State) (hraise : ∀ c k ws u, Asked (raise c k ws u) u) :
    Asked (mergeUnit raise stream lk u d mask m s) s := by
  simp only [mergeUnit]
  repeat' first
    | (simp [*]; done)
    | split

@[simp] theorem mergeLine_asked (raise : Raise) (lk : Nat) (d : LineData) (mask : Nat) (m0 m1 : Option Mark) (hint : Nat) (s : State) (hraise : ∀ c k ws u, Asked (raise c k ws u) u) :
    Asked (mergeLine raise lk d mask m0 m1 hint s) s := by
  simp only [mergeLine]
  repeat' first
    | (simp [*]; done)
    | split

@[simp] theorem homeWrite_asked (raise : Raise) (lk : Nat) (d : LineData) (mask : Nat) (m0 m1 : Option Mark) (hint : Nat) (mirror : Bool) (s : State) (hraise : ∀ c k ws u, Asked (raise c k ws u) u) :
    Asked (homeWrite raise lk d mask m0 m1 hint mirror s) s := by
  simp only [homeWrite]
  repeat' first
    | (simp [*]; done)
    | split

@[simp] theorem homeRead_asked (raise : Raise) (lk u : Nat) (s : State) (hraise : ∀ c k ws u, Asked (raise c k ws u) u) :
    Asked (homeRead raise lk u s).2 s := by
  simp only [homeRead]
  repeat' first
    | (simp [*]; done)
    | split
    | refine forEach_asked _ _ _ _ ?_ (fun a u => ?_)

@[simp] theorem cleanLine_asked (raise : Raise) (lk : Nat) (s : State) (hraise : ∀ c k ws u, Asked (raise c k ws u) u) :
    Asked (cleanLine raise lk s) s := by
  simp only [cleanLine]
  repeat' first
    | (simp [*]; done)
    | split

@[simp] theorem dropLine_asked (lk : Nat) (s : State) :
    Asked (dropLine lk s) s := by
  simp [dropLine]

@[simp] theorem giveLine_asked (lk : Nat) (s : State) :
    Asked (giveLine lk s) s := by
  simp only [giveLine]
  repeat' first
    | (simp [*]; done)
    | split

end Sys2Proof.Machine
end

