-- ==== Sys2Proof/Laws/AskedRecords.lean ====
section
/-!
SUPPORT. Which functions of Machine/Records.lean leave alone what a site's requests and its clamp go by
(`Asked` of Safety.lean): one lemma each.
-/
namespace Sys2Proof.Machine

@[simp] theorem storeHeld_asked (raise : Raise) (who : Who) (e : CacheEnt) (va : Nat) (bytes : List Byte) (s : State) (hraise : ∀ c k ws u, Asked (raise c k ws u) u) :
    Asked (storeHeld raise who e va bytes s) s := by
  simp only [storeHeld]
  repeat' first
    | (simp [*]; done)
    | split
    | refine forEach_asked _ _ _ _ ?_ (fun a u => ?_)

@[simp] theorem dropOp_asked (s : State) :
    Asked (dropOp s) s := by
  simp [dropOp]

@[simp] theorem keepRecord_asked (r : Rec) (s : State) :
    Asked (keepRecord r s) s := by
  simp [keepRecord]

@[simp] theorem quietRaise_asked (c : Nat) (k : Bool) (ws : List Nat) (u : State) :
    Asked (quietRaise c k ws u) u := by
  simp only [quietRaise]
  split <;> simp

@[simp] theorem writeOp_asked (r : Rec) (s : State) :
    Asked (writeOp r s) s := by
  simp [writeOp]

@[simp] theorem placeLost_asked (s : State) :
    Asked (placeLost s) s := by
  simp [placeLost]

@[simp] theorem drainKept_asked (n : Nat) (s : State) :
    Asked ((drainKept n s)) s := by
  induction n generalizing s with
  | zero => simp [drainKept]
  | succ n ih =>
    simp only [drainKept]
    repeat' first
      | (simp [*]; done)
      | split

@[simp] theorem opRecord_asked (code : Nat) (kept : Bool) (words : List Nat) (s : State) :
    Asked (opRecord code kept words s) s := by
  simp [opRecord]

@[simp] theorem serviceRequest_asked (ty id cause action : Nat) (s : State) :
    Asked (serviceRequest ty id cause action s) s := by
  simp [serviceRequest]

@[simp] theorem fltArea_asked (c : Nat) (s : State) :
    Asked (fltArea c s).2 s := by
  simp only [fltArea]
  repeat' first
    | (simp [*]; done)
    | split

@[simp] theorem writeFlt_asked (c : Nat) (e : CacheEnt) (r : Rec) (s : State) :
    Asked (writeFlt c e r s) s := by
  simp [writeFlt]

@[simp] theorem dropFlt_asked (c : Nat) (s : State) :
    Asked (dropFlt c s) s := by
  simp [dropFlt]

@[simp] theorem deliverEntry_asked (p i : Nat) (e : Pft) (s : State) :
    Asked (deliverEntry p i e s) s := by
  simp only [deliverEntry]
  repeat' first
    | (simp [*]; done)
    | split

@[simp] theorem deliverWaiting_asked (c : Nat) (s : State) :
    Asked (deliverWaiting c s) s := by
  simp only [deliverWaiting]
  refine forEach_asked _ _ _ _ (by simp) (fun p u => forEach_asked _ _ _ _ (by simp) (fun i v => ?_))
  repeat' first
    | (simp; done)
    | split

@[simp] theorem ctxRecord_asked (c code : Nat) (words : List Nat) (s : State) :
    Asked (ctxRecord c code words s) s := by
  simp only [ctxRecord]
  repeat' first
    | (simp [*]; done)
    | (split <;> try (first
        | (rename_i hq; have h1 := congrArg (fun p => p.2.sites.map Site.asks) hq; have h2 := congrArg (fun p => p.2.plz.ownerSweep) hq; have h3 := congrArg (fun p => p.2.plz.stackSweep) hq; have h4 := congrArg (fun p => p.2.plz.flushing) hq; simp at h1 h2 h3 h4)
        | (rename_i hq; have h1 := congrArg (fun p => p.2.2.sites.map Site.asks) hq; have h2 := congrArg (fun p => p.2.2.plz.ownerSweep) hq; have h3 := congrArg (fun p => p.2.2.plz.stackSweep) hq; have h4 := congrArg (fun p => p.2.2.plz.flushing) hq; simp at h1 h2 h3 h4)))
    | refine forEach_asked _ _ _ _ ?_ (fun a u => ?_)
    | (simp_all; done)
    | (rename_i hq; split at hq)
    | simp

end Sys2Proof.Machine
end

