-- ==== Sys2Proof/Laws/CalmOps.lean ====
section
/-!
SUPPORT. Which functions of Machine/Ops.lean leave alone the tiles, the tasks under way, the clusters and the power records
(`Calm` of Safety.lean): one lemma each.
-/
namespace Sys2Proof.Machine

theorem forEach_calm {α : Type} (l : List α) (f : α → State → State) (s s' : State) (hs : Calm s' s)
    (h : ∀ a u, Calm (f a u) u) : Calm (forEach l f s') s := by
  unfold forEach
  induction l generalizing s' with
  | nil => exact hs
  | cons a l ih =>
    simp only [List.foldl_cons]
    have k := h a s'
    exact ih _ ⟨k.1.trans hs.1, k.2.1.trans hs.2.1, k.2.2.1.trans hs.2.2.1, k.2.2.2.trans hs.2.2.2⟩
@[simp] theorem forEach_calm_tiles_ {α : Type} (l : List α) (f : α → State → State) (s : State)
    (h : ∀ a u, Calm (f a u) u) : (forEach l f s).tiles = s.tiles :=
  (forEach_calm l f s s ⟨rfl, rfl, rfl, rfl⟩ h).1
@[simp] theorem ite_tilesf (c : Prop) [Decidable c] (a b : State) :
    (if c then a else b).tiles = if c then a.tiles else b.tiles := by split <;> rfl
@[simp] theorem forEach_calm_lives {α : Type} (l : List α) (f : α → State → State) (s : State)
    (h : ∀ a u, Calm (f a u) u) : (forEach l f s).lives = s.lives :=
  (forEach_calm l f s s ⟨rfl, rfl, rfl, rfl⟩ h).2.1
@[simp] theorem ite_lives (c : Prop) [Decidable c] (a b : State) :
    (if c then a else b).lives = if c then a.lives else b.lives := by split <;> rfl
@[simp] theorem forEach_calm_clusters {α : Type} (l : List α) (f : α → State → State) (s : State)
    (h : ∀ a u, Calm (f a u) u) : (forEach l f s).clusters = s.clusters :=
  (forEach_calm l f s s ⟨rfl, rfl, rfl, rfl⟩ h).2.2.1
@[simp] theorem ite_clusters (c : Prop) [Decidable c] (a b : State) :
    (if c then a else b).clusters = if c then a.clusters else b.clusters := by split <;> rfl
@[simp] theorem forEach_calm_pwr {α : Type} (l : List α) (f : α → State → State) (s : State)
    (h : ∀ a u, Calm (f a u) u) : (forEach l f s).pwr = s.pwr :=
  (forEach_calm l f s s ⟨rfl, rfl, rfl, rfl⟩ h).2.2.2
@[simp] theorem ite_pwr (c : Prop) [Decidable c] (a b : State) :
    (if c then a else b).pwr = if c then a.pwr else b.pwr := by split <;> rfl
theorem Calm.trans {a b c : State} (h : Calm a b) (k : Calm b c) : Calm a c :=
  ⟨h.1.trans k.1, h.2.1.trans k.2.1, h.2.2.1.trans k.2.2.1, h.2.2.2.trans k.2.2.2⟩
theorem Calm.refl (a : State) : Calm a a := ⟨rfl, rfl, rfl, rfl⟩
theorem Calm.ite {c : Prop} [Decidable c] {a b s : State} (ha : Calm a s) (hb : Calm b s) : Calm (if c then a else b) s := by
  split
  · exact ha
  · exact hb

@[simp] theorem updStack_calm (k : Nat) (f : Stack → Stack) (s : State) :
    Calm (updStack k f s) s := by
  simp [updStack]

@[simp] theorem updSite_calm (n : Nat) (f : Site → Site) (s : State) :
    Calm (updSite n f s) s := by
  simp [updSite]

@[simp] theorem updCtx_calm (c : Nat) (f : Ctx → Ctx) (s : State) :
    Calm (updCtx c f s) s := by
  simp [updCtx]

@[simp] theorem updRing_calm (r : Nat) (f : Ring → Ring) (s : State) :
    Calm (updRing r f s) s := by
  simp [updRing]

@[simp] theorem updWalker_calm (p : Nat) (f : Walker → Walker) (s : State) :
    Calm (updWalker p f s) s := by
  simp [updWalker]

@[simp] theorem updPort_calm (n : Nat) (f : FabPort → FabPort) (s : State) :
    Calm (updPort n f s) s := by
  simp [updPort]

@[simp] theorem updFn_calm (f : Nat) (g : Fn → Fn) (s : State) :
    Calm (updFn f g s) s := by
  simp [updFn]

@[simp] theorem updPlz_calm (f : Plaza → Plaza) (s : State) :
    Calm (updPlz f s) s := by
  simp [updPlz]

@[simp] theorem updXlt_calm (f : Xlt → Xlt) (s : State) :
    Calm (updXlt f s) s := by
  simp [updXlt]

@[simp] theorem emit_calm (o : Out) (s : State) :
    Calm (emit o s) s := by
  simp [emit]

@[simp] theorem fresh_calm (s : State) :
    Calm (fresh s).2 s := by
  simp [fresh]

@[simp] theorem setReg_calm (k v : Nat) (s : State) :
    Calm (setReg k v s) s := by
  simp [setReg]

@[simp] theorem setRf_calm (k hi lo v : Nat) (s : State) :
    Calm (setRf k hi lo v s) s := by
  simp [setRf]

@[simp] theorem addRf_calm (k hi lo n : Nat) (s : State) :
    Calm (addRf k hi lo n s) s := by
  simp [addRf]

@[simp] theorem putFields_calm (k : Nat) (fs : List FieldInfo) (v : Nat) (s : State) :
    Calm (putFields k fs v s) s := by
  simp [putFields]

@[simp] theorem applyKey_calm (ap : Apply) (k : Nat) (s : State) :
    Calm (applyKey ap k s) s := by
  simp only [applyKey]
  split <;> simp

@[simp] theorem applyAll_calm (ap : Apply) (p : Nat → Bool) (s : State) :
    Calm (applyAll ap p s) s := by
  simp [applyAll]

@[simp] theorem setRc_calm (fn k : Nat) (r : RcReg) (s : State) :
    Calm (setRc fn k r s) s := by
  simp [setRc]

@[simp] theorem rcEvent_calm (k hi lo : Nat) (f : Nat → Nat) (s : State) :
    Calm (rcEvent k hi lo f s) s := by
  simp [rcEvent]

@[simp] theorem rcFlag_calm (k b : Nat) (s : State) :
    Calm (rcFlag k b s) s := by
  simp [rcFlag]

@[simp] theorem rcCount_calm (k hi lo n : Nat) (s : State) :
    Calm (rcCount k hi lo n s) s := by
  simp [rcCount]

@[simp] theorem sendVector_calm (f v : Nat) (s : State) :
    Calm (sendVector f v s) s := by
  simp [sendVector]

@[simp] theorem sendPending_calm (f : Nat) (s : State) :
    Calm (sendPending f s) s := by
  simp [sendPending]

@[simp] theorem syncGate_calm (f : Nat) (s : State) :
    Calm (syncGate f s) s := by
  simp [syncGate]

@[simp] theorem syncGates_calm (s : State) :
    Calm (syncGates s) s := by
  simp [syncGates]

@[simp] theorem syncStatus_calm (s : State) :
    Calm (syncStatus s) s := by
  simp [syncStatus]

@[simp] theorem syncUnit_calm (key : Nat) (s : State) :
    Calm (syncUnit key s) s := by
  simp [syncUnit]

@[simp] theorem rewriteUnits_calm (ch : List (Nat × (UnitRec → UnitRec))) (s : State) :
    Calm (rewriteUnits ch s) s := by
  simp [rewriteUnits]

@[simp] theorem unmark_calm (key : Nat) (s : State) :
    Calm (unmark key s) s := by
  simp only [unmark]
  repeat' first
    | (simp [*]; done)
    | split
    | refine forEach_calm _ _ _ _ ?_ (fun a u => ?_)

@[simp] theorem markUnit_calm (ty id st : Nat) (s : State) :
    Calm (markUnit ty id st s) s := by
  simp only [markUnit]
  repeat' first
    | (simp [*]; done)
    | split
    | refine forEach_calm _ _ _ _ ?_ (fun a u => ?_)

@[simp] theorem setStatus_calm (ty id st cause : Nat) (s : State) :
    Calm (setStatus ty id st cause s) s := by
  simp [setStatus]

@[simp] theorem recordMarked_calm (ty id cause : Nat) (s : State) :
    Calm (recordMarked ty id cause s) s := by
  simp only [recordMarked]
  repeat' first
    | (simp [*]; done)
    | split
    | refine forEach_calm _ _ _ _ ?_ (fun a u => ?_)

@[simp] theorem bumpEpoch_calm (s : State) :
    Calm (bumpEpoch s) s := by
  simp [bumpEpoch]

@[simp] theorem enterQuarWith_calm (us : List (Nat × Nat)) (cause : Nat) (f : UnitRec → UnitRec) (s : State) :
    Calm (enterQuarWith us cause f s) s := by
  simp only [enterQuarWith]
  repeat' first
    | (simp [*]; done)
    | split
    | refine forEach_calm _ _ _ _ ?_ (fun a u => ?_)

@[simp] theorem unisolate_calm (ty id : Nat) (s : State) :
    Calm (unisolate ty id s) s := by
  simp only [unisolate]
  repeat' first
    | (simp [*]; done)
    | split
    | refine forEach_calm _ _ _ _ ?_ (fun a u => ?_)

@[simp] theorem enterQuar_calm (us : List (Nat × Nat)) (cause : Nat) (s : State) :
    Calm (enterQuar us cause s) s := by
  simp [enterQuar]

@[simp] theorem toShadow_calm (off v : Nat) (s : State) :
    Calm (toShadow off v s) s := by
  simp [toShadow]

@[simp] theorem bumpCounter_calm (b i n : Nat) (s : State) :
    Calm (bumpCounter b i n s) s := by
  simp [bumpCounter]

@[simp] theorem countEvent_calm (b ev : Nat) (ctx cls : Option Nat) (pv : Option (Nat × Nat)) (n : Nat) (s : State) :
    Calm (countEvent b ev ctx cls pv n s) s := by
  simp [countEvent]

@[simp] theorem countUnits_calm (b p n : Nat) (s : State) :
    Calm (countUnits b p n s) s := by
  simp [countUnits]

end Sys2Proof.Machine
end

