-- ==== Sys2Proof/Laws/CalmMemory.lean ====
section
/-!
SUPPORT. Which functions of Machine/Memory.lean leave alone the tiles, the tasks under way, the clusters and the power records
(`Calm` of Safety.lean): one lemma each.
-/
namespace Sys2Proof.Machine

@[simp] theorem noteMark_calm (raise : Raise) (k a : Nat) (was is : Bool) (s : State) (hraise : ∀ c k ws u, Calm (raise c k ws u) u) :
    Calm (noteMark raise k a was is s) s := by
  simp only [noteMark]
  repeat' first
    | (simp [*]; done)
    | split

@[simp] theorem noteNotOn_calm (raise : Raise) (k source : Nat) (s : State) (hraise : ∀ c k ws u, Calm (raise c k ws u) u) :
    Calm (noteNotOn raise k source s) s := by
  simp only [noteNotOn]
  repeat' first
    | (simp [*]; done)
    | split

@[simp] theorem tracked_calm (raise : Raise) (k a : Nat) (f : State → State) (s : State)
    (hraise : ∀ c k ws u, Calm (raise c k ws u) u) (hf : ∀ u, Calm (f u) u) : Calm (tracked raise k a f s) s := by
  simp only [tracked]
  have := hf s
  simp_all

@[simp] theorem putDram_calm (k a : Nat) (d : UnitData) (m : Option Mark) (s : State) :
    Calm (putDram k a d m s) s := by
  simp [putDram]

@[simp] theorem clearMark_calm (k a : Nat) (s : State) :
    Calm (clearMark k a s) s := by
  simp [clearMark]

@[simp] theorem countBonds_calm (k a : Nat) (symbols : List Nat) (s : State) :
    Calm (countBonds k a symbols s) s := by
  simp [countBonds]

@[simp] theorem convertPoison_calm (raise : Raise) (k a source : Nat) (s : State) (hraise : ∀ c k ws u, Calm (raise c k ws u) u) :
    Calm (convertPoison raise k a source s).2 s := by
  simp only [convertPoison]
  repeat' first
    | (simp [*]; done)
    | split

@[simp] theorem readUnit_calm (raise : Raise) (k a : Nat) (ev : EccOutcome) (s : State) (hraise : ∀ c k ws u, Calm (raise c k ws u) u) :
    Calm (readUnit raise k a ev s).2 s := by
  simp only [readUnit]
  repeat' first
    | (simp [*]; done)
    | split

@[simp] theorem readOut_calm (raise : Raise) (k a src : Nat) (look : Nat → Nat → State → (UnitData × Option Mark) × State)
    (s : State) (hraise : ∀ c k ws u, Calm (raise c k ws u) u) (hlook : ∀ k a u, Calm (look k a u).2 u) :
    Calm (readOut raise k a src look s).2 s := by
  simp only [readOut]
  repeat' first
    | (simp [*]; done)
    | split

@[simp] theorem memLook_calm (raise : Raise) (k a : Nat) (s : State) (hraise : ∀ c k ws u, Calm (raise c k ws u) u) :
    Calm (memLook raise k a s).2 s := by
  simp only [memLook]
  repeat' first
    | (simp [*]; done)
    | split

@[simp] theorem healUnit_calm (raise : Raise) (n k a : Nat) (d : UnitData) (s : State) (hraise : ∀ c k ws u, Calm (raise c k ws u) u) :
    Calm (healUnit raise n k a d s) s := by
  simp only [healUnit]
  repeat' first
    | (simp [*]; done)
    | split

@[simp] theorem memRead_calm (raise : Raise) (k a : Nat) (ev ev2 : EccOutcome) (s : State) (hraise : ∀ c k ws u, Calm (raise c k ws u) u) :
    Calm (memRead raise k a ev ev2 s).2 s := by
  simp only [memRead]
  repeat' first
    | (simp [*]; done)
    | split

@[simp] theorem dropWrite_calm (raise : Raise) (k src : Nat) (s : State) (hraise : ∀ c k ws u, Calm (raise c k ws u) u) :
    Calm (dropWrite raise k src s) s := by
  simp only [dropWrite]
  repeat' first
    | (simp [*]; done)
    | split

@[simp] theorem memWrite_calm (raise : Raise) (k a : Nat) (d : UnitData) (m : Option Mark) (symbols : List Nat) (s : State) (hraise : ∀ c k ws u, Calm (raise c k ws u) u) :
    Calm (memWrite raise k a d m symbols s) s := by
  simp only [memWrite]
  repeat' first
    | (simp [*]; done)
    | split

@[simp] theorem holdMem_calm (k : Nat) (h : HeldMem) (s : State) :
    Calm (holdMem k h s) s := by
  simp [holdMem]

@[simp] theorem hubWrite_calm (raise : Raise) (k a : Nat) (d : UnitData) (m : Option Mark) (s : State) (hraise : ∀ c k ws u, Calm (raise c k ws u) u) :
    Calm (hubWrite raise k a d m s) s := by
  simp only [hubWrite]
  repeat' first
    | (simp [*]; done)
    | split

@[simp] theorem setPline_calm (lk : Nat) (l : PLine) (s : State) :
    Calm (setPline lk l s) s := by
  simp [setPline]

@[simp] theorem homeUnit_calm (raise : Raise) (lk u : Nat) (s : State) (hraise : ∀ c k ws u, Calm (raise c k ws u) u) :
    Calm (homeUnit raise lk u s).2 s := by
  simp only [homeUnit]
  repeat' first
    | (simp [*]; done)
    | split
    | refine forEach_calm _ _ _ _ ?_ (fun a u => ?_)

@[simp] theorem allocLine_calm (raise : Raise) (lk : Nat) (s : State) (hraise : ∀ c k ws u, Calm (raise c k ws u) u) :
    Calm (allocLine raise lk s) s := by
  simp only [allocLine]
  repeat' first
    | (simp [*]; done)
    | split
    | refine forEach_calm _ _ _ _ ?_ (fun a u => ?_)

@[simp] theorem storeUnitAt_calm (raise : Raise) (lk u : Nat) (d : UnitData) (m : Option Mark) (dirty : Bool) (s : State) (hraise : ∀ c k ws u, Calm (raise c k ws u) u) :
    Calm (storeUnitAt raise lk u d m dirty s) s := by
  refine tracked_calm _ _ _ _ _ hraise (fun u => ?_)
  repeat' first
    | (simp [*]; done)
    | split

@[simp] theorem mergeUnit_calm (raise : Raise) (stream : Bool) (lk u : Nat) (d : UnitData) (mask : Nat) (m : Option Mark) (s : State) (hraise : ∀ c k ws u, Calm (raise c k ws u) u) :
    Calm (mergeUnit raise stream lk u d mask m s) s := by
  simp only [mergeUnit]
  repeat' first
    | (simp [*]; done)
    | split

@[simp] theorem mergeLine_calm (raise : Raise) (lk : Nat) (d : LineData) (mask : Nat) (m0 m1 : Option Mark) (hint : Nat) (s : State) (hraise : ∀ c k ws u, Calm (raise c k ws u) u) :
    Calm (mergeLine raise lk d mask m0 m1 hint s) s := by
  simp only [mergeLine]
  repeat' first
    | (simp [*]; done)
    | split

@[simp] theorem homeWrite_calm (raise : Raise) (lk : Nat) (d : LineData) (mask : Nat) (m0 m1 : Option Mark) (hint : Nat) (mirror : Bool) (s : State) (hraise : ∀ c k ws u, Calm (raise c k ws u) u) :
    Calm (homeWrite raise lk d mask m0 m1 hint mirror s) s := by
  simp only [homeWrite]
  repeat' first
    | (simp [*]; done)
    | split

@[simp] theorem homeRead_calm (raise : Raise) (lk u : Nat) (s : State) (hraise : ∀ c k ws u, Calm (raise c k ws u) u) :
    Calm (homeRead raise lk u s).2 s := by
  simp only [homeRead]
  repeat' first
    | (simp [*]; done)
    | split
    | refine forEach_calm _ _ _ _ ?_ (fun a u => ?_)

@[simp] theorem cleanLine_calm (raise : Raise) (lk : Nat) (s : State) (hraise : ∀ c k ws u, Calm (raise c k ws u) u) :
    Calm (cleanLine raise lk s) s := by
  simp only [cleanLine]
  repeat' first
    | (simp [*]; done)
    | split

@[simp] theorem dropLine_calm (lk : Nat) (s : State) :
    Calm (dropLine lk s) s := by
  simp [dropLine]

@[simp] theorem giveLine_calm (lk : Nat) (s : State) :
    Calm (giveLine lk s) s := by
  simp only [giveLine]
  repeat' first
    | (simp [*]; done)
    | split

end Sys2Proof.Machine
end

