-- ==== Sys2Proof/Laws/CalmRecords.lean ====
section
/-!
SUPPORT. Which functions of Machine/Records.lean leave alone the tiles, the tasks under way, the clusters and the power records
(`Calm` of Safety.lean): one lemma each.
-/
namespace Sys2Proof.Machine

@[simp] theorem storeHeld_calm (raise : Raise) (who : Who) (e : CacheEnt) (va : Nat) (bytes : List Byte) (s : State) (hraise : ∀ c k ws u, Calm (raise c k ws u) u) :
    Calm (storeHeld raise who e va bytes s) s := by
  simp only [storeHeld]
  repeat' first
    | (simp [*]; done)
    | split
    | refine forEach_calm _ _ _ _ ?_ (fun a u => ?_)

@[simp] theorem dropOp_calm (s : State) :
    Calm (dropOp s) s := by
  simp [dropOp]

@[simp] theorem keepRecord_calm (r : Rec) (s : State) :
    Calm (keepRecord r s) s := by
  simp [keepRecord]

@[simp] theorem quietRaise_calm (c : Nat) (k : Bool) (ws : List Nat) (u : State) :
    Calm (quietRaise c k ws u) u := by
  simp only [quietRaise]
  split <;> simp

@[simp] theorem writeOp_calm (r : Rec) (s : State) :
    Calm (writeOp r s) s := by
  simp [writeOp]

@[simp] theorem placeLost_calm (s : State) :
    Calm (placeLost s) s := by
  simp [placeLost]

@[simp] theorem drainKept_calm (n : Nat) (s : State) :
    Calm ((drainKept n s)) s := by
  induction n generalizing s with
  | zero => simp [drainKept]
  | succ n ih =>
    simp only [drainKept]
    repeat' first
      | (simp [*]; done)
      | split

@[simp] theorem opRecord_calm (code : Nat) (kept : Bool) (words : List Nat) (s : State) :
    Calm (opRecord code kept words s) s := by
  simp [opRecord]

@[simp] theorem serviceRequest_calm (ty id cause action : Nat) (s : State) :
    Calm (serviceRequest ty id cause action s) s := by
  simp [serviceRequest]

@[simp] theorem fltArea_calm (c : Nat) (s : State) :
    Calm (fltArea c s).2 s := by
  simp only [fltArea]
  repeat' first
    | (simp [*]; done)
    | split

@[simp] theorem writeFlt_calm (c : Nat) (e : CacheEnt) (r : Rec) (s : State) :
    Calm (writeFlt c e r s) s := by
  simp [writeFlt]

@[simp] theorem dropFlt_calm (c : Nat) (s : State) :
    Calm (dropFlt c s) s := by
  simp [dropFlt]

@[simp] theorem deliverEntry_calm (p i : Nat) (e : Pft) (s : State) :
    Calm (deliverEntry p i e s) s := by
  simp only [deliverEntry]
  repeat' first
    | (simp [*]; done)
    | split

@[simp] theorem deliverWaiting_calm (c : Nat) (s : State) :
    Calm (deliverWaiting c s) s := by
  simp only [deliverWaiting]
  refine forEach_calm _ _ _ _ (by simp) (fun p u => forEach_calm _ _ _ _ (by simp) (fun i v => ?_))
  repeat' first
    | (simp; done)
    | split

@[simp] theorem ctxRecord_calm (c code : Nat) (words : List Nat) (s : State) :
    Calm (ctxRecord c code words s) s := by
  simp only [ctxRecord]
  repeat' first
    | (simp [*]; done)
    | (split <;> try (first
        | (rename_i hq; have h1 := congrArg (fun p => p.2.tiles) hq; have h2 := congrArg (fun p => p.2.lives) hq; have h3 := congrArg (fun p => p.2.clusters) hq; have h4 := congrArg (fun p => p.2.pwr) hq; simp at h1 h2 h3 h4)
        | (rename_i hq; have h1 := congrArg (fun p => p.2.2.tiles) hq; have h2 := congrArg (fun p => p.2.2.lives) hq; have h3 := congrArg (fun p => p.2.2.clusters) hq; have h4 := congrArg (fun p => p.2.2.pwr) hq; simp at h1 h2 h3 h4)))
    | refine forEach_calm _ _ _ _ ?_ (fun a u => ?_)
    | (simp_all; done)
    | (rename_i hq; split at hq)
    | simp

end Sys2Proof.Machine
end

