-- ==== Sys2Proof/Laws/CalmTranslate.lean ====
section
/-!
SUPPORT. Which functions of Machine/Translate.lean leave alone the tiles, the tasks under way, the clusters and the power records
(`Calm` of Safety.lean): one lemma each.
-/
namespace Sys2Proof.Machine

@[simp] theorem updCache_calm (who : Who) (f : List CacheEnt → List CacheEnt) (s : State) :
    Calm (updCache who f s) s := by
  simp only [updCache]
  split <;> simp

@[simp] theorem forget_calm (who : Who) (ctx va : Nat) (s : State) :
    Calm (forget who ctx va s) s := by
  simp [forget]

@[simp] theorem stallFault_calm (who : Who) (ctx va : Nat) (acc : AccKind) (cause : XFault) (level : Nat) (s : State) :
    Calm (stallFault who ctx va acc cause level s) s := by
  simp [stallFault]

@[simp] theorem countCtc_calm (who : Who) (ctx ev : Nat) (s : State) :
    Calm (countCtc who ctx ev s) s := by
  simp only [countCtc]
  split <;> simp

@[simp] theorem xlate_calm (who : Who) (ctx va : Nat) (acc : AccKind) (s : State) :
    Calm (xlate who ctx va acc s).2 s := by
  simp only [xlate]
  repeat' first
    | (simp [*]; done)
    | split

@[simp] theorem walkEntry_calm (p k : Nat) (w : Walk) (e : Option Nat) (s : State) :
    Calm (walkEntry p k w e s) s := by
  simp only [walkEntry]
  repeat' first
    | (simp [*]; done)
    | split

@[simp] theorem syncLive_calm (p : Nat) (s : State) :
    Calm (syncLive p s) s := by
  simp [syncLive]

@[simp] theorem freePft_calm (p i : Nat) (s : State) :
    Calm (freePft p i s) s := by
  simp [freePft]

@[simp] theorem clearBits_calm (p : Nat) (gone : List (Nat × Nat × Nat)) (s : State) :
    Calm (clearBits p gone s) s := by
  simp [clearBits]

@[simp] theorem trimWalks_calm (s : State) :
    Calm (trimWalks s) s := by
  simp [trimWalks]

@[simp] theorem endStalls_calm (q : Who → Nat → Bool) (s : State) :
    Calm (endStalls q s) s := by
  simp [endStalls]

@[simp] theorem leaveStalls_calm (q : Who → Nat → Bool) (s : State) :
    Calm (leaveStalls q s) s := by
  simp [leaveStalls]

@[simp] theorem dropArrivals_calm (q : Who → Bool) (s : State) :
    Calm (dropArrivals q s) s := by
  simp [dropArrivals]

@[simp] theorem leaveFaults_calm (q : Who → Nat → Bool) (s : State) :
    Calm (leaveFaults q s) s := by
  simp [leaveFaults]

@[simp] theorem dropFaults_calm (ctx : Nat) (s : State) :
    Calm (dropFaults ctx s) s := by
  simp [dropFaults]

end Sys2Proof.Machine
end

