-- ==== Sys2Proof/Laws/CalmCoherence.lean ====
section
/-!
SUPPORT. Which functions of Machine/Coherence.lean leave alone the tiles, the tasks under way, the clusters and the power records
(`Calm` of Safety.lean): one lemma each.
-/
namespace Sys2Proof.Machine

@[simp] theorem updTxn_calm (id : Nat) (f : Txn → Txn) (s : State) :
    Calm (updTxn id f s) s := by
  simp [updTxn]

@[simp] theorem endTxn_calm (t : Txn) (s : State) :
    Calm (endTxn t s) s := by
  simp [endTxn]

@[simp] theorem sendMsg_calm (m : CMsg) (s : State) :
    Calm (sendMsg m s) s := by
  simp [sendMsg]

@[simp] theorem syncOwners_calm (p : Nat) (s : State) :
    Calm (syncOwners p s) s := by
  simp [syncOwners]

@[simp] theorem ownLine_calm (lk n : Nat) (s : State) :
    Calm (ownLine lk n s) s := by
  simp [ownLine]

@[simp] theorem freeOwner_calm (lk : Nat) (s : State) :
    Calm (freeOwner lk s) s := by
  simp [freeOwner]

@[simp] theorem protocolError_calm (n msg : Nat) (s : State) :
    Calm (protocolError n msg s) s := by
  simp [protocolError]

@[simp] theorem storeReturn_calm (lk u : Nat) (d : UnitData) (m : Option Mark) (dirty : Bool) (s : State) :
    Calm (storeReturn lk u d m dirty s) s := by
  simp only [storeReturn]
  split <;> simp

@[simp] theorem poisonLine_calm (lk : Nat) (s : State) :
    Calm (poisonLine lk s) s := by
  simp [poisonLine]

@[simp] theorem readLine_calm (lk : Nat) (us : List Nat) (s : State) :
    Calm (readLine lk us s).2.2 s := by
  simp only [readLine]
  repeat' first
    | (simp [*]; done)
    | split

@[simp] theorem doAtomic_calm (lk off w op x cmp : Nat) (mirror : Bool) (s : State) :
    Calm (doAtomic lk off w op x cmp mirror s).2 s := by
  simp only [doAtomic]
  repeat' first
    | (simp [*]; done)
    | split
    | refine forEach_calm _ _ _ _ ?_ (fun a u => ?_)

@[simp] theorem mergeTxn_calm (t : Txn) (s : State) :
    Calm (mergeTxn t s) s := by
  simp only [mergeTxn]
  repeat' first
    | (simp [*]; done)
    | split

@[simp] theorem awaitMem_calm (t : Txn) (s : State) :
    Calm (awaitMem t s) s := by
  simp [awaitMem]

@[simp] theorem ackTxn_calm (t : Txn) (s : State) :
    Calm (ackTxn t s) s := by
  simp only [ackTxn]
  split <;> simp

@[simp] theorem evictLine_calm (l : Nat) (s : State) :
    Calm (evictLine l s) s := by
  simp [evictLine]

@[simp] theorem serveTxn_calm (t : Txn) (fwd : Bool) (s : State) :
    Calm (serveTxn t fwd s) s := by
  simp only [serveTxn]
  repeat' first
    | (simp [*]; done)
    | split

@[simp] theorem unowned_calm (t : Txn) (fwd : Bool) (s : State) :
    Calm (unowned t fwd s) s := by
  simp [unowned]

@[simp] theorem updAgentReq_calm (n txn : Nat) (f : AgentReq → AgentReq) (s : State) :
    Calm (updAgentReq n txn f s) s := by
  simp [updAgentReq]

@[simp] theorem countRequest_calm (t : Txn) (s : State) :
    Calm (countRequest t s) s := by
  simp only [countRequest]
  split <;> simp

@[simp] theorem snoopOwner_calm (t : Txn) (k : Nat) (s : State) :
    Calm (snoopOwner t k s) s := by
  simp only [snoopOwner]
  repeat' first
    | (simp [*]; done)
    | split

@[simp] theorem plazaUe_calm (lk u : Nat) (s : State) :
    Calm (plazaUe lk u s) s := by
  simp only [plazaUe]
  split <;> simp

@[simp] theorem absorbTxn_calm (t : Txn) (s : State) :
    Calm (absorbTxn t s) s := by
  simp only [absorbTxn]
  repeat' first
    | (simp [*]; done)
    | split
    | refine forEach_calm _ _ _ _ ?_ (fun a u => ?_)

@[simp] theorem failPlaza_calm (p cause : Nat) (s : State) :
    Calm (failPlaza p cause s) s := by
  simp [failPlaza]

@[simp] theorem putBefore_calm (t : Txn) (kind : TKind) (l : Nat) (s : State) :
    Calm (putBefore t kind l s) s := by
  simp only [putBefore]
  repeat' first
    | (simp [*]; done)
    | split
    | refine forEach_calm _ _ _ _ ?_ (fun a u => ?_)

@[simp] theorem lookUp_calm (t : Txn) (ev : HomeEv) (s : State) :
    Calm (lookUp t ev s) s := by
  simp only [lookUp]
  repeat' first
    | (simp [*]; done)
    | split
    | refine forEach_calm _ _ _ _ ?_ (fun a u => ?_)

@[simp] theorem unownedOrSnoop_calm (t : Txn) (s : State) :
    Calm (unownedOrSnoop t s) s := by
  simp only [unownedOrSnoop]
  repeat' first
    | (simp [*]; done)
    | split
    | refine forEach_calm _ _ _ _ ?_ (fun a u => ?_)

@[simp] theorem startBefore_calm (t : Txn) (kind : TKind) (l : Nat) (s : State) :
    Calm (startBefore t kind l s) s := by
  simp only [startBefore]
  repeat' first
    | (simp [*]; done)
    | split
    | refine forEach_calm _ _ _ _ ?_ (fun a u => ?_)

@[simp] theorem startRecall_calm (t : Txn) (l : Nat) (s : State) :
    Calm (startRecall t l s) s := by
  simp only [startRecall]
  repeat' first
    | (simp [*]; done)
    | split
    | refine forEach_calm _ _ _ _ ?_ (fun a u => ?_)

theorem makeRoom_calm (t : Txn) (l : Nat) (choice : Option Nat) (go : State → State) (s : State)
    (hgo : ∀ u, Calm (go u) u) : Calm (makeRoom t l choice go s) s := by
  simp only [makeRoom]
  repeat' first
    | (simp [*]; done)
    | split

@[simp] theorem carryOut_calm (t : Txn) (s : State) :
    Calm (carryOut t s) s := by
  simp only [carryOut]
  repeat' first
    | (simp [*]; done)
    | split
    | refine forEach_calm _ _ _ _ ?_ (fun a u => ?_)

@[simp] theorem beginTxn_calm (t : Txn) (choice : Option Nat) (s : State) :
    Calm (beginTxn t choice s) s := by
  simp only [beginTxn]
  split
  · refine makeRoom_calm _ _ _ _ _ (fun u => ?_)
    split <;> simp
  · simp

@[simp] theorem recallLine_calm (lk : Nat) (s : State) :
    Calm (recallLine lk s) s := by
  simp only [recallLine]
  repeat' first
    | (simp [*]; done)
    | split
    | refine forEach_calm _ _ _ _ ?_ (fun a u => ?_)

@[simp] theorem startTxn_calm (t : Txn) (ev : HomeEv) (s : State) :
    Calm (startTxn t ev s) s := by
  simp only [startTxn]
  repeat' first
    | (simp [*]; done)
    | split
    | refine forEach_calm _ _ _ _ ?_ (fun a u => ?_)

@[simp] theorem startIf_calm (q : TKind → Bool) (lk : Nat) (ev : HomeEv) (s : State) :
    Calm (startIf q lk ev s) s := by
  simp only [startIf]
  repeat' first
    | (simp [*]; done)
    | split
    | refine forEach_calm _ _ _ _ ?_ (fun a u => ?_)

@[simp] theorem compFwd_calm (t : Txn) (m : Option Mark) (s : State) :
    Calm (compFwd t m s) s := by
  simp [compFwd]

@[simp] theorem afterSnoop_calm (t : Txn) (gone : Bool) (s : State) :
    Calm (afterSnoop t gone s) s := by
  simp only [afterSnoop]
  repeat' first
    | (simp [*]; done)
    | split
    | refine forEach_calm _ _ _ _ ?_ (fun a u => ?_)

@[simp] theorem snpRsp_calm (n txn : Nat) (toReq toHome : Bool) (left : Nat) (s : State) :
    Calm (snpRsp n txn toReq toHome left s) s := by
  simp only [snpRsp]
  repeat' first
    | (simp [*]; done)
    | split
    | refine forEach_calm _ _ _ _ ?_ (fun a u => ?_)

@[simp] theorem wbData_calm (n txn u : Nat) (d : UnitData) (m : Option Mark) (dirty : Bool) (s : State) :
    Calm (wbData n txn u d m dirty s) s := by
  simp only [wbData]
  split <;> simp

@[simp] theorem kspUnit_calm (n txn cls u : Nat) (d : UnitData) (m : Option Mark) (g : Grant) (s : State) :
    Calm (kspUnit n txn cls u d m g s) s := by
  simp only [kspUnit]
  repeat' first
    | (simp [*]; done)
    | split
    | refine forEach_calm _ _ _ _ ?_ (fun a u => ?_)

@[simp] theorem kspData_calm (n txn u : Nat) (d : UnitData) (m : Option Mark) (g : Grant) (s : State) :
    Calm (kspData n txn u d m g s) s := by
  simp [kspData]

@[simp] theorem compAck_calm (n txn : Nat) (s : State) :
    Calm (compAck n txn s) s := by
  simp only [compAck]
  split <;> simp

@[simp] theorem retireAgent_calm (n txn : Nat) (s : State) :
    Calm (retireAgent n txn s) s := by
  simp [retireAgent]

@[simp] theorem cxlDeliver_calm (n txn : Nat) (s : State) :
    Calm (cxlDeliver n txn s) s := by
  simp only [cxlDeliver]
  split <;> simp

@[simp] theorem deliverData_calm (req : Req) (lk : Nat) (d : LineData) (m0 m1 : Option Mark) (g : Grant) (s : State) :
    Calm (deliverData req lk d m0 m1 g s) s := by
  simp only [deliverData]
  repeat' first
    | (simp [*]; done)
    | split

@[simp] theorem settleFwd_calm (f : Fwd) (s : State) :
    Calm (settleFwd f s) s := by
  simp only [settleFwd]
  repeat' first
    | (simp [*]; done)
    | split

theorem routeData_calm {num u : Nat} {d : UnitData} {m : Option Mark} {g : Grant} {s : State} {r : State} (h : routeData num u d m g s = some r) :
    Calm r s := by
  simp only [routeData] at h
  repeat' first
    | (cases h; done)
    | split at h
    | (cases h; simp [*]; done)
    | (cases h; simp)

@[simp] theorem deliverComp_calm (req : Req) (id : Nat) (m : Option Mark) (s : State) :
    Calm (deliverComp req id m s) s := by
  simp only [deliverComp]
  repeat' first
    | (simp [*]; done)
    | split

@[simp] theorem deliverWbAck_calm (req : Req) (ok : Bool) (s : State) :
    Calm (deliverWbAck req ok s) s := by
  simp only [deliverWbAck]
  split <;> simp

@[simp] theorem memDone_calm (id : Nat) (s : State) :
    Calm (memDone id s) s := by
  simp only [memDone]
  repeat' first
    | (simp [*]; done)
    | split

@[simp] theorem stashAck_calm (n txn : Nat) (s : State) :
    Calm (stashAck n txn s) s := by
  simp only [stashAck]
  split <;> simp

@[simp] theorem takeMsg_calm (m : CMsg) (s : State) :
    Calm (takeMsg m s) s := by
  simp [takeMsg]

@[simp] theorem snoopSite_calm (n code lk txn : Nat) (req : Req) (s : State) :
    Calm (snoopSite n code lk txn req s) s := by
  simp [snoopSite]

@[simp] theorem directedSnoop_calm (code n : Nat) (s : State) :
    Calm (directedSnoop code n s) s := by
  simp only [directedSnoop]
  repeat' first
    | (simp [*]; done)
    | split

theorem takeInbox_calm {n cls : Nat} {q : KMsg → Bool} {s : State} {r : (KMsg × UnitData) × State} (h : takeInbox n cls q s = some r) :
    Calm r.2 s := by
  simp only [takeInbox] at h
  repeat' first
    | (cases h; done)
    | split at h
    | (cases h; simp [*]; done)
    | (cases h; simp)

theorem execTrackerStart_calm (k : Fin 12) (l : Fin (2 ^ 29)) (ev : HomeEv) (s : State) {sN : State} (h : execTrackerStart k l ev s = .next sN) :
    Calm sN s := by
  simp only [execTrackerStart] at h
  injection h with h
  subst h
  simp

theorem execRdShared_calm (k : Fin 12) (l : Fin (2 ^ 29)) (ev : HomeEv) (s : State) {sN : State} (h : execRdShared k l ev s = .next sN) :
    Calm sN s := by
  simp only [execRdShared] at h
  injection h with h
  subst h
  simp

theorem execRdUnique_calm (k : Fin 12) (l : Fin (2 ^ 29)) (ev : HomeEv) (s : State) {sN : State} (h : execRdUnique k l ev s = .next sN) :
    Calm sN s := by
  simp only [execRdUnique] at h
  injection h with h
  subst h
  simp

theorem execRdOnce_calm (k : Fin 12) (l : Fin (2 ^ 29)) (ev : HomeEv) (s : State) {sN : State} (h : execRdOnce k l ev s = .next sN) :
    Calm sN s := by
  simp only [execRdOnce] at h
  injection h with h
  subst h
  simp

theorem execWrFull_calm (k : Fin 12) (l : Fin (2 ^ 29)) (ev : HomeEv) (s : State) {sN : State} (h : execWrFull k l ev s = .next sN) :
    Calm sN s := by
  simp only [execWrFull] at h
  injection h with h
  subst h
  simp

theorem execWrPart_calm (k : Fin 12) (l : Fin (2 ^ 29)) (ev : HomeEv) (s : State) {sN : State} (h : execWrPart k l ev s = .next sN) :
    Calm sN s := by
  simp only [execWrPart] at h
  injection h with h
  subst h
  simp

theorem execAtomic_calm (k : Fin 12) (l : Fin (2 ^ 29)) (ev : HomeEv) (s : State) {sN : State} (h : execAtomic k l ev s = .next sN) :
    Calm sN s := by
  simp only [execAtomic] at h
  injection h with h
  subst h
  simp

theorem execWriteback_calm (k : Fin 12) (l : Fin (2 ^ 29)) (s : State) {sN : State} (h : execWriteback k l s = .next sN) :
    Calm sN s := by
  simp only [execWriteback] at h
  injection h with h
  subst h
  simp

theorem execEvictClean_calm (k : Fin 12) (l : Fin (2 ^ 29)) (s : State) {sN : State} (h : execEvictClean k l s = .next sN) :
    Calm sN s := by
  simp only [execEvictClean] at h
  injection h with h
  subst h
  simp

theorem execFlushLine_calm (k : Fin 12) (l : Fin (2 ^ 29)) (s : State) {sN : State} (h : execFlushLine k l s = .next sN) :
    Calm sN s := by
  simp only [execFlushLine] at h
  injection h with h
  subst h
  simp

theorem execSnpFwdShared_calm (n : Fin 6) (s : State) {sN : State} (h : execSnpFwdShared n s = .next sN) :
    Calm sN s := by
  simp only [execSnpFwdShared] at h
  injection h with h
  subst h
  simp

theorem execSnpFwdUnique_calm (n : Fin 6) (s : State) {sN : State} (h : execSnpFwdUnique n s = .next sN) :
    Calm sN s := by
  simp only [execSnpFwdUnique] at h
  injection h with h
  subst h
  simp

theorem execSnpFwdOnce_calm (n : Fin 6) (s : State) {sN : State} (h : execSnpFwdOnce n s = .next sN) :
    Calm sN s := by
  simp only [execSnpFwdOnce] at h
  injection h with h
  subst h
  simp

theorem execSnpRecall_calm (n : Fin 6) (s : State) {sN : State} (h : execSnpRecall n s = .next sN) :
    Calm sN s := by
  simp only [execSnpRecall] at h
  injection h with h
  subst h
  simp

theorem execSnpDrop_calm (n : Fin 6) (s : State) {sN : State} (h : execSnpDrop n s = .next sN) :
    Calm sN s := by
  simp only [execSnpDrop] at h
  injection h with h
  subst h
  simp

@[simp] theorem moveOnRing_calm (m x : CMsg) (stop slot : Nat) (s : State) :
    Calm (moveOnRing m x stop slot s) s := by
  simp only [moveOnRing]
  repeat' first
    | (simp [*]; done)
    | split
    | refine forEach_calm _ _ _ _ ?_ (fun a u => ?_)

theorem execSnpInvPass_calm (n : Fin 6) (txn : Nat) (s : State) {sN : State} (h : execSnpInvPass n txn s = .next sN) :
    Calm sN s := by
  simp only [execSnpInvPass] at h
  injection h with h
  subst h
  split <;> simp

theorem execSnpInvReturn_calm (txn : Nat) (s : State) {sN : State} (h : execSnpInvReturn txn s = .next sN) :
    Calm sN s := by
  simp only [execSnpInvReturn] at h
  injection h with h
  subst h
  repeat' first
    | (simp [*]; done)
    | split

theorem execRingSlotMark_calm (stop : Fin 42) (s : State) {sN : State} (h : execRingSlotMark stop s = .next sN) :
    Calm sN s := by
  simp only [execRingSlotMark] at h
  injection h with h
  subst h
  repeat' first
    | (simp [*]; done)
    | split
    | refine forEach_calm _ _ _ _ ?_ (fun a u => ?_)

theorem execSnpRsp_calm (n : Fin 6) (s : State) {sN : State} (h : execSnpRsp n s = .next sN) :
    Calm sN s := by
  simp only [execSnpRsp] at h
  injection h with h
  subst h
  repeat' first
    | (simp [*]; done)
    | (split <;> try (first
        | (rename_i hq; have h1 := congrArg (fun p => p.2.tiles) hq; have h2 := congrArg (fun p => p.2.lives) hq; have h3 := congrArg (fun p => p.2.clusters) hq; have h4 := congrArg (fun p => p.2.pwr) hq; simp at h1 h2 h3 h4)
        | (rename_i hq; have h1 := congrArg (fun p => p.2.2.tiles) hq; have h2 := congrArg (fun p => p.2.2.lives) hq; have h3 := congrArg (fun p => p.2.2.clusters) hq; have h4 := congrArg (fun p => p.2.2.pwr) hq; simp at h1 h2 h3 h4)))
    | refine forEach_calm _ _ _ _ ?_ (fun a u => ?_)
    | (simp_all; done)
    | (have hk := takeInbox_calm (by assumption); simp_all; done)
    | (rename_i hq; split at hq)
    | simp

theorem execCompAck_calm (n : Fin 6) (s : State) {sN : State} (h : execCompAck n s = .next sN) :
    Calm sN s := by
  simp only [execCompAck] at h
  injection h with h
  subst h
  repeat' first
    | (simp [*]; done)
    | (split <;> try (first
        | (rename_i hq; have h1 := congrArg (fun p => p.2.tiles) hq; have h2 := congrArg (fun p => p.2.lives) hq; have h3 := congrArg (fun p => p.2.clusters) hq; have h4 := congrArg (fun p => p.2.pwr) hq; simp at h1 h2 h3 h4)
        | (rename_i hq; have h1 := congrArg (fun p => p.2.2.tiles) hq; have h2 := congrArg (fun p => p.2.2.lives) hq; have h3 := congrArg (fun p => p.2.2.clusters) hq; have h4 := congrArg (fun p => p.2.2.pwr) hq; simp at h1 h2 h3 h4)))
    | refine forEach_calm _ _ _ _ ?_ (fun a u => ?_)
    | (simp_all; done)
    | (have hk := takeInbox_calm (by assumption); simp_all; done)
    | (rename_i hq; split at hq)
    | simp

theorem execWbData_calm (n : Fin 6) (s : State) {sN : State} (h : execWbData n s = .next sN) :
    Calm sN s := by
  simp only [execWbData] at h
  injection h with h
  subst h
  repeat' first
    | (simp [*]; done)
    | (split <;> try (first
        | (rename_i hq; have h1 := congrArg (fun p => p.2.tiles) hq; have h2 := congrArg (fun p => p.2.lives) hq; have h3 := congrArg (fun p => p.2.clusters) hq; have h4 := congrArg (fun p => p.2.pwr) hq; simp at h1 h2 h3 h4)
        | (rename_i hq; have h1 := congrArg (fun p => p.2.2.tiles) hq; have h2 := congrArg (fun p => p.2.2.lives) hq; have h3 := congrArg (fun p => p.2.2.clusters) hq; have h4 := congrArg (fun p => p.2.2.pwr) hq; simp at h1 h2 h3 h4)))
    | refine forEach_calm _ _ _ _ ?_ (fun a u => ?_)
    | (simp_all; done)
    | (have hk := takeInbox_calm (by assumption); simp_all; done)
    | (rename_i hq; split at hq)
    | simp

theorem execStashAck_calm (n : Fin 6) (s : State) {sN : State} (h : execStashAck n s = .next sN) :
    Calm sN s := by
  simp only [execStashAck] at h
  injection h with h
  subst h
  repeat' first
    | (simp [*]; done)
    | (split <;> try (first
        | (rename_i hq; have h1 := congrArg (fun p => p.2.tiles) hq; have h2 := congrArg (fun p => p.2.lives) hq; have h3 := congrArg (fun p => p.2.clusters) hq; have h4 := congrArg (fun p => p.2.pwr) hq; simp at h1 h2 h3 h4)
        | (rename_i hq; have h1 := congrArg (fun p => p.2.2.tiles) hq; have h2 := congrArg (fun p => p.2.2.lives) hq; have h3 := congrArg (fun p => p.2.2.clusters) hq; have h4 := congrArg (fun p => p.2.2.pwr) hq; simp at h1 h2 h3 h4)))
    | refine forEach_calm _ _ _ _ ?_ (fun a u => ?_)
    | (simp_all; done)
    | (have hk := takeInbox_calm (by assumption); simp_all; done)
    | (rename_i hq; split at hq)
    | simp

theorem execMemDone_calm (i : Nat) (s : State) {sN : State} (h : execMemDone i s = .next sN) :
    Calm sN s := by
  simp only [execMemDone] at h
  injection h with h
  subst h
  split <;> simp

@[simp] theorem pushStash_calm (n : Nat) (s : State) :
    Calm (pushStash n s) s := by
  simp only [pushStash]
  split <;> simp

@[simp] theorem pushStashes_calm (s : State) :
    Calm (pushStashes s) s := by
  simp only [pushStashes]
  repeat' first
    | (simp [*]; done)
    | split
    | refine forEach_calm _ _ _ _ ?_ (fun a u => ?_)

theorem dataEvent_calm (src : Option (Fin 6)) (i : Nat) (s : State) {t : State} (h : dataEvent src i s = .next t) :
    Calm t s := by
  simp only [dataEvent] at h
  injection h with h
  subst h
  repeat' first
    | (simp [*]; done)
    | (have hk := routeData_calm (by assumption); have hj := takeInbox_calm (by assumption); simp_all; done)
    | (have hj := takeInbox_calm (by assumption); simp_all; done)
    | split

theorem compEvent_calm (i : Nat) (s : State) {sN : State} (h : compEvent i s = .next sN) :
    Calm sN s := by
  simp only [compEvent] at h
  injection h with h
  subst h
  split <;> simp

theorem execWbAck_calm (i : Nat) (s : State) {sN : State} (h : execWbAck i s = .next sN) :
    Calm sN s := by
  simp only [execWbAck] at h
  injection h with h
  subst h
  split <;> simp

@[simp] theorem flushAll_calm (s : State) :
    Calm (flushAll s) s := by
  simp [flushAll]

theorem execFlushAll_calm (s : State) {sN : State} (h : execFlushAll s = .next sN) :
    Calm sN s := by
  simp only [execFlushAll] at h
  injection h with h
  subst h
  simp

theorem execFlushAllDone_calm (s : State) {sN : State} (h : execFlushAllDone s = .next sN) :
    Calm sN s := by
  simp only [execFlushAllDone] at h
  injection h with h
  subst h
  simp

end Sys2Proof.Machine
end

