-- ==== Sys2Proof/Laws/CalmShared.lean ====
section
/-!
SUPPORT. Which functions of Machine/Shared.lean leave alone the tiles, the tasks under way, the clusters and the power records
(`Calm` of Safety.lean): one lemma each.
-/
namespace Sys2Proof.Machine

@[simp] theorem setCap_calm (r c : Nat) (s : State) :
    Calm (setCap r c s) s := by
  simp [setCap]

@[simp] theorem syncStackCap_calm (k : Nat) (s : State) :
    Calm (syncStackCap k s) s := by
  simp [syncStackCap]

@[simp] theorem syncClocks_calm (k : Nat) (s : State) :
    Calm (syncClocks k s) s := by
  simp [syncClocks]

@[simp] theorem sideband_calm (n mtype : Nat) (fields : List (Nat × Nat)) (rest : List Nat) (s : State) :
    Calm (sideband n mtype fields rest s) s := by
  simp only [sideband]
  repeat' first
    | (simp [*]; done)
    | split
    | refine forEach_calm _ _ _ _ ?_ (fun a u => ?_)

@[simp] theorem sendBudget_calm (n watts : Nat) (clamp : Bool) (s : State) :
    Calm (sendBudget n watts clamp s) s := by
  simp only [sendBudget]
  repeat' first
    | (simp [*]; done)
    | split
    | refine forEach_calm _ _ _ _ ?_ (fun a u => ?_)

@[simp] theorem thermalTrip_calm (sensor stack die temp : Nat) (s : State) :
    Calm (thermalTrip sensor stack die temp s) s := by
  simp [thermalTrip]

@[simp] theorem failOver_calm (n k : Nat) (s : State) :
    Calm (failOver n k s) s := by
  simp [failOver]

@[simp] theorem poisonRegion_calm (n u : Nat) (s : State) :
    Calm (poisonRegion n u s) s := by
  simp [poisonRegion]

@[simp] theorem regionsLose_calm (k : Nat) (s : State) :
    Calm (regionsLose k s) s := by
  simp only [regionsLose]
  repeat' first
    | (simp [*]; done)
    | split
    | refine forEach_calm _ _ _ _ ?_ (fun a u => ?_)

@[simp] theorem recallStack_calm (k : Nat) (s : State) :
    Calm (recallStack k s) s := by
  simp only [recallStack]
  repeat' first
    | (simp [*]; done)
    | split
    | refine forEach_calm _ _ _ _ ?_ (fun a u => ?_)

@[simp] theorem isolateStack_calm (k cause : Nat) (s : State) :
    Calm (isolateStack k cause s) s := by
  simp [isolateStack]

end Sys2Proof.Machine
end

