-- ==== Sys2Proof/Laws/CalmCairn.lean ====
section
/-!
SUPPORT. Which functions of Machine/Cairn.lean leave alone the tiles, the tasks under way, the clusters and the power records
(`Calm` of Safety.lean): one lemma each.
-/
namespace Sys2Proof.Machine

@[simp] theorem readUnits_calm (who : Who) (ctx cls fuel unit : Nat) (got : List (Tgt × UnitData × Option Mark)) (s : State) :
    Calm (readUnits who ctx cls fuel unit got s).2 s := by
  induction fuel generalizing unit got s with
  | zero => simp [readUnits]
  | succ n ih =>
    simp only [readUnits]
    repeat' first
      | (simp [*]; done)
      | (split <;> try (first
        | (rename_i hq; have h1 := congrArg (fun p => p.2.tiles) hq; have h2 := congrArg (fun p => p.2.lives) hq; have h3 := congrArg (fun p => p.2.clusters) hq; have h4 := congrArg (fun p => p.2.pwr) hq; simp at h1 h2 h3 h4)
        | (rename_i hq; have h1 := congrArg (fun p => p.2.2.tiles) hq; have h2 := congrArg (fun p => p.2.2.lives) hq; have h3 := congrArg (fun p => p.2.2.clusters) hq; have h4 := congrArg (fun p => p.2.2.pwr) hq; simp at h1 h2 h3 h4)))
      | refine forEach_calm _ _ _ _ ?_ (fun a u => ?_)

@[simp] theorem readRange_calm (who : Who) (ctx cls va len : Nat) (s : State) :
    Calm (readRange who ctx cls va len s).2 s := by
  simp only [readRange]
  repeat' first
    | (simp [*]; done)
    | (split <;> try (first
        | (rename_i hq; have h1 := congrArg (fun p => p.2.tiles) hq; have h2 := congrArg (fun p => p.2.lives) hq; have h3 := congrArg (fun p => p.2.clusters) hq; have h4 := congrArg (fun p => p.2.pwr) hq; simp at h1 h2 h3 h4)
        | (rename_i hq; have h1 := congrArg (fun p => p.2.2.tiles) hq; have h2 := congrArg (fun p => p.2.2.lives) hq; have h3 := congrArg (fun p => p.2.2.clusters) hq; have h4 := congrArg (fun p => p.2.2.pwr) hq; simp at h1 h2 h3 h4)))
    | refine forEach_calm _ _ _ _ ?_ (fun a u => ?_)
    | (simp_all; done)
    | (rename_i hq; split at hq)
    | simp

@[simp] theorem writeTargets_calm (who : Who) (ctx : Nat) (l : List (Nat × Nat)) (s : State) :
    Calm (writeTargets who ctx l s).2.2 s := by
  induction l generalizing s with
  | nil => exact Calm.refl _
  | cons a l ih =>
    obtain ⟨va, n⟩ := a
    have hx := xlate_calm who ctx va .write s
    unfold writeTargets
    generalize xlate who ctx va .write s = r at hx
    obtain ⟨o, s1⟩ := r
    cases o with
    | ok tgt ent =>
      dsimp only
      split
      · exact hx
      · have hw := ih s1
        generalize writeTargets who ctx l s1 = q at hw
        obtain ⟨q, b, s2⟩ := q
        cases q <;> exact hw.trans hx
    | _ => exact hx

@[simp] theorem updGroup_calm (id : Nat) (f : Group → Group) (s : State) :
    Calm (updGroup id f s) s := by
  simp [updGroup]

@[simp] theorem syncGroups_calm (p : Nat) (s : State) :
    Calm (syncGroups p s) s := by
  simp [syncGroups]

@[simp] theorem redSend_calm (p : Nat) (m : KflMsg) (s : State) :
    Calm (redSend p m s) s := by
  simp [redSend]

@[simp] theorem redData_calm (p : Nat) (l : Live) (down fp32 : Bool) (c : Nat) (bs : List Byte) (m : Option Mark) (s : State) :
    Calm (redData p l down fp32 c bs m s) s := by
  simp [redData]

@[simp] theorem redReady_calm (p : Nat) (l : Live) (g : Group) (s : State) :
    Calm (redReady p l g s) s := by
  simp [redReady]

theorem storePieces_calm (who : Who) (m : Option Mark) (cls : Nat) (ts : List (Tgt × Nat × Nat))
    (st : (List Byte × Nat × Option Nat) × State) :
    Calm (ts.foldl (fun (st : (List Byte × Nat × Option Nat) × State) t =>
      let a := agentStore opRecord who (fun _ => m) 0 cls (entMirror t.2.1) (t.2.2 + 1) 0 t.1
        (st.1.1.take t.2.2) st.2
      ((st.1.1.drop t.2.2, st.1.2.1 + a.1.1, st.1.2.2.or a.1.2), a.2)) st).2 st.2 := by
  induction ts generalizing st with
  | nil => exact Calm.refl _
  | cons a ts ih =>
    rw [List.foldl_cons]
    refine (ih _).trans ?_
    exact agentStore_calm _ _ _ _ _ _ (by intros; simp) _ _ _ _ _

theorem execReduceArm_calm (id : Nat) (s : State) {sN : State} (h : execReduceArm id s = .next sN) :
    Calm sN s := by
  simp only [execReduceArm] at h
  injection h with h
  subst h
  split <;> simp

theorem execRedReadyRepeat_calm (id : Nat) (p : Fin 16) (s : State) {sN : State} (h : execRedReadyRepeat id p s = .next sN) :
    Calm sN s := by
  simp only [execRedReadyRepeat] at h
  injection h with h
  subst h
  split <;> simp

@[simp] theorem discardKfl_calm (n : Nat) (s : State) :
    Calm (discardKfl n s) s := by
  simp [discardKfl]

end Sys2Proof.Machine
end

