-- ==== Sys2Proof/Laws/CalmSites.lean ====
section
/-!
SUPPORT. Which functions of Machine/Sites.lean leave alone the tiles, the tasks under way, the clusters and the power records
(`Calm` of Safety.lean): one lemma each.
-/
namespace Sys2Proof.Machine

@[simp] theorem syncSiteCap_calm (n : Nat) (s : State) :
    Calm (syncSiteCap n s) s := by
  simp [syncSiteCap]

@[simp] theorem sendSiteBudget_calm (n : Nat) (s : State) :
    Calm (sendSiteBudget n s) s := by
  simp [sendSiteBudget]

@[simp] theorem endRejoin_calm (n step cause : Nat) (s : State) :
    Calm (endRejoin n step cause s) s := by
  simp only [endRejoin]
  repeat' first
    | (simp [*]; done)
    | split
    | refine forEach_calm _ _ _ _ ?_ (fun a u => ?_)

@[simp] theorem rejoinFail_calm (n step cause : Nat) (s : State) :
    Calm (rejoinFail n step cause s) s := by
  simp [rejoinFail]

@[simp] theorem rejoinRefuse_calm (n step cause : Nat) (s : State) :
    Calm (rejoinRefuse n step cause s) s := by
  simp only [rejoinRefuse]
  repeat' first
    | (simp [*]; done)
    | split
    | refine forEach_calm _ _ _ _ ?_ (fun a u => ?_)

@[simp] theorem loseTxn_calm (n : Nat) (t : Txn) (s : State) :
    Calm (loseTxn n t s) s := by
  simp only [loseTxn]
  repeat' first
    | (simp [*]; done)
    | split

@[simp] theorem syncModules_calm (n : Nat) (s : State) :
    Calm (syncModules n s) s := by
  simp [syncModules]

@[simp] theorem siteTraining_calm (n : Nat) (s : State) :
    Calm (siteTraining n s) s := by
  simp [siteTraining]

@[simp] theorem closeOpen_calm (n txn : Nat) (s : State) :
    Calm (closeOpen n txn s) s := by
  simp [closeOpen]

@[simp] theorem siteData_calm (n txn cls u : Nat) (d : UnitData) (m : Option Mark) (s : State) :
    Calm (siteData n txn cls u d m s) s := by
  simp only [siteData]
  repeat' first
    | (simp [*]; done)
    | split
    | refine forEach_calm _ _ _ _ ?_ (fun a u => ?_)

@[simp] theorem siteWrAck_calm (n txn cls status : Nat) (s : State) :
    Calm (siteWrAck n txn cls status s) s := by
  simp only [siteWrAck]
  repeat' first
    | (simp [*]; done)
    | split
    | refine forEach_calm _ _ _ _ ?_ (fun a u => ?_)

@[simp] theorem failOpen_calm (n : Nat) (o : OpenReq) (s : State) :
    Calm (failOpen n o s) s := by
  simp [failOpen]

@[simp] theorem postOpen_calm (n : Nat) (o : OpenReq) (k a : Nat) (mirror : Bool) (s : State) :
    Calm (postOpen n o k a mirror s) s := by
  simp [postOpen]

@[simp] theorem updOpen_calm (n txn : Nat) (f : OpenReq → OpenReq) (s : State) :
    Calm (updOpen n txn f s) s := by
  simp [updOpen]

@[simp] theorem readOpen_calm (n : Nat) (o : OpenReq) (t : Tgt) (s : State) :
    Calm (readOpen n o t s) s := by
  simp only [readOpen]
  repeat' first
    | (simp [*]; done)
    | split
    | refine forEach_calm _ _ _ _ ?_ (fun a u => ?_)

@[simp] theorem dropDead_calm (t : Tgt) (s : State) :
    Calm (dropDead t s) s := by
  simp only [dropDead]
  repeat' first
    | (simp [*]; done)
    | split
    | refine forEach_calm _ _ _ _ ?_ (fun a u => ?_)

@[simp] theorem writeOpen_calm (n : Nat) (o : OpenReq) (t : Tgt) (s : State) :
    Calm (writeOpen n o t s) s := by
  unfold writeOpen
  extract_lets txn base s0 s1
  have h1 : Calm s1 s := by
    refine Calm.ite (Calm.refl _) ((updOpen_calm ..).trans (?_ : Calm s0 s))
    refine (forEach_calm _ _ _ _ (Calm.refl _) (fun u w => ?_))
    dsimp only
    cases w.openOf? n txn with
    | none => exact Calm.refl _
    | some o =>
      refine Calm.ite (Calm.refl _) (Calm.ite ((updOpen_calm ..).trans (dropDead_calm ..)) ?_)
      generalize hr : storeUnit _ _ _ _ _ _ _ _ = r
      have hk : Calm r.2 w := by rw [← hr]; exact storeUnit_calm _ _ _ _ _ _ _ _ (by intros; exact opRecord_calm ..)
      cases r.1 with
      | wait => exact hk
      | failed d => exact (updOpen_calm ..).trans hk
      | posted => exact (updOpen_calm ..).trans hk
      | done => exact (updOpen_calm ..).trans hk
  clear_value s1
  cases s1.openOf? n txn with
  | none => exact h1
  | some o =>
    exact Calm.ite (Calm.ite ((siteWrAck_calm ..).trans ((closeOpen_calm ..).trans h1)) ((failOpen_calm ..).trans h1)) h1

@[simp] theorem windowDenied_calm (n : Nat) (h : KMsg) (s : State) :
    Calm (windowDenied n h s) s := by
  simp only [windowDenied]
  repeat' first
    | (simp [*]; done)
    | split
    | refine forEach_calm _ _ _ _ ?_ (fun a u => ?_)

@[simp] theorem serveOpen_calm (n txn : Nat) (s : State) :
    Calm (serveOpen n txn s) s := by
  simp only [serveOpen]
  repeat' first
    | (simp [*]; done)
    | (split <;> try (first
        | (rename_i hq; have h1 := congrArg (fun p => p.2.tiles) hq; have h2 := congrArg (fun p => p.2.lives) hq; have h3 := congrArg (fun p => p.2.clusters) hq; have h4 := congrArg (fun p => p.2.pwr) hq; simp at h1 h2 h3 h4)
        | (rename_i hq; have h1 := congrArg (fun p => p.2.2.tiles) hq; have h2 := congrArg (fun p => p.2.2.lives) hq; have h3 := congrArg (fun p => p.2.2.clusters) hq; have h4 := congrArg (fun p => p.2.2.pwr) hq; simp at h1 h2 h3 h4)))
    | refine forEach_calm _ _ _ _ ?_ (fun a u => ?_)
    | (simp_all; done)
    | (rename_i hq; split at hq)
    | simp

@[simp] theorem serveSites_calm (s : State) :
    Calm (serveSites s) s := by
  simp [serveSites]

@[simp] theorem admitReq_calm (n : Nat) (h0 : KMsg) (data : LineData) (mask : BitVec 128) (m0 m1 : Option Mark) (need : Nat) (s : State) :
    Calm (admitReq n h0 data mask m0 m1 need s) s := by
  simp [admitReq]

end Sys2Proof.Machine
end

