-- ==== Sys2Proof/Laws/CalmSiteCmds.lean ====
section
/-!
SUPPORT. Which functions of Machine/SiteCmds.lean leave alone the tiles, the tasks under way, the clusters and the power records
(`Calm` of Safety.lean): one lemma each.
-/
namespace Sys2Proof.Machine

@[simp] theorem dropAcked_calm (n ack : Nat) (s : State) :
    Calm (dropAcked n ack s) s := by
  simp [dropAcked]

@[simp] theorem takeCredits_calm (n : Nat) (credits : List Nat) (s : State) :
    Calm (takeCredits n credits s) s := by
  simp [takeCredits]

@[simp] theorem takeAck_calm (n ack : Nat) (s : State) :
    Calm (takeAck n ack s) s := by
  simp only [takeAck]
  repeat' first
    | (simp [*]; done)
    | split
    | refine forEach_calm _ _ _ _ ?_ (fun a u => ?_)

@[simp] theorem oweCredit_calm (n cls : Nat) (s : State) :
    Calm (oweCredit n cls s) s := by
  simp only [oweCredit]
  repeat' first
    | (simp [*]; done)
    | split
    | refine forEach_calm _ _ _ _ ?_ (fun a u => ?_)

@[simp] theorem acceptMsg_calm (n : Nat) (m : KMsg) (u : UnitData) (s : State) :
    Calm (acceptMsg n m u s) s := by
  simp [acceptMsg]

@[simp] theorem takeStream_calm (n : Nat) (bs : List Byte) (s : State) :
    Calm (takeStream n bs s) s := by
  simp only [takeStream]
  repeat' first
    | (simp [*]; done)
    | split
    | refine forEach_calm _ _ _ _ ?_ (fun a u => ?_)

@[simp] theorem deliverFlit_calm (n : Nat) (f : Flit) (s : State) :
    Calm (deliverFlit n f s) s := by
  simp only [deliverFlit]
  split <;> simp

@[simp] theorem deliverEarly_calm (n fuel : Nat) (s : State) : Calm (deliverEarly n fuel s) s := by
  induction fuel generalizing s with
  | zero => exact Calm.refl _
  | succ k ih =>
    unfold deliverEarly
    cases (s.site n).early.find? (fun f => f.seq == (s.site n).rxSeq) with
    | none => exact Calm.refl _
    | some f => exact (ih _).trans ((deliverFlit_calm ..).trans (updSite_calm ..))

theorem execSiteAckTimer_calm (n : Fin 6) (s : State) {sN : State} (h : execSiteAckTimer n s = .next sN) :
    Calm sN s := by
  simp only [execSiteAckTimer] at h
  injection h with h
  subst h
  simp

theorem execSiteMonitorWindow_calm (n : Fin 6) (m : Fin 64) (b : Fin 96) (s : State) {sN : State} (h : execSiteMonitorWindow n m b s = .next sN) :
    Calm sN s := by
  simp only [execSiteMonitorWindow] at h
  injection h with h
  subst h
  simp

theorem execKspReqAdmission_calm (n : Fin 6) (s : State) {sN : State} (h : execKspReqAdmission n s = .next sN) :
    Calm sN s := by
  simp only [execKspReqAdmission] at h
  injection h with h
  subst h
  repeat' first
    | (simp [*]; done)
    | (split <;> try (first
        | (rename_i hq; have h1 := congrArg (fun p => p.2.tiles) hq; have h2 := congrArg (fun p => p.2.lives) hq; have h3 := congrArg (fun p => p.2.clusters) hq; have h4 := congrArg (fun p => p.2.pwr) hq; simp at h1 h2 h3 h4)
        | (rename_i hq; have h1 := congrArg (fun p => p.2.2.tiles) hq; have h2 := congrArg (fun p => p.2.2.lives) hq; have h3 := congrArg (fun p => p.2.2.clusters) hq; have h4 := congrArg (fun p => p.2.2.pwr) hq; simp at h1 h2 h3 h4)))
    | refine forEach_calm _ _ _ _ ?_ (fun a u => ?_)
    | (simp_all; done)
    | (have hk := takeInbox_calm (by assumption); simp_all; done)
    | (rename_i hq; split at hq)
    | simp

theorem execWdata_calm (n : Fin 6) (last : Bool) (s : State) {sN : State} (h : execWdata n last s = .next sN) :
    Calm sN s := by
  simp only [execWdata] at h
  injection h with h
  subst h
  repeat' first
    | (simp [*]; done)
    | (split <;> try (first
        | (rename_i hq; have h1 := congrArg (fun p => p.2.tiles) hq; have h2 := congrArg (fun p => p.2.lives) hq; have h3 := congrArg (fun p => p.2.clusters) hq; have h4 := congrArg (fun p => p.2.pwr) hq; simp at h1 h2 h3 h4)
        | (rename_i hq; have h1 := congrArg (fun p => p.2.2.tiles) hq; have h2 := congrArg (fun p => p.2.2.lives) hq; have h3 := congrArg (fun p => p.2.2.clusters) hq; have h4 := congrArg (fun p => p.2.2.pwr) hq; simp at h1 h2 h3 h4)))
    | refine forEach_calm _ _ _ _ ?_ (fun a u => ?_)
    | (simp_all; done)
    | (have hk := takeInbox_calm (by assumption); simp_all; done)
    | (rename_i hq; split at hq)
    | simp

theorem takeTgt_calm {n txn : Nat} {write : Bool} {s : State} {r : TgtReq × State} (h : takeTgt n txn write s = some r) :
    Calm r.2 s := by
  simp only [takeTgt] at h
  repeat' first
    | (cases h; done)
    | split at h
    | (cases h; simp [*]; done)
    | (cases h; simp)

@[simp] theorem strayTgt_calm (n txn : Nat) (write : Bool) (code : Nat) (s : State) :
    Calm (strayTgt n txn write code s) s := by
  simp only [strayTgt]
  repeat' first
    | (simp [*]; done)
    | split
    | refine forEach_calm _ _ _ _ ?_ (fun a u => ?_)

theorem memDataEvent_calm (n : Fin 6) (s : State) {t : State} (h : memDataEvent n s = .next t) : Calm t s := by
  unfold memDataEvent at h
  cases h
  generalize hk : takeInbox n 4 (fun m => m.msg == 0x34) s = o
  cases o with
  | none => exact Calm.refl _
  | some y =>
    obtain ⟨e, s1⟩ := y
    have h1 : Calm s1 s := takeInbox_calm hk
    dsimp only
    generalize hq : takeTgt n e.1.txn false s1 = o
    cases o with
    | none => exact (strayTgt_calm ..).trans h1
    | some y =>
      obtain ⟨q, s2⟩ := y
      have h2 : Calm s2 s1 := takeTgt_calm hq
      dsimp only
      refine (serveSites_calm _).trans ?_
      exact (arrive_calm ..).trans (h2.trans h1)

@[simp] theorem keepOut_calm (n step cause : Nat) (s : State) :
    Calm (keepOut n step cause s) s := by
  simp [keepOut]

@[simp] theorem siteAccepted_calm (n : Nat) (s : State) :
    Calm (siteAccepted n s) s := by
  simp [siteAccepted]

@[simp] theorem checkIdentity_calm (n : Nat) (s : State) :
    Calm (checkIdentity n s) s := by
  simp [checkIdentity]

theorem execCaps_calm (n : Fin 6) (cxl caching rate supported : Bool) (aperture : BitVec 16) (power : BitVec 16) (vendor part certLen : BitVec 16) (s : State) {sN : State} (h : execCaps n cxl caching rate supported aperture power vendor part certLen s = .next sN) :
    Calm sN s := by
  simp only [execCaps] at h
  injection h with h
  subst h
  simp

@[simp] theorem nonce_calm (s : State) :
    Calm (nonce s).2 s := by
  simp [nonce]

theorem execCertData_calm (n : Fin 6) (bytes : List Byte) (s : State) {t : State}
    (h : execCertData n bytes s = .next t) : Calm t s := by
  unfold execCertData at h
  split at h
  · cases h
  · cases h
    refine Calm.ite (Calm.refl _) ?_
    refine Calm.ite ((sideband_calm ..).trans (updSite_calm ..)) (Calm.ite ((keepOut_calm ..).trans (updSite_calm ..)) ?_)
    exact (sideband_calm ..).trans ((updSite_calm ..).trans ((nonce_calm ..).trans (updSite_calm ..)))

theorem execResponse_calm (n : Fin 6) (sig : List Byte) (s : State) {t : State}
    (h : execResponse n sig s = .next t) : Calm t s := by
  unfold execResponse at h
  split at h
  · cases h
  · cases h
    exact Calm.ite (Calm.refl _) (Calm.ite (checkIdentity_calm ..) (keepOut_calm ..))

@[simp] theorem sendJoin_calm (n : Nat) (s : State) :
    Calm (sendJoin n s) s := by
  simp [sendJoin]

@[simp] theorem grantCredits_calm (n : Nat) (s : State) :
    Calm (grantCredits n s) s := by
  simp only [grantCredits]
  repeat' first
    | (simp [*]; done)
    | split
    | refine forEach_calm _ _ _ _ ?_ (fun a u => ?_)

theorem execJoined_calm (n : Fin 6) (s : State) {sN : State} (h : execJoined n s = .next sN) :
    Calm sN s := by
  simp only [execJoined] at h
  injection h with h
  subst h
  simp

theorem execSiteRejoined_calm (n : Fin 6) (s : State) {sN : State} (h : execSiteRejoined n s = .next sN) :
    Calm sN s := by
  simp only [execSiteRejoined] at h
  injection h with h
  subst h
  simp

theorem execSiteRejoinFailed_calm (n : Fin 6) (s : State) {sN : State} (h : execSiteRejoinFailed n s = .next sN) :
    Calm sN s := by
  simp only [execSiteRejoinFailed] at h
  injection h with h
  subst h
  simp

theorem execStatus_calm (n : Fin 6) (word : BitVec 64) (s : State) {sN : State} (h : execStatus n word s = .next sN) :
    Calm sN s := by
  simp only [execStatus] at h
  injection h with h
  subst h
  repeat' first
    | (simp [*]; done)
    | split
    | refine forEach_calm _ _ _ _ ?_ (fun a u => ?_)

theorem execPowerReport_calm (n : Fin 6) (watts : BitVec 11) (seq : BitVec 9) (s : State) {sN : State} (h : execPowerReport n watts seq s = .next sN) :
    Calm sN s := by
  simp only [execPowerReport] at h
  injection h with h
  subst h
  simp

theorem execRepairDone_calm (n : Fin 6) (m : Fin 64) (s : State) {sN : State} (h : execRepairDone n m s = .next sN) :
    Calm sN s := by
  simp only [execRepairDone] at h
  injection h with h
  subst h
  simp

theorem execSiteOwnerSweepDone_calm (n : Fin 6) (s : State) {sN : State} (h : execSiteOwnerSweepDone n s = .next sN) :
    Calm sN s := by
  simp only [execSiteOwnerSweepDone] at h
  injection h with h
  subst h
  simp

@[simp] theorem winFence_calm (n : Nat) (s : State) :
    Calm (winFence n s) s := by
  simp [winFence]

theorem execSiteWinFence_calm (n : Fin 6) (s : State) {sN : State} (h : execSiteWinFence n s = .next sN) :
    Calm sN s := by
  simp only [execSiteWinFence] at h
  injection h with h
  subst h
  simp

theorem execSiteWinFenceDone_calm (n : Fin 6) (s : State) {sN : State} (h : execSiteWinFenceDone n s = .next sN) :
    Calm sN s := by
  simp only [execSiteWinFenceDone] at h
  injection h with h
  subst h
  simp

theorem execSiteBudgetTimer_calm (n : Fin 6) (s : State) {sN : State} (h : execSiteBudgetTimer n s = .next sN) :
    Calm sN s := by
  simp only [execSiteBudgetTimer] at h
  injection h with h
  subst h
  simp

@[simp] theorem wrSiteBudget_calm (n v : Nat) (s : State) :
    Calm (wrSiteBudget n v s) s := by
  simp [wrSiteBudget]

theorem execSiteBudgetWrite_calm (n : Fin 6) (w : BitVec 11) (s : State) {sN : State} (h : execSiteBudgetWrite n w s = .next sN) :
    Calm sN s := by
  simp only [execSiteBudgetWrite] at h
  injection h with h
  subst h
  simp

theorem execSiteOverpower_calm (n : Fin 6) (w : BitVec 11) (s : State) {sN : State} (h : execSiteOverpower n w s = .next sN) :
    Calm sN s := by
  simp only [execSiteOverpower] at h
  injection h with h
  subst h
  simp

theorem execSiteUnclamp_calm (n : Fin 6) (s : State) {sN : State} (h : execSiteUnclamp n s = .next sN) :
    Calm sN s := by
  simp only [execSiteUnclamp] at h
  injection h with h
  subst h
  simp

@[simp] theorem recallSite_calm (n : Nat) (s : State) :
    Calm (recallSite n s) s := by
  simp only [recallSite]
  repeat' first
    | (simp [*]; done)
    | split
    | refine forEach_calm _ _ _ _ ?_ (fun a u => ?_)

theorem execFlushed_calm (n : Fin 6) (s : State) {sN : State} (h : execFlushed n s = .next sN) :
    Calm sN s := by
  simp only [execFlushed] at h
  injection h with h
  subst h
  simp

end Sys2Proof.Machine
end

