-- ==== Sys2Proof/Laws/CalmCxl.lean ====
section
/-!
SUPPORT. Which functions of Machine/Cxl.lean leave alone the tiles, the tasks under way, the clusters and the power records
(`Calm` of Safety.lean): one lemma each.
-/
namespace Sys2Proof.Machine

@[simp] theorem cxlReq_calm (n tag pa msg w3 : Nat) (nodata : Bool) (data : LineData) (mask : BitVec 128) (poison : Bool) (s : State) :
    Calm (cxlReq n tag pa msg w3 nodata data mask poison s) s := by
  simp [cxlReq]

@[simp] theorem cxlWrite_calm (n tag pa : Nat) (data : LineData) (mask : BitVec 128) (poison : Bool) (s : State) :
    Calm (cxlWrite n tag pa data mask poison s) s := by
  simp [cxlWrite]

theorem execCxlRdshared_calm (n : Fin 6) (tag : Fin 4096) (pa : BitVec 52) (s : State) {sN : State} (h : execCxlRdshared n tag pa s = .next sN) :
    Calm sN s := by
  simp only [execCxlRdshared] at h
  injection h with h
  subst h
  simp

theorem execCxlRdany_calm (n : Fin 6) (tag : Fin 4096) (pa : BitVec 52) (s : State) {sN : State} (h : execCxlRdany n tag pa s = .next sN) :
    Calm sN s := by
  simp only [execCxlRdany] at h
  injection h with h
  subst h
  simp

theorem execCxlRdown_calm (n : Fin 6) (tag : Fin 4096) (pa : BitVec 52) (s : State) {sN : State} (h : execCxlRdown n tag pa s = .next sN) :
    Calm sN s := by
  simp only [execCxlRdown] at h
  injection h with h
  subst h
  simp

theorem execCxlRdownnodata_calm (n : Fin 6) (tag : Fin 4096) (pa : BitVec 52) (s : State) {sN : State} (h : execCxlRdownnodata n tag pa s = .next sN) :
    Calm sN s := by
  simp only [execCxlRdownnodata] at h
  injection h with h
  subst h
  simp

theorem execCxlRdcurr_calm (n : Fin 6) (tag : Fin 4096) (pa : BitVec 52) (s : State) {sN : State} (h : execCxlRdcurr n tag pa s = .next sN) :
    Calm sN s := by
  simp only [execCxlRdcurr] at h
  injection h with h
  subst h
  simp

theorem execCxlItomwr_calm (n : Fin 6) (tag : Fin 4096) (pa : BitVec 52) (data : LineData) (mask : BitVec 128) (poison : Bool) (s : State) {sN : State} (h : execCxlItomwr n tag pa data mask poison s = .next sN) :
    Calm sN s := by
  simp only [execCxlItomwr] at h
  injection h with h
  subst h
  simp

theorem execCxlWrcur_calm (n : Fin 6) (tag : Fin 4096) (pa : BitVec 52) (data : LineData) (mask : BitVec 128) (poison : Bool) (s : State) {sN : State} (h : execCxlWrcur n tag pa data mask poison s = .next sN) :
    Calm sN s := by
  simp only [execCxlWrcur] at h
  injection h with h
  subst h
  simp

theorem execCxlWrinv_calm (n : Fin 6) (tag : Fin 4096) (pa : BitVec 52) (data : LineData) (mask : BitVec 128) (poison : Bool) (s : State) {sN : State} (h : execCxlWrinv n tag pa data mask poison s = .next sN) :
    Calm sN s := by
  simp only [execCxlWrinv] at h
  injection h with h
  subst h
  simp

theorem execCxlWowrinv_calm (n : Fin 6) (tag : Fin 4096) (pa : BitVec 52) (data : LineData) (mask : BitVec 128) (poison : Bool) (s : State) {sN : State} (h : execCxlWowrinv n tag pa data mask poison s = .next sN) :
    Calm sN s := by
  simp only [execCxlWowrinv] at h
  injection h with h
  subst h
  simp

theorem execCxlWowrinvf_calm (n : Fin 6) (tag : Fin 4096) (pa : BitVec 52) (data : LineData) (mask : BitVec 128) (poison : Bool) (s : State) {sN : State} (h : execCxlWowrinvf n tag pa data mask poison s = .next sN) :
    Calm sN s := by
  simp only [execCxlWowrinvf] at h
  injection h with h
  subst h
  simp

theorem execCxlDirtyevict_calm (n : Fin 6) (tag : Fin 4096) (pa : BitVec 52) (s : State) {sN : State} (h : execCxlDirtyevict n tag pa s = .next sN) :
    Calm sN s := by
  simp only [execCxlDirtyevict] at h
  injection h with h
  subst h
  split <;> simp

@[simp] theorem cxlCleanEvict_calm (n tag pa : Nat) (s : State) :
    Calm (cxlCleanEvict n tag pa s) s := by
  simp only [cxlCleanEvict]
  split <;> simp

theorem execCxlCleanevict_calm (n : Fin 6) (tag : Fin 4096) (pa : BitVec 52) (s : State) {sN : State} (h : execCxlCleanevict n tag pa s = .next sN) :
    Calm sN s := by
  simp only [execCxlCleanevict] at h
  injection h with h
  subst h
  simp

theorem execCxlCleanevictnodata_calm (n : Fin 6) (tag : Fin 4096) (pa : BitVec 52) (s : State) {sN : State} (h : execCxlCleanevictnodata n tag pa s = .next sN) :
    Calm sN s := by
  simp only [execCxlCleanevictnodata] at h
  injection h with h
  subst h
  simp

theorem execCxlClflush_calm (n : Fin 6) (tag : Fin 4096) (pa : BitVec 52) (s : State) {sN : State} (h : execCxlClflush n tag pa s = .next sN) :
    Calm sN s := by
  simp only [execCxlClflush] at h
  injection h with h
  subst h
  simp

theorem execCxlCacheflushed_calm (_n : Fin 6) (s : State) {sN : State} (h : execCxlCacheflushed _n s = .next sN) :
    Calm sN s := by
  simp only [execCxlCacheflushed] at h
  injection h with h
  subst h
  simp

theorem execCxlOtherRequest_calm (n : Fin 6) (s : State) {sN : State} (h : execCxlOtherRequest n s = .next sN) :
    Calm sN s := by
  simp only [execCxlOtherRequest] at h
  injection h with h
  subst h
  simp

theorem execCxlSnoopResponse_calm (n : Fin 6) (k : Fin 12) (l : Fin (2 ^ 29)) (r : CxlRsp) (s : State) {sN : State} (h : execCxlSnoopResponse n k l r s = .next sN) :
    Calm sN s := by
  unfold execCxlSnoopResponse at h
  injection h with h
  subst h
  refine Calm.ite (Calm.refl _) ?_
  cases s.plz.snoops.find? _ with
  | none => exact protocolError_calm ..
  | some x =>
    dsimp only
    cases s.txn? x.txn with
    | none => exact snpRsp_calm ..
    | some t => exact (snpRsp_calm ..).trans (Calm.ite (updSite_calm ..) (Calm.refl _))

@[simp] theorem routeData_getD_calm (num u : Nat) (d : UnitData) (m : Option Mark) (g : Grant) (s : State) :
    Calm ((routeData num u d m g s).getD s) s := by
  generalize hr : routeData num u d m g s = o
  cases o with
  | none => exact Calm.refl _
  | some r => exact routeData_calm hr

theorem execCxlD2hData_calm (n : Fin 6) (k : Fin 12) (l : Fin (2 ^ 29)) (data : LineData) (poison : Bool) (s : State) {sN : State} (h : execCxlD2hData n k l data poison s = .next sN) :
    Calm sN s := by
  simp only [execCxlD2hData] at h
  injection h with h
  subst h
  repeat' first
    | (simp [*]; done)
    | split

end Sys2Proof.Machine
end

