-- ==== Sys2Proof/Laws/CalmFabric.lean ====
section
/-!
SUPPORT. Which functions of Machine/Fabric.lean leave alone the tiles, the tasks under way, the clusters and the power records
(`Calm` of Safety.lean): one lemma each.
-/
namespace Sys2Proof.Machine

@[simp] theorem syncPortCap_calm (n : Nat) (s : State) :
    Calm (syncPortCap n s) s := by
  simp [syncPortCap]

@[simp] theorem answerKfl_calm (m : KflMsg) (status : Nat) (units : List UnitData) (marks : List (Option Mark)) (s : State) :
    Calm (answerKfl m status units marks s) s := by
  simp only [answerKfl]
  split <;> simp

@[simp] theorem dropKfl_calm (n : Nat) (m : KflMsg) (s : State) :
    Calm (dropKfl n m s) s := by
  simp [dropKfl]

@[simp] theorem routeKfl_calm (n : Nat) (m : KflMsg) (s : State) :
    Calm (routeKfl n m s).2 s := by
  simp only [routeKfl]
  repeat' first
    | (simp [*]; done)
    | split

@[simp] theorem sendHello_calm (n : Nat) (s : State) :
    Calm (sendHello n s) s := by
  simp [sendHello]

@[simp] theorem takeHello_calm (n : Nat) (m : KflMsg) (s : State) :
    Calm (takeHello n m s) s := by
  simp [takeHello]

@[simp] theorem grantUnits_calm (n : Nat) (s : State) :
    Calm (grantUnits n s) s := by
  simp only [grantUnits]
  repeat' first
    | (simp [*]; done)
    | split
    | refine forEach_calm _ _ _ _ ?_ (fun a u => ?_)

@[simp] theorem resendFab_calm (n : Nat) (s : State) :
    Calm (resendFab n s) s := by
  simp only [resendFab]
  repeat' first
    | (simp [*]; done)
    | split
    | refine forEach_calm _ _ _ _ ?_ (fun a u => ?_)

@[simp] theorem kflCredits_calm (n : Nat) (credits : List (Nat × Nat)) (s : State) :
    Calm (kflCredits n credits s) s := by
  simp only [kflCredits]
  repeat' first
    | (simp [*]; done)
    | split
    | refine forEach_calm _ _ _ _ ?_ (fun a u => ?_)

@[simp] theorem kflAcked_calm (n ack : Nat) (s : State) :
    Calm (kflAcked n ack s) s := by
  simp only [kflAcked]
  repeat' first
    | (simp [*]; done)
    | split
    | refine forEach_calm _ _ _ _ ?_ (fun a u => ?_)

@[simp] theorem kflAck_calm (n ack : Nat) (s : State) :
    Calm (kflAck n ack s) s := by
  simp only [kflAck]
  repeat' first
    | (simp [*]; done)
    | split
    | refine forEach_calm _ _ _ _ ?_ (fun a u => ?_)

@[simp] theorem countNak_calm (n : Nat) (s : State) :
    Calm (countNak n s) s := by
  simp [countNak]

@[simp] theorem bufferKfl_calm (n : Nat) (m : KflMsg) (s : State) :
    Calm (bufferKfl n m s) s := by
  simp only [bufferKfl]
  repeat' first
    | (simp [*]; done)
    | split
    | refine forEach_calm _ _ _ _ ?_ (fun a u => ?_)

@[simp] theorem deliverKfl_calm (n : Nat) (f : KflFlit) (s : State) :
    Calm (deliverKfl n f s) s := by
  simp only [deliverKfl]
  repeat' first
    | (simp [*]; done)
    | split
    | refine forEach_calm _ _ _ _ ?_ (fun a u => ?_)

theorem execFabricAckTimer_calm (n : Fin 16) (s : State) {sN : State} (h : execFabricAckTimer n s = .next sN) :
    Calm sN s := by
  simp only [execFabricAckTimer] at h
  injection h with h
  subst h
  simp

theorem kflTake_calm {n code : Nat} {s : State} {r : KflMsg × State} (h : kflTake n code s = some r) :
    Calm r.2 s := by
  simp only [kflTake] at h
  repeat' first
    | (cases h; done)
    | split at h
    | (cases h; simp [*]; done)
    | (cases h; simp)

@[simp] theorem updWinReq_calm (p id : Nat) (f : WinReq → WinReq) (s : State) :
    Calm (updWinReq p id f s) s := by
  simp [updWinReq]

@[simp] theorem answerWin_calm (p : Nat) (r : WinReq) (status : Nat) (units : List UnitData) (marks : List (Option Mark)) (s : State) :
    Calm (answerWin p r status units marks s) s := by
  simp [answerWin]

@[simp] theorem winTarget_calm (p : Nat) (r : WinReq) (off : Nat) (s : State) :
    Calm (winTarget p r off s).2 s := by
  simp only [winTarget]
  split <;> simp

@[simp] theorem winRead_calm (p id i : Nat) (s : State) :
    Calm (winRead p id i s) s := by
  simp only [winRead]
  repeat' first
    | (simp [*]; done)
    | (split <;> try (first
        | (rename_i hq; have h1 := congrArg (fun p => p.2.tiles) hq; have h2 := congrArg (fun p => p.2.lives) hq; have h3 := congrArg (fun p => p.2.clusters) hq; have h4 := congrArg (fun p => p.2.pwr) hq; simp at h1 h2 h3 h4)
        | (rename_i hq; have h1 := congrArg (fun p => p.2.2.tiles) hq; have h2 := congrArg (fun p => p.2.2.lives) hq; have h3 := congrArg (fun p => p.2.2.clusters) hq; have h4 := congrArg (fun p => p.2.2.pwr) hq; simp at h1 h2 h3 h4)))
    | refine forEach_calm _ _ _ _ ?_ (fun a u => ?_)
    | (simp_all; done)
    | (rename_i hq; split at hq)
    | simp

@[simp] theorem winWrite_calm (p id i : Nat) (s : State) :
    Calm (winWrite p id i s) s := by
  simp only [winWrite]
  repeat' first
    | (simp [*]; done)
    | (split <;> try (first
        | (rename_i hq; have h1 := congrArg (fun p => p.2.tiles) hq; have h2 := congrArg (fun p => p.2.lives) hq; have h3 := congrArg (fun p => p.2.clusters) hq; have h4 := congrArg (fun p => p.2.pwr) hq; simp at h1 h2 h3 h4)
        | (rename_i hq; have h1 := congrArg (fun p => p.2.2.tiles) hq; have h2 := congrArg (fun p => p.2.2.lives) hq; have h3 := congrArg (fun p => p.2.2.clusters) hq; have h4 := congrArg (fun p => p.2.2.pwr) hq; simp at h1 h2 h3 h4)))
    | refine forEach_calm _ _ _ _ ?_ (fun a u => ?_)
    | (simp_all; done)
    | (rename_i hq; split at hq)
    | simp

@[simp] theorem winAtomic_calm (p : Nat) (r : WinReq) (s : State) : Calm (winAtomic p r s) s := by
  unfold winAtomic
  extract_lets pay op w who answer
  have ha : ∀ v u, Calm (answer v u) u := fun v u => answerWin_calm ..
  clear_value answer
  have hx := winTarget_calm p r 0 s
  generalize winTarget p r 0 s = q at hx
  obtain ⟨q, s1⟩ := q
  cases q with
  | aborted => exact (answerWin_calm ..).trans hx
  | ok t e =>
    cases t with
    | stacked k a =>
      dsimp only
      refine Calm.ite ((answerWin_calm ..).trans hx) (Calm.ite ((answerWin_calm ..).trans hx) ?_)
      generalize hq : takeArrival who (.stacked k (a / 64 * 64)) s1 = o
      cases o with
      | none => exact Calm.ite hx ((askUnits_calm ..).trans ((postTxn_calm ..).trans hx))
      | some y => exact (ha ..).trans ((takeArrival_calm hq).trans hx)
    | remote node win off =>
      dsimp only
      have hy := agentAtomic_calm who node win off r.cls pay s1
      generalize agentAtomic who node win off r.cls pay s1 = o at hy
      obtain ⟨o, s2⟩ := o
      cases o with
      | none => exact Calm.trans hy hx
      | some v => exact (ha ..).trans (Calm.trans hy hx)
    | _ => exact (answerWin_calm ..).trans hx
  | _ => exact hx

@[simp] theorem serveWin_calm (p id : Nat) (s : State) :
    Calm (serveWin p id s) s := by
  simp only [serveWin]
  repeat' first
    | (simp [*]; done)
    | split

@[simp] theorem serveWins_calm (s : State) :
    Calm (serveWins s) s := by
  simp [serveWins]

@[simp] theorem admitKfl_calm (n : Nat) (m : KflMsg) (s : State) :
    Calm (admitKfl n m s) s := by
  simp [admitKfl]

@[simp] theorem takeKflReq_calm (n code : Nat) (s : State) :
    Calm (takeKflReq n code s) s := by
  simp only [takeKflReq]
  repeat' first
    | (simp [*]; done)
    | (split <;> try (first
        | (rename_i hq; have h1 := congrArg (fun p => p.2.tiles) hq; have h2 := congrArg (fun p => p.2.lives) hq; have h3 := congrArg (fun p => p.2.clusters) hq; have h4 := congrArg (fun p => p.2.pwr) hq; simp at h1 h2 h3 h4)
        | (rename_i hq; have h1 := congrArg (fun p => p.2.2.tiles) hq; have h2 := congrArg (fun p => p.2.2.lives) hq; have h3 := congrArg (fun p => p.2.2.clusters) hq; have h4 := congrArg (fun p => p.2.2.pwr) hq; simp at h1 h2 h3 h4)))
    | refine forEach_calm _ _ _ _ ?_ (fun a u => ?_)
    | (simp_all; done)
    | (have hk := kflTake_calm (by assumption); simp_all; done)
    | (rename_i hq; split at hq)
    | simp

theorem execKflRd_calm (n : Fin 17) (s : State) {sN : State} (h : execKflRd n s = .next sN) :
    Calm sN s := by
  simp only [execKflRd] at h
  injection h with h
  subst h
  simp

theorem execKflWr_calm (n : Fin 17) (s : State) {sN : State} (h : execKflWr n s = .next sN) :
    Calm sN s := by
  simp only [execKflWr] at h
  injection h with h
  subst h
  simp

theorem execKflWrPart_calm (n : Fin 17) (s : State) {sN : State} (h : execKflWrPart n s = .next sN) :
    Calm sN s := by
  simp only [execKflWrPart] at h
  injection h with h
  subst h
  simp

theorem execKflAtomic_calm (n : Fin 17) (s : State) {sN : State} (h : execKflAtomic n s = .next sN) :
    Calm sN s := by
  simp only [execKflAtomic] at h
  injection h with h
  subst h
  simp

@[simp] theorem expireWin_calm (p id : Nat) (s : State) :
    Calm (expireWin p id s) s := by
  simp only [expireWin]
  repeat' first
    | (simp [*]; done)
    | split

theorem execHello_calm (n : Fin 16) (s : State) {sN : State} (h : execHello n s = .next sN) :
    Calm sN s := by
  simp only [execHello] at h
  injection h with h
  subst h
  repeat' first
    | (simp [*]; done)
    | (split <;> try (first
        | (rename_i hq; have h1 := congrArg (fun p => p.2.tiles) hq; have h2 := congrArg (fun p => p.2.lives) hq; have h3 := congrArg (fun p => p.2.clusters) hq; have h4 := congrArg (fun p => p.2.pwr) hq; simp at h1 h2 h3 h4)
        | (rename_i hq; have h1 := congrArg (fun p => p.2.2.tiles) hq; have h2 := congrArg (fun p => p.2.2.lives) hq; have h3 := congrArg (fun p => p.2.2.clusters) hq; have h4 := congrArg (fun p => p.2.2.pwr) hq; simp at h1 h2 h3 h4)))
    | refine forEach_calm _ _ _ _ ?_ (fun a u => ?_)
    | (simp_all; done)
    | (have hk := kflTake_calm (by assumption); simp_all; done)
    | (rename_i hq; split at hq)
    | simp

theorem execHelloTimer_calm (n : Fin 16) (s : State) {sN : State} (h : execHelloTimer n s = .next sN) :
    Calm sN s := by
  simp only [execHelloTimer] at h
  injection h with h
  subst h
  simp

@[simp] theorem wrFabNode_calm (v : Nat) (s : State) :
    Calm (wrFabNode v s) s := by
  simp [wrFabNode]

theorem execFabNodeWrite_calm (v : BitVec 16) (s : State) {sN : State} (h : execFabNodeWrite v s = .next sN) :
    Calm sN s := by
  simp only [execFabNodeWrite] at h
  injection h with h
  subst h
  simp

@[simp] theorem stepRtSel_calm (s : State) :
    Calm (stepRtSel s) s := by
  simp [stepRtSel]

@[simp] theorem rdFabRtData_calm (s : State) :
    Calm (rdFabRtData s).2 s := by
  simp [rdFabRtData]

@[simp] theorem wrFabRtData_calm (v : Nat) (s : State) :
    Calm (wrFabRtData v s) s := by
  simp only [wrFabRtData]
  split <;> simp

theorem execFabRtDataAccess_calm (w : Option (BitVec 32)) (s : State) {sN : State} (h : execFabRtDataAccess w s = .next sN) :
    Calm sN s := by
  simp only [execFabRtDataAccess] at h
  injection h with h
  subst h
  split <;> simp

@[simp] theorem fabFence_calm (s : State) :
    Calm (fabFence s) s := by
  simp [fabFence]

theorem execFabWinFence_calm (s : State) {sN : State} (h : execFabWinFence s = .next sN) :
    Calm sN s := by
  simp only [execFabWinFence] at h
  injection h with h
  subst h
  simp

theorem execFabWinFenceDone_calm (s : State) {sN : State} (h : execFabWinFenceDone s = .next sN) :
    Calm sN s := by
  simp only [execFabWinFenceDone] at h
  injection h with h
  subst h
  simp

@[simp] theorem wrFabCtrl_calm (v : Nat) (s : State) :
    Calm (wrFabCtrl v s) s := by
  simp [wrFabCtrl]

@[simp] theorem takeRed_calm (n code : Nat) (f : KflMsg → State → State) (s : State) (hf : ∀ a u, Calm (f a u) u) :
    Calm (takeRed n code f s) s := by
  simp only [takeRed]
  repeat' first
    | (simp [*]; done)
    | (split <;> try (first
        | (rename_i hq; have h1 := congrArg (fun p => p.2.tiles) hq; have h2 := congrArg (fun p => p.2.lives) hq; have h3 := congrArg (fun p => p.2.clusters) hq; have h4 := congrArg (fun p => p.2.pwr) hq; simp at h1 h2 h3 h4)
        | (rename_i hq; have h1 := congrArg (fun p => p.2.2.tiles) hq; have h2 := congrArg (fun p => p.2.2.lives) hq; have h3 := congrArg (fun p => p.2.2.clusters) hq; have h4 := congrArg (fun p => p.2.2.pwr) hq; simp at h1 h2 h3 h4)))
    | refine forEach_calm _ _ _ _ ?_ (fun a u => ?_)
    | (simp_all; done)
    | (have hk := kflTake_calm (by assumption); simp_all; done)
    | (rename_i hq; split at hq)
    | simp

end Sys2Proof.Machine
end

