-- ==== Sys2Proof/Laws/CalmStacks.lean ====
section
/-!
SUPPORT. Which functions of Machine/Stacks.lean leave alone the tiles, the tasks under way, the clusters and the power records
(`Calm` of Safety.lean): one lemma each.
-/
namespace Sys2Proof.Machine

@[simp] theorem readEvent_calm (k u : Nat) (ev ev2 : EccOutcome) (s : State) :
    Calm (readEvent k u ev ev2 s) s := by
  simp only [readEvent]
  repeat' first
    | (simp [*]; done)
    | split
    | refine forEach_calm _ _ _ _ ?_ (fun a u => ?_)

@[simp] theorem writeEvent_calm (k u : Nat) (symbols : List Nat) (s : State) :
    Calm (writeEvent k u symbols s) s := by
  simp only [writeEvent]
  repeat' first
    | (simp [*]; done)
    | split
    | refine forEach_calm _ _ _ _ ?_ (fun a u => ?_)

theorem issueOrHold_calm (k u : Nat) (h : HeldMem) (go : State → State) (s : State) (hgo : ∀ u, Calm (go u) u) :
    Calm (issueOrHold k u h go s) s := by
  simp only [issueOrHold]
  split
  · exact hgo s
  · simp

theorem execMrd_calm (k : Fin 12) (u : Fin (2 ^ 30)) (ev ev2 : EccOutcome) (s : State) {sN : State}
    (h : execMrd k u ev ev2 s = .next sN) : Calm sN s := by
  simp only [execMrd] at h
  injection h with h
  subst h
  exact issueOrHold_calm _ _ _ _ _ (fun u => readEvent_calm ..)

theorem execMwr_calm (k : Fin 12) (u : Fin (2 ^ 30)) (symbols : List Nat) (s : State) {sN : State}
    (h : execMwr k u symbols s = .next sN) : Calm sN s := by
  simp only [execMwr] at h
  injection h with h
  subst h
  exact issueOrHold_calm _ _ _ _ _ (fun u => writeEvent_calm ..)

theorem execMirrorHeal_calm (k : Fin 12) (u : Fin (2 ^ 30)) (ev2 : EccOutcome) (s : State) {sN : State} (h : execMirrorHeal k u ev2 s = .next sN) :
    Calm sN s := by
  simp only [execMirrorHeal] at h
  injection h with h
  subst h
  simp

theorem execBondMonitorWindow_calm (k : Fin 12) (m : Fin 64) (s : State) {sN : State} (h : execBondMonitorWindow k m s = .next sN) :
    Calm sN s := by
  simp only [execBondMonitorWindow] at h
  injection h with h
  subst h
  simp

@[simp] theorem patrolUnit_calm (k a : Nat) (ev ev2 : EccOutcome) (s : State) :
    Calm (patrolUnit k a ev ev2 s) s := by
  simp only [patrolUnit]
  repeat' first
    | (simp [*]; done)
    | split
    | refine forEach_calm _ _ _ _ ?_ (fun a u => ?_)

theorem execPatrolRead_calm (k : Fin 12) (ev ev2 : EccOutcome) (s : State) {sN : State} (h : execPatrolRead k ev ev2 s = .next sN) :
    Calm sN s := by
  simp only [execPatrolRead] at h
  injection h with h
  subst h
  simp

@[simp] theorem scheduleRetrain_calm (k m : Nat) (s : State) :
    Calm (scheduleRetrain k m s) s := by
  simp [scheduleRetrain]

theorem execModuleRetrainStart_calm (k : Fin 12) (m : Fin 64) (s : State) {sN : State} (h : execModuleRetrainStart k m s = .next sN) :
    Calm sN s := by
  simp only [execModuleRetrainStart] at h
  injection h with h
  subst h
  simp

@[simp] theorem spareBonds_calm (k : Nat) (bs : List Nat) (s : State) :
    Calm (spareBonds k bs s) s := by
  simp only [spareBonds]
  repeat' first
    | (simp [*]; done)
    | split
    | refine forEach_calm _ _ _ _ ?_ (fun a u => ?_)

@[simp] theorem retireModule_calm (k m : Nat) (s : State) :
    Calm (retireModule k m s) s := by
  simp [retireModule]

@[simp] theorem retrainRecord_calm (k n : Nat) (retire : Bool) (s : State) :
    Calm (retrainRecord k n retire s) s := by
  simp only [retrainRecord]
  repeat' first
    | (simp [*]; done)
    | split
    | refine forEach_calm _ _ _ _ ?_ (fun a u => ?_)

@[simp] theorem moduleGone_calm (k m : Nat) (s : State) :
    Calm (moduleGone k m s) s := by
  simp only [moduleGone]
  repeat' first
    | (simp [*]; done)
    | split
    | refine forEach_calm _ _ _ _ ?_ (fun a u => ?_)

@[simp] theorem moduleRetrained_calm (k m : Nat) (s : State) :
    Calm (moduleRetrained k m s) s := by
  simp only [moduleRetrained]
  repeat' first
    | (simp [*]; done)
    | split
    | refine forEach_calm _ _ _ _ ?_ (fun a u => ?_)

@[simp] theorem issueHeld_calm (k : Nat) (h : HeldMem) (s : State) : Calm (issueHeld k h s) s := by
  simp only [issueHeld]
  split
  · exact issueOrHold_calm _ _ _ _ _ (fun u => by simp)
  · exact issueOrHold_calm _ _ _ _ _ (fun u => by simp)
  · simp

@[simp] theorem issueRetry_calm (k : Nat) (s : State) :
    Calm (issueRetry k s) s := by
  simp only [issueRetry]
  repeat' first
    | (simp [*]; done)
    | split
    | refine forEach_calm _ _ _ _ ?_ (fun a u => ?_)

theorem execModuleRetrainDone_calm (k : Fin 12) (m : Fin 64) (s : State) {sN : State} (h : execModuleRetrainDone k m s = .next sN) :
    Calm sN s := by
  simp only [execModuleRetrainDone] at h
  injection h with h
  subst h
  simp

theorem execStkCtrlRetrain_calm (k : Fin 12) (m : Fin 64) (s : State) {sN : State} (h : execStkCtrlRetrain k m s = .next sN) :
    Calm sN s := by
  simp only [execStkCtrlRetrain] at h
  injection h with h
  subst h
  simp

theorem execStkCtrlIsolate_calm (k : Fin 12) (s : State) {sN : State} (h : execStkCtrlIsolate k s = .next sN) :
    Calm sN s := by
  simp only [execStkCtrlIsolate] at h
  injection h with h
  subst h
  simp

@[simp] theorem takeTraining_calm (k : Nat) (t : StackTrain) (s : State) :
    Calm (takeTraining k t s) s := by
  simp only [takeTraining]
  repeat' first
    | (simp [*]; done)
    | split
    | refine forEach_calm _ _ _ _ ?_ (fun a u => ?_)

@[simp] theorem setStackSpares_calm (k : Nat) (s : State) :
    Calm (setStackSpares k s) s := by
  simp only [setStackSpares]
  repeat' first
    | (simp [*]; done)
    | split
    | refine forEach_calm _ _ _ _ ?_ (fun a u => ?_)

@[simp] theorem restoreRange_calm (b b' z k : Nat) (s : State) :
    Calm (restoreRange b b' z k s) s := by
  simp only [restoreRange]
  repeat' first
    | (simp [*]; done)
    | split
    | refine forEach_calm _ _ _ _ ?_ (fun a u => ?_)

@[simp] theorem copyRegion_calm (b b' z k : Nat) (s : State) :
    Calm (copyRegion b b' z k s) s := by
  simp only [copyRegion]
  repeat' first
    | (simp [*]; done)
    | split
    | refine forEach_calm _ _ _ _ ?_ (fun a u => ?_)

@[simp] theorem refill_calm (n b b' z k : Nat) (s : State) :
    Calm (refill n b b' z k s) s := by
  simp only [refill]
  repeat' first
    | (simp [*]; done)
    | split
    | refine forEach_calm _ _ _ _ ?_ (fun a u => ?_)

@[simp] theorem fillStack_calm (k : Nat) (s : State) :
    Calm (fillStack k s) s := by
  simp [fillStack]

theorem execStackRejoinFillDone_calm (k : Fin 12) (s : State) {sN : State} (h : execStackRejoinFillDone k s = .next sN) :
    Calm sN s := by
  simp only [execStackRejoinFillDone] at h
  injection h with h
  subst h
  simp

theorem execStackClockLost_calm (k : Fin 12) (s : State) {sN : State} (h : execStackClockLost k s = .next sN) :
    Calm sN s := by
  simp only [execStackClockLost] at h
  injection h with h
  subst h
  simp

theorem execStackTrainingLost_calm (k : Fin 12) (s : State) {sN : State} (h : execStackTrainingLost k s = .next sN) :
    Calm sN s := by
  simp only [execStackTrainingLost] at h
  injection h with h
  subst h
  simp

theorem execStackBaseReset_calm (k : Fin 12) (s : State) {sN : State} (h : execStackBaseReset k s = .next sN) :
    Calm sN s := by
  simp only [execStackBaseReset] at h
  injection h with h
  subst h
  simp

theorem execChannelLost_calm (k : Fin 12) (s : State) {sN : State} (h : execChannelLost k s = .next sN) :
    Calm sN s := by
  simp only [execChannelLost] at h
  injection h with h
  subst h
  simp

@[simp] theorem sweepUnit_calm (k lk u : Nat) (s : State) :
    Calm (sweepUnit k lk u s) s := by
  simp only [sweepUnit]
  split <;> simp

theorem execStackSweepDone_calm (k : Fin 12) (s : State) {sN : State} (h : execStackSweepDone k s = .next sN) :
    Calm sN s := by
  simp only [execStackSweepDone] at h
  injection h with h
  subst h
  simp

theorem execThrottleStepDown_calm (k : Fin 12) (s : State) {sN : State} (h : execThrottleStepDown k s = .next sN) :
    Calm sN s := by
  simp only [execThrottleStepDown] at h
  injection h with h
  subst h
  simp

theorem execThrottleStepUp_calm (k : Fin 12) (s : State) {sN : State} (h : execThrottleStepUp k s = .next sN) :
    Calm sN s := by
  simp only [execThrottleStepUp] at h
  injection h with h
  subst h
  simp

theorem execTelemetryStale_calm (k : Fin 12) (s : State) {sN : State} (h : execTelemetryStale k s = .next sN) :
    Calm sN s := by
  simp only [execTelemetryStale] at h
  injection h with h
  subst h
  simp

@[simp] theorem wrSrtCtrl_calm (n v : Nat) (s : State) :
    Calm (wrSrtCtrl n v s) s := by
  simp [wrSrtCtrl]

theorem execSrtValidSet_calm (n : Fin 256) (mirrored : Bool) (s : State) {sN : State} (h : execSrtValidSet n mirrored s = .next sN) :
    Calm sN s := by
  simp only [execSrtValidSet] at h
  injection h with h
  subst h
  simp

theorem execSrtValidClear_calm (n : Fin 256) (mirrored : Bool) (s : State) {sN : State} (h : execSrtValidClear n mirrored s = .next sN) :
    Calm sN s := by
  simp only [execSrtValidClear] at h
  injection h with h
  subst h
  simp

end Sys2Proof.Machine
end

