-- ==== Sys2Proof/Laws/KeptOps.lean ====
section
/-!
SUPPORT. What the functions of Machine/Ops.lean leave alone: one lemma each, in the terms of Safety.lean (`Kept`, `Held`).
-/
namespace Sys2Proof.Machine

theorem forEach_keep {α : Type} (l : List α) (f : α → State → State) (s s' : State) (hs : Kept s' s)
    (h : ∀ a u, Kept (f a u) u) : Kept (forEach l f s') s := by
  unfold forEach
  induction l generalizing s' with
  | nil => exact hs
  | cons a l ih =>
    simp only [List.foldl_cons]
    have k := h a s'
    exact ih _ ⟨k.1.trans hs.1, k.2.1.trans hs.2.1, k.2.2.1.trans hs.2.2.1, k.2.2.2.trans hs.2.2.2⟩
@[simp] theorem forEach_keep_pending {α : Type} (l : List α) (f : α → State → State) (s : State)
    (h : ∀ a u, Kept (f a u) u) : (forEach l f s).pending = s.pending :=
  (forEach_keep l f s s ⟨rfl, rfl, rfl, rfl⟩ h).1
@[simp] theorem ite_pending (c : Prop) [Decidable c] (a b : State) :
    (if c then a else b).pending = if c then a.pending else b.pending := by split <;> rfl
@[simp] theorem forEach_keep_sec {α : Type} (l : List α) (f : α → State → State) (s : State)
    (h : ∀ a u, Kept (f a u) u) : (forEach l f s).sec = s.sec :=
  (forEach_keep l f s s ⟨rfl, rfl, rfl, rfl⟩ h).2.1
@[simp] theorem ite_sec (c : Prop) [Decidable c] (a b : State) :
    (if c then a else b).sec = if c then a.sec else b.sec := by split <;> rfl
@[simp] theorem forEach_keep_tiles {α : Type} (l : List α) (f : α → State → State) (s : State)
    (h : ∀ a u, Kept (f a u) u) : (forEach l f s).boot.tilesAt = s.boot.tilesAt :=
  (forEach_keep l f s s ⟨rfl, rfl, rfl, rfl⟩ h).2.2.1
@[simp] theorem ite_tiles (c : Prop) [Decidable c] (a b : State) :
    (if c then a else b).boot.tilesAt = if c then a.boot.tilesAt else b.boot.tilesAt := by split <;> rfl
@[simp] theorem forEach_keep_digest {α : Type} (l : List α) (f : α → State → State) (s : State)
    (h : ∀ a u, Kept (f a u) u) : (forEach l f s).boot.digest = s.boot.digest :=
  (forEach_keep l f s s ⟨rfl, rfl, rfl, rfl⟩ h).2.2.2
@[simp] theorem ite_digest (c : Prop) [Decidable c] (a b : State) :
    (if c then a else b).boot.digest = if c then a.boot.digest else b.boot.digest := by split <;> rfl
theorem Kept.trans {a b c : State} (h : Kept a b) (k : Kept b c) : Kept a c :=
  ⟨h.1.trans k.1, h.2.1.trans k.2.1, h.2.2.1.trans k.2.2.1, h.2.2.2.trans k.2.2.2⟩
theorem Kept.refl (a : State) : Kept a a := ⟨rfl, rfl, rfl, rfl⟩
theorem Kept.ite {c : Prop} [Decidable c] {a b s : State} (ha : Kept a s) (hb : Kept b s) : Kept (if c then a else b) s := by
  split
  · exact ha
  · exact hb

theorem Held.trans {a b c : State} (h : Held a b) (k : Held b c) : Held a c :=
  ⟨h.1.trans k.1, h.2.1.trans k.2.1, h.2.2.1.trans k.2.2.1, fun i => h.2.2.2 (k.2.2.2 i)⟩
theorem Held.refl (a : State) : Held a a := ⟨rfl, rfl, rfl, fun i => i⟩
theorem Held.ite {c : Prop} [Decidable c] {a b s : State} (ha : Held a s) (hb : Held b s) : Held (if c then a else b) s := by
  split
  · exact ha
  · exact hb
theorem Kept.held {a b : State} (h : Kept a b) : Held a b :=
  ⟨h.1, h.2.2.1, h.2.2.2, fun i => h.2.1 ▸ i⟩
theorem forEach_held {α : Type} (l : List α) (f : α → State → State) (s s' : State) (hs : Held s' s)
    (h : ∀ a u, Held (f a u) u) : Held (forEach l f s') s := by
  unfold forEach
  induction l generalizing s' with
  | nil => exact hs
  | cons a l ih => exact ih _ ((h a s').trans hs)
/-- Security state that keeps what the leaves' rules speak of keeps the rules. -/
theorem Sec.LeavesOk.congr {x y : Sec} (h : x.LeavesOk) (hi : y.issued = x.issued) (hb : y.block = x.block)
    (hc : y.cert = x.cert) (hr : y.otp.reserve = x.otp.reserve) : y.LeavesOk := by
  unfold Sec.LeavesOk at *
  rw [hi, hb, hc, hr]
  exact h
/-- A wipe of the OTP keeps the rules of the leaves. -/
theorem Sec.LeavesOk.reserve {x y : Sec} (h : x.LeavesOk) (hi : y.issued = x.issued) (hb : y.block = x.block)
    (hc : y.cert = x.cert) (hr : y.otp.reserve = x.otp.reserve ∨ y.otp.reserve = List.range 32768) : y.LeavesOk := by
  rcases hr with hr | hr
  · exact h.congr hi hb hc hr
  · unfold Sec.LeavesOk at *
    rw [hi, hb, hc, hr]
    refine ⟨h.1, List.pairwise_lt_range, fun b hm => List.mem_range.mp hm, fun b hm => ?_, h.2.2.2.2⟩
    exact List.mem_range.mpr (h.2.2.1 b (h.2.2.2.1 b hm))

@[simp] theorem updTile_keep (t : Nat) (f : Tile → Tile) (s : State) :
    Kept (updTile t f s) s := by
  simp [updTile]

@[simp] theorem updCluster_keep (c : Nat) (f : Cluster → Cluster) (s : State) :
    Kept (updCluster c f s) s := by
  simp [updCluster]

@[simp] theorem updStack_keep (k : Nat) (f : Stack → Stack) (s : State) :
    Kept (updStack k f s) s := by
  simp [updStack]

@[simp] theorem updSite_keep (n : Nat) (f : Site → Site) (s : State) :
    Kept (updSite n f s) s := by
  simp [updSite]

@[simp] theorem updCtx_keep (c : Nat) (f : Ctx → Ctx) (s : State) :
    Kept (updCtx c f s) s := by
  simp [updCtx]

@[simp] theorem updRing_keep (r : Nat) (f : Ring → Ring) (s : State) :
    Kept (updRing r f s) s := by
  simp [updRing]

@[simp] theorem updLive_keep (id : Nat) (f : Live → Live) (s : State) :
    Kept (updLive id f s) s := by
  simp [updLive]

@[simp] theorem updWalker_keep (p : Nat) (f : Walker → Walker) (s : State) :
    Kept (updWalker p f s) s := by
  simp [updWalker]

@[simp] theorem updPort_keep (n : Nat) (f : FabPort → FabPort) (s : State) :
    Kept (updPort n f s) s := by
  simp [updPort]

@[simp] theorem updFn_keep (f : Nat) (g : Fn → Fn) (s : State) :
    Kept (updFn f g s) s := by
  simp [updFn]

@[simp] theorem updPlz_keep (f : Plaza → Plaza) (s : State) :
    Kept (updPlz f s) s := by
  simp [updPlz]

@[simp] theorem updXlt_keep (f : Xlt → Xlt) (s : State) :
    Kept (updXlt f s) s := by
  simp [updXlt]

@[simp] theorem emit_keep (o : Out) (s : State) :
    Kept (emit o s) s := by
  simp [emit]

@[simp] theorem fresh_keep (s : State) :
    Kept (fresh s).2 s := by
  simp [fresh]

@[simp] theorem setReg_keep (k v : Nat) (s : State) :
    Kept (setReg k v s) s := by
  simp [setReg]

@[simp] theorem setRf_keep (k hi lo v : Nat) (s : State) :
    Kept (setRf k hi lo v s) s := by
  simp [setRf]

@[simp] theorem addRf_keep (k hi lo n : Nat) (s : State) :
    Kept (addRf k hi lo n s) s := by
  simp [addRf]

@[simp] theorem putFields_keep (k : Nat) (fs : List FieldInfo) (v : Nat) (s : State) :
    Kept (putFields k fs v s) s := by
  simp [putFields]

@[simp] theorem applyKey_keep (ap : Apply) (k : Nat) (s : State) :
    Kept (applyKey ap k s) s := by
  simp only [applyKey]
  split <;> simp

@[simp] theorem applyAll_keep (ap : Apply) (p : Nat → Bool) (s : State) :
    Kept (applyAll ap p s) s := by
  simp [applyAll]

@[simp] theorem setRc_keep (fn k : Nat) (r : RcReg) (s : State) :
    Kept (setRc fn k r s) s := by
  simp [setRc]

@[simp] theorem rcEvent_keep (k hi lo : Nat) (f : Nat → Nat) (s : State) :
    Kept (rcEvent k hi lo f s) s := by
  simp [rcEvent]

@[simp] theorem rcFlag_keep (k b : Nat) (s : State) :
    Kept (rcFlag k b s) s := by
  simp [rcFlag]

@[simp] theorem rcCount_keep (k hi lo n : Nat) (s : State) :
    Kept (rcCount k hi lo n s) s := by
  simp [rcCount]

@[simp] theorem sendVector_keep (f v : Nat) (s : State) :
    Kept (sendVector f v s) s := by
  simp [sendVector]

@[simp] theorem sendPending_keep (f : Nat) (s : State) :
    Kept (sendPending f s) s := by
  simp [sendPending]

@[simp] theorem syncGate_keep (f : Nat) (s : State) :
    Kept (syncGate f s) s := by
  simp [syncGate]

@[simp] theorem syncGates_keep (s : State) :
    Kept (syncGates s) s := by
  simp [syncGates]

@[simp] theorem syncStatus_keep (s : State) :
    Kept (syncStatus s) s := by
  simp [syncStatus]

@[simp] theorem syncUnit_keep (key : Nat) (s : State) :
    Kept (syncUnit key s) s := by
  simp [syncUnit]

@[simp] theorem rewriteUnits_keep (ch : List (Nat × (UnitRec → UnitRec))) (s : State) :
    Kept (rewriteUnits ch s) s := by
  simp [rewriteUnits]

@[simp] theorem unmark_keep (key : Nat) (s : State) :
    Kept (unmark key s) s := by
  simp only [unmark]
  repeat' first
    | (simp [*]; done)
    | split
    | refine forEach_keep _ _ _ _ ?_ (fun a u => ?_)

@[simp] theorem markUnit_keep (ty id st : Nat) (s : State) :
    Kept (markUnit ty id st s) s := by
  simp only [markUnit]
  repeat' first
    | (simp [*]; done)
    | split
    | refine forEach_keep _ _ _ _ ?_ (fun a u => ?_)

@[simp] theorem setStatus_keep (ty id st cause : Nat) (s : State) :
    Kept (setStatus ty id st cause s) s := by
  simp [setStatus]

@[simp] theorem recordMarked_keep (ty id cause : Nat) (s : State) :
    Kept (recordMarked ty id cause s) s := by
  simp only [recordMarked]
  repeat' first
    | (simp [*]; done)
    | split
    | refine forEach_keep _ _ _ _ ?_ (fun a u => ?_)

@[simp] theorem bumpEpoch_keep (s : State) :
    Kept (bumpEpoch s) s := by
  simp [bumpEpoch]

@[simp] theorem enterQuarWith_keep (us : List (Nat × Nat)) (cause : Nat) (f : UnitRec → UnitRec) (s : State) :
    Kept (enterQuarWith us cause f s) s := by
  simp only [enterQuarWith]
  repeat' first
    | (simp [*]; done)
    | split
    | refine forEach_keep _ _ _ _ ?_ (fun a u => ?_)

@[simp] theorem unisolate_keep (ty id : Nat) (s : State) :
    Kept (unisolate ty id s) s := by
  simp only [unisolate]
  repeat' first
    | (simp [*]; done)
    | split
    | refine forEach_keep _ _ _ _ ?_ (fun a u => ?_)

@[simp] theorem enterQuar_keep (us : List (Nat × Nat)) (cause : Nat) (s : State) :
    Kept (enterQuar us cause s) s := by
  simp [enterQuar]

@[simp] theorem toShadow_keep (off v : Nat) (s : State) :
    Kept (toShadow off v s) s := by
  simp [toShadow]

@[simp] theorem bumpCounter_keep (b i n : Nat) (s : State) :
    Kept (bumpCounter b i n s) s := by
  simp [bumpCounter]

@[simp] theorem countEvent_keep (b ev : Nat) (ctx cls : Option Nat) (pv : Option (Nat × Nat)) (n : Nat) (s : State) :
    Kept (countEvent b ev ctx cls pv n s) s := by
  simp [countEvent]

@[simp] theorem countUnits_keep (b p n : Nat) (s : State) :
    Kept (countUnits b p n s) s := by
  simp [countUnits]

end Sys2Proof.Machine
end

