-- ==== Sys2Proof/Laws/KeptMemory.lean ====
section
/-!
SUPPORT. What the functions of Machine/Memory.lean leave alone: one lemma each, in the terms of Safety.lean (`Kept`, `Held`).
-/
namespace Sys2Proof.Machine

@[simp] theorem noteMark_keep (raise : Raise) (k a : Nat) (was is : Bool) (s : State) (hraise : ∀ c k ws u, Kept (raise c k ws u) u) :
    Kept (noteMark raise k a was is s) s := by
  simp only [noteMark]
  repeat' first
    | (simp [*]; done)
    | split

@[simp] theorem noteNotOn_keep (raise : Raise) (k source : Nat) (s : State) (hraise : ∀ c k ws u, Kept (raise c k ws u) u) :
    Kept (noteNotOn raise k source s) s := by
  simp only [noteNotOn]
  repeat' first
    | (simp [*]; done)
    | split

@[simp] theorem tracked_keep (raise : Raise) (k a : Nat) (f : State → State) (s : State)
    (hraise : ∀ c k ws u, Kept (raise c k ws u) u) (hf : ∀ u, Kept (f u) u) : Kept (tracked raise k a f s) s := by
  simp only [tracked]
  have := hf s
  simp_all

@[simp] theorem putDram_keep (k a : Nat) (d : UnitData) (m : Option Mark) (s : State) :
    Kept (putDram k a d m s) s := by
  simp [putDram]

@[simp] theorem clearMark_keep (k a : Nat) (s : State) :
    Kept (clearMark k a s) s := by
  simp [clearMark]

@[simp] theorem countBonds_keep (k a : Nat) (symbols : List Nat) (s : State) :
    Kept (countBonds k a symbols s) s := by
  simp [countBonds]

@[simp] theorem convertPoison_keep (raise : Raise) (k a source : Nat) (s : State) (hraise : ∀ c k ws u, Kept (raise c k ws u) u) :
    Kept (convertPoison raise k a source s).2 s := by
  simp only [convertPoison]
  repeat' first
    | (simp [*]; done)
    | split

@[simp] theorem readUnit_keep (raise : Raise) (k a : Nat) (ev : EccOutcome) (s : State) (hraise : ∀ c k ws u, Kept (raise c k ws u) u) :
    Kept (readUnit raise k a ev s).2 s := by
  simp only [readUnit]
  repeat' first
    | (simp [*]; done)
    | split

@[simp] theorem readOut_keep (raise : Raise) (k a src : Nat) (look : Nat → Nat → State → (UnitData × Option Mark) × State)
    (s : State) (hraise : ∀ c k ws u, Kept (raise c k ws u) u) (hlook : ∀ k a u, Kept (look k a u).2 u) :
    Kept (readOut raise k a src look s).2 s := by
  simp only [readOut]
  repeat' first
    | (simp [*]; done)
    | split

@[simp] theorem memLook_keep (raise : Raise) (k a : Nat) (s : State) (hraise : ∀ c k ws u, Kept (raise c k ws u) u) :
    Kept (memLook raise k a s).2 s := by
  simp only [memLook]
  repeat' first
    | (simp [*]; done)
    | split

@[simp] theorem healUnit_keep (raise : Raise) (n k a : Nat) (d : UnitData) (s : State) (hraise : ∀ c k ws u, Kept (raise c k ws u) u) :
    Kept (healUnit raise n k a d s) s := by
  simp only [healUnit]
  repeat' first
    | (simp [*]; done)
    | split

@[simp] theorem memRead_keep (raise : Raise) (k a : Nat) (ev ev2 : EccOutcome) (s : State) (hraise : ∀ c k ws u, Kept (raise c k ws u) u) :
    Kept (memRead raise k a ev ev2 s).2 s := by
  simp only [memRead]
  repeat' first
    | (simp [*]; done)
    | split

@[simp] theorem dropWrite_keep (raise : Raise) (k src : Nat) (s : State) (hraise : ∀ c k ws u, Kept (raise c k ws u) u) :
    Kept (dropWrite raise k src s) s := by
  simp only [dropWrite]
  repeat' first
    | (simp [*]; done)
    | split

@[simp] theorem memWrite_keep (raise : Raise) (k a : Nat) (d : UnitData) (m : Option Mark) (symbols : List Nat) (s : State) (hraise : ∀ c k ws u, Kept (raise c k ws u) u) :
    Kept (memWrite raise k a d m symbols s) s := by
  simp only [memWrite]
  repeat' first
    | (simp [*]; done)
    | split

@[simp] theorem holdMem_keep (k : Nat) (h : HeldMem) (s : State) :
    Kept (holdMem k h s) s := by
  simp [holdMem]

@[simp] theorem hubWrite_keep (raise : Raise) (k a : Nat) (d : UnitData) (m : Option Mark) (s : State) (hraise : ∀ c k ws u, Kept (raise c k ws u) u) :
    Kept (hubWrite raise k a d m s) s := by
  simp only [hubWrite]
  repeat' first
    | (simp [*]; done)
    | split

@[simp] theorem setPline_keep (lk : Nat) (l : PLine) (s : State) :
    Kept (setPline lk l s) s := by
  simp [setPline]

@[simp] theorem homeUnit_keep (raise : Raise) (lk u : Nat) (s : State) (hraise : ∀ c k ws u, Kept (raise c k ws u) u) :
    Kept (homeUnit raise lk u s).2 s := by
  simp only [homeUnit]
  repeat' first
    | (simp [*]; done)
    | split
    | refine forEach_keep _ _ _ _ ?_ (fun a u => ?_)

@[simp] theorem allocLine_keep (raise : Raise) (lk : Nat) (s : State) (hraise : ∀ c k ws u, Kept (raise c k ws u) u) :
    Kept (allocLine raise lk s) s := by
  simp only [allocLine]
  repeat' first
    | (simp [*]; done)
    | split
    | refine forEach_keep _ _ _ _ ?_ (fun a u => ?_)

@[simp] theorem storeUnitAt_keep (raise : Raise) (lk u : Nat) (d : UnitData) (m : Option Mark) (dirty : Bool) (s : State) (hraise : ∀ c k ws u, Kept (raise c k ws u) u) :
    Kept (storeUnitAt raise lk u d m dirty s) s := by
  refine tracked_keep _ _ _ _ _ hraise (fun u => ?_)
  repeat' first
    | (simp [*]; done)
    | split

@[simp] theorem mergeUnit_keep (raise : Raise) (stream : Bool) (lk u : Nat) (d : UnitData) (mask : Nat) (m : Option Mark) (s : State) (hraise : ∀ c k ws u, Kept (raise c k ws u) u) :
    Kept (mergeUnit raise stream lk u d mask m s) s := by
  simp only [mergeUnit]
  repeat' first
    | (simp [*]; done)
    | split

@[simp] theorem mergeLine_keep (raise : Raise) (lk : Nat) (d : LineData) (mask : Nat) (m0 m1 : Option Mark) (hint : Nat) (s : State) (hraise : ∀ c k ws u, Kept (raise c k ws u) u) :
    Kept (mergeLine raise lk d mask m0 m1 hint s) s := by
  simp only [mergeLine]
  repeat' first
    | (simp [*]; done)
    | split

@[simp] theorem homeWrite_keep (raise : Raise) (lk : Nat) (d : LineData) (mask : Nat) (m0 m1 : Option Mark) (hint : Nat) (mirror : Bool) (s : State) (hraise : ∀ c k ws u, Kept (raise c k ws u) u) :
    Kept (homeWrite raise lk d mask m0 m1 hint mirror s) s := by
  simp only [homeWrite]
  repeat' first
    | (simp [*]; done)
    | split

@[simp] theorem homeRead_keep (raise : Raise) (lk u : Nat) (s : State) (hraise : ∀ c k ws u, Kept (raise c k ws u) u) :
    Kept (homeRead raise lk u s).2 s := by
  simp only [homeRead]
  repeat' first
    | (simp [*]; done)
    | split
    | refine forEach_keep _ _ _ _ ?_ (fun a u => ?_)

@[simp] theorem cleanLine_keep (raise : Raise) (lk : Nat) (s : State) (hraise : ∀ c k ws u, Kept (raise c k ws u) u) :
    Kept (cleanLine raise lk s) s := by
  simp only [cleanLine]
  repeat' first
    | (simp [*]; done)
    | split

@[simp] theorem dropLine_keep (lk : Nat) (s : State) :
    Kept (dropLine lk s) s := by
  simp [dropLine]

@[simp] theorem giveLine_keep (lk : Nat) (s : State) :
    Kept (giveLine lk s) s := by
  simp only [giveLine]
  repeat' first
    | (simp [*]; done)
    | split

end Sys2Proof.Machine
end

