-- ==== Sys2Proof/Laws/KeptAccess.lean ====
section
/-!
SUPPORT. What the functions of Machine/Access.lean leave alone: one lemma each, in the terms of Safety.lean (`Kept`, `Held`).
-/
namespace Sys2Proof.Machine

@[simp] theorem syncTracker_keep (p : Nat) (s : State) :
    Kept (syncTracker p s) s := by
  simp [syncTracker]

@[simp] theorem setTxns_keep (lk : Nat) (f : List Txn → List Txn) (s : State) :
    Kept (setTxns lk f s) s := by
  simp [setTxns]

@[simp] theorem postTxn_keep (kind : TKind) (req : Req) (lk : Nat) (d : LineData) (mask : BitVec 128) (m0 m1 : Option Mark) (hint : Nat) (mirror : Bool) (s : State) :
    Kept (postTxn kind req lk d mask m0 m1 hint mirror s) s := by
  simp [postTxn]

@[simp] theorem putFlit_keep (n k : Nat) (f : Flit) (s : State) :
    Kept (putFlit n k f s) s := by
  simp only [putFlit]
  repeat' first
    | (simp [*]; done)
    | split
    | refine forEach_keep _ _ _ _ ?_ (fun a u => ?_)

@[simp] theorem sendIdle_keep (n : Nat) (nak : Bool) (s : State) :
    Kept (sendIdle n nak s) s := by
  simp only [sendIdle]
  repeat' first
    | (simp [*]; done)
    | split
    | refine forEach_keep _ _ _ _ ?_ (fun a u => ?_)

@[simp] theorem placeFlit_keep (n : Nat) (f : Flit) (s : State) :
    Kept (placeFlit n f s) s := by
  simp only [placeFlit]
  repeat' first
    | (simp [*]; done)
    | split
    | refine forEach_keep _ _ _ _ ?_ (fun a u => ?_)

@[simp] theorem transmit_keep (n : Nat) (m : KMsg) (u : UnitData) (s : State) :
    Kept (transmit n m u s) s := by
  simp [transmit]

@[simp] theorem flushHeld_keep (n : Nat) (s : State) :
    Kept (flushHeld n s) s := by
  simp [flushHeld]

@[simp] theorem toSite_keep (n : Nat) (m : KMsg) (u : UnitData) (s : State) :
    Kept (toSite n m u s) s := by
  simp [toSite]

@[simp] theorem tgtSend_keep (n : Nat) (who : Who) (key : Tgt) (write : Bool) (d : UnitData) (mask : Nat) (m : Option Mark) (s : State) :
    Kept (tgtSend n who key write d mask m s) s := by
  simp [tgtSend]

@[simp] theorem windowMiss_keep (raise : Raise) (w off : Nat) (write : Bool) (s : State) (hraise : ∀ c k ws u, Kept (raise c k ws u) u) :
    Kept (windowMiss raise w off write s) s := by
  simp only [windowMiss]
  repeat' first
    | (simp [*]; done)
    | split

@[simp] theorem hostPost_keep (f addr : Nat) (bytes : List Byte) (poisoned : Bool) (s : State) :
    Kept (hostPost f addr bytes poisoned s) s := by
  simp [hostPost]

@[simp] theorem hostUnit_keep (raise : Raise) (w off : Nat) (d : UnitData) (mask : Nat) (m : Option Mark) (s : State) (hraise : ∀ c k ws u, Kept (raise c k ws u) u) :
    Kept (hostUnit raise w off d mask m s) s := by
  simp only [hostUnit]
  repeat' first
    | (simp [*]; done)
    | split

@[simp] theorem oweUnits_keep (n c u : Nat) (s : State) :
    Kept (oweUnits n c u s) s := by
  simp only [oweUnits]
  repeat' first
    | (simp [*]; done)
    | split
    | refine forEach_keep _ _ _ _ ?_ (fun a u => ?_)

@[simp] theorem sendFabIdle_keep (n : Nat) (nak : Bool) (s : State) :
    Kept (sendFabIdle n nak s) s := by
  simp only [sendFabIdle]
  repeat' first
    | (simp [*]; done)
    | split
    | refine forEach_keep _ _ _ _ ?_ (fun a u => ?_)

@[simp] theorem sendFabFlit_keep (n : Nat) (s : State) :
    Kept (sendFabFlit n s) s := by
  simp only [sendFabFlit]
  repeat' first
    | (simp [*]; done)
    | split
    | refine forEach_keep _ _ _ _ ?_ (fun a u => ?_)

@[simp] theorem drainTx_keep (n : Nat) (all : Bool) (fuel : Nat) (s : State) : Kept (drainTx n all fuel s) s := by
  induction fuel generalizing s with
  | zero => simp [drainTx]
  | succ k ih =>
    simp only [drainTx]
    repeat' first
      | (simp [ih]; done)
      | split

@[simp] theorem kflTransmit_keep (n : Nat) (m : KflMsg) (s : State) :
    Kept (kflTransmit n m s) s := by
  simp [kflTransmit]

@[simp] theorem kflFlush_keep (n : Nat) (s : State) :
    Kept (kflFlush n s) s := by
  simp [kflFlush]

@[simp] theorem kflSend_keep (out : Nat) (m : KflMsg) (s : State) :
    Kept (kflSend out m s) s := by
  simp [kflSend]

theorem remoteSend_keep {who : Who} {node win off msg units cls : Nat} {payload : List UnitData} {m : List (Option Mark)} {s : State} {r : Bool × State} (h : remoteSend who node win off msg units cls payload m s = some r) :
    Kept r.2 s := by
  simp only [remoteSend] at h
  repeat' first
    | (cases h; done)
    | split at h
    | (cases h; simp [*]; done)
    | (cases h; simp)

@[simp] theorem arrive_keep (who : Who) (key : Tgt) (d : UnitData) (m : Option Mark) (s : State) :
    Kept (arrive who key d m s) s := by
  simp [arrive]

theorem takeArrival_keep {who : Who} {key : Tgt} {s : State} {r : (UnitData × Option Mark) × State} (h : takeArrival who key s = some r) :
    Kept r.2 s := by
  simp only [takeArrival] at h
  repeat' first
    | (cases h; done)
    | split at h
    | (cases h; simp [*]; done)
    | (cases h; simp)

@[simp] theorem askUnits_keep (who : Who) (key : Tgt) (n : Nat) (s : State) :
    Kept (askUnits who key n s) s := by
  simp [askUnits]

@[simp] theorem countLookup_keep (ctx : Option Nat) (lk : Nat) (s : State) :
    Kept (countLookup ctx lk s) s := by
  simp [countLookup]

@[simp] theorem agentRead_keep (raise : Raise) (who : Who) (key : Tgt) (more cls : Nat) (s : State) (hraise : ∀ c k ws u, Kept (raise c k ws u) u) :
    Kept (agentRead raise who key more cls s).2 s := by
  simp only [agentRead]
  repeat' first
    | (simp [*]; done)
    | (split <;> try (first
        | (rename_i hq; have h1 := congrArg (fun p => p.2.pending) hq; have h2 := congrArg (fun p => p.2.sec) hq; have h3 := congrArg (fun p => p.2.boot.tilesAt) hq; have h4 := congrArg (fun p => p.2.boot.digest) hq; simp at h1 h2 h3 h4)
        | (rename_i hq; have h1 := congrArg (fun p => p.2.2.pending) hq; have h2 := congrArg (fun p => p.2.2.sec) hq; have h3 := congrArg (fun p => p.2.2.boot.tilesAt) hq; have h4 := congrArg (fun p => p.2.2.boot.digest) hq; simp at h1 h2 h3 h4)))
    | refine forEach_keep _ _ _ _ ?_ (fun a u => ?_)
    | (simp_all; done)
    | (have hk := remoteSend_keep (by assumption); simp_all; done)
    | (have hk := takeArrival_keep (by assumption); simp_all; done)
    | (rename_i hq; split at hq)
    | simp

@[simp] theorem agentAtomic_keep (who : Who) (node win o cls : Nat) (payload : UnitData) (s : State) :
    Kept (agentAtomic who node win o cls payload s).2 s := by
  simp only [agentAtomic]
  repeat' first
    | (simp [*]; done)
    | (split <;> try (first
        | (rename_i hq; have h1 := congrArg (fun p => p.2.pending) hq; have h2 := congrArg (fun p => p.2.sec) hq; have h3 := congrArg (fun p => p.2.boot.tilesAt) hq; have h4 := congrArg (fun p => p.2.boot.digest) hq; simp at h1 h2 h3 h4)
        | (rename_i hq; have h1 := congrArg (fun p => p.2.2.pending) hq; have h2 := congrArg (fun p => p.2.2.sec) hq; have h3 := congrArg (fun p => p.2.2.boot.tilesAt) hq; have h4 := congrArg (fun p => p.2.2.boot.digest) hq; simp at h1 h2 h3 h4)))
    | refine forEach_keep _ _ _ _ ?_ (fun a u => ?_)
    | (simp_all; done)
    | (have hk := remoteSend_keep (by assumption); simp_all; done)
    | (have hk := takeArrival_keep (by assumption); simp_all; done)
    | (rename_i hq; split at hq)
    | simp

@[simp] theorem storeLine_keep (raise : Raise) (who : Who) (lk : Nat) (d : LineData) (mask : Nat) (m0 m1 : Option Mark) (hint : Nat) (mirror : Bool) (s : State) (hraise : ∀ c k ws u, Kept (raise c k ws u) u) :
    Kept (storeLine raise who lk d mask m0 m1 hint mirror s).2 s := by
  simp only [storeLine]
  repeat' first
    | (simp [*]; done)
    | split

@[simp] theorem storeUnit_keep (raise : Raise) (who : Who) (key : Tgt) (d : UnitData) (mask : Nat) (m : Option Mark) (cls : Nat) (s : State) (hraise : ∀ c k ws u, Kept (raise c k ws u) u) :
    Kept (storeUnit raise who key d mask m cls s).2 s := by
  simp only [storeUnit]
  repeat' first
    | (simp [*]; done)
    | (split <;> try (first
        | (rename_i hq; have h1 := congrArg (fun p => p.2.pending) hq; have h2 := congrArg (fun p => p.2.sec) hq; have h3 := congrArg (fun p => p.2.boot.tilesAt) hq; have h4 := congrArg (fun p => p.2.boot.digest) hq; simp at h1 h2 h3 h4)
        | (rename_i hq; have h1 := congrArg (fun p => p.2.2.pending) hq; have h2 := congrArg (fun p => p.2.2.sec) hq; have h3 := congrArg (fun p => p.2.2.boot.tilesAt) hq; have h4 := congrArg (fun p => p.2.2.boot.digest) hq; simp at h1 h2 h3 h4)))
    | refine forEach_keep _ _ _ _ ?_ (fun a u => ?_)
    | (simp_all; done)
    | (have hk := remoteSend_keep (by assumption); simp_all; done)
    | (rename_i hq; split at hq)
    | simp

@[simp] theorem agentStore_keep (raise : Raise) (who : Who) (mark : Nat → Option Mark) (hint cls : Nat) (mirror : Bool)
    (hraise : ∀ c k ws u, Kept (raise c k ws u) u)
    (fuel i : Nat) (key : Tgt) (bytes : List Byte) (s : State) :
    Kept ((agentStore raise who mark hint cls mirror fuel i key bytes s).2) s := by
  induction fuel generalizing i key bytes s with
  | zero => simp [agentStore]
  | succ n ih =>
    cases bytes with
    | nil => simp [agentStore]
    | cons b bs =>
      unfold agentStore
      cases key with
      | stacked k a => exact (ih ..).trans (storeLine_keep _ _ _ _ _ _ _ _ _ _ hraise)
      | remote node win o =>
        refine (ih ..).trans ?_
        split
        · split
          · exact Kept.refl _
          · rename_i hq
            exact remoteSend_keep hq
          · rename_i hq
            exact remoteSend_keep hq
        · exact storeUnit_keep _ _ _ _ _ _ _ _ hraise
      | _ => exact (ih ..).trans (storeUnit_keep _ _ _ _ _ _ _ _ hraise)

@[simp] theorem storeBytes_keep (raise : Raise) (who : Who) (key : Tgt) (bytes : List Byte) (hint cls : Nat) (mirror : Bool) (s : State) (hraise : ∀ c k ws u, Kept (raise c k ws u) u) :
    Kept (storeBytes raise who key bytes hint cls mirror s).2 s := by
  simp only [storeBytes]
  repeat' first
    | (simp [*]; done)
    | split

@[simp] theorem ackWrite_keep (who : Who) (fail : Option Nat) (s : State) :
    Kept (ackWrite who fail s) s := by
  simp only [ackWrite]
  repeat' first
    | (simp [*]; done)
    | split

end Sys2Proof.Machine
end

