-- ==== Sys2Proof/Laws/KeptRecords.lean ====
section
/-!
SUPPORT. What the functions of Machine/Records.lean leave alone: one lemma each, in the terms of Safety.lean (`Kept`, `Held`).
-/
namespace Sys2Proof.Machine

@[simp] theorem storeHeld_keep (raise : Raise) (who : Who) (e : CacheEnt) (va : Nat) (bytes : List Byte) (s : State) (hraise : ∀ c k ws u, Kept (raise c k ws u) u) :
    Kept (storeHeld raise who e va bytes s) s := by
  simp only [storeHeld]
  repeat' first
    | (simp [*]; done)
    | split
    | refine forEach_keep _ _ _ _ ?_ (fun a u => ?_)

@[simp] theorem dropOp_keep (s : State) :
    Kept (dropOp s) s := by
  simp [dropOp]

@[simp] theorem keepRecord_keep (r : Rec) (s : State) :
    Kept (keepRecord r s) s := by
  simp [keepRecord]

@[simp] theorem quietRaise_keep (c : Nat) (k : Bool) (ws : List Nat) (u : State) :
    Kept (quietRaise c k ws u) u := by
  simp only [quietRaise]
  split <;> simp

@[simp] theorem writeOp_keep (r : Rec) (s : State) :
    Kept (writeOp r s) s := by
  simp [writeOp]

@[simp] theorem placeLost_keep (s : State) :
    Kept (placeLost s) s := by
  simp [placeLost]

@[simp] theorem drainKept_keep (n : Nat) (s : State) :
    Kept ((drainKept n s)) s := by
  induction n generalizing s with
  | zero => simp [drainKept]
  | succ n ih =>
    simp only [drainKept]
    repeat' first
      | (simp [*]; done)
      | split

@[simp] theorem opRecord_keep (code : Nat) (kept : Bool) (words : List Nat) (s : State) :
    Kept (opRecord code kept words s) s := by
  simp [opRecord]

@[simp] theorem serviceRequest_keep (ty id cause action : Nat) (s : State) :
    Kept (serviceRequest ty id cause action s) s := by
  simp [serviceRequest]

@[simp] theorem fltArea_keep (c : Nat) (s : State) :
    Kept (fltArea c s).2 s := by
  simp only [fltArea]
  repeat' first
    | (simp [*]; done)
    | split

@[simp] theorem writeFlt_keep (c : Nat) (e : CacheEnt) (r : Rec) (s : State) :
    Kept (writeFlt c e r s) s := by
  simp [writeFlt]

@[simp] theorem dropFlt_keep (c : Nat) (s : State) :
    Kept (dropFlt c s) s := by
  simp [dropFlt]

@[simp] theorem deliverEntry_keep (p i : Nat) (e : Pft) (s : State) :
    Kept (deliverEntry p i e s) s := by
  simp only [deliverEntry]
  repeat' first
    | (simp [*]; done)
    | split

@[simp] theorem deliverWaiting_keep (c : Nat) (s : State) :
    Kept (deliverWaiting c s) s := by
  simp only [deliverWaiting]
  refine forEach_keep _ _ _ _ (by simp) (fun p u => forEach_keep _ _ _ _ (by simp) (fun i v => ?_))
  repeat' first
    | (simp; done)
    | split

@[simp] theorem ctxRecord_keep (c code : Nat) (words : List Nat) (s : State) :
    Kept (ctxRecord c code words s) s := by
  simp only [ctxRecord]
  repeat' first
    | (simp [*]; done)
    | (split <;> try (first
        | (rename_i hq; have h1 := congrArg (fun p => p.2.pending) hq; have h2 := congrArg (fun p => p.2.sec) hq; have h3 := congrArg (fun p => p.2.boot.tilesAt) hq; have h4 := congrArg (fun p => p.2.boot.digest) hq; simp at h1 h2 h3 h4)
        | (rename_i hq; have h1 := congrArg (fun p => p.2.2.pending) hq; have h2 := congrArg (fun p => p.2.2.sec) hq; have h3 := congrArg (fun p => p.2.2.boot.tilesAt) hq; have h4 := congrArg (fun p => p.2.2.boot.digest) hq; simp at h1 h2 h3 h4)))
    | refine forEach_keep _ _ _ _ ?_ (fun a u => ?_)
    | (simp_all; done)
    | (rename_i hq; split at hq)
    | simp

end Sys2Proof.Machine
end

