-- ==== Sys2Proof/Laws/KeptTranslate.lean ====
section
/-!
SUPPORT. What the functions of Machine/Translate.lean leave alone: one lemma each, in the terms of Safety.lean (`Kept`, `Held`).
-/
namespace Sys2Proof.Machine

@[simp] theorem updCache_keep (who : Who) (f : List CacheEnt → List CacheEnt) (s : State) :
    Kept (updCache who f s) s := by
  simp only [updCache]
  split <;> simp

@[simp] theorem forget_keep (who : Who) (ctx va : Nat) (s : State) :
    Kept (forget who ctx va s) s := by
  simp [forget]

@[simp] theorem stallFault_keep (who : Who) (ctx va : Nat) (acc : AccKind) (cause : XFault) (level : Nat) (s : State) :
    Kept (stallFault who ctx va acc cause level s) s := by
  simp [stallFault]

@[simp] theorem countCtc_keep (who : Who) (ctx ev : Nat) (s : State) :
    Kept (countCtc who ctx ev s) s := by
  simp only [countCtc]
  split <;> simp

@[simp] theorem xlate_keep (who : Who) (ctx va : Nat) (acc : AccKind) (s : State) :
    Kept (xlate who ctx va acc s).2 s := by
  simp only [xlate]
  repeat' first
    | (simp [*]; done)
    | split

@[simp] theorem walkEntry_keep (p k : Nat) (w : Walk) (e : Option Nat) (s : State) :
    Kept (walkEntry p k w e s) s := by
  simp only [walkEntry]
  repeat' first
    | (simp [*]; done)
    | split

@[simp] theorem syncLive_keep (p : Nat) (s : State) :
    Kept (syncLive p s) s := by
  simp [syncLive]

@[simp] theorem freePft_keep (p i : Nat) (s : State) :
    Kept (freePft p i s) s := by
  simp [freePft]

@[simp] theorem clearBits_keep (p : Nat) (gone : List (Nat × Nat × Nat)) (s : State) :
    Kept (clearBits p gone s) s := by
  simp [clearBits]

@[simp] theorem trimWalks_keep (s : State) :
    Kept (trimWalks s) s := by
  simp [trimWalks]

@[simp] theorem endStalls_keep (q : Who → Nat → Bool) (s : State) :
    Kept (endStalls q s) s := by
  simp [endStalls]

@[simp] theorem leaveStalls_keep (q : Who → Nat → Bool) (s : State) :
    Kept (leaveStalls q s) s := by
  simp [leaveStalls]

@[simp] theorem dropArrivals_keep (q : Who → Bool) (s : State) :
    Kept (dropArrivals q s) s := by
  simp [dropArrivals]

@[simp] theorem leaveFaults_keep (q : Who → Nat → Bool) (s : State) :
    Kept (leaveFaults q s) s := by
  simp [leaveFaults]

@[simp] theorem dropFaults_keep (ctx : Nat) (s : State) :
    Kept (dropFaults ctx s) s := by
  simp [dropFaults]

end Sys2Proof.Machine
end

