-- ==== Sys2Proof/Laws/KeptCoherence.lean ====
section
/-!
SUPPORT. What the functions of Machine/Coherence.lean leave alone: one lemma each, in the terms of Safety.lean (`Kept`, `Held`).
-/
namespace Sys2Proof.Machine

@[simp] theorem updTxn_keep (id : Nat) (f : Txn → Txn) (s : State) :
    Kept (updTxn id f s) s := by
  simp [updTxn]

@[simp] theorem endTxn_keep (t : Txn) (s : State) :
    Kept (endTxn t s) s := by
  simp [endTxn]

@[simp] theorem sendMsg_keep (m : CMsg) (s : State) :
    Kept (sendMsg m s) s := by
  simp [sendMsg]

@[simp] theorem syncOwners_keep (p : Nat) (s : State) :
    Kept (syncOwners p s) s := by
  simp [syncOwners]

@[simp] theorem ownLine_keep (lk n : Nat) (s : State) :
    Kept (ownLine lk n s) s := by
  simp [ownLine]

@[simp] theorem freeOwner_keep (lk : Nat) (s : State) :
    Kept (freeOwner lk s) s := by
  simp [freeOwner]

@[simp] theorem protocolError_keep (n msg : Nat) (s : State) :
    Kept (protocolError n msg s) s := by
  simp [protocolError]

@[simp] theorem storeReturn_keep (lk u : Nat) (d : UnitData) (m : Option Mark) (dirty : Bool) (s : State) :
    Kept (storeReturn lk u d m dirty s) s := by
  simp only [storeReturn]
  split <;> simp

@[simp] theorem poisonLine_keep (lk : Nat) (s : State) :
    Kept (poisonLine lk s) s := by
  simp [poisonLine]

@[simp] theorem readLine_keep (lk : Nat) (us : List Nat) (s : State) :
    Kept (readLine lk us s).2.2 s := by
  simp only [readLine]
  repeat' first
    | (simp [*]; done)
    | split

@[simp] theorem doAtomic_keep (lk off w op x cmp : Nat) (mirror : Bool) (s : State) :
    Kept (doAtomic lk off w op x cmp mirror s).2 s := by
  simp only [doAtomic]
  repeat' first
    | (simp [*]; done)
    | split
    | refine forEach_keep _ _ _ _ ?_ (fun a u => ?_)

@[simp] theorem mergeTxn_keep (t : Txn) (s : State) :
    Kept (mergeTxn t s) s := by
  simp only [mergeTxn]
  repeat' first
    | (simp [*]; done)
    | split

@[simp] theorem awaitMem_keep (t : Txn) (s : State) :
    Kept (awaitMem t s) s := by
  simp [awaitMem]

@[simp] theorem ackTxn_keep (t : Txn) (s : State) :
    Kept (ackTxn t s) s := by
  simp only [ackTxn]
  split <;> simp

@[simp] theorem evictLine_keep (l : Nat) (s : State) :
    Kept (evictLine l s) s := by
  simp [evictLine]

@[simp] theorem serveTxn_keep (t : Txn) (fwd : Bool) (s : State) :
    Kept (serveTxn t fwd s) s := by
  simp only [serveTxn]
  repeat' first
    | (simp [*]; done)
    | split

@[simp] theorem unowned_keep (t : Txn) (fwd : Bool) (s : State) :
    Kept (unowned t fwd s) s := by
  simp [unowned]

@[simp] theorem updAgentReq_keep (n txn : Nat) (f : AgentReq → AgentReq) (s : State) :
    Kept (updAgentReq n txn f s) s := by
  simp [updAgentReq]

@[simp] theorem countRequest_keep (t : Txn) (s : State) :
    Kept (countRequest t s) s := by
  simp only [countRequest]
  split <;> simp

@[simp] theorem snoopOwner_keep (t : Txn) (k : Nat) (s : State) :
    Kept (snoopOwner t k s) s := by
  simp only [snoopOwner]
  repeat' first
    | (simp [*]; done)
    | split

@[simp] theorem plazaUe_keep (lk u : Nat) (s : State) :
    Kept (plazaUe lk u s) s := by
  simp only [plazaUe]
  split <;> simp

@[simp] theorem absorbTxn_keep (t : Txn) (s : State) :
    Kept (absorbTxn t s) s := by
  simp only [absorbTxn]
  repeat' first
    | (simp [*]; done)
    | split
    | refine forEach_keep _ _ _ _ ?_ (fun a u => ?_)

@[simp] theorem failPlaza_keep (p cause : Nat) (s : State) :
    Kept (failPlaza p cause s) s := by
  simp [failPlaza]

@[simp] theorem putBefore_keep (t : Txn) (kind : TKind) (l : Nat) (s : State) :
    Kept (putBefore t kind l s) s := by
  simp only [putBefore]
  repeat' first
    | (simp [*]; done)
    | split
    | refine forEach_keep _ _ _ _ ?_ (fun a u => ?_)

@[simp] theorem lookUp_keep (t : Txn) (ev : HomeEv) (s : State) :
    Kept (lookUp t ev s) s := by
  simp only [lookUp]
  repeat' first
    | (simp [*]; done)
    | split
    | refine forEach_keep _ _ _ _ ?_ (fun a u => ?_)

@[simp] theorem unownedOrSnoop_keep (t : Txn) (s : State) :
    Kept (unownedOrSnoop t s) s := by
  simp only [unownedOrSnoop]
  repeat' first
    | (simp [*]; done)
    | split
    | refine forEach_keep _ _ _ _ ?_ (fun a u => ?_)

@[simp] theorem startBefore_keep (t : Txn) (kind : TKind) (l : Nat) (s : State) :
    Kept (startBefore t kind l s) s := by
  simp only [startBefore]
  repeat' first
    | (simp [*]; done)
    | split
    | refine forEach_keep _ _ _ _ ?_ (fun a u => ?_)

@[simp] theorem startRecall_keep (t : Txn) (l : Nat) (s : State) :
    Kept (startRecall t l s) s := by
  simp only [startRecall]
  repeat' first
    | (simp [*]; done)
    | split
    | refine forEach_keep _ _ _ _ ?_ (fun a u => ?_)

theorem makeRoom_keep (t : Txn) (l : Nat) (choice : Option Nat) (go : State → State) (s : State)
    (hgo : ∀ u, Kept (go u) u) : Kept (makeRoom t l choice go s) s := by
  simp only [makeRoom]
  repeat' first
    | (simp [*]; done)
    | split

@[simp] theorem carryOut_keep (t : Txn) (s : State) :
    Kept (carryOut t s) s := by
  simp only [carryOut]
  repeat' first
    | (simp [*]; done)
    | split
    | refine forEach_keep _ _ _ _ ?_ (fun a u => ?_)

@[simp] theorem beginTxn_keep (t : Txn) (choice : Option Nat) (s : State) :
    Kept (beginTxn t choice s) s := by
  simp only [beginTxn]
  split
  · refine makeRoom_keep _ _ _ _ _ (fun u => ?_)
    split <;> simp
  · simp

@[simp] theorem recallLine_keep (lk : Nat) (s : State) :
    Kept (recallLine lk s) s := by
  simp only [recallLine]
  repeat' first
    | (simp [*]; done)
    | split
    | refine forEach_keep _ _ _ _ ?_ (fun a u => ?_)

@[simp] theorem startTxn_keep (t : Txn) (ev : HomeEv) (s : State) :
    Kept (startTxn t ev s) s := by
  simp only [startTxn]
  repeat' first
    | (simp [*]; done)
    | split
    | refine forEach_keep _ _ _ _ ?_ (fun a u => ?_)

@[simp] theorem startIf_keep (q : TKind → Bool) (lk : Nat) (ev : HomeEv) (s : State) :
    Kept (startIf q lk ev s) s := by
  simp only [startIf]
  repeat' first
    | (simp [*]; done)
    | split
    | refine forEach_keep _ _ _ _ ?_ (fun a u => ?_)

@[simp] theorem compFwd_keep (t : Txn) (m : Option Mark) (s : State) :
    Kept (compFwd t m s) s := by
  simp [compFwd]

@[simp] theorem afterSnoop_keep (t : Txn) (gone : Bool) (s : State) :
    Kept (afterSnoop t gone s) s := by
  simp only [afterSnoop]
  repeat' first
    | (simp [*]; done)
    | split
    | refine forEach_keep _ _ _ _ ?_ (fun a u => ?_)

@[simp] theorem snpRsp_keep (n txn : Nat) (toReq toHome : Bool) (left : Nat) (s : State) :
    Kept (snpRsp n txn toReq toHome left s) s := by
  simp only [snpRsp]
  repeat' first
    | (simp [*]; done)
    | split
    | refine forEach_keep _ _ _ _ ?_ (fun a u => ?_)

@[simp] theorem wbData_keep (n txn u : Nat) (d : UnitData) (m : Option Mark) (dirty : Bool) (s : State) :
    Kept (wbData n txn u d m dirty s) s := by
  simp only [wbData]
  split <;> simp

@[simp] theorem kspUnit_keep (n txn cls u : Nat) (d : UnitData) (m : Option Mark) (g : Grant) (s : State) :
    Kept (kspUnit n txn cls u d m g s) s := by
  simp only [kspUnit]
  repeat' first
    | (simp [*]; done)
    | split
    | refine forEach_keep _ _ _ _ ?_ (fun a u => ?_)

@[simp] theorem kspData_keep (n txn u : Nat) (d : UnitData) (m : Option Mark) (g : Grant) (s : State) :
    Kept (kspData n txn u d m g s) s := by
  simp [kspData]

@[simp] theorem compAck_keep (n txn : Nat) (s : State) :
    Kept (compAck n txn s) s := by
  simp only [compAck]
  split <;> simp

@[simp] theorem retireAgent_keep (n txn : Nat) (s : State) :
    Kept (retireAgent n txn s) s := by
  simp [retireAgent]

@[simp] theorem cxlDeliver_keep (n txn : Nat) (s : State) :
    Kept (cxlDeliver n txn s) s := by
  simp only [cxlDeliver]
  split <;> simp

@[simp] theorem deliverData_keep (req : Req) (lk : Nat) (d : LineData) (m0 m1 : Option Mark) (g : Grant) (s : State) :
    Kept (deliverData req lk d m0 m1 g s) s := by
  simp only [deliverData]
  repeat' first
    | (simp [*]; done)
    | split

@[simp] theorem settleFwd_keep (f : Fwd) (s : State) :
    Kept (settleFwd f s) s := by
  simp only [settleFwd]
  repeat' first
    | (simp [*]; done)
    | split

theorem routeData_keep {num u : Nat} {d : UnitData} {m : Option Mark} {g : Grant} {s : State} {r : State} (h : routeData num u d m g s = some r) :
    Kept r s := by
  simp only [routeData] at h
  repeat' first
    | (cases h; done)
    | split at h
    | (cases h; simp [*]; done)
    | (cases h; simp)

@[simp] theorem deliverComp_keep (req : Req) (id : Nat) (m : Option Mark) (s : State) :
    Kept (deliverComp req id m s) s := by
  simp only [deliverComp]
  repeat' first
    | (simp [*]; done)
    | split

@[simp] theorem deliverWrAck_keep (req : Req) (status : Nat) (s : State) :
    Kept (deliverWrAck req status s) s := by
  simp only [deliverWrAck]
  split <;> simp

@[simp] theorem deliverWbAck_keep (req : Req) (ok : Bool) (s : State) :
    Kept (deliverWbAck req ok s) s := by
  simp only [deliverWbAck]
  split <;> simp

@[simp] theorem memDone_keep (id : Nat) (s : State) :
    Kept (memDone id s) s := by
  simp only [memDone]
  repeat' first
    | (simp [*]; done)
    | split

@[simp] theorem stashAck_keep (n txn : Nat) (s : State) :
    Kept (stashAck n txn s) s := by
  simp only [stashAck]
  split <;> simp

@[simp] theorem takeMsg_keep (m : CMsg) (s : State) :
    Kept (takeMsg m s) s := by
  simp [takeMsg]

@[simp] theorem snoopSite_keep (n code lk txn : Nat) (req : Req) (s : State) :
    Kept (snoopSite n code lk txn req s) s := by
  simp [snoopSite]

@[simp] theorem directedSnoop_keep (code n : Nat) (s : State) :
    Kept (directedSnoop code n s) s := by
  simp only [directedSnoop]
  repeat' first
    | (simp [*]; done)
    | split

theorem takeInbox_keep {n cls : Nat} {q : KMsg → Bool} {s : State} {r : (KMsg × UnitData) × State} (h : takeInbox n cls q s = some r) :
    Kept r.2 s := by
  simp only [takeInbox] at h
  repeat' first
    | (cases h; done)
    | split at h
    | (cases h; simp [*]; done)
    | (cases h; simp)

theorem execTrackerStart_keep (k : Fin 12) (l : Fin (2 ^ 29)) (ev : HomeEv) (s : State) {sN : State} (h : execTrackerStart k l ev s = .next sN) :
    Kept sN s := by
  simp only [execTrackerStart] at h
  injection h with h
  subst h
  simp

theorem execRdShared_keep (k : Fin 12) (l : Fin (2 ^ 29)) (ev : HomeEv) (s : State) {sN : State} (h : execRdShared k l ev s = .next sN) :
    Kept sN s := by
  simp only [execRdShared] at h
  injection h with h
  subst h
  simp

theorem execRdUnique_keep (k : Fin 12) (l : Fin (2 ^ 29)) (ev : HomeEv) (s : State) {sN : State} (h : execRdUnique k l ev s = .next sN) :
    Kept sN s := by
  simp only [execRdUnique] at h
  injection h with h
  subst h
  simp

theorem execRdOnce_keep (k : Fin 12) (l : Fin (2 ^ 29)) (ev : HomeEv) (s : State) {sN : State} (h : execRdOnce k l ev s = .next sN) :
    Kept sN s := by
  simp only [execRdOnce] at h
  injection h with h
  subst h
  simp

theorem execWrFull_keep (k : Fin 12) (l : Fin (2 ^ 29)) (ev : HomeEv) (s : State) {sN : State} (h : execWrFull k l ev s = .next sN) :
    Kept sN s := by
  simp only [execWrFull] at h
  injection h with h
  subst h
  simp

theorem execWrPart_keep (k : Fin 12) (l : Fin (2 ^ 29)) (ev : HomeEv) (s : State) {sN : State} (h : execWrPart k l ev s = .next sN) :
    Kept sN s := by
  simp only [execWrPart] at h
  injection h with h
  subst h
  simp

theorem execAtomic_keep (k : Fin 12) (l : Fin (2 ^ 29)) (ev : HomeEv) (s : State) {sN : State} (h : execAtomic k l ev s = .next sN) :
    Kept sN s := by
  simp only [execAtomic] at h
  injection h with h
  subst h
  simp

theorem execWriteback_keep (k : Fin 12) (l : Fin (2 ^ 29)) (s : State) {sN : State} (h : execWriteback k l s = .next sN) :
    Kept sN s := by
  simp only [execWriteback] at h
  injection h with h
  subst h
  simp

theorem execEvictClean_keep (k : Fin 12) (l : Fin (2 ^ 29)) (s : State) {sN : State} (h : execEvictClean k l s = .next sN) :
    Kept sN s := by
  simp only [execEvictClean] at h
  injection h with h
  subst h
  simp

theorem execFlushLine_keep (k : Fin 12) (l : Fin (2 ^ 29)) (s : State) {sN : State} (h : execFlushLine k l s = .next sN) :
    Kept sN s := by
  simp only [execFlushLine] at h
  injection h with h
  subst h
  simp

theorem execSnpFwdShared_keep (n : Fin 6) (s : State) {sN : State} (h : execSnpFwdShared n s = .next sN) :
    Kept sN s := by
  simp only [execSnpFwdShared] at h
  injection h with h
  subst h
  simp

theorem execSnpFwdUnique_keep (n : Fin 6) (s : State) {sN : State} (h : execSnpFwdUnique n s = .next sN) :
    Kept sN s := by
  simp only [execSnpFwdUnique] at h
  injection h with h
  subst h
  simp

theorem execSnpFwdOnce_keep (n : Fin 6) (s : State) {sN : State} (h : execSnpFwdOnce n s = .next sN) :
    Kept sN s := by
  simp only [execSnpFwdOnce] at h
  injection h with h
  subst h
  simp

theorem execSnpRecall_keep (n : Fin 6) (s : State) {sN : State} (h : execSnpRecall n s = .next sN) :
    Kept sN s := by
  simp only [execSnpRecall] at h
  injection h with h
  subst h
  simp

theorem execSnpDrop_keep (n : Fin 6) (s : State) {sN : State} (h : execSnpDrop n s = .next sN) :
    Kept sN s := by
  simp only [execSnpDrop] at h
  injection h with h
  subst h
  simp

@[simp] theorem moveOnRing_keep (m x : CMsg) (stop slot : Nat) (s : State) :
    Kept (moveOnRing m x stop slot s) s := by
  simp only [moveOnRing]
  repeat' first
    | (simp [*]; done)
    | split
    | refine forEach_keep _ _ _ _ ?_ (fun a u => ?_)

theorem execSnpInvPass_keep (n : Fin 6) (txn : Nat) (s : State) {sN : State} (h : execSnpInvPass n txn s = .next sN) :
    Kept sN s := by
  simp only [execSnpInvPass] at h
  injection h with h
  subst h
  split <;> simp

theorem execSnpInvReturn_keep (txn : Nat) (s : State) {sN : State} (h : execSnpInvReturn txn s = .next sN) :
    Kept sN s := by
  simp only [execSnpInvReturn] at h
  injection h with h
  subst h
  repeat' first
    | (simp [*]; done)
    | split

theorem execRingSlotMark_keep (stop : Fin 42) (s : State) {sN : State} (h : execRingSlotMark stop s = .next sN) :
    Kept sN s := by
  simp only [execRingSlotMark] at h
  injection h with h
  subst h
  repeat' first
    | (simp [*]; done)
    | split
    | refine forEach_keep _ _ _ _ ?_ (fun a u => ?_)

theorem execSnpRsp_keep (n : Fin 6) (s : State) {sN : State} (h : execSnpRsp n s = .next sN) :
    Kept sN s := by
  simp only [execSnpRsp] at h
  injection h with h
  subst h
  repeat' first
    | (simp [*]; done)
    | (split <;> try (first
        | (rename_i hq; have h1 := congrArg (fun p => p.2.pending) hq; have h2 := congrArg (fun p => p.2.sec) hq; have h3 := congrArg (fun p => p.2.boot.tilesAt) hq; have h4 := congrArg (fun p => p.2.boot.digest) hq; simp at h1 h2 h3 h4)
        | (rename_i hq; have h1 := congrArg (fun p => p.2.2.pending) hq; have h2 := congrArg (fun p => p.2.2.sec) hq; have h3 := congrArg (fun p => p.2.2.boot.tilesAt) hq; have h4 := congrArg (fun p => p.2.2.boot.digest) hq; simp at h1 h2 h3 h4)))
    | refine forEach_keep _ _ _ _ ?_ (fun a u => ?_)
    | (simp_all; done)
    | (have hk := takeInbox_keep (by assumption); simp_all; done)
    | (rename_i hq; split at hq)
    | simp

theorem execCompAck_keep (n : Fin 6) (s : State) {sN : State} (h : execCompAck n s = .next sN) :
    Kept sN s := by
  simp only [execCompAck] at h
  injection h with h
  subst h
  repeat' first
    | (simp [*]; done)
    | (split <;> try (first
        | (rename_i hq; have h1 := congrArg (fun p => p.2.pending) hq; have h2 := congrArg (fun p => p.2.sec) hq; have h3 := congrArg (fun p => p.2.boot.tilesAt) hq; have h4 := congrArg (fun p => p.2.boot.digest) hq; simp at h1 h2 h3 h4)
        | (rename_i hq; have h1 := congrArg (fun p => p.2.2.pending) hq; have h2 := congrArg (fun p => p.2.2.sec) hq; have h3 := congrArg (fun p => p.2.2.boot.tilesAt) hq; have h4 := congrArg (fun p => p.2.2.boot.digest) hq; simp at h1 h2 h3 h4)))
    | refine forEach_keep _ _ _ _ ?_ (fun a u => ?_)
    | (simp_all; done)
    | (have hk := takeInbox_keep (by assumption); simp_all; done)
    | (rename_i hq; split at hq)
    | simp

theorem execWbData_keep (n : Fin 6) (s : State) {sN : State} (h : execWbData n s = .next sN) :
    Kept sN s := by
  simp only [execWbData] at h
  injection h with h
  subst h
  repeat' first
    | (simp [*]; done)
    | (split <;> try (first
        | (rename_i hq; have h1 := congrArg (fun p => p.2.pending) hq; have h2 := congrArg (fun p => p.2.sec) hq; have h3 := congrArg (fun p => p.2.boot.tilesAt) hq; have h4 := congrArg (fun p => p.2.boot.digest) hq; simp at h1 h2 h3 h4)
        | (rename_i hq; have h1 := congrArg (fun p => p.2.2.pending) hq; have h2 := congrArg (fun p => p.2.2.sec) hq; have h3 := congrArg (fun p => p.2.2.boot.tilesAt) hq; have h4 := congrArg (fun p => p.2.2.boot.digest) hq; simp at h1 h2 h3 h4)))
    | refine forEach_keep _ _ _ _ ?_ (fun a u => ?_)
    | (simp_all; done)
    | (have hk := takeInbox_keep (by assumption); simp_all; done)
    | (rename_i hq; split at hq)
    | simp

theorem execStashAck_keep (n : Fin 6) (s : State) {sN : State} (h : execStashAck n s = .next sN) :
    Kept sN s := by
  simp only [execStashAck] at h
  injection h with h
  subst h
  repeat' first
    | (simp [*]; done)
    | (split <;> try (first
        | (rename_i hq; have h1 := congrArg (fun p => p.2.pending) hq; have h2 := congrArg (fun p => p.2.sec) hq; have h3 := congrArg (fun p => p.2.boot.tilesAt) hq; have h4 := congrArg (fun p => p.2.boot.digest) hq; simp at h1 h2 h3 h4)
        | (rename_i hq; have h1 := congrArg (fun p => p.2.2.pending) hq; have h2 := congrArg (fun p => p.2.2.sec) hq; have h3 := congrArg (fun p => p.2.2.boot.tilesAt) hq; have h4 := congrArg (fun p => p.2.2.boot.digest) hq; simp at h1 h2 h3 h4)))
    | refine forEach_keep _ _ _ _ ?_ (fun a u => ?_)
    | (simp_all; done)
    | (have hk := takeInbox_keep (by assumption); simp_all; done)
    | (rename_i hq; split at hq)
    | simp

theorem execMemDone_keep (i : Nat) (s : State) {sN : State} (h : execMemDone i s = .next sN) :
    Kept sN s := by
  simp only [execMemDone] at h
  injection h with h
  subst h
  split <;> simp

@[simp] theorem pushStash_keep (n : Nat) (s : State) :
    Kept (pushStash n s) s := by
  simp only [pushStash]
  split <;> simp

@[simp] theorem pushStashes_keep (s : State) :
    Kept (pushStashes s) s := by
  simp only [pushStashes]
  repeat' first
    | (simp [*]; done)
    | split
    | refine forEach_keep _ _ _ _ ?_ (fun a u => ?_)

theorem dataEvent_keep (src : Option (Fin 6)) (i : Nat) (s : State) {t : State} (h : dataEvent src i s = .next t) :
    Kept t s := by
  simp only [dataEvent] at h
  injection h with h
  subst h
  repeat' first
    | (simp [*]; done)
    | (have hk := routeData_keep (by assumption); have hj := takeInbox_keep (by assumption); simp_all; done)
    | (have hj := takeInbox_keep (by assumption); simp_all; done)
    | split

theorem compEvent_keep (i : Nat) (s : State) {sN : State} (h : compEvent i s = .next sN) :
    Kept sN s := by
  simp only [compEvent] at h
  injection h with h
  subst h
  split <;> simp

theorem wrAckEvent_keep (i : Nat) (s : State) {sN : State} (h : wrAckEvent i s = .next sN) :
    Kept sN s := by
  simp only [wrAckEvent] at h
  injection h with h
  subst h
  split <;> simp

theorem execWbAck_keep (i : Nat) (s : State) {sN : State} (h : execWbAck i s = .next sN) :
    Kept sN s := by
  simp only [execWbAck] at h
  injection h with h
  subst h
  split <;> simp

@[simp] theorem flushAll_keep (s : State) :
    Kept (flushAll s) s := by
  simp [flushAll]

theorem execFlushAll_keep (s : State) {sN : State} (h : execFlushAll s = .next sN) :
    Kept sN s := by
  simp only [execFlushAll] at h
  injection h with h
  subst h
  simp

theorem execFlushAllDone_keep (s : State) {sN : State} (h : execFlushAllDone s = .next sN) :
    Kept sN s := by
  simp only [execFlushAllDone] at h
  injection h with h
  subst h
  simp

end Sys2Proof.Machine
end

