-- ==== Sys2Proof/Laws/KeptShared.lean ====
section
/-!
SUPPORT. What the functions of Machine/Shared.lean leave alone: one lemma each, in the terms of Safety.lean (`Kept`, `Held`).
-/
namespace Sys2Proof.Machine

@[simp] theorem setCap_keep (r c : Nat) (s : State) :
    Kept (setCap r c s) s := by
  simp [setCap]

@[simp] theorem syncStackCap_keep (k : Nat) (s : State) :
    Kept (syncStackCap k s) s := by
  simp [syncStackCap]

@[simp] theorem syncClocks_keep (k : Nat) (s : State) :
    Kept (syncClocks k s) s := by
  simp [syncClocks]

@[simp] theorem sideband_keep (n mtype : Nat) (fields : List (Nat × Nat)) (rest : List Nat) (s : State) :
    Kept (sideband n mtype fields rest s) s := by
  simp only [sideband]
  repeat' first
    | (simp [*]; done)
    | split
    | refine forEach_keep _ _ _ _ ?_ (fun a u => ?_)

@[simp] theorem sendBudget_keep (n watts : Nat) (clamp : Bool) (s : State) :
    Kept (sendBudget n watts clamp s) s := by
  simp only [sendBudget]
  repeat' first
    | (simp [*]; done)
    | split
    | refine forEach_keep _ _ _ _ ?_ (fun a u => ?_)

@[simp] theorem thermalTrip_keep (sensor stack die temp : Nat) (s : State) :
    Kept (thermalTrip sensor stack die temp s) s := by
  simp [thermalTrip]

@[simp] theorem failOver_keep (n k : Nat) (s : State) :
    Kept (failOver n k s) s := by
  simp [failOver]

@[simp] theorem poisonRegion_keep (n u : Nat) (s : State) :
    Kept (poisonRegion n u s) s := by
  simp [poisonRegion]

@[simp] theorem regionsLose_keep (k : Nat) (s : State) :
    Kept (regionsLose k s) s := by
  simp only [regionsLose]
  repeat' first
    | (simp [*]; done)
    | split
    | refine forEach_keep _ _ _ _ ?_ (fun a u => ?_)

@[simp] theorem recallStack_keep (k : Nat) (s : State) :
    Kept (recallStack k s) s := by
  simp only [recallStack]
  repeat' first
    | (simp [*]; done)
    | split
    | refine forEach_keep _ _ _ _ ?_ (fun a u => ?_)

@[simp] theorem isolateStack_keep (k cause : Nat) (s : State) :
    Kept (isolateStack k cause s) s := by
  simp [isolateStack]

end Sys2Proof.Machine
end

