-- ==== Sys2Proof/Laws/KeptSites.lean ====
section
/-!
SUPPORT. What the functions of Machine/Sites.lean leave alone: one lemma each, in the terms of Safety.lean (`Kept`, `Held`).
-/
namespace Sys2Proof.Machine

@[simp] theorem syncSiteCap_keep (n : Nat) (s : State) :
    Kept (syncSiteCap n s) s := by
  simp [syncSiteCap]

@[simp] theorem sendSiteBudget_keep (n : Nat) (s : State) :
    Kept (sendSiteBudget n s) s := by
  simp [sendSiteBudget]

@[simp] theorem setSitePower_keep (n p : Nat) (s : State) :
    Kept (setSitePower n p s) s := by
  simp [setSitePower]

@[simp] theorem endRejoin_keep (n step cause : Nat) (s : State) :
    Kept (endRejoin n step cause s) s := by
  simp only [endRejoin]
  repeat' first
    | (simp [*]; done)
    | split
    | refine forEach_keep _ _ _ _ ?_ (fun a u => ?_)

@[simp] theorem rejoinFail_keep (n step cause : Nat) (s : State) :
    Kept (rejoinFail n step cause s) s := by
  simp [rejoinFail]

@[simp] theorem rejoinRefuse_keep (n step cause : Nat) (s : State) :
    Kept (rejoinRefuse n step cause s) s := by
  simp only [rejoinRefuse]
  repeat' first
    | (simp [*]; done)
    | split
    | refine forEach_keep _ _ _ _ ?_ (fun a u => ?_)

@[simp] theorem loseTxn_keep (n : Nat) (t : Txn) (s : State) :
    Kept (loseTxn n t s) s := by
  simp only [loseTxn]
  repeat' first
    | (simp [*]; done)
    | split

@[simp] theorem ackDead_keep (who : Who) (s : State) :
    Kept (ackDead who s) s := by
  simp only [ackDead]
  repeat' first
    | (simp [*]; done)
    | split
    | refine forEach_keep _ _ _ _ ?_ (fun a u => ?_)

@[simp] theorem answerTgts_keep (n : Nat) (s : State) :
    Kept (answerTgts n s) s := by
  simp [answerTgts]

@[simp] theorem loseSite_keep (n cause : Nat) (s : State) :
    Kept (loseSite n cause s) s := by
  simp [loseSite]

@[simp] theorem syncModules_keep (n : Nat) (s : State) :
    Kept (syncModules n s) s := by
  simp [syncModules]

@[simp] theorem retireSiteModule_keep (n m : Nat) (s : State) :
    Kept (retireSiteModule n m s) s := by
  simp [retireSiteModule]

@[simp] theorem siteTraining_keep (n : Nat) (s : State) :
    Kept (siteTraining n s) s := by
  simp [siteTraining]

@[simp] theorem sendNak_keep (n : Nat) (s : State) :
    Kept (sendNak n s) s := by
  simp only [sendNak]
  repeat' first
    | (simp [*]; done)
    | split
    | refine forEach_keep _ _ _ _ ?_ (fun a u => ?_)

@[simp] theorem stopModule_keep (n : Nat) (s : State) :
    Kept (stopModule n s) s := by
  simp only [stopModule]
  repeat' first
    | (simp [*]; done)
    | split
    | refine forEach_keep _ _ _ _ ?_ (fun a u => ?_)

@[simp] theorem repairBond_keep (n m b : Nat) (s : State) :
    Kept (repairBond n m b s) s := by
  simp [repairBond]

@[simp] theorem closeOpen_keep (n txn : Nat) (s : State) :
    Kept (closeOpen n txn s) s := by
  simp [closeOpen]

@[simp] theorem siteData_keep (n txn cls u : Nat) (d : UnitData) (m : Option Mark) (s : State) :
    Kept (siteData n txn cls u d m s) s := by
  simp only [siteData]
  repeat' first
    | (simp [*]; done)
    | split
    | refine forEach_keep _ _ _ _ ?_ (fun a u => ?_)

@[simp] theorem siteWrAck_keep (n txn cls status : Nat) (s : State) :
    Kept (siteWrAck n txn cls status s) s := by
  simp only [siteWrAck]
  repeat' first
    | (simp [*]; done)
    | split
    | refine forEach_keep _ _ _ _ ?_ (fun a u => ?_)

@[simp] theorem failOpen_keep (n : Nat) (o : OpenReq) (s : State) :
    Kept (failOpen n o s) s := by
  simp [failOpen]

@[simp] theorem postOpen_keep (n : Nat) (o : OpenReq) (k a : Nat) (mirror : Bool) (s : State) :
    Kept (postOpen n o k a mirror s) s := by
  simp [postOpen]

@[simp] theorem updOpen_keep (n txn : Nat) (f : OpenReq → OpenReq) (s : State) :
    Kept (updOpen n txn f s) s := by
  simp [updOpen]

@[simp] theorem readOpen_keep (n : Nat) (o : OpenReq) (t : Tgt) (s : State) :
    Kept (readOpen n o t s) s := by
  simp only [readOpen]
  repeat' first
    | (simp [*]; done)
    | split
    | refine forEach_keep _ _ _ _ ?_ (fun a u => ?_)

@[simp] theorem dropDead_keep (t : Tgt) (s : State) :
    Kept (dropDead t s) s := by
  simp only [dropDead]
  repeat' first
    | (simp [*]; done)
    | split
    | refine forEach_keep _ _ _ _ ?_ (fun a u => ?_)

@[simp] theorem writeOpen_keep (n : Nat) (o : OpenReq) (t : Tgt) (s : State) :
    Kept (writeOpen n o t s) s := by
  unfold writeOpen
  extract_lets txn base s0 s1
  have h1 : Kept s1 s := by
    refine Kept.ite (Kept.refl _) ((updOpen_keep ..).trans (?_ : Kept s0 s))
    refine (forEach_keep _ _ _ _ (Kept.refl _) (fun u w => ?_))
    dsimp only
    cases w.openOf? n txn with
    | none => exact Kept.refl _
    | some o =>
      refine Kept.ite (Kept.refl _) (Kept.ite ((updOpen_keep ..).trans (dropDead_keep ..)) ?_)
      generalize hr : storeUnit _ _ _ _ _ _ _ _ = r
      have hk : Kept r.2 w := by rw [← hr]; exact storeUnit_keep _ _ _ _ _ _ _ _ (by intros; exact opRecord_keep ..)
      cases r.1 with
      | wait => exact hk
      | failed d => exact (updOpen_keep ..).trans hk
      | posted => exact (updOpen_keep ..).trans hk
      | done => exact (updOpen_keep ..).trans hk
  clear_value s1
  cases s1.openOf? n txn with
  | none => exact h1
  | some o =>
    exact Kept.ite (Kept.ite ((siteWrAck_keep ..).trans ((closeOpen_keep ..).trans h1)) ((failOpen_keep ..).trans h1)) h1

@[simp] theorem windowDenied_keep (n : Nat) (h : KMsg) (s : State) :
    Kept (windowDenied n h s) s := by
  simp only [windowDenied]
  repeat' first
    | (simp [*]; done)
    | split
    | refine forEach_keep _ _ _ _ ?_ (fun a u => ?_)

@[simp] theorem serveOpen_keep (n txn : Nat) (s : State) :
    Kept (serveOpen n txn s) s := by
  simp only [serveOpen]
  repeat' first
    | (simp [*]; done)
    | (split <;> try (first
        | (rename_i hq; have h1 := congrArg (fun p => p.2.pending) hq; have h2 := congrArg (fun p => p.2.sec) hq; have h3 := congrArg (fun p => p.2.boot.tilesAt) hq; have h4 := congrArg (fun p => p.2.boot.digest) hq; simp at h1 h2 h3 h4)
        | (rename_i hq; have h1 := congrArg (fun p => p.2.2.pending) hq; have h2 := congrArg (fun p => p.2.2.sec) hq; have h3 := congrArg (fun p => p.2.2.boot.tilesAt) hq; have h4 := congrArg (fun p => p.2.2.boot.digest) hq; simp at h1 h2 h3 h4)))
    | refine forEach_keep _ _ _ _ ?_ (fun a u => ?_)
    | (simp_all; done)
    | (rename_i hq; split at hq)
    | simp

@[simp] theorem serveSites_keep (s : State) :
    Kept (serveSites s) s := by
  simp [serveSites]

@[simp] theorem admitReq_keep (n : Nat) (h0 : KMsg) (data : LineData) (mask : BitVec 128) (m0 m1 : Option Mark) (need : Nat) (s : State) :
    Kept (admitReq n h0 data mask m0 m1 need s) s := by
  simp [admitReq]

end Sys2Proof.Machine
end

