-- ==== Sys2Proof/Laws/KeptSiteCmds.lean ====
section
/-!
SUPPORT. What the functions of Machine/SiteCmds.lean leave alone: one lemma each, in the terms of Safety.lean (`Kept`, `Held`).
-/
namespace Sys2Proof.Machine

@[simp] theorem dropAcked_keep (n ack : Nat) (s : State) :
    Kept (dropAcked n ack s) s := by
  simp [dropAcked]

@[simp] theorem takeCredits_keep (n : Nat) (credits : List Nat) (s : State) :
    Kept (takeCredits n credits s) s := by
  simp [takeCredits]

@[simp] theorem takeAck_keep (n ack : Nat) (s : State) :
    Kept (takeAck n ack s) s := by
  simp only [takeAck]
  repeat' first
    | (simp [*]; done)
    | split
    | refine forEach_keep _ _ _ _ ?_ (fun a u => ?_)

@[simp] theorem oweCredit_keep (n cls : Nat) (s : State) :
    Kept (oweCredit n cls s) s := by
  simp only [oweCredit]
  repeat' first
    | (simp [*]; done)
    | split
    | refine forEach_keep _ _ _ _ ?_ (fun a u => ?_)

@[simp] theorem acceptMsg_keep (n : Nat) (m : KMsg) (u : UnitData) (s : State) :
    Kept (acceptMsg n m u s) s := by
  simp [acceptMsg]

@[simp] theorem takeStream_keep (n : Nat) (bs : List Byte) (s : State) :
    Kept (takeStream n bs s) s := by
  simp only [takeStream]
  repeat' first
    | (simp [*]; done)
    | split
    | refine forEach_keep _ _ _ _ ?_ (fun a u => ?_)

@[simp] theorem deliverFlit_keep (n : Nat) (f : Flit) (s : State) :
    Kept (deliverFlit n f s) s := by
  simp only [deliverFlit]
  split <;> simp

@[simp] theorem deliverEarly_keep (n fuel : Nat) (s : State) : Kept (deliverEarly n fuel s) s := by
  induction fuel generalizing s with
  | zero => exact Kept.refl _
  | succ k ih =>
    unfold deliverEarly
    cases (s.site n).early.find? (fun f => f.seq == (s.site n).rxSeq) with
    | none => exact Kept.refl _
    | some f => exact (ih _).trans ((deliverFlit_keep ..).trans (updSite_keep ..))

@[simp] theorem takeNak_keep (n ack : Nat) (s : State) :
    Kept (takeNak n ack s) s := by
  simp only [takeNak]
  repeat' first
    | (simp [*]; done)
    | split
    | refine forEach_keep _ _ _ _ ?_ (fun a u => ?_)

@[simp] theorem countSiteBonds_keep (n m : Nat) (corrected : List Nat) (s : State) :
    Kept (countSiteBonds n m corrected s) s := by
  simp [countSiteBonds]

@[simp] theorem receiveFlit_keep (n m : Nat) (corrected : List Nat) (f : Flit) (s : State) :
    Kept (receiveFlit n m corrected f s) s := by
  simp only [receiveFlit]
  repeat' first
    | (simp [*]; done)
    | split
    | refine forEach_keep _ _ _ _ ?_ (fun a u => ?_)

theorem siteFlitEvent_keep (n : Fin 6) (m : Fin 64) (payload : BitVec 704) (errors : List (Fin 100 × BitVec 8)) (s : State) {sN : State} (h : siteFlitEvent n m payload errors s = .next sN) :
    Kept sN s := by
  simp only [siteFlitEvent] at h
  injection h with h
  subst h
  repeat' first
    | (simp [*]; done)
    | split
    | refine forEach_keep _ _ _ _ ?_ (fun a u => ?_)

theorem siteNakEvent_keep (n : Fin 6) (ack : BitVec 14) (s : State) {sN : State} (h : siteNakEvent n ack s = .next sN) :
    Kept sN s := by
  simp only [siteNakEvent] at h
  injection h with h
  subst h
  simp

theorem siteSeqGapTimeoutEvent_keep (n : Fin 6) (s : State) {sN : State} (h : siteSeqGapTimeoutEvent n s = .next sN) :
    Kept sN s := by
  simp only [siteSeqGapTimeoutEvent] at h
  injection h with h
  subst h
  simp

theorem execSiteAckTimer_keep (n : Fin 6) (s : State) {sN : State} (h : execSiteAckTimer n s = .next sN) :
    Kept sN s := by
  simp only [execSiteAckTimer] at h
  injection h with h
  subst h
  simp

theorem execSiteMonitorWindow_keep (n : Fin 6) (m : Fin 64) (b : Fin 96) (s : State) {sN : State} (h : execSiteMonitorWindow n m b s = .next sN) :
    Kept sN s := by
  simp only [execSiteMonitorWindow] at h
  injection h with h
  subst h
  simp

theorem execKspReqAdmission_keep (n : Fin 6) (s : State) {sN : State} (h : execKspReqAdmission n s = .next sN) :
    Kept sN s := by
  simp only [execKspReqAdmission] at h
  injection h with h
  subst h
  repeat' first
    | (simp [*]; done)
    | (split <;> try (first
        | (rename_i hq; have h1 := congrArg (fun p => p.2.pending) hq; have h2 := congrArg (fun p => p.2.sec) hq; have h3 := congrArg (fun p => p.2.boot.tilesAt) hq; have h4 := congrArg (fun p => p.2.boot.digest) hq; simp at h1 h2 h3 h4)
        | (rename_i hq; have h1 := congrArg (fun p => p.2.2.pending) hq; have h2 := congrArg (fun p => p.2.2.sec) hq; have h3 := congrArg (fun p => p.2.2.boot.tilesAt) hq; have h4 := congrArg (fun p => p.2.2.boot.digest) hq; simp at h1 h2 h3 h4)))
    | refine forEach_keep _ _ _ _ ?_ (fun a u => ?_)
    | (simp_all; done)
    | (have hk := takeInbox_keep (by assumption); simp_all; done)
    | (rename_i hq; split at hq)
    | simp

theorem execWdata_keep (n : Fin 6) (last : Bool) (s : State) {sN : State} (h : execWdata n last s = .next sN) :
    Kept sN s := by
  simp only [execWdata] at h
  injection h with h
  subst h
  repeat' first
    | (simp [*]; done)
    | (split <;> try (first
        | (rename_i hq; have h1 := congrArg (fun p => p.2.pending) hq; have h2 := congrArg (fun p => p.2.sec) hq; have h3 := congrArg (fun p => p.2.boot.tilesAt) hq; have h4 := congrArg (fun p => p.2.boot.digest) hq; simp at h1 h2 h3 h4)
        | (rename_i hq; have h1 := congrArg (fun p => p.2.2.pending) hq; have h2 := congrArg (fun p => p.2.2.sec) hq; have h3 := congrArg (fun p => p.2.2.boot.tilesAt) hq; have h4 := congrArg (fun p => p.2.2.boot.digest) hq; simp at h1 h2 h3 h4)))
    | refine forEach_keep _ _ _ _ ?_ (fun a u => ?_)
    | (simp_all; done)
    | (have hk := takeInbox_keep (by assumption); simp_all; done)
    | (rename_i hq; split at hq)
    | simp

theorem takeTgt_keep {n txn : Nat} {write : Bool} {s : State} {r : TgtReq × State} (h : takeTgt n txn write s = some r) :
    Kept r.2 s := by
  simp only [takeTgt] at h
  repeat' first
    | (cases h; done)
    | split at h
    | (cases h; simp [*]; done)
    | (cases h; simp)

@[simp] theorem strayTgt_keep (n txn : Nat) (write : Bool) (code : Nat) (s : State) :
    Kept (strayTgt n txn write code s) s := by
  simp only [strayTgt]
  repeat' first
    | (simp [*]; done)
    | split
    | refine forEach_keep _ _ _ _ ?_ (fun a u => ?_)

@[simp] theorem ackDenied_keep (who : Who) (s : State) :
    Kept (ackDenied who s) s := by
  simp only [ackDenied]
  repeat' first
    | (simp [*]; done)
    | split
    | refine forEach_keep _ _ _ _ ?_ (fun a u => ?_)

theorem memDataEvent_keep (n : Fin 6) (s : State) {t : State} (h : memDataEvent n s = .next t) : Kept t s := by
  unfold memDataEvent at h
  cases h
  generalize hk : takeInbox n 4 (fun m => m.msg == 0x34) s = o
  cases o with
  | none => exact Kept.refl _
  | some y =>
    obtain ⟨e, s1⟩ := y
    have h1 : Kept s1 s := takeInbox_keep hk
    dsimp only
    generalize hq : takeTgt n e.1.txn false s1 = o
    cases o with
    | none => exact (strayTgt_keep ..).trans h1
    | some y =>
      obtain ⟨q, s2⟩ := y
      have h2 : Kept s2 s1 := takeTgt_keep hq
      dsimp only
      refine (serveSites_keep _).trans ?_
      exact (arrive_keep ..).trans (h2.trans h1)

theorem memAckEvent_keep (n : Fin 6) (s : State) {t : State} (h : memAckEvent n s = .next t) : Kept t s := by
  unfold memAckEvent at h
  cases h
  generalize hk : takeInbox n 3 (fun m => m.msg == 0x27) s = o
  cases o with
  | none => exact Kept.refl _
  | some y =>
    obtain ⟨e, s1⟩ := y
    have h1 : Kept s1 s := takeInbox_keep hk
    dsimp only
    generalize hq : takeTgt n e.1.txn true s1 = o
    cases o with
    | none => exact (strayTgt_keep ..).trans h1
    | some y =>
      obtain ⟨q, s2⟩ := y
      have h2 : Kept s2 s1 := takeTgt_keep hq
      dsimp only
      refine (serveSites_keep _).trans ?_
      exact Kept.ite ((ackDenied_keep ..).trans (h2.trans h1)) ((ackWrite_keep ..).trans (h2.trans h1))

theorem tgtTimeoutEvent_keep (n : Fin 6) (txn : Fin 4096) (s : State) {sN : State} (h : tgtTimeoutEvent n txn s = .next sN) :
    Kept sN s := by
  simp only [tgtTimeoutEvent] at h
  injection h with h
  subst h
  split <;> simp

theorem cxlMemResponseEvent_keep (n : Fin 6) (txn : Fin 4096) (data : UnitData) (poison : Bool) (s : State) {sN : State} (h : cxlMemResponseEvent n txn data poison s = .next sN) :
    Kept sN s := by
  simp only [cxlMemResponseEvent] at h
  injection h with h
  subst h
  repeat' first
    | (simp [*]; done)
    | split

@[simp] theorem keepOut_keep (n step cause : Nat) (s : State) :
    Kept (keepOut n step cause s) s := by
  simp [keepOut]

@[simp] theorem siteAccepted_keep (n : Nat) (s : State) :
    Kept (siteAccepted n s) s := by
  simp [siteAccepted]

@[simp] theorem checkIdentity_keep (n : Nat) (s : State) :
    Kept (checkIdentity n s) s := by
  simp [checkIdentity]

theorem execCaps_keep (n : Fin 6) (cxl caching rate supported : Bool) (aperture : BitVec 16) (power : BitVec 16) (vendor part certLen : BitVec 16) (s : State) {sN : State} (h : execCaps n cxl caching rate supported aperture power vendor part certLen s = .next sN) :
    Kept sN s := by
  simp only [execCaps] at h
  injection h with h
  subst h
  simp

@[simp] theorem nonce_keep (s : State) :
    Kept (nonce s).2 s := by
  simp [nonce]

theorem execCertData_keep (n : Fin 6) (bytes : List Byte) (s : State) {t : State}
    (h : execCertData n bytes s = .next t) : Kept t s := by
  unfold execCertData at h
  split at h
  · cases h
  · cases h
    refine Kept.ite (Kept.refl _) ?_
    refine Kept.ite ((sideband_keep ..).trans (updSite_keep ..)) (Kept.ite ((keepOut_keep ..).trans (updSite_keep ..)) ?_)
    exact (sideband_keep ..).trans ((updSite_keep ..).trans ((nonce_keep ..).trans (updSite_keep ..)))

theorem execResponse_keep (n : Fin 6) (sig : List Byte) (s : State) {t : State}
    (h : execResponse n sig s = .next t) : Kept t s := by
  unfold execResponse at h
  split at h
  · cases h
  · cases h
    exact Kept.ite (Kept.refl _) (Kept.ite (checkIdentity_keep ..) (keepOut_keep ..))

@[simp] theorem sendJoin_keep (n : Nat) (s : State) :
    Kept (sendJoin n s) s := by
  simp [sendJoin]

@[simp] theorem grantCredits_keep (n : Nat) (s : State) :
    Kept (grantCredits n s) s := by
  simp only [grantCredits]
  repeat' first
    | (simp [*]; done)
    | split
    | refine forEach_keep _ _ _ _ ?_ (fun a u => ?_)

theorem execJoined_keep (n : Fin 6) (s : State) {sN : State} (h : execJoined n s = .next sN) :
    Kept sN s := by
  simp only [execJoined] at h
  injection h with h
  subst h
  simp

theorem execSiteRejoined_keep (n : Fin 6) (s : State) {sN : State} (h : execSiteRejoined n s = .next sN) :
    Kept sN s := by
  simp only [execSiteRejoined] at h
  injection h with h
  subst h
  simp

theorem execSiteRejoinFailed_keep (n : Fin 6) (s : State) {sN : State} (h : execSiteRejoinFailed n s = .next sN) :
    Kept sN s := by
  simp only [execSiteRejoinFailed] at h
  injection h with h
  subst h
  simp

theorem execStatus_keep (n : Fin 6) (word : BitVec 64) (s : State) {sN : State} (h : execStatus n word s = .next sN) :
    Kept sN s := by
  simp only [execStatus] at h
  injection h with h
  subst h
  repeat' first
    | (simp [*]; done)
    | split
    | refine forEach_keep _ _ _ _ ?_ (fun a u => ?_)

theorem execPowerReport_keep (n : Fin 6) (watts : BitVec 11) (seq : BitVec 9) (s : State) {sN : State} (h : execPowerReport n watts seq s = .next sN) :
    Kept sN s := by
  simp only [execPowerReport] at h
  injection h with h
  subst h
  simp

theorem bondFailEvent_keep (n : Fin 6) (m : Fin 64) (b : Fin 96) (s : State) {sN : State} (h : bondFailEvent n m b s = .next sN) :
    Kept sN s := by
  simp only [bondFailEvent] at h
  injection h with h
  subst h
  simp

theorem execRepairDone_keep (n : Fin 6) (m : Fin 64) (s : State) {sN : State} (h : execRepairDone n m s = .next sN) :
    Kept sN s := by
  simp only [execRepairDone] at h
  injection h with h
  subst h
  simp

theorem siteRepairTimeoutEvent_keep (n : Fin 6) (m : Fin 64) (s : State) {sN : State} (h : siteRepairTimeoutEvent n m s = .next sN) :
    Kept sN s := by
  simp only [siteRepairTimeoutEvent] at h
  injection h with h
  subst h
  simp

@[simp] theorem retrainSite_keep (n m : Nat) (s : State) :
    Kept (retrainSite n m s) s := by
  simp [retrainSite]

theorem execSiteRetrain_keep (n : Fin 6) (m : Fin 64) (s : State) {sN : State} (h : execSiteRetrain n m s = .next sN) :
    Kept sN s := by
  simp only [execSiteRetrain] at h
  injection h with h
  subst h
  simp

theorem resetNoticeEvent_keep (n : Fin 6) (s : State) {sN : State} (h : resetNoticeEvent n s = .next sN) :
    Kept sN s := by
  simp only [resetNoticeEvent] at h
  injection h with h
  subst h
  simp

theorem pllUnlockEvent_keep (n : Fin 6) (s : State) {sN : State} (h : pllUnlockEvent n s = .next sN) :
    Kept sN s := by
  simp only [pllUnlockEvent] at h
  injection h with h
  subst h
  simp

theorem sidebandLostEvent_keep (n : Fin 6) (s : State) {sN : State} (h : sidebandLostEvent n s = .next sN) :
    Kept sN s := by
  simp only [sidebandLostEvent] at h
  injection h with h
  subst h
  simp

theorem siteClockLostEvent_keep (n : Fin 6) (mods valid : BitVec 64) (s : State) {sN : State} (h : siteClockLostEvent n mods valid s = .next sN) :
    Kept sN s := by
  simp only [siteClockLostEvent] at h
  injection h with h
  subst h
  repeat' first
    | (simp [*]; done)
    | split
    | refine forEach_keep _ _ _ _ ?_ (fun a u => ?_)

theorem siteIsolateEvent_keep (n : Fin 6) (s : State) {sN : State} (h : siteIsolateEvent n s = .next sN) :
    Kept sN s := by
  simp only [siteIsolateEvent] at h
  injection h with h
  subst h
  simp

theorem snoopTimeoutEvent_keep (n : Fin 6) (s : State) {sN : State} (h : snoopTimeoutEvent n s = .next sN) :
    Kept sN s := by
  simp only [snoopTimeoutEvent] at h
  injection h with h
  subst h
  simp

@[simp] theorem startRejoin_keep (n : Nat) (s : State) :
    Kept (startRejoin n s) s := by
  simp [startRejoin]

theorem execSiteRejoin_keep (n : Fin 6) (s : State) {sN : State} (h : execSiteRejoin n s = .next sN) :
    Kept sN s := by
  simp only [execSiteRejoin] at h
  injection h with h
  subst h
  simp

@[simp] theorem resetSite_keep (n : Nat) (s : State) :
    Kept (resetSite n s) s := by
  simp [resetSite]

theorem siteResetEvent_keep (n : Fin 6) (s : State) {sN : State} (h : siteResetEvent n s = .next sN) :
    Kept sN s := by
  simp only [siteResetEvent] at h
  injection h with h
  subst h
  simp

theorem execSiteOwnerSweepDone_keep (n : Fin 6) (s : State) {sN : State} (h : execSiteOwnerSweepDone n s = .next sN) :
    Kept sN s := by
  simp only [execSiteOwnerSweepDone] at h
  injection h with h
  subst h
  simp

@[simp] theorem winFence_keep (n : Nat) (s : State) :
    Kept (winFence n s) s := by
  simp [winFence]

theorem execSiteWinFence_keep (n : Fin 6) (s : State) {sN : State} (h : execSiteWinFence n s = .next sN) :
    Kept sN s := by
  simp only [execSiteWinFence] at h
  injection h with h
  subst h
  simp

theorem execSiteWinFenceDone_keep (n : Fin 6) (s : State) {sN : State} (h : execSiteWinFenceDone n s = .next sN) :
    Kept sN s := by
  simp only [execSiteWinFenceDone] at h
  injection h with h
  subst h
  simp

theorem execSiteBudgetTimer_keep (n : Fin 6) (s : State) {sN : State} (h : execSiteBudgetTimer n s = .next sN) :
    Kept sN s := by
  simp only [execSiteBudgetTimer] at h
  injection h with h
  subst h
  simp

@[simp] theorem wrSiteBudget_keep (n v : Nat) (s : State) :
    Kept (wrSiteBudget n v s) s := by
  simp [wrSiteBudget]

theorem execSiteBudgetWrite_keep (n : Fin 6) (w : BitVec 11) (s : State) {sN : State} (h : execSiteBudgetWrite n w s = .next sN) :
    Kept sN s := by
  simp only [execSiteBudgetWrite] at h
  injection h with h
  subst h
  simp

theorem execSiteOverpower_keep (n : Fin 6) (w : BitVec 11) (s : State) {sN : State} (h : execSiteOverpower n w s = .next sN) :
    Kept sN s := by
  simp only [execSiteOverpower] at h
  injection h with h
  subst h
  simp

theorem siteClampTimeoutEvent_keep (n : Fin 6) (w : BitVec 11) (s : State) {sN : State} (h : siteClampTimeoutEvent n w s = .next sN) :
    Kept sN s := by
  simp only [siteClampTimeoutEvent] at h
  injection h with h
  subst h
  simp

theorem execSiteUnclamp_keep (n : Fin 6) (s : State) {sN : State} (h : execSiteUnclamp n s = .next sN) :
    Kept sN s := by
  simp only [execSiteUnclamp] at h
  injection h with h
  subst h
  simp

@[simp] theorem recallSite_keep (n : Nat) (s : State) :
    Kept (recallSite n s) s := by
  simp only [recallSite]
  repeat' first
    | (simp [*]; done)
    | split
    | refine forEach_keep _ _ _ _ ?_ (fun a u => ?_)

theorem execFlushed_keep (n : Fin 6) (s : State) {sN : State} (h : execFlushed n s = .next sN) :
    Kept sN s := by
  simp only [execFlushed] at h
  injection h with h
  subst h
  simp

end Sys2Proof.Machine
end

