-- ==== Sys2Proof/Laws/KeptCxl.lean ====
section
/-!
SUPPORT. What the functions of Machine/Cxl.lean leave alone: one lemma each, in the terms of Safety.lean (`Kept`, `Held`).
-/
namespace Sys2Proof.Machine

@[simp] theorem cxlReq_keep (n tag pa msg w3 : Nat) (nodata : Bool) (data : LineData) (mask : BitVec 128) (poison : Bool) (s : State) :
    Kept (cxlReq n tag pa msg w3 nodata data mask poison s) s := by
  simp [cxlReq]

@[simp] theorem cxlWrite_keep (n tag pa : Nat) (data : LineData) (mask : BitVec 128) (poison : Bool) (s : State) :
    Kept (cxlWrite n tag pa data mask poison s) s := by
  simp [cxlWrite]

theorem execCxlRdshared_keep (n : Fin 6) (tag : Fin 4096) (pa : BitVec 52) (s : State) {sN : State} (h : execCxlRdshared n tag pa s = .next sN) :
    Kept sN s := by
  simp only [execCxlRdshared] at h
  injection h with h
  subst h
  simp

theorem execCxlRdany_keep (n : Fin 6) (tag : Fin 4096) (pa : BitVec 52) (s : State) {sN : State} (h : execCxlRdany n tag pa s = .next sN) :
    Kept sN s := by
  simp only [execCxlRdany] at h
  injection h with h
  subst h
  simp

theorem execCxlRdown_keep (n : Fin 6) (tag : Fin 4096) (pa : BitVec 52) (s : State) {sN : State} (h : execCxlRdown n tag pa s = .next sN) :
    Kept sN s := by
  simp only [execCxlRdown] at h
  injection h with h
  subst h
  simp

theorem execCxlRdownnodata_keep (n : Fin 6) (tag : Fin 4096) (pa : BitVec 52) (s : State) {sN : State} (h : execCxlRdownnodata n tag pa s = .next sN) :
    Kept sN s := by
  simp only [execCxlRdownnodata] at h
  injection h with h
  subst h
  simp

theorem execCxlRdcurr_keep (n : Fin 6) (tag : Fin 4096) (pa : BitVec 52) (s : State) {sN : State} (h : execCxlRdcurr n tag pa s = .next sN) :
    Kept sN s := by
  simp only [execCxlRdcurr] at h
  injection h with h
  subst h
  simp

theorem execCxlItomwr_keep (n : Fin 6) (tag : Fin 4096) (pa : BitVec 52) (data : LineData) (mask : BitVec 128) (poison : Bool) (s : State) {sN : State} (h : execCxlItomwr n tag pa data mask poison s = .next sN) :
    Kept sN s := by
  simp only [execCxlItomwr] at h
  injection h with h
  subst h
  simp

theorem execCxlWrcur_keep (n : Fin 6) (tag : Fin 4096) (pa : BitVec 52) (data : LineData) (mask : BitVec 128) (poison : Bool) (s : State) {sN : State} (h : execCxlWrcur n tag pa data mask poison s = .next sN) :
    Kept sN s := by
  simp only [execCxlWrcur] at h
  injection h with h
  subst h
  simp

theorem execCxlWrinv_keep (n : Fin 6) (tag : Fin 4096) (pa : BitVec 52) (data : LineData) (mask : BitVec 128) (poison : Bool) (s : State) {sN : State} (h : execCxlWrinv n tag pa data mask poison s = .next sN) :
    Kept sN s := by
  simp only [execCxlWrinv] at h
  injection h with h
  subst h
  simp

theorem execCxlWowrinv_keep (n : Fin 6) (tag : Fin 4096) (pa : BitVec 52) (data : LineData) (mask : BitVec 128) (poison : Bool) (s : State) {sN : State} (h : execCxlWowrinv n tag pa data mask poison s = .next sN) :
    Kept sN s := by
  simp only [execCxlWowrinv] at h
  injection h with h
  subst h
  simp

theorem execCxlWowrinvf_keep (n : Fin 6) (tag : Fin 4096) (pa : BitVec 52) (data : LineData) (mask : BitVec 128) (poison : Bool) (s : State) {sN : State} (h : execCxlWowrinvf n tag pa data mask poison s = .next sN) :
    Kept sN s := by
  simp only [execCxlWowrinvf] at h
  injection h with h
  subst h
  simp

theorem execCxlDirtyevict_keep (n : Fin 6) (tag : Fin 4096) (pa : BitVec 52) (s : State) {sN : State} (h : execCxlDirtyevict n tag pa s = .next sN) :
    Kept sN s := by
  simp only [execCxlDirtyevict] at h
  injection h with h
  subst h
  split <;> simp

@[simp] theorem cxlCleanEvict_keep (n tag pa : Nat) (s : State) :
    Kept (cxlCleanEvict n tag pa s) s := by
  simp only [cxlCleanEvict]
  split <;> simp

theorem execCxlCleanevict_keep (n : Fin 6) (tag : Fin 4096) (pa : BitVec 52) (s : State) {sN : State} (h : execCxlCleanevict n tag pa s = .next sN) :
    Kept sN s := by
  simp only [execCxlCleanevict] at h
  injection h with h
  subst h
  simp

theorem execCxlCleanevictnodata_keep (n : Fin 6) (tag : Fin 4096) (pa : BitVec 52) (s : State) {sN : State} (h : execCxlCleanevictnodata n tag pa s = .next sN) :
    Kept sN s := by
  simp only [execCxlCleanevictnodata] at h
  injection h with h
  subst h
  simp

theorem execCxlClflush_keep (n : Fin 6) (tag : Fin 4096) (pa : BitVec 52) (s : State) {sN : State} (h : execCxlClflush n tag pa s = .next sN) :
    Kept sN s := by
  simp only [execCxlClflush] at h
  injection h with h
  subst h
  simp

theorem execCxlCacheflushed_keep (_n : Fin 6) (s : State) {sN : State} (h : execCxlCacheflushed _n s = .next sN) :
    Kept sN s := by
  simp only [execCxlCacheflushed] at h
  injection h with h
  subst h
  simp

theorem execCxlOtherRequest_keep (n : Fin 6) (s : State) {sN : State} (h : execCxlOtherRequest n s = .next sN) :
    Kept sN s := by
  simp only [execCxlOtherRequest] at h
  injection h with h
  subst h
  simp

theorem execCxlSnoopResponse_keep (n : Fin 6) (k : Fin 12) (l : Fin (2 ^ 29)) (r : CxlRsp) (s : State) {sN : State} (h : execCxlSnoopResponse n k l r s = .next sN) :
    Kept sN s := by
  unfold execCxlSnoopResponse at h
  injection h with h
  subst h
  refine Kept.ite (Kept.refl _) ?_
  cases s.plz.snoops.find? _ with
  | none => exact protocolError_keep ..
  | some x =>
    dsimp only
    cases s.txn? x.txn with
    | none => exact snpRsp_keep ..
    | some t => exact (snpRsp_keep ..).trans (Kept.ite (updSite_keep ..) (Kept.refl _))

@[simp] theorem routeData_getD_keep (num u : Nat) (d : UnitData) (m : Option Mark) (g : Grant) (s : State) :
    Kept ((routeData num u d m g s).getD s) s := by
  generalize hr : routeData num u d m g s = o
  cases o with
  | none => exact Kept.refl _
  | some r => exact routeData_keep hr

theorem execCxlD2hData_keep (n : Fin 6) (k : Fin 12) (l : Fin (2 ^ 29)) (data : LineData) (poison : Bool) (s : State) {sN : State} (h : execCxlD2hData n k l data poison s = .next sN) :
    Kept sN s := by
  simp only [execCxlD2hData] at h
  injection h with h
  subst h
  repeat' first
    | (simp [*]; done)
    | split

end Sys2Proof.Machine
end

