-- ==== Sys2Proof/Laws/KeptTiles.lean ====
section
/-!
SUPPORT. What the functions of Machine/Tiles.lean leave alone: one lemma each, in the terms of Safety.lean (`Kept`, `Held`).
-/
namespace Sys2Proof.Machine

@[simp] theorem sampleRecord_keep (w0 : Nat) (ws : List Nat) (s : State) :
    Kept (sampleRecord w0 ws s) s := by
  simp [sampleRecord]

@[simp] theorem syncNative_keep (t : Nat) (s : State) :
    Kept (syncNative t s) s := by
  simp [syncNative]

@[simp] theorem stopTile_keep (t : Nat) (r : Report) (s : State) :
    Kept (stopTile t r s) s := by
  simp [stopTile]

@[simp] theorem failTile_keep (t cause detail : Nat) (s : State) :
    Kept (failTile t cause detail s) s := by
  simp [failTile]

@[simp] theorem userException_keep (t mcause : Nat) (mtval : W64) (s : State) :
    Kept (userException t mcause mtval s) s := by
  simp [userException]

@[simp] theorem coreException_keep (t mcause : Nat) (mtval : W64) (s : State) :
    Kept (coreException t mcause mtval s) s := by
  simp only [coreException]
  split <;> simp

@[simp] theorem illegalInstr_keep (t : Nat) (s : State) :
    Kept (illegalInstr t s) s := by
  simp [illegalInstr]

@[simp] theorem retire_keep (t : Nat) (nxt : W64) (s : State) :
    Kept (retire t nxt s) s := by
  simp [retire]

/-- What a reader sees of a unit moves at most the counter of free values on. -/
theorem viewUnit_frame (x : Tile) (r : Option (Nat × QCmd)) (p : Tile × State) (u : Nat) (s : State)
    (h : p.2 = { s with free := p.2.free }) : (viewUnit x r p u).2 = { s with free := (viewUnit x r p u).2.free } := by
  unfold viewUnit
  split
  · exact h
  · dsimp only
    split <;> (simp only [fresh]; rw [h])

/-- The same of a tile. -/
theorem viewTile_frame (t : Nat) (r : Option (Nat × QCmd)) (ranges : List (Nat × Nat)) (s : State) :
    (viewTile t r ranges s).2 = { s with free := (viewTile t r ranges s).2.free } := by
  unfold viewTile
  generalize ((((s.tile t).unord.map (·.unit)).eraseDups).filter (rangesHit ranges)) = l
  suffices ∀ (p : Tile × State), p.2 = { s with free := p.2.free } →
      (l.foldl (viewUnit (s.tile t) r) p).2 = { s with free := (l.foldl (viewUnit (s.tile t) r) p).2.free } from
    this (s.tile t, s) rfl
  induction l with
  | nil => exact fun p h => h
  | cons a l ih => exact fun p h => ih _ (viewUnit_frame _ r p a s h)

/-- A tile that no unordered write has changed is seen as it stands. -/
theorem viewTile_calm (t : Nat) (r : Option (Nat × QCmd)) (ranges : List (Nat × Nat)) (s : State)
    (h : (s.tile t).unord = []) : viewTile t r ranges s = (s.tile t, s) := by
  simp [viewTile, h]

@[simp] theorem viewTile_keep (t : Nat) (r : Option (Nat × QCmd)) (ranges : List (Nat × Nat)) (s : State) :
    Kept (viewTile t r ranges s).2 s := by
  rw [viewTile_frame]
  simp

@[simp] theorem readArea_keep (t : Nat) (a : Area) (n : Nat) (s : State) :
    Kept (readArea t a n s).2 s := by
  simp only [readArea]
  repeat' first
    | (simp [*]; done)
    | split

@[simp] theorem writeArea_keep (t : Nat) (a : Area) (n v : Nat) (s : State) :
    Kept (writeArea t a n v s) s := by
  simp [writeArea]

@[simp] theorem spoil_keep (t : Nat) (a : Area) (s : State) :
    Kept (spoil t a s) s := by
  simp [spoil]

@[simp] theorem maySpoil_keep (t : Nat) (ue : Bool) (a : Area) (s : State) :
    Kept (maySpoil t ue a s) s := by
  simp [maySpoil]

end Sys2Proof.Machine
end

