-- ==== Sys2Proof/Laws/KeptIssue.lean ====
section
/-!
SUPPORT. What the functions of Machine/Issue.lean leave alone: one lemma each, in the terms of Safety.lean (`Kept`, `Held`).
-/
namespace Sys2Proof.Machine

theorem execXkIssue_keep (t : Fin 72) (ue : Option (Fin 8)) (s : State) {sN : State} (h : execXkIssue t ue s = .next sN) :
    Kept sN s := by
  simp only [execXkIssue] at h
  injection h with h
  subst h
  repeat' first
    | (simp [*]; done)
    | split

end Sys2Proof.Machine
end

