-- ==== Sys2Proof/Laws/KeptMatrix.lean ====
section
/-!
SUPPORT. What the functions of Machine/Matrix.lean leave alone: one lemma each, in the terms of Safety.lean (`Kept`, `Held`).
-/
namespace Sys2Proof.Machine

@[simp] theorem expanderFault_keep (t : Nat) (s : State) :
    Kept (expanderFault t s) s := by
  simp [expanderFault]

@[simp] theorem engineStop_keep (t : Nat) (r : UnitRead) (s : State) :
    Kept (engineStop t r s) s := by
  simp only [engineStop]
  split <;> simp

@[simp] theorem mayGoBad_keep (t : Nat) (bad : Option (Fin 65536)) (s : State) :
    Kept (mayGoBad t bad s) s := by
  simp only [mayGoBad]
  split <;> simp

@[simp] theorem matmulStep_keep (t : Nat) (bad : Option (Fin 65536)) (mismatch : Bool) (s : State) :
    Kept (matmulStep t bad mismatch s) s := by
  simp only [matmulStep]
  repeat' first
    | (simp [*]; done)
    | split

theorem execFtqSlotFull_keep (t : Fin 72) (s : State) {sN : State} (h : execFtqSlotFull t s = .next sN) :
    Kept sN s := by
  simp only [execFtqSlotFull] at h
  injection h with h
  subst h
  split <;> simp

theorem execCommandStart_keep (t : Fin 72) (q : Fin 4) (s : State) {sN : State} (h : execCommandStart t q s = .next sN) :
    Kept sN s := by
  simp only [execCommandStart] at h
  injection h with h
  subst h
  split <;> simp

@[simp] theorem commandSample_keep (t q : Nat) (e : QCmd) (s : State) :
    Kept (commandSample t q e s) s := by
  simp [commandSample]

theorem execCommandComplete_keep (t : Fin 72) (q : Fin 4) (s : State) {sN : State} (h : execCommandComplete t q s = .next sN) :
    Kept sN s := by
  simp only [execCommandComplete] at h
  injection h with h
  subst h
  split <;> simp

theorem execFtqDeadlock_keep (t : Fin 72) (s : State) {sN : State} (h : execFtqDeadlock t s = .next sN) :
    Kept sN s := by
  simp only [execFtqDeadlock] at h
  injection h with h
  subst h
  simp

end Sys2Proof.Machine
end

