-- ==== Sys2Proof/Laws/KeptVector.lean ====
section
/-!
SUPPORT. What the functions of Machine/Vector.lean leave alone: one lemma each, in the terms of Safety.lean (`Kept`, `Held`).
-/
namespace Sys2Proof.Machine

@[simp] theorem vectorStep_keep (t : Nat) (want : List Nat → Bool) (block : Tile → Tile → QCmd → BlockRes) (bad : Option (Fin 65536)) (s : State) :
    Kept (vectorStep t want block bad s) s := by
  simp only [vectorStep]
  repeat' first
    | (simp [*]; done)
    | split
    | refine forEach_keep _ _ _ _ ?_ (fun a u => ?_)

@[simp] theorem vopStep_keep (t op : Nat) (bad : Option (Fin 65536)) (s : State) :
    Kept (vopStep t op bad s) s := by
  simp [vopStep]

end Sys2Proof.Machine
end

