-- ==== Sys2Proof/Laws/KeptReduce.lean ====
section
/-!
SUPPORT. What the functions of Machine/Reduce.lean leave alone: one lemma each, in the terms of Safety.lean (`Kept`, `Held`).
-/
namespace Sys2Proof.Machine

@[simp] theorem reduceStep_keep (t : Nat) (want : List Nat → Bool) (strided : Bool) (row : Tile → List Nat → Nat → List Nat × List Nat) (bad : Option (Fin 65536)) (s : State) :
    Kept (reduceStep t want strided row bad s) s := by
  simp only [reduceStep]
  repeat' first
    | (simp [*]; done)
    | split

end Sys2Proof.Machine
end

