-- ==== Sys2Proof/Laws/KeptDma.lean ====
section
/-!
SUPPORT. What the functions of Machine/Dma.lean leave alone: one lemma each, in the terms of Safety.lean (`Kept`, `Held`).
-/
namespace Sys2Proof.Machine

@[simp] theorem tileUnits_keep (t budget : Nat) (e : QCmd) (s : State) :
    Kept (tileUnits t budget e s).2 s := by
  simp only [tileUnits]
  repeat' first
    | (simp [*]; done)
    | (split <;> try (first
        | (rename_i hq; have h1 := congrArg (fun p => p.2.pending) hq; have h2 := congrArg (fun p => p.2.sec) hq; have h3 := congrArg (fun p => p.2.boot.tilesAt) hq; have h4 := congrArg (fun p => p.2.boot.digest) hq; simp at h1 h2 h3 h4)
        | (rename_i hq; have h1 := congrArg (fun p => p.2.2.pending) hq; have h2 := congrArg (fun p => p.2.2.sec) hq; have h3 := congrArg (fun p => p.2.2.boot.tilesAt) hq; have h4 := congrArg (fun p => p.2.2.boot.digest) hq; simp at h1 h2 h3 h4)))
    | refine forEach_keep _ _ _ _ ?_ (fun a u => ?_)
    | (simp_all; done)
    | (rename_i hq; split at hq)
    | simp

@[simp] theorem tileLoop_keep (t row fuel budget : Nat) (s : State) :
    Kept ((tileLoop t row fuel budget s)) s := by
  induction fuel generalizing budget s with
  | zero => simp [tileLoop]
  | succ n ih =>
    cases budget with
    | zero => simp [tileLoop]
    | succ b =>
      simp only [tileLoop]
      repeat' first
        | (simp [*]; done)
        | split

@[simp] theorem tileTransfer_keep (t : Nat) (s : State) :
    Kept (tileTransfer t s) s := by
  simp only [tileTransfer]
  split <;> simp

@[simp] theorem copyRead_keep (id ctx cls : Nat) (src : Nat → Nat) (n fuel i : Nat) (got : List (UnitData × Option Mark))
    (s : State) : Kept ((copyRead id ctx cls src n fuel i got s).2) s := by
  induction fuel generalizing i got s with
  | zero => simp [copyRead]
  | succ n ih =>
    simp only [copyRead]
    repeat' first
      | (simp [*]; done)
      | (split <;> try (rename_i hq; have h1 := congrArg (fun p => p.2.pending) hq; have h2 := congrArg (fun p => p.2.sec) hq; have h3 := congrArg (fun p => p.2.boot.tilesAt) hq; have h4 := congrArg (fun p => p.2.boot.digest) hq; simp at h1 h2 h3 h4))
      | refine forEach_keep _ _ _ _ ?_ (fun a u => ?_)

@[simp] theorem copyFail_keep (id cause detail : Nat) (s : State) :
    Kept (copyFail id cause detail s) s := by
  simp [copyFail]

@[simp] theorem copyWriteFail_keep (id detail : Nat) (s : State) :
    Kept (copyWriteFail id detail s) s := by
  simp [copyWriteFail]

@[simp] theorem copyFaults_keep (id : Nat) (us : List (UnitData × Option Mark)) (lost : Option Nat) (sent : Bool)
    (s : State) : Kept (copyFaults id us lost sent s) s := by
  simp only [copyFaults]
  split <;> simp

@[simp] theorem copyTransfer_keep (id : Nat) (s : State) :
    Kept (copyTransfer id s) s := by
  simp only [copyTransfer]
  repeat' first
    | (simp [*]; done)
    | (split <;> try (first
        | (rename_i hq; have h1 := congrArg (fun p => p.2.pending) hq; have h2 := congrArg (fun p => p.2.sec) hq; have h3 := congrArg (fun p => p.2.boot.tilesAt) hq; have h4 := congrArg (fun p => p.2.boot.digest) hq; simp at h1 h2 h3 h4)
        | (rename_i hq; have h1 := congrArg (fun p => p.2.2.pending) hq; have h2 := congrArg (fun p => p.2.2.sec) hq; have h3 := congrArg (fun p => p.2.2.boot.tilesAt) hq; have h4 := congrArg (fun p => p.2.2.boot.digest) hq; simp at h1 h2 h3 h4)))
    | refine forEach_keep _ _ _ _ ?_ (fun a u => ?_)
    | (simp_all; done)
    | (rename_i hq; split at hq)
    | simp

@[simp] theorem dmaServe_keep (c p : Nat) (s : State) :
    Kept (dmaServe c p s) s := by
  simp only [dmaServe]
  repeat' first
    | (simp [*]; done)
    | split

theorem execDmaTransferUnit_keep (c : Fin 18) (s : State) {sN : State} (h : execDmaTransferUnit c s = .next sN) :
    Kept sN s := by
  simp only [execDmaTransferUnit] at h
  injection h with h
  subst h
  split <;> simp

@[simp] theorem dmaStep_keep (t op : Nat) (s : State) :
    Kept (dmaStep t op s) s := by
  simp only [dmaStep]
  split <;> simp

theorem execCopyIn_keep (t : Fin 72) (s : State) {sN : State} (h : execCopyIn t s = .next sN) :
    Kept sN s := by
  simp only [execCopyIn] at h
  injection h with h
  subst h
  simp

theorem execCopyOut_keep (t : Fin 72) (s : State) {sN : State} (h : execCopyOut t s = .next sN) :
    Kept sN s := by
  simp only [execCopyOut] at h
  injection h with h
  subst h
  simp

theorem execCsIn_keep (t : Fin 72) (s : State) {sN : State} (h : execCsIn t s = .next sN) :
    Kept sN s := by
  simp only [execCsIn] at h
  injection h with h
  subst h
  simp

theorem execCsOut_keep (t : Fin 72) (s : State) {sN : State} (h : execCsOut t s = .next sN) :
    Kept sN s := by
  simp only [execCsOut] at h
  injection h with h
  subst h
  simp

theorem execCopy_keep (id : Nat) (s : State) {sN : State} (h : execCopy id s = .next sN) :
    Kept sN s := by
  simp only [execCopy] at h
  injection h with h
  subst h
  split <;> simp

end Sys2Proof.Machine
end

