-- ==== Sys2Proof/Laws/KeptCairn.lean ====
section
/-!
SUPPORT. What the functions of Machine/Cairn.lean leave alone: one lemma each, in the terms of Safety.lean (`Kept`, `Held`).
-/
namespace Sys2Proof.Machine

@[simp] theorem readUnits_keep (who : Who) (ctx cls fuel unit : Nat) (got : List (Tgt × UnitData × Option Mark)) (s : State) :
    Kept (readUnits who ctx cls fuel unit got s).2 s := by
  induction fuel generalizing unit got s with
  | zero => simp [readUnits]
  | succ n ih =>
    simp only [readUnits]
    repeat' first
      | (simp [*]; done)
      | (split <;> try (first
        | (rename_i hq; have h1 := congrArg (fun p => p.2.pending) hq; have h2 := congrArg (fun p => p.2.sec) hq; have h3 := congrArg (fun p => p.2.boot.tilesAt) hq; have h4 := congrArg (fun p => p.2.boot.digest) hq; simp at h1 h2 h3 h4)
        | (rename_i hq; have h1 := congrArg (fun p => p.2.2.pending) hq; have h2 := congrArg (fun p => p.2.2.sec) hq; have h3 := congrArg (fun p => p.2.2.boot.tilesAt) hq; have h4 := congrArg (fun p => p.2.2.boot.digest) hq; simp at h1 h2 h3 h4)))
      | refine forEach_keep _ _ _ _ ?_ (fun a u => ?_)

@[simp] theorem readRange_keep (who : Who) (ctx cls va len : Nat) (s : State) :
    Kept (readRange who ctx cls va len s).2 s := by
  simp only [readRange]
  repeat' first
    | (simp [*]; done)
    | (split <;> try (first
        | (rename_i hq; have h1 := congrArg (fun p => p.2.pending) hq; have h2 := congrArg (fun p => p.2.sec) hq; have h3 := congrArg (fun p => p.2.boot.tilesAt) hq; have h4 := congrArg (fun p => p.2.boot.digest) hq; simp at h1 h2 h3 h4)
        | (rename_i hq; have h1 := congrArg (fun p => p.2.2.pending) hq; have h2 := congrArg (fun p => p.2.2.sec) hq; have h3 := congrArg (fun p => p.2.2.boot.tilesAt) hq; have h4 := congrArg (fun p => p.2.2.boot.digest) hq; simp at h1 h2 h3 h4)))
    | refine forEach_keep _ _ _ _ ?_ (fun a u => ?_)
    | (simp_all; done)
    | (rename_i hq; split at hq)
    | simp

@[simp] theorem writeTargets_keep (who : Who) (ctx : Nat) (l : List (Nat × Nat)) (s : State) :
    Kept (writeTargets who ctx l s).2.2 s := by
  induction l generalizing s with
  | nil => exact Kept.refl _
  | cons a l ih =>
    obtain ⟨va, n⟩ := a
    have hx := xlate_keep who ctx va .write s
    unfold writeTargets
    generalize xlate who ctx va .write s = r at hx
    obtain ⟨o, s1⟩ := r
    cases o with
    | ok tgt ent =>
      dsimp only
      split
      · exact hx
      · have hw := ih s1
        generalize writeTargets who ctx l s1 = q at hw
        obtain ⟨q, b, s2⟩ := q
        cases q <;> exact hw.trans hx
    | _ => exact hx

@[simp] theorem updGroup_keep (id : Nat) (f : Group → Group) (s : State) :
    Kept (updGroup id f s) s := by
  simp [updGroup]

@[simp] theorem syncGroups_keep (p : Nat) (s : State) :
    Kept (syncGroups p s) s := by
  simp [syncGroups]

@[simp] theorem redSend_keep (p : Nat) (m : KflMsg) (s : State) :
    Kept (redSend p m s) s := by
  simp [redSend]

@[simp] theorem redData_keep (p : Nat) (l : Live) (down fp32 : Bool) (c : Nat) (bs : List Byte) (m : Option Mark) (s : State) :
    Kept (redData p l down fp32 c bs m s) s := by
  simp [redData]

@[simp] theorem redReady_keep (p : Nat) (l : Live) (g : Group) (s : State) :
    Kept (redReady p l g s) s := by
  simp [redReady]

@[simp] theorem endGroup_keep (id status port : Nat) (ff : Option (Nat × Nat)) (from? : Option Nat) (s : State) :
    Kept (endGroup id status port ff from? s) s := by
  simp only [endGroup]
  split <;> simp

@[simp] theorem failGroup_keep (id status port : Nat) (from? : Option Nat) (s : State) :
    Kept (failGroup id status port from? s) s := by
  simp [failGroup]

@[simp] theorem drainGroups_keep (c : Nat) (s : State) :
    Kept (drainGroups c s) s := by
  simp only [drainGroups]
  repeat' first
    | (simp [*]; done)
    | split
    | refine forEach_keep _ _ _ _ ?_ (fun a u => ?_)

@[simp] theorem abortReduce_keep (id : Nat) (s : State) :
    Kept (abortReduce id s) s := by
  simp only [abortReduce]
  split <;> simp

@[simp] theorem portGroups_keep (p : Nat) (s : State) :
    Kept (portGroups p s) s := by
  simp [portGroups]

theorem storePieces_keep (who : Who) (m : Option Mark) (cls : Nat) (ts : List (Tgt × Nat × Nat))
    (st : (List Byte × Nat × Option Nat) × State) :
    Kept (ts.foldl (fun (st : (List Byte × Nat × Option Nat) × State) t =>
      let a := agentStore opRecord who (fun _ => m) 0 cls (entMirror t.2.1) (t.2.2 + 1) 0 t.1
        (st.1.1.take t.2.2) st.2
      ((st.1.1.drop t.2.2, st.1.2.1 + a.1.1, st.1.2.2.or a.1.2), a.2)) st).2 st.2 := by
  induction ts generalizing st with
  | nil => exact Kept.refl _
  | cons a ts ih =>
    rw [List.foldl_cons]
    refine (ih _).trans ?_
    exact agentStore_keep _ _ _ _ _ _ (by intros; simp) _ _ _ _ _

@[simp] theorem writeChunk_keep (id : Nat) (g : Group) (l : Live) (ts : List (Tgt × Nat × Nat)) (bs : List Byte) (m : Option Mark)
    (s : State) : Kept (writeChunk id g l ts bs m s) s := by
  have h := storePieces_keep (.reduce g.port id) m (redClass l) ts ((bs, 0, none), s)
  unfold writeChunk
  extract_lets r s1
  have h1 : Kept s1 s := (updGroup_keep ..).trans h
  clear_value s1 r
  split
  · exact (updLive_keep ..).trans h1
  · exact h1

@[simp] theorem sendChunk_keep (id : Nat) (g : Group) (l : Live) (ts : List (Tgt × Nat × Nat)) (bs : List Byte) (vs : List Nat)
    (m : Option Mark) (s : State) : Kept (sendChunk id g l ts bs vs m s) s := by
  simp only [sendChunk]
  split
  · exact forEach_keep _ _ _ _ (writeChunk_keep ..) (fun a u => redData_keep ..)
  · split <;> exact redData_keep ..

@[simp] theorem formRead_keep (id : Nat) (g : Group) (l : Live) (ts : List (Tgt × Nat × Nat)) (r : RangeRes × State) :
    Kept (formRead id g l ts r) r.2 := by
  obtain ⟨r, s2⟩ := r
  unfold formRead
  cases r with
  | wait => exact Kept.refl _
  | aborted => exact abortReduce_keep ..
  | ok bs m =>
    dsimp only
    generalize hs3 : countEvent (blkPort g.port) 0x64 none none none 1 _ = s3
    have h3 : Kept s3 s2 := by
      rw [← hs3]
      exact (countEvent_keep ..).trans (updGroup_keep ..)
    have h4 : ∀ vs mk, Kept (sendChunk id g l ts bs vs mk s3) s2 := fun vs mk => (sendChunk_keep ..).trans h3
    split
    · split
      · exact forEach_keep _ _ _ _ (h4 ..) (fun a u => redReady_keep ..)
      · exact h4 ..
    · exact h4 ..

@[simp] theorem formFound_keep (id : Nat) (g : Group) (l : Live) (wt : Option (List (Tgt × Nat × Nat)) × Bool × State) :
    Kept (formFound id g l wt) wt.2.2 := by
  obtain ⟨w1, ab, s1⟩ := wt
  unfold formFound
  cases w1 with
  | none =>
    dsimp only
    split
    · exact abortReduce_keep ..
    · exact Kept.refl _
  | some ts =>
    dsimp only
    exact (formRead_keep ..).trans (readRange_keep ..)

@[simp] theorem formChunk_keep (id : Nat) (s : State) : Kept (formChunk id s) s := by
  unfold formChunk
  split
  · split
    · dsimp only
      refine (formFound_keep ..).trans ?_
      split
      · exact writeTargets_keep ..
      · exact Kept.refl _
    · exact Kept.refl _
  · exact Kept.refl _

@[simp] theorem reduceRead_keep (id : Nat) (r : RangeRes × State) : Kept (reduceRead id r) r.2 := by
  obtain ⟨r, s⟩ := r
  unfold reduceRead
  cases r with
  | wait => exact Kept.refl _
  | aborted => exact abortReduce_keep ..
  | ok bs m =>
    cases m with
    | some m => exact updLive_keep ..
    | none =>
      dsimp only
      split
      · exact Kept.refl _
      · exact updLive_keep ..

theorem execReduce_keep (id : Nat) (s : State) {t : State} (h : execReduce id s = .next t) : Kept t s := by
  unfold execReduce at h
  cases h
  split
  · exact Kept.refl _
  · exact formChunk_keep ..
  · exact (reduceRead_keep ..).trans (readRange_keep ..)

theorem execReduceArm_keep (id : Nat) (s : State) {sN : State} (h : execReduceArm id s = .next sN) :
    Kept sN s := by
  simp only [execReduceArm] at h
  injection h with h
  subst h
  split <;> simp

theorem execRedReadyRepeat_keep (id : Nat) (p : Fin 16) (s : State) {sN : State} (h : execRedReadyRepeat id p s = .next sN) :
    Kept sN s := by
  simp only [execRedReadyRepeat] at h
  injection h with h
  subst h
  split <;> simp

@[simp] theorem discardKfl_keep (n : Nat) (s : State) :
    Kept (discardKfl n s) s := by
  simp [discardKfl]

@[simp] theorem takeRedReady_keep (n : Nat) (m : KflMsg) (s : State) :
    Kept (takeRedReady n m s) s := by
  simp only [takeRedReady]
  split <;> simp

@[simp] theorem takeRedAbort_keep (n : Nat) (m : KflMsg) (s : State) :
    Kept (takeRedAbort n m s) s := by
  simp only [takeRedAbort]
  split <;> simp

theorem downFound_keep (g : Group) (l : Live) (c : Nat) (out : List Byte) (mark : Option Mark)
    (wt : Option (List (Tgt × Nat × Nat)) × Bool × State) :
    Kept (downFound g l c out mark wt).2 wt.2.2 ∧ ∀ t, (downFound g l c out mark wt).1 = some t → Kept t wt.2.2 := by
  obtain ⟨w1, ab, s⟩ := wt
  unfold downFound
  cases w1 with
  | none =>
    dsimp only
    cases ab with
    | true =>
      refine ⟨Kept.refl _, fun t h => ?_⟩
      cases h
      exact abortReduce_keep ..
    | false => exact ⟨Kept.refl _, fun t h => by cases h⟩
  | some ts =>
    refine ⟨Kept.refl _, fun t h => ?_⟩
    cases h
    exact forEach_keep _ _ _ _ (writeChunk_keep ..) (fun a u => redData_keep ..)

theorem takeRedData_keep (n : Nat) (m : KflMsg) (s : State) :
    Kept (takeRedData n m s).2 s ∧ ∀ t, (takeRedData n m s).1 = some t → Kept t s := by
  unfold takeRedData
  have hd : ∀ t, some (discardKfl n s) = some t → Kept t s := fun t h => by cases h; exact discardKfl_keep ..
  dsimp only
  split
  · exact ⟨Kept.refl _, hd⟩
  · split
    · exact ⟨Kept.refl _, hd⟩
    · split
      · split
        · exact ⟨Kept.refl _, hd⟩
        · have hw := downFound_keep
          have ht := writeTargets_keep
          exact ⟨(hw ..).1.trans (ht ..), fun t h => ((hw ..).2 t h).trans (ht ..)⟩
      · split
        · exact ⟨Kept.refl _, hd⟩
        · refine ⟨Kept.refl _, fun t h => ?_⟩
          cases h
          exact (formChunk_keep ..).trans (updGroup_keep ..)

theorem execReduceTimeout_keep (id : Nat) (s : State) {sN : State} (h : execReduceTimeout id s = .next sN) :
    Kept sN s := by
  simp only [execReduceTimeout] at h
  injection h with h
  subst h
  split <;> simp

theorem execReduceComplete_keep (id : Nat) (s : State) {sN : State} (h : execReduceComplete id s = .next sN) :
    Kept sN s := by
  simp only [execReduceComplete] at h
  injection h with h
  subst h
  split <;> simp

end Sys2Proof.Machine
end

