-- ==== Sys2Proof/Laws/KeptFabric.lean ====
section
/-!
SUPPORT. What the functions of Machine/Fabric.lean leave alone: one lemma each, in the terms of Safety.lean (`Kept`, `Held`).
-/
namespace Sys2Proof.Machine

@[simp] theorem syncPortCap_keep (n : Nat) (s : State) :
    Kept (syncPortCap n s) s := by
  simp [syncPortCap]

@[simp] theorem answerKfl_keep (m : KflMsg) (status : Nat) (units : List UnitData) (marks : List (Option Mark)) (s : State) :
    Kept (answerKfl m status units marks s) s := by
  simp only [answerKfl]
  split <;> simp

@[simp] theorem dropKfl_keep (n : Nat) (m : KflMsg) (s : State) :
    Kept (dropKfl n m s) s := by
  simp [dropKfl]

@[simp] theorem routeKfl_keep (n : Nat) (m : KflMsg) (s : State) :
    Kept (routeKfl n m s).2 s := by
  simp only [routeKfl]
  repeat' first
    | (simp [*]; done)
    | split

@[simp] theorem sendHello_keep (n : Nat) (s : State) :
    Kept (sendHello n s) s := by
  simp [sendHello]

@[simp] theorem takeHello_keep (n : Nat) (m : KflMsg) (s : State) :
    Kept (takeHello n m s) s := by
  simp [takeHello]

@[simp] theorem endRequest_keep (p e status : Nat) (units : List UnitData) (marks : List (Option Mark)) (s : State) :
    Kept (endRequest p e status units marks s) s := by
  simp only [endRequest]
  repeat' first
    | (simp [*]; done)
    | split
    | refine forEach_keep _ _ _ _ ?_ (fun a u => ?_)

@[simp] theorem downPort_keep (n cause : Nat) (s : State) :
    Kept (downPort n cause s) s := by
  simp [downPort]

@[simp] theorem startRetrain_keep (n cause : Nat) (s : State) :
    Kept (startRetrain n cause s) s := by
  simp [startRetrain]

@[simp] theorem failLane_keep (n l : Nat) (s : State) :
    Kept (failLane n l s) s := by
  simp [failLane]

@[simp] theorem retrainPort_keep (n : Nat) (s : State) :
    Kept (retrainPort n s) s := by
  simp [retrainPort]

@[simp] theorem grantUnits_keep (n : Nat) (s : State) :
    Kept (grantUnits n s) s := by
  simp only [grantUnits]
  repeat' first
    | (simp [*]; done)
    | split
    | refine forEach_keep _ _ _ _ ?_ (fun a u => ?_)

@[simp] theorem resendFab_keep (n : Nat) (s : State) :
    Kept (resendFab n s) s := by
  simp only [resendFab]
  repeat' first
    | (simp [*]; done)
    | split
    | refine forEach_keep _ _ _ _ ?_ (fun a u => ?_)

@[simp] theorem retrained_keep (n : Nat) (s : State) :
    Kept (retrained n s) s := by
  simp [retrained]

@[simp] theorem kflCredits_keep (n : Nat) (credits : List (Nat × Nat)) (s : State) :
    Kept (kflCredits n credits s) s := by
  simp only [kflCredits]
  repeat' first
    | (simp [*]; done)
    | split
    | refine forEach_keep _ _ _ _ ?_ (fun a u => ?_)

@[simp] theorem kflAcked_keep (n ack : Nat) (s : State) :
    Kept (kflAcked n ack s) s := by
  simp only [kflAcked]
  repeat' first
    | (simp [*]; done)
    | split
    | refine forEach_keep _ _ _ _ ?_ (fun a u => ?_)

@[simp] theorem kflAck_keep (n ack : Nat) (s : State) :
    Kept (kflAck n ack s) s := by
  simp only [kflAck]
  repeat' first
    | (simp [*]; done)
    | split
    | refine forEach_keep _ _ _ _ ?_ (fun a u => ?_)

@[simp] theorem countNak_keep (n : Nat) (s : State) :
    Kept (countNak n s) s := by
  simp [countNak]

@[simp] theorem takeFabNak_keep (n ack : Nat) (s : State) :
    Kept (takeFabNak n ack s) s := by
  simp only [takeFabNak]
  repeat' first
    | (simp [*]; done)
    | split
    | refine forEach_keep _ _ _ _ ?_ (fun a u => ?_)

@[simp] theorem badFlit_keep (n : Nat) (s : State) :
    Kept (badFlit n s) s := by
  simp [badFlit]

@[simp] theorem bufferKfl_keep (n : Nat) (m : KflMsg) (s : State) :
    Kept (bufferKfl n m s) s := by
  simp only [bufferKfl]
  repeat' first
    | (simp [*]; done)
    | split
    | refine forEach_keep _ _ _ _ ?_ (fun a u => ?_)

@[simp] theorem deliverKfl_keep (n : Nat) (f : KflFlit) (s : State) :
    Kept (deliverKfl n f s) s := by
  simp only [deliverKfl]
  repeat' first
    | (simp [*]; done)
    | split
    | refine forEach_keep _ _ _ _ ?_ (fun a u => ?_)

theorem execFabricFlit_keep (n : Fin 16) (w : LaneFlit) (s : State) {sN : State} (h : execFabricFlit n w s = .next sN) :
    Kept sN s := by
  simp only [execFabricFlit] at h
  injection h with h
  subst h
  repeat' first
    | (simp [*]; done)
    | split
    | refine forEach_keep _ _ _ _ ?_ (fun a u => ?_)

theorem execFabricNak_keep (n : Fin 16) (ack : BitVec 16) (s : State) {sN : State} (h : execFabricNak n ack s = .next sN) :
    Kept sN s := by
  simp only [execFabricNak] at h
  injection h with h
  subst h
  simp

theorem execFabricAckTimer_keep (n : Fin 16) (s : State) {sN : State} (h : execFabricAckTimer n s = .next sN) :
    Kept sN s := by
  simp only [execFabricAckTimer] at h
  injection h with h
  subst h
  simp

theorem kflTake_keep {n code : Nat} {s : State} {r : KflMsg × State} (h : kflTake n code s = some r) :
    Kept r.2 s := by
  simp only [kflTake] at h
  repeat' first
    | (cases h; done)
    | split at h
    | (cases h; simp [*]; done)
    | (cases h; simp)

@[simp] theorem updWinReq_keep (p id : Nat) (f : WinReq → WinReq) (s : State) :
    Kept (updWinReq p id f s) s := by
  simp [updWinReq]

@[simp] theorem answerWin_keep (p : Nat) (r : WinReq) (status : Nat) (units : List UnitData) (marks : List (Option Mark)) (s : State) :
    Kept (answerWin p r status units marks s) s := by
  simp [answerWin]

@[simp] theorem winTarget_keep (p : Nat) (r : WinReq) (off : Nat) (s : State) :
    Kept (winTarget p r off s).2 s := by
  simp only [winTarget]
  split <;> simp

@[simp] theorem winRead_keep (p id i : Nat) (s : State) :
    Kept (winRead p id i s) s := by
  simp only [winRead]
  repeat' first
    | (simp [*]; done)
    | (split <;> try (first
        | (rename_i hq; have h1 := congrArg (fun p => p.2.pending) hq; have h2 := congrArg (fun p => p.2.sec) hq; have h3 := congrArg (fun p => p.2.boot.tilesAt) hq; have h4 := congrArg (fun p => p.2.boot.digest) hq; simp at h1 h2 h3 h4)
        | (rename_i hq; have h1 := congrArg (fun p => p.2.2.pending) hq; have h2 := congrArg (fun p => p.2.2.sec) hq; have h3 := congrArg (fun p => p.2.2.boot.tilesAt) hq; have h4 := congrArg (fun p => p.2.2.boot.digest) hq; simp at h1 h2 h3 h4)))
    | refine forEach_keep _ _ _ _ ?_ (fun a u => ?_)
    | (simp_all; done)
    | (rename_i hq; split at hq)
    | simp

@[simp] theorem winWrite_keep (p id i : Nat) (s : State) :
    Kept (winWrite p id i s) s := by
  simp only [winWrite]
  repeat' first
    | (simp [*]; done)
    | (split <;> try (first
        | (rename_i hq; have h1 := congrArg (fun p => p.2.pending) hq; have h2 := congrArg (fun p => p.2.sec) hq; have h3 := congrArg (fun p => p.2.boot.tilesAt) hq; have h4 := congrArg (fun p => p.2.boot.digest) hq; simp at h1 h2 h3 h4)
        | (rename_i hq; have h1 := congrArg (fun p => p.2.2.pending) hq; have h2 := congrArg (fun p => p.2.2.sec) hq; have h3 := congrArg (fun p => p.2.2.boot.tilesAt) hq; have h4 := congrArg (fun p => p.2.2.boot.digest) hq; simp at h1 h2 h3 h4)))
    | refine forEach_keep _ _ _ _ ?_ (fun a u => ?_)
    | (simp_all; done)
    | (rename_i hq; split at hq)
    | simp

@[simp] theorem winAtomic_keep (p : Nat) (r : WinReq) (s : State) : Kept (winAtomic p r s) s := by
  unfold winAtomic
  extract_lets pay op w who answer
  have ha : ∀ v u, Kept (answer v u) u := fun v u => answerWin_keep ..
  clear_value answer
  have hx := winTarget_keep p r 0 s
  generalize winTarget p r 0 s = q at hx
  obtain ⟨q, s1⟩ := q
  cases q with
  | aborted => exact (answerWin_keep ..).trans hx
  | ok t e =>
    cases t with
    | stacked k a =>
      dsimp only
      refine Kept.ite ((answerWin_keep ..).trans hx) (Kept.ite ((answerWin_keep ..).trans hx) ?_)
      generalize hq : takeArrival who (.stacked k (a / 64 * 64)) s1 = o
      cases o with
      | none => exact Kept.ite hx ((askUnits_keep ..).trans ((postTxn_keep ..).trans hx))
      | some y => exact (ha ..).trans ((takeArrival_keep hq).trans hx)
    | remote node win off =>
      dsimp only
      have hy := agentAtomic_keep who node win off r.cls pay s1
      generalize agentAtomic who node win off r.cls pay s1 = o at hy
      obtain ⟨o, s2⟩ := o
      cases o with
      | none => exact Kept.trans hy hx
      | some v => exact (ha ..).trans (Kept.trans hy hx)
    | _ => exact (answerWin_keep ..).trans hx
  | _ => exact hx

@[simp] theorem serveWin_keep (p id : Nat) (s : State) :
    Kept (serveWin p id s) s := by
  simp only [serveWin]
  repeat' first
    | (simp [*]; done)
    | split

@[simp] theorem serveWins_keep (s : State) :
    Kept (serveWins s) s := by
  simp [serveWins]

@[simp] theorem admitKfl_keep (n : Nat) (m : KflMsg) (s : State) :
    Kept (admitKfl n m s) s := by
  simp [admitKfl]

@[simp] theorem takeKflReq_keep (n code : Nat) (s : State) :
    Kept (takeKflReq n code s) s := by
  simp only [takeKflReq]
  repeat' first
    | (simp [*]; done)
    | (split <;> try (first
        | (rename_i hq; have h1 := congrArg (fun p => p.2.pending) hq; have h2 := congrArg (fun p => p.2.sec) hq; have h3 := congrArg (fun p => p.2.boot.tilesAt) hq; have h4 := congrArg (fun p => p.2.boot.digest) hq; simp at h1 h2 h3 h4)
        | (rename_i hq; have h1 := congrArg (fun p => p.2.2.pending) hq; have h2 := congrArg (fun p => p.2.2.sec) hq; have h3 := congrArg (fun p => p.2.2.boot.tilesAt) hq; have h4 := congrArg (fun p => p.2.2.boot.digest) hq; simp at h1 h2 h3 h4)))
    | refine forEach_keep _ _ _ _ ?_ (fun a u => ?_)
    | (simp_all; done)
    | (have hk := kflTake_keep (by assumption); simp_all; done)
    | (rename_i hq; split at hq)
    | simp

theorem execKflRd_keep (n : Fin 17) (s : State) {sN : State} (h : execKflRd n s = .next sN) :
    Kept sN s := by
  simp only [execKflRd] at h
  injection h with h
  subst h
  simp

theorem execKflWr_keep (n : Fin 17) (s : State) {sN : State} (h : execKflWr n s = .next sN) :
    Kept sN s := by
  simp only [execKflWr] at h
  injection h with h
  subst h
  simp

theorem execKflWrPart_keep (n : Fin 17) (s : State) {sN : State} (h : execKflWrPart n s = .next sN) :
    Kept sN s := by
  simp only [execKflWrPart] at h
  injection h with h
  subst h
  simp

theorem execKflAtomic_keep (n : Fin 17) (s : State) {sN : State} (h : execKflAtomic n s = .next sN) :
    Kept sN s := by
  simp only [execKflAtomic] at h
  injection h with h
  subst h
  simp

@[simp] theorem takeAnswer_keep (n code : Nat) (s : State) :
    Kept (takeAnswer n code s) s := by
  simp only [takeAnswer]
  repeat' first
    | (simp [*]; done)
    | (split <;> try (first
        | (rename_i hq; have h1 := congrArg (fun p => p.2.pending) hq; have h2 := congrArg (fun p => p.2.sec) hq; have h3 := congrArg (fun p => p.2.boot.tilesAt) hq; have h4 := congrArg (fun p => p.2.boot.digest) hq; simp at h1 h2 h3 h4)
        | (rename_i hq; have h1 := congrArg (fun p => p.2.2.pending) hq; have h2 := congrArg (fun p => p.2.2.sec) hq; have h3 := congrArg (fun p => p.2.2.boot.tilesAt) hq; have h4 := congrArg (fun p => p.2.2.boot.digest) hq; simp at h1 h2 h3 h4)))
    | refine forEach_keep _ _ _ _ ?_ (fun a u => ?_)
    | (simp_all; done)
    | (have hk := kflTake_keep (by assumption); simp_all; done)
    | (rename_i hq; split at hq)
    | simp

@[simp] theorem timeoutRequest_keep (n e : Nat) (s : State) :
    Kept (timeoutRequest n e s) s := by
  simp [timeoutRequest]

@[simp] theorem expireWin_keep (p id : Nat) (s : State) :
    Kept (expireWin p id s) s := by
  simp only [expireWin]
  repeat' first
    | (simp [*]; done)
    | split

theorem execHello_keep (n : Fin 16) (s : State) {sN : State} (h : execHello n s = .next sN) :
    Kept sN s := by
  simp only [execHello] at h
  injection h with h
  subst h
  repeat' first
    | (simp [*]; done)
    | (split <;> try (first
        | (rename_i hq; have h1 := congrArg (fun p => p.2.pending) hq; have h2 := congrArg (fun p => p.2.sec) hq; have h3 := congrArg (fun p => p.2.boot.tilesAt) hq; have h4 := congrArg (fun p => p.2.boot.digest) hq; simp at h1 h2 h3 h4)
        | (rename_i hq; have h1 := congrArg (fun p => p.2.2.pending) hq; have h2 := congrArg (fun p => p.2.2.sec) hq; have h3 := congrArg (fun p => p.2.2.boot.tilesAt) hq; have h4 := congrArg (fun p => p.2.2.boot.digest) hq; simp at h1 h2 h3 h4)))
    | refine forEach_keep _ _ _ _ ?_ (fun a u => ?_)
    | (simp_all; done)
    | (have hk := kflTake_keep (by assumption); simp_all; done)
    | (rename_i hq; split at hq)
    | simp

theorem execHelloTimer_keep (n : Fin 16) (s : State) {sN : State} (h : execHelloTimer n s = .next sN) :
    Kept sN s := by
  simp only [execHelloTimer] at h
  injection h with h
  subst h
  simp

theorem lanePlanEvent_keep (n : Fin 16) (s : State) {sN : State} (h : lanePlanEvent n s = .next sN) :
    Kept sN s := by
  simp only [lanePlanEvent] at h
  injection h with h
  subst h
  repeat' first
    | (simp [*]; done)
    | (split <;> try (first
        | (rename_i hq; have h1 := congrArg (fun p => p.2.pending) hq; have h2 := congrArg (fun p => p.2.sec) hq; have h3 := congrArg (fun p => p.2.boot.tilesAt) hq; have h4 := congrArg (fun p => p.2.boot.digest) hq; simp at h1 h2 h3 h4)
        | (rename_i hq; have h1 := congrArg (fun p => p.2.2.pending) hq; have h2 := congrArg (fun p => p.2.2.sec) hq; have h3 := congrArg (fun p => p.2.2.boot.tilesAt) hq; have h4 := congrArg (fun p => p.2.2.boot.digest) hq; simp at h1 h2 h3 h4)))
    | refine forEach_keep _ _ _ _ ?_ (fun a u => ?_)
    | (simp_all; done)
    | (have hk := kflTake_keep (by assumption); simp_all; done)
    | (rename_i hq; split at hq)
    | simp

theorem laneErrorWindowEvent_keep (n : Fin 16) (l : Fin 8) (errors : BitVec 37) (codewords : BitVec 32) (most : Bool) (s : State) {sN : State} (h : laneErrorWindowEvent n l errors codewords most s = .next sN) :
    Kept sN s := by
  simp only [laneErrorWindowEvent] at h
  injection h with h
  subst h
  simp

theorem laneLockLostEvent_keep (n : Fin 16) (l : Fin 8) (s : State) {sN : State} (h : laneLockLostEvent n l s = .next sN) :
    Kept sN s := by
  simp only [laneLockLostEvent] at h
  injection h with h
  subst h
  simp

theorem fabricRetrainEvent_keep (n : Fin 16) (s : State) {sN : State} (h : fabricRetrainEvent n s = .next sN) :
    Kept sN s := by
  simp only [fabricRetrainEvent] at h
  injection h with h
  subst h
  simp

theorem fabricRetrainDoneEvent_keep (n : Fin 16) (s : State) {sN : State} (h : fabricRetrainDoneEvent n s = .next sN) :
    Kept sN s := by
  simp only [fabricRetrainDoneEvent] at h
  injection h with h
  subst h
  simp

theorem fabricRetrainTimeoutEvent_keep (n : Fin 16) (s : State) {sN : State} (h : fabricRetrainTimeoutEvent n s = .next sN) :
    Kept sN s := by
  simp only [fabricRetrainTimeoutEvent] at h
  injection h with h
  subst h
  simp

theorem execNoPeerRetry_keep (n : Fin 16) (s : State) {sN : State} (h : execNoPeerRetry n s = .next sN) :
    Kept sN s := by
  simp only [execNoPeerRetry] at h
  injection h with h
  subst h
  simp

@[simp] theorem wrFabNode_keep (v : Nat) (s : State) :
    Kept (wrFabNode v s) s := by
  simp [wrFabNode]

theorem execFabNodeWrite_keep (v : BitVec 16) (s : State) {sN : State} (h : execFabNodeWrite v s = .next sN) :
    Kept sN s := by
  simp only [execFabNodeWrite] at h
  injection h with h
  subst h
  simp

@[simp] theorem stepRtSel_keep (s : State) :
    Kept (stepRtSel s) s := by
  simp [stepRtSel]

@[simp] theorem rdFabRtData_keep (s : State) :
    Kept (rdFabRtData s).2 s := by
  simp [rdFabRtData]

@[simp] theorem wrFabRtData_keep (v : Nat) (s : State) :
    Kept (wrFabRtData v s) s := by
  simp only [wrFabRtData]
  split <;> simp

theorem execFabRtDataAccess_keep (w : Option (BitVec 32)) (s : State) {sN : State} (h : execFabRtDataAccess w s = .next sN) :
    Kept sN s := by
  simp only [execFabRtDataAccess] at h
  injection h with h
  subst h
  split <;> simp

@[simp] theorem fabFence_keep (s : State) :
    Kept (fabFence s) s := by
  simp [fabFence]

theorem execFabWinFence_keep (s : State) {sN : State} (h : execFabWinFence s = .next sN) :
    Kept sN s := by
  simp only [execFabWinFence] at h
  injection h with h
  subst h
  simp

theorem execFabWinFenceDone_keep (s : State) {sN : State} (h : execFabWinFenceDone s = .next sN) :
    Kept sN s := by
  simp only [execFabWinFenceDone] at h
  injection h with h
  subst h
  simp

@[simp] theorem wrFabCtrl_keep (v : Nat) (s : State) :
    Kept (wrFabCtrl v s) s := by
  simp [wrFabCtrl]

@[simp] theorem takeRed_keep (n code : Nat) (f : KflMsg → State → State) (s : State) (hf : ∀ a u, Kept (f a u) u) :
    Kept (takeRed n code f s) s := by
  simp only [takeRed]
  repeat' first
    | (simp [*]; done)
    | (split <;> try (first
        | (rename_i hq; have h1 := congrArg (fun p => p.2.pending) hq; have h2 := congrArg (fun p => p.2.sec) hq; have h3 := congrArg (fun p => p.2.boot.tilesAt) hq; have h4 := congrArg (fun p => p.2.boot.digest) hq; simp at h1 h2 h3 h4)
        | (rename_i hq; have h1 := congrArg (fun p => p.2.2.pending) hq; have h2 := congrArg (fun p => p.2.2.sec) hq; have h3 := congrArg (fun p => p.2.2.boot.tilesAt) hq; have h4 := congrArg (fun p => p.2.2.boot.digest) hq; simp at h1 h2 h3 h4)))
    | refine forEach_keep _ _ _ _ ?_ (fun a u => ?_)
    | (simp_all; done)
    | (have hk := kflTake_keep (by assumption); simp_all; done)
    | (rename_i hq; split at hq)
    | simp

theorem execRedReady_keep (n : Fin 16) (s : State) {sN : State} (h : execRedReady n s = .next sN) :
    Kept sN s := by
  simp only [execRedReady] at h
  injection h with h
  subst h
  simp

theorem execRedData_keep (n : Fin 16) (s : State) {t : State} (h : execRedData n s = .next t) : Kept t s := by
  unfold execRedData at h
  cases h
  generalize hk : kflTake n 0x21 s = o
  cases o with
  | none => exact Kept.refl _
  | some y =>
    obtain ⟨m, s1⟩ := y
    have h1 : Kept s1 s := kflTake_keep hk
    dsimp only
    refine Kept.ite ((dropKfl_keep ..).trans h1) ?_
    have h2 := takeRedData_keep n m s1
    generalize takeRedData n m s1 = q at h2
    obtain ⟨q, s2⟩ := q
    cases q with
    | none => exact (takeRedData_keep ..).1
    | some u => exact (h2.2 u rfl).trans h1

theorem execRedAbort_keep (n : Fin 16) (s : State) {sN : State} (h : execRedAbort n s = .next sN) :
    Kept sN s := by
  simp only [execRedAbort] at h
  injection h with h
  subst h
  simp

theorem fabricRspTimeoutEvent_keep (n : Fin 16) (e : Fin 4096) (s : State) {sN : State} (h : fabricRspTimeoutEvent n e s = .next sN) :
    Kept sN s := by
  simp only [fabricRspTimeoutEvent] at h
  injection h with h
  subst h
  simp

end Sys2Proof.Machine
end

