-- ==== Sys2Proof/Laws/KeptSubmission.lean ====
section
/-!
SUPPORT. What the functions of Machine/Submission.lean leave alone: one lemma each, in the terms of Safety.lean (`Kept`, `Held`).
-/
namespace Sys2Proof.Machine

@[simp] theorem syncInFlight_keep (c : Nat) (s : State) :
    Kept (syncInFlight c s) s := by
  simp [syncInFlight]

@[simp] theorem stopRing_keep (r : Nat) (s : State) :
    Kept (stopRing r s) s := by
  simp [stopRing]

@[simp] theorem failRing_keep (r : Nat) (s : State) :
    Kept (failRing r s) s := by
  simp [failRing]

@[simp] theorem openRing_keep (r : Nat) (s : State) :
    Kept (openRing r s) s := by
  simp only [openRing]
  split <;> simp

@[simp] theorem raiseProd_keep (r v : Nat) (s : State) :
    Kept (raiseProd r v s) s := by
  simp [raiseProd]

@[simp] theorem doorbell_keep (r v : Nat) (s : State) :
    Kept (doorbell r v s) s := by
  simp [doorbell]

theorem execDoorbell_keep (r : Fin 16384) (v : BitVec 32) (s : State) {sN : State} (h : execDoorbell r v s = .next sN) :
    Kept sN s := by
  simp only [execDoorbell] at h
  injection h with h
  subst h
  simp

@[simp] theorem judgeHead_keep (r : Nat) (s : State) :
    Kept (judgeHead r s) s := by
  simp only [judgeHead]
  split <;> simp

theorem execDescriptorFetch_keep (r : Fin 16384) (s : State) {t : State} (h : execDescriptorFetch r s = .next t) :
    Kept t s := by
  unfold execDescriptorFetch at h
  cases h
  split
  · extract_lets s1
    have h1 : Kept s1 s := by
      simp only [s1]
      cases (s.ring r).held with
      | some e => exact Kept.refl _
      | none =>
        cases s.checkRing r with
        | some e => exact updRing_keep ..
        | none => exact failRing_keep ..
    clear_value s1
    cases (s1.ring r).held with
    | none => exact h1
    | some e =>
      dsimp only
      generalize heldTgt e _ = tgt
      have hr := agentRead_keep opRecord (.dispatcher r) tgt 0 0 s1 (by intros; simp)
      generalize agentRead opRecord (.dispatcher r) tgt 0 0 s1 = q at hr
      obtain ⟨q, s2⟩ := q
      cases q with
      | none => exact Kept.trans hr h1
      | some p =>
        obtain ⟨d, m⟩ := p
        have h2 : Kept s2 s := Kept.trans hr h1
        have hj : ∀ f u, Kept (judgeHead r (updRing r f u)) u := fun f u => (judgeHead_keep ..).trans (updRing_keep ..)
        cases m with
        | none => exact (hj ..).trans h2
        | some k =>
          dsimp only
          split
          · exact h2
          · exact (hj ..).trans ((rcFlag_keep ..).trans h2)
  · exact Kept.refl _

@[simp] theorem fixTiles_keep (r : Nat) (ws : List Nat) (s : State) :
    Kept (fixTiles r ws s) s := by
  simp [fixTiles]

@[simp] theorem grantGranule_keep (c id ctx g : Nat) (s : State) :
    Kept (grantGranule c id ctx g s) s := by
  simp [grantGranule]

@[simp] theorem grantWindows_keep (id ctx n : Nat) (clusters : List Nat) (s : State) :
    Kept (grantWindows id ctx n clusters s) s := by
  simp [grantWindows]

@[simp] theorem dispatchHead_keep (r : Nat) (d : Fetched) (f : Live → Live) (s : State) :
    Kept (dispatchHead r d f s) s := by
  simp [dispatchHead]

@[simp] theorem dispatchFailed_keep (r : Nat) (d : Fetched) (cause detail : Nat) (s : State) :
    Kept (dispatchFailed r d cause detail s) s := by
  simp [dispatchFailed]

@[simp] theorem placeTask_keep (r : Nat) (d : Fetched) (s : State) :
    Kept (placeTask r d s) s := by
  simp only [placeTask]
  repeat' first
    | (simp [*]; done)
    | split

@[simp] theorem assignCopy_keep (r : Nat) (d : Fetched) (s : State) :
    Kept (assignCopy r d s) s := by
  simp only [assignCopy]
  repeat' first
    | (simp [*]; done)
    | split

@[simp] theorem tryDispatch_keep (r : Nat) (s : State) :
    Kept (tryDispatch r s) s := by
  simp only [tryDispatch]
  repeat' first
    | (simp [*]; done)
    | split

theorem execDispatch_keep (r : Fin 16384) (s : State) {sN : State} (h : execDispatch r s = .next sN) :
    Kept sN s := by
  simp only [execDispatch] at h
  injection h with h
  subst h
  simp

theorem execTaskPlacement_keep (r : Fin 16384) (s : State) {sN : State} (h : execTaskPlacement r s = .next sN) :
    Kept sN s := by
  simp only [execTaskPlacement] at h
  injection h with h
  subst h
  repeat' first
    | (simp; done)
    | split

theorem execTaskReserving_keep (r : Fin 16384) (s : State) {sN : State} (h : execTaskReserving r s = .next sN) :
    Kept sN s := by
  simp only [execTaskReserving] at h
  injection h with h
  subst h
  split <;> simp

theorem execTask_keep (id : Nat) (s : State) {sN : State} (h : execTask id s = .next sN) :
    Kept sN s := by
  simp only [execTask] at h
  injection h with h
  subst h
  split <;> simp

theorem execTaskDelivery_keep (t : Fin 72) (s : State) {sN : State} (h : execTaskDelivery t s = .next sN) :
    Kept sN s := by
  simp only [execTaskDelivery] at h
  injection h with h
  subst h
  split <;> simp

theorem execAbortInterrupt_keep (t : Fin 72) (s : State) {sN : State} (h : execAbortInterrupt t s = .next sN) :
    Kept sN s := by
  simp only [execAbortInterrupt] at h
  injection h with h
  subst h
  split <;> simp

@[simp] theorem reportTile_keep (t : Nat) (r : Report) (s : State) :
    Kept (reportTile t r s) s := by
  simp only [reportTile]
  split <;> simp

theorem execTileReport_keep (t : Fin 72) (s : State) {sN : State} (h : execTileReport t s = .next sN) :
    Kept sN s := by
  simp only [execTileReport] at h
  injection h with h
  subst h
  split <;> simp

theorem execNop_keep (id : Nat) (s : State) {sN : State} (h : execNop id s = .next sN) :
    Kept sN s := by
  simp only [execNop] at h
  injection h with h
  subst h
  split <;> simp

theorem execBarrier_keep (id : Nat) (s : State) {sN : State} (h : execBarrier id s = .next sN) :
    Kept sN s := by
  simp only [execBarrier] at h
  injection h with h
  subst h
  split <;> simp

theorem execSnapshot_keep (id : Nat) (s : State) {sN : State} (h : execSnapshot id s = .next sN) :
    Kept sN s := by
  simp only [execSnapshot] at h
  injection h with h
  subst h
  split <;> simp

theorem execResumePage_keep (id : Nat) (s : State) {sN : State} (h : execResumePage id s = .next sN) :
    Kept sN s := by
  simp only [execResumePage] at h
  injection h with h
  subst h
  split <;> simp

@[simp] theorem cqArea_keep (c : Nat) (s : State) :
    Kept (cqArea c s).2 s := by
  simp only [cqArea]
  repeat' first
    | (simp [*]; done)
    | split

@[simp] theorem histArea_keep (c : Nat) (s : State) : Kept (histArea c s).2 s := by
  simp only [histArea]
  repeat' first
    | (simp [*]; done)
    | split

@[simp] theorem releaseLive_keep (l : Live) (s : State) :
    Kept (releaseLive l s) s := by
  simp [releaseLive]

@[simp] theorem signalFence_keep (l : Live) (s : State) :
    Kept (signalFence l s) s := by
  simp [signalFence]

@[simp] theorem blockStep_keep (l : Live) (s : State) : Kept (blockStep l s).2 s := by
  unfold blockStep
  dsimp only
  split
  · have h := histArea_keep l.ctx s
    generalize histArea l.ctx s = r at h
    obtain ⟨e, s1⟩ := r
    cases e with
    | none => exact h
    | some e =>
      dsimp only
      split
      · exact h
      · exact (storeHeld_keep _ _ _ _ _ _ (by intros; simp)).trans h
  · exact Kept.refl _

@[simp] theorem recordStep_keep (l : Live) (cause detail : Nat) (s : State) : Kept (recordStep l cause detail s).2 s := by
  unfold recordStep
  dsimp only
  split
  · have h := cqArea_keep l.ctx s
    generalize cqArea l.ctx s = r at h
    obtain ⟨e, s1⟩ := r
    cases e with
    | none => exact h
    | some e =>
      dsimp only
      split
      · exact h
      · refine (storeHeld_keep _ _ _ _ _ _ (by intros; simp)).trans ?_
        split
        · exact (fresh_keep ..).trans h
        · exact h
  · exact Kept.refl _

@[simp] theorem endLive_keep (wrote : Bool) (l : Live) (s : State) : Kept (endLive wrote l s) s := by
  simp [endLive]

@[simp] theorem areaLost_keep (l : Live) (s : State) : Kept (areaLost l s).2 s := by
  unfold areaLost
  split <;> simp

@[simp] theorem completeRecord_keep (l : Live) (cause detail : Nat) (s : State) :
    Kept (completeRecord l cause detail s).2 s := by
  unfold completeRecord
  extract_lets r
  have hr : Kept r.2 s := by
    simp only [r]
    split <;> simp
  clear_value r
  split
  · exact hr
  · exact (areaLost_keep ..).trans hr
  · split
    · exact (updLive_keep ..).trans hr
    · exact (endLive_keep ..).trans ((updLive_keep ..).trans hr)

@[simp] theorem completeLive_keep (l : Live) (cause detail : Nat) (s : State) :
    Kept (completeLive l cause detail s).2 s := by
  simp only [completeLive]
  repeat' first
    | (simp [*]; done)
    | split
    | refine forEach_keep _ _ _ _ ?_ (fun a u => ?_)

@[simp] theorem advanceCq_keep (n c : Nat) (s : State) : Kept (advanceCq n c s) s := by
  induction n generalizing s with
  | zero => exact Kept.refl _
  | succ n ih =>
    unfold advanceCq
    dsimp only
    split
    · exact Kept.refl _
    · split
      · exact Kept.refl _
      · split
        · exact (ih _).trans (completeLive_keep ..)
        · exact completeLive_keep ..

@[simp] theorem runCq_keep (c : Nat) (s : State) : Kept (runCq c s) s := advanceCq_keep ..

@[simp] theorem finishLive_keep (id : Nat) (s : State) :
    Kept (finishLive id s) s := by
  simp only [finishLive]
  repeat' first
    | (simp [*]; done)
    | split
    | refine forEach_keep _ _ _ _ ?_ (fun a u => ?_)

@[simp] theorem retryAreas_keep (c : Nat) (s : State) : Kept (retryAreas c s) s := by
  simp [retryAreas]

theorem execDescriptorComplete_keep (id : Nat) (s : State) {sN : State} (h : execDescriptorComplete id s = .next sN) :
    Kept sN s := by
  simp only [execDescriptorComplete] at h
  injection h with h
  subst h
  simp

@[simp] theorem zeroCounts_keep (c : Nat) (s : State) :
    Kept (zeroCounts c s) s := by
  simp [zeroCounts]

@[simp] theorem setCtxState_keep (c st : Nat) (s : State) :
    Kept (setCtxState c st s) s := by
  simp [setCtxState]

@[simp] theorem activate_keep (c : Nat) (kept : Table Nat) (s : State) : Kept (activate c kept s) s := by
  unfold activate
  cases s.activation? c with
  | none => exact (setRf_keep ..).trans ((rcFlag_keep ..).trans (setCtxState_keep ..))
  | some p =>
    obtain ⟨q, h, f⟩ := p
    refine forEach_keep _ _ _ _ (forEach_keep _ _ _ _ ?_ (fun a u => ?_)) (fun a u => doorbell_keep ..)
    · exact (updCtx_keep ..).trans ((setCtxState_keep ..).trans ((setRf_keep ..).trans (zeroCounts_keep ..)))
    · exact Kept.ite (openRing_keep ..) (Kept.refl _)

@[simp] theorem startDrain_keep (c cause : Nat) (s : State) :
    Kept (startDrain c cause s) s := by
  simp [startDrain]

@[simp] theorem writeEnable_keep (c : Nat) (on : Bool) (s : State) :
    Kept (writeEnable c on s) s := by
  simp [writeEnable]

theorem execContextEnable_keep (c : Fin 4096) (s : State) {sN : State} (h : execContextEnable c s = .next sN) :
    Kept sN s := by
  simp only [execContextEnable] at h
  injection h with h
  subst h
  simp

theorem execContextDrain_keep (c : Fin 4096) (s : State) {sN : State} (h : execContextDrain c s = .next sN) :
    Kept sN s := by
  simp only [execContextDrain] at h
  injection h with h
  subst h
  simp

@[simp] theorem resetContext_keep (c : Nat) (s : State) :
    Kept (resetContext c s) s := by
  simp [resetContext]

theorem execContextQuiesced_keep (c : Fin 4096) (s : State) {sN : State} (h : execContextQuiesced c s = .next sN) :
    Kept sN s := by
  simp only [execContextQuiesced] at h
  injection h with h
  subst h
  simp

theorem execContextOff_keep (c : Fin 4096) (s : State) {sN : State} (h : execContextOff c s = .next sN) :
    Kept sN s := by
  simp only [execContextOff] at h
  injection h with h
  subst h
  simp

@[simp] theorem enableRing_keep (r : Nat) (s : State) :
    Kept (enableRing r s) s := by
  simp [enableRing]

@[simp] theorem disableRing_keep (r : Nat) (s : State) :
    Kept (disableRing r s) s := by
  simp [disableRing]

theorem execRingEnable_keep (r : Fin 16384) (s : State) {sN : State} (h : execRingEnable r s = .next sN) :
    Kept sN s := by
  simp only [execRingEnable] at h
  injection h with h
  subst h
  simp

theorem execRingDisable_keep (r : Fin 16384) (s : State) {sN : State} (h : execRingDisable r s = .next sN) :
    Kept sN s := by
  simp only [execRingDisable] at h
  injection h with h
  subst h
  simp

@[simp] theorem writeCqHead_keep (c v : Nat) (s : State) :
    Kept (writeCqHead c v s) s := by
  simp [writeCqHead]

theorem execCqHeadWrite_keep (c : Fin 4096) (v : BitVec 32) (s : State) {sN : State} (h : execCqHeadWrite c v s = .next sN) :
    Kept sN s := by
  simp only [execCqHeadWrite] at h
  injection h with h
  subst h
  simp

end Sys2Proof.Machine
end

