-- ==== Sys2Proof/Laws/KeptEndpoint.lean ====
section
/-!
SUPPORT. What the functions of Machine/Endpoint.lean leave alone: one lemma each, in the terms of Safety.lean (`Kept`, `Held`).
-/
namespace Sys2Proof.Machine

@[simp] theorem hubReset_pending (st : ResetState) (s : State) : (hubReset st s).pending = s.pending := rfl

theorem execHotReset_pending (s : State) {t : State} (h : execHotReset s = .next t) : t.pending = s.pending := by
  unfold execHotReset at h
  cases h
  split
  · rfl
  · exact hubReset_pending ..

@[simp] theorem syncHostCap_keep (s : State) :
    Kept (syncHostCap s) s := by
  simp [syncHostCap]

@[simp] theorem linkUp_keep (rate width : Nat) (s : State) :
    Kept (linkUp rate width s) s := by
  simp [linkUp]

theorem execHostLinkRetrained_keep (rate : Fin 8) (width : Fin 17) (s : State) {sN : State} (h : execHostLinkRetrained rate width s = .next sN) :
    Kept sN s := by
  simp only [execHostLinkRetrained] at h
  injection h with h
  subst h
  simp

@[simp] theorem logError_keep (f b : Nat) (s : State) :
    Kept (logError f b s) s := by
  simp [logError]

@[simp] theorem sendError_keep (b : Nat) (s : State) :
    Kept (sendError b s) s := by
  simp [sendError]

@[simp] theorem contain_keep (cause : Nat) (s : State) :
    Kept (contain cause s) s := by
  simp [contain]

@[simp] theorem hostTransitFailed_keep (s : State) :
    Kept (hostTransitFailed s) s := by
  simp [hostTransitFailed]

@[simp] theorem syncTdi_keep (f : Nat) (s : State) :
    Kept (syncTdi f s) s := by
  simp [syncTdi]

@[simp] theorem setTdi_keep (f : Nat) (t : Tdi) (s : State) :
    Kept (setTdi f t s) s := by
  simp [setTdi]

@[simp] theorem tdiError_keep (f reason : Nat) (s : State) :
    Kept (tdiError f reason s) s := by
  simp [tdiError]

@[simp] theorem portError_keep (b : Nat) (stream : Option Nat) (s : State) :
    Kept (portError b stream s) s := by
  simp only [portError]
  split <;> simp

theorem portUncorrectableErrorEvent_keep (b : Fin 32) (stream : Option (Fin 8)) (s : State) {sN : State} (h : portUncorrectableErrorEvent b stream s = .next sN) :
    Kept sN s := by
  simp only [portUncorrectableErrorEvent] at h
  injection h with h
  subst h
  simp

theorem hostLinkDownEvent_keep (s : State) {sN : State} (h : hostLinkDownEvent s = .next sN) :
    Kept sN s := by
  simp only [hostLinkDownEvent] at h
  injection h with h
  subst h
  simp

@[simp] theorem releaseContain_keep (s : State) :
    Kept (releaseContain s) s := by
  simp [releaseContain]

theorem containmentReleaseEvent_keep (s : State) {sN : State} (h : containmentReleaseEvent s = .next sN) :
    Kept sN s := by
  simp only [containmentReleaseEvent] at h
  injection h with h
  subst h
  simp

@[simp] theorem endRead_keep (q : HostReq) (s : State) :
    Kept (endRead q s) s := by
  simp [endRead]

@[simp] theorem failRead_keep (q : HostReq) (detail : Nat) (s : State) :
    Kept (failRead q detail s) s := by
  simp [failRead]

@[simp] theorem hostCompletion_keep (tag : Nat) (st : CplStatus) (bytes : List Byte) (s : State) :
    Kept (hostCompletion tag st bytes s) s := by
  simp only [hostCompletion]
  repeat' first
    | (simp [*]; done)
    | split

@[simp] theorem timeoutRead_keep (tag : Nat) (quiet : Bool) (s : State) :
    Kept (timeoutRead tag quiet s) s := by
  simp only [timeoutRead]
  split <;> simp

@[simp] theorem applyCfg_keep (f : Nat) (w : CfgWrite) (s : State) :
    Kept (applyCfg f w s) s := by
  simp only [applyCfg]
  split <;> simp

@[simp] theorem startFlr_keep (f : Nat) (s : State) :
    Kept (startFlr f s) s := by
  simp [startFlr]

@[simp] theorem flr_keep (f : Nat) (s : State) :
    Kept (flr f s) s := by
  simp [flr]

theorem flrEvent_keep (f : Fin 128) (s : State) {sN : State} (h : flrEvent f s = .next sN) :
    Kept sN s := by
  simp only [flrEvent] at h
  injection h with h
  subst h
  simp

theorem execConfigWrite_keep (f : Fin 128) (w : CfgWrite) (s : State) {sN : State} (h : execConfigWrite f w s = .next sN) :
    Kept sN s := by
  simp only [execConfigWrite] at h
  injection h with h
  subst h
  repeat' first
    | (simp [*]; done)
    | split

@[simp] theorem resetRegs_keep (p : Nat → Bool) (s : State) :
    Kept (resetRegs p s) s := by
  simp [resetRegs]

@[simp] theorem resetWritable_keep (k : Nat) (s : State) :
    Kept (resetWritable k s) s := by
  simp [resetWritable]

@[simp] theorem finishFlr_keep (f : Nat) (s : State) :
    Kept (finishFlr f s) s := by
  simp [finishFlr]

theorem execFlrDone_keep (f : Fin 128) (s : State) {sN : State} (h : execFlrDone f s = .next sN) :
    Kept sN s := by
  simp only [execFlrDone] at h
  injection h with h
  subst h
  simp

@[simp] theorem writeMsix_keep (f : Nat) (w : MsixWrite) (s : State) :
    Kept (writeMsix f w s) s := by
  simp only [writeMsix]
  split <;> simp

theorem execMsixTableWrite_keep (f : Fin 128) (w : MsixWrite) (s : State) {sN : State} (h : execMsixTableWrite f w s = .next sN) :
    Kept sN s := by
  simp only [execMsixTableWrite] at h
  injection h with h
  subst h
  simp

@[simp] theorem hostCpl_keep (t : HostTlp) (status : Nat) (bytes : List Byte) (poisoned : Bool) (s : State) :
    Kept (hostCpl t status bytes poisoned s) s := by
  simp [hostCpl]

@[simp] theorem failHostRead_keep (t : HostTlp) (status : Nat) (s : State) :
    Kept (failHostRead t status s) s := by
  simp [failHostRead]

@[simp] theorem closeApt_keep (id : Nat) (s : State) :
    Kept (closeApt id s) s := by
  simp [closeApt]

@[simp] theorem updApt_keep (id : Nat) (f : AptReq → AptReq) (s : State) :
    Kept (updApt id f s) s := by
  simp [updApt]

@[simp] theorem aptCpl_keep (q : AptReq) (status : Nat) (bytes : List Byte) (poisoned : Bool) (s : State) :
    Kept (aptCpl q status bytes poisoned s) s := by
  simp [aptCpl]

@[simp] theorem aptRead_keep (id i : Nat) (s : State) :
    Kept (aptRead id i s) s := by
  simp only [aptRead]
  repeat' first
    | (simp [*]; done)
    | (split <;> try (first
        | (rename_i hq; have h1 := congrArg (fun p => p.2.pending) hq; have h2 := congrArg (fun p => p.2.sec) hq; have h3 := congrArg (fun p => p.2.boot.tilesAt) hq; have h4 := congrArg (fun p => p.2.boot.digest) hq; simp at h1 h2 h3 h4)
        | (rename_i hq; have h1 := congrArg (fun p => p.2.2.pending) hq; have h2 := congrArg (fun p => p.2.2.sec) hq; have h3 := congrArg (fun p => p.2.2.boot.tilesAt) hq; have h4 := congrArg (fun p => p.2.2.boot.digest) hq; simp at h1 h2 h3 h4)))
    | refine forEach_keep _ _ _ _ ?_ (fun a u => ?_)
    | (simp_all; done)
    | (rename_i hq; split at hq)
    | simp

@[simp] theorem aptWrite_keep (q : AptReq) (s : State) :
    Kept (aptWrite q s) s := by
  simp only [aptWrite]
  repeat' first
    | (simp [*]; done)
    | (split <;> try (first
        | (rename_i hq; have h1 := congrArg (fun p => p.2.pending) hq; have h2 := congrArg (fun p => p.2.sec) hq; have h3 := congrArg (fun p => p.2.boot.tilesAt) hq; have h4 := congrArg (fun p => p.2.boot.digest) hq; simp at h1 h2 h3 h4)
        | (rename_i hq; have h1 := congrArg (fun p => p.2.2.pending) hq; have h2 := congrArg (fun p => p.2.2.sec) hq; have h3 := congrArg (fun p => p.2.2.boot.tilesAt) hq; have h4 := congrArg (fun p => p.2.2.boot.digest) hq; simp at h1 h2 h3 h4)))
    | refine forEach_keep _ _ _ _ ?_ (fun a u => ?_)
    | (simp_all; done)
    | (rename_i hq; split at hq)
    | simp

@[simp] theorem aptWrites_keep (fuel id : Nat) (s : State) : Kept (aptWrites fuel id s) s := by
  induction fuel generalizing s with
  | zero => exact Kept.refl _
  | succ n ih =>
    unfold aptWrites
    cases s.apt? id with
    | none => exact Kept.refl _
    | some q => exact Kept.ite (aptWrite_keep ..) ((ih _).trans (aptWrite_keep ..))

@[simp] theorem aptAtomic_keep (q : AptReq) (op w x cmp : Nat) (s : State) : Kept (aptAtomic q op w x cmp s) s := by
  unfold aptAtomic
  extract_lets who answer
  have ha : ∀ v a u, Kept (answer v a u) u := fun v a u => aptCpl_keep ..
  clear_value answer
  have hx := xlate_keep who q.ctx q.va .atomic s
  generalize xlate who q.ctx q.va .atomic s = r at hx
  obtain ⟨r, s1⟩ := r
  cases r with
  | aborted => exact (aptCpl_keep ..).trans hx
  | ok t e =>
    cases t with
    | stacked k a =>
      dsimp only
      refine Kept.ite ((aptCpl_keep ..).trans hx) (Kept.ite ((ha ..).trans hx) ?_)
      generalize hq : takeArrival who (.stacked k (a / 64 * 64)) s1 = o
      cases o with
      | none => exact Kept.ite hx ((askUnits_keep ..).trans ((postTxn_keep ..).trans hx))
      | some y => exact (ha ..).trans ((takeArrival_keep hq).trans hx)
    | remote node win off =>
      dsimp only
      rename UnitData => pay
      clear_value pay
      have hy := agentAtomic_keep who node win off (s1.hostClass q.fn) pay s1
      generalize agentAtomic who node win off (s1.hostClass q.fn) pay s1 = o at hy
      obtain ⟨o, s2⟩ := o
      cases o with
      | none => exact Kept.trans hy hx
      | some v => exact (ha ..).trans (Kept.trans hy hx)
    | unassigned a => exact (ha ..).trans hx
    | _ => exact (aptCpl_keep ..).trans hx
  | _ => exact hx

@[simp] theorem serveApt_keep (id : Nat) (s : State) :
    Kept (serveApt id s) s := by
  simp only [serveApt]
  repeat' first
    | (simp [*]; done)
    | split

@[simp] theorem serveApts_keep (s : State) :
    Kept (serveApts s) s := by
  simp [serveApts]

@[simp] theorem openApt_keep (t : HostTlp) (ctx va len : Nat) (write : Bool) (atomic : Option (Nat × Nat × Nat × Nat)) (bytes : List Byte) (s : State) :
    Kept (openApt t ctx va len write atomic bytes s) s := by
  simp [openApt]

@[simp] theorem readApt_keep (t : HostTlp) (off len : Nat) (s : State) :
    Kept (readApt t off len s) s := by
  simp only [readApt]
  repeat' first
    | (simp [*]; done)
    | split

@[simp] theorem storeApt_keep (t : HostTlp) (off : Nat) (bytes : List Byte) (s : State) :
    Kept (storeApt t off bytes s) s := by
  simp only [storeApt]
  repeat' first
    | (simp [*]; done)
    | split

theorem execApertureAccess_keep (t : HostTlp) (off : BitVec 36) (len : BitVec 13) (w : Option (List Byte)) (s : State) {sN : State} (h : execApertureAccess t off len w s = .next sN) :
    Kept sN s := by
  simp only [execApertureAccess] at h
  injection h with h
  subst h
  split <;> simp

theorem execHostAtomicop_keep (t : HostTlp) (bar2 : Bool) (off : BitVec 36) (op : Fin 3) (w : Fin 17) (x cmp : BitVec 128) (s : State) {sN : State} (h : execHostAtomicop t bar2 off op w x cmp s = .next sN) :
    Kept sN s := by
  simp only [execHostAtomicop] at h
  injection h with h
  subst h
  repeat' first
    | (simp [*]; done)
    | split

end Sys2Proof.Machine
end

