-- ==== Sys2Proof/Laws/KeptDeliver.lean ====
section
/-!
SUPPORT. What the functions of Machine/Deliver.lean leave alone: one lemma each, in the terms of Safety.lean (`Kept`, `Held`).
-/
namespace Sys2Proof.Machine

@[simp] theorem endFailed_keep (s : State) :
    Kept (endFailed s) s := by
  simp only [endFailed]
  repeat' first
    | (simp [*]; done)
    | split
    | refine forEach_keep _ _ _ _ ?_ (fun a u => ?_)

@[simp] theorem serveWaiting_keep (s : State) :
    Kept (serveWaiting s) s := by
  simp [serveWaiting]

theorem settled_keep {o : Host.Outcome State Fault Refusal} {t : State} (h : settled o = .next t) :
    ∃ u, o = .next u ∧ Kept t u := by
  cases o with
  | next u =>
    simp only [settled, Host.Outcome.next.injEq] at h
    subst h
    exact ⟨u, rfl, serveWaiting_keep ..⟩
  | fault r => cases h
  | refused r => cases h

theorem execRdData_keep (n : Fin 17) (s : State) {sN : State} (h : execRdData n s = .next sN) :
    Kept sN s := by
  unfold execRdData at h
  obtain ⟨u, hu, hk⟩ := settled_keep h
  refine hk.trans ?_
  clear h hk
  injection hu with hu
  subst hu
  repeat' first
    | (simp [*]; done)
    | (split <;> try (first
        | (rename_i hq; have h1 := congrArg (fun p => p.2.pending) hq; have h2 := congrArg (fun p => p.2.sec) hq; have h3 := congrArg (fun p => p.2.boot.tilesAt) hq; have h4 := congrArg (fun p => p.2.boot.digest) hq; simp at h1 h2 h3 h4)
        | (rename_i hq; have h1 := congrArg (fun p => p.2.2.pending) hq; have h2 := congrArg (fun p => p.2.2.sec) hq; have h3 := congrArg (fun p => p.2.2.boot.tilesAt) hq; have h4 := congrArg (fun p => p.2.2.boot.digest) hq; simp at h1 h2 h3 h4)))
    | refine forEach_keep _ _ _ _ ?_ (fun a u => ?_)
    | (simp_all; done)
    | (rename_i hq; split at hq)
    | simp

theorem execKflWrAck_keep (n : Fin 17) (s : State) {sN : State} (h : execKflWrAck n s = .next sN) :
    Kept sN s := by
  unfold execKflWrAck at h
  obtain ⟨u, hu, hk⟩ := settled_keep h
  refine hk.trans ?_
  clear h hk
  injection hu with hu
  subst hu
  repeat' first
    | (simp [*]; done)
    | (split <;> try (first
        | (rename_i hq; have h1 := congrArg (fun p => p.2.pending) hq; have h2 := congrArg (fun p => p.2.sec) hq; have h3 := congrArg (fun p => p.2.boot.tilesAt) hq; have h4 := congrArg (fun p => p.2.boot.digest) hq; simp at h1 h2 h3 h4)
        | (rename_i hq; have h1 := congrArg (fun p => p.2.2.pending) hq; have h2 := congrArg (fun p => p.2.2.sec) hq; have h3 := congrArg (fun p => p.2.2.boot.tilesAt) hq; have h4 := congrArg (fun p => p.2.2.boot.digest) hq; simp at h1 h2 h3 h4)))
    | refine forEach_keep _ _ _ _ ?_ (fun a u => ?_)
    | (simp_all; done)
    | (rename_i hq; split at hq)
    | simp

theorem execFaultWaitExpiry_keep (p : Fin 16) (id : Nat) (s : State) {sN : State} (h : execFaultWaitExpiry p id s = .next sN) :
    Kept sN s := by
  unfold execFaultWaitExpiry at h
  obtain ⟨u, hu, hk⟩ := settled_keep h
  refine hk.trans ?_
  clear h hk
  injection hu with hu
  subst hu
  repeat' first
    | (simp [*]; done)
    | (split <;> try (first
        | (rename_i hq; have h1 := congrArg (fun p => p.2.pending) hq; have h2 := congrArg (fun p => p.2.sec) hq; have h3 := congrArg (fun p => p.2.boot.tilesAt) hq; have h4 := congrArg (fun p => p.2.boot.digest) hq; simp at h1 h2 h3 h4)
        | (rename_i hq; have h1 := congrArg (fun p => p.2.2.pending) hq; have h2 := congrArg (fun p => p.2.2.sec) hq; have h3 := congrArg (fun p => p.2.2.boot.tilesAt) hq; have h4 := congrArg (fun p => p.2.2.boot.digest) hq; simp at h1 h2 h3 h4)))
    | refine forEach_keep _ _ _ _ ?_ (fun a u => ?_)
    | (simp_all; done)
    | (rename_i hq; split at hq)
    | simp

theorem execHostCompletion_keep (tag : Nat) (st : CplStatus) (bytes : List Byte) (s : State) {sN : State} (h : execHostCompletion tag st bytes s = .next sN) :
    Kept sN s := by
  unfold execHostCompletion at h
  obtain ⟨u, hu, hk⟩ := settled_keep h
  refine hk.trans ?_
  clear h hk
  injection hu with hu
  subst hu
  repeat' first
    | (simp [*]; done)
    | (split <;> try (first
        | (rename_i hq; have h1 := congrArg (fun p => p.2.pending) hq; have h2 := congrArg (fun p => p.2.sec) hq; have h3 := congrArg (fun p => p.2.boot.tilesAt) hq; have h4 := congrArg (fun p => p.2.boot.digest) hq; simp at h1 h2 h3 h4)
        | (rename_i hq; have h1 := congrArg (fun p => p.2.2.pending) hq; have h2 := congrArg (fun p => p.2.2.sec) hq; have h3 := congrArg (fun p => p.2.2.boot.tilesAt) hq; have h4 := congrArg (fun p => p.2.2.boot.digest) hq; simp at h1 h2 h3 h4)))
    | refine forEach_keep _ _ _ _ ?_ (fun a u => ?_)
    | (simp_all; done)
    | (rename_i hq; split at hq)
    | simp

theorem execCompletionTimeout_keep (tag : Nat) (quiet : Bool) (s : State) {sN : State} (h : execCompletionTimeout tag quiet s = .next sN) :
    Kept sN s := by
  unfold execCompletionTimeout at h
  obtain ⟨u, hu, hk⟩ := settled_keep h
  refine hk.trans ?_
  clear h hk
  injection hu with hu
  subst hu
  repeat' first
    | (simp [*]; done)
    | (split <;> try (first
        | (rename_i hq; have h1 := congrArg (fun p => p.2.pending) hq; have h2 := congrArg (fun p => p.2.sec) hq; have h3 := congrArg (fun p => p.2.boot.tilesAt) hq; have h4 := congrArg (fun p => p.2.boot.digest) hq; simp at h1 h2 h3 h4)
        | (rename_i hq; have h1 := congrArg (fun p => p.2.2.pending) hq; have h2 := congrArg (fun p => p.2.2.sec) hq; have h3 := congrArg (fun p => p.2.2.boot.tilesAt) hq; have h4 := congrArg (fun p => p.2.2.boot.digest) hq; simp at h1 h2 h3 h4)))
    | refine forEach_keep _ _ _ _ ?_ (fun a u => ?_)
    | (simp_all; done)
    | (rename_i hq; split at hq)
    | simp

theorem execMemData_keep (n : Fin 6) (s : State) {sN : State} (h : execMemData n s = .next sN) :
    Kept sN s := by
  unfold execMemData at h
  obtain ⟨u, hu, hk⟩ := settled_keep h
  refine hk.trans ?_
  clear h hk
  exact memDataEvent_keep (h := hu)

theorem execMemAck_keep (n : Fin 6) (s : State) {sN : State} (h : execMemAck n s = .next sN) :
    Kept sN s := by
  unfold execMemAck at h
  obtain ⟨u, hu, hk⟩ := settled_keep h
  refine hk.trans ?_
  clear h hk
  exact memAckEvent_keep (h := hu)

theorem execTgtTimeout_keep (n : Fin 6) (txn : Fin 4096) (s : State) {sN : State} (h : execTgtTimeout n txn s = .next sN) :
    Kept sN s := by
  unfold execTgtTimeout at h
  obtain ⟨u, hu, hk⟩ := settled_keep h
  refine hk.trans ?_
  clear h hk
  exact tgtTimeoutEvent_keep (h := hu)

theorem execCxlMemResponse_keep (n : Fin 6) (txn : Fin 4096) (data : UnitData) (poison : Bool) (s : State) {sN : State} (h : execCxlMemResponse n txn data poison s = .next sN) :
    Kept sN s := by
  unfold execCxlMemResponse at h
  obtain ⟨u, hu, hk⟩ := settled_keep h
  refine hk.trans ?_
  clear h hk
  exact cxlMemResponseEvent_keep (h := hu)

theorem execBondFail_keep (n : Fin 6) (m : Fin 64) (b : Fin 96) (s : State) {sN : State} (h : execBondFail n m b s = .next sN) :
    Kept sN s := by
  unfold execBondFail at h
  obtain ⟨u, hu, hk⟩ := settled_keep h
  refine hk.trans ?_
  clear h hk
  exact bondFailEvent_keep (h := hu)

theorem execSiteRepairTimeout_keep (n : Fin 6) (m : Fin 64) (s : State) {sN : State} (h : execSiteRepairTimeout n m s = .next sN) :
    Kept sN s := by
  unfold execSiteRepairTimeout at h
  obtain ⟨u, hu, hk⟩ := settled_keep h
  refine hk.trans ?_
  clear h hk
  exact siteRepairTimeoutEvent_keep (h := hu)

theorem execResetNotice_keep (n : Fin 6) (s : State) {sN : State} (h : execResetNotice n s = .next sN) :
    Kept sN s := by
  unfold execResetNotice at h
  obtain ⟨u, hu, hk⟩ := settled_keep h
  refine hk.trans ?_
  clear h hk
  exact resetNoticeEvent_keep (h := hu)

theorem execPllUnlock_keep (n : Fin 6) (s : State) {sN : State} (h : execPllUnlock n s = .next sN) :
    Kept sN s := by
  unfold execPllUnlock at h
  obtain ⟨u, hu, hk⟩ := settled_keep h
  refine hk.trans ?_
  clear h hk
  exact pllUnlockEvent_keep (h := hu)

theorem execSidebandLost_keep (n : Fin 6) (s : State) {sN : State} (h : execSidebandLost n s = .next sN) :
    Kept sN s := by
  unfold execSidebandLost at h
  obtain ⟨u, hu, hk⟩ := settled_keep h
  refine hk.trans ?_
  clear h hk
  exact sidebandLostEvent_keep (h := hu)

theorem execSiteClockLost_keep (n : Fin 6) (l : LostModules) (s : State) {sN : State} (h : execSiteClockLost n l s = .next sN) :
    Kept sN s := by
  simp only [execSiteClockLost] at h
  injection h with h
  subst h
  repeat' first
    | (simp [*]; done)
    | split
    | refine forEach_keep _ _ _ _ ?_ (fun a u => ?_)

theorem execSiteIsolate_keep (n : Fin 6) (s : State) {sN : State} (h : execSiteIsolate n s = .next sN) :
    Kept sN s := by
  unfold execSiteIsolate at h
  obtain ⟨u, hu, hk⟩ := settled_keep h
  refine hk.trans ?_
  clear h hk
  exact siteIsolateEvent_keep (h := hu)

theorem execSnoopTimeout_keep (n : Fin 6) (s : State) {sN : State} (h : execSnoopTimeout n s = .next sN) :
    Kept sN s := by
  unfold execSnoopTimeout at h
  obtain ⟨u, hu, hk⟩ := settled_keep h
  refine hk.trans ?_
  clear h hk
  exact snoopTimeoutEvent_keep (h := hu)

theorem execSiteReset_keep (n : Fin 6) (s : State) {sN : State} (h : execSiteReset n s = .next sN) :
    Kept sN s := by
  unfold execSiteReset at h
  obtain ⟨u, hu, hk⟩ := settled_keep h
  refine hk.trans ?_
  clear h hk
  exact siteResetEvent_keep (h := hu)

theorem execSiteClampTimeout_keep (n : Fin 6) (w : BitVec 11) (s : State) {sN : State} (h : execSiteClampTimeout n w s = .next sN) :
    Kept sN s := by
  unfold execSiteClampTimeout at h
  obtain ⟨u, hu, hk⟩ := settled_keep h
  refine hk.trans ?_
  clear h hk
  exact siteClampTimeoutEvent_keep (h := hu)

theorem execSiteFlit_keep (n : Fin 6) (m : Fin 64) (f : BondFlit) (s : State) {sN : State} (h : execSiteFlit n m f s = .next sN) :
    Kept sN s := by
  simp only [execSiteFlit] at h
  injection h with h
  subst h
  repeat' first
    | (simp [*]; done)
    | split
    | refine forEach_keep _ _ _ _ ?_ (fun a u => ?_)

theorem execSiteNak_keep (n : Fin 6) (ack : BitVec 14) (s : State) {sN : State} (h : execSiteNak n ack s = .next sN) :
    Kept sN s := by
  unfold execSiteNak at h
  obtain ⟨u, hu, hk⟩ := settled_keep h
  refine hk.trans ?_
  clear h hk
  exact siteNakEvent_keep (h := hu)

theorem execSiteSeqGapTimeout_keep (n : Fin 6) (s : State) {sN : State} (h : execSiteSeqGapTimeout n s = .next sN) :
    Kept sN s := by
  unfold execSiteSeqGapTimeout at h
  obtain ⟨u, hu, hk⟩ := settled_keep h
  refine hk.trans ?_
  clear h hk
  exact siteSeqGapTimeoutEvent_keep (h := hu)

theorem execLanePlan_keep (n : Fin 16) (s : State) {sN : State} (h : execLanePlan n s = .next sN) :
    Kept sN s := by
  unfold execLanePlan at h
  obtain ⟨u, hu, hk⟩ := settled_keep h
  refine hk.trans ?_
  clear h hk
  exact lanePlanEvent_keep (h := hu)

theorem execLaneErrorWindow_keep (n : Fin 16) (l : Fin 8) (errors : BitVec 37) (codewords : BitVec 32) (most : Bool) (s : State) {sN : State} (h : execLaneErrorWindow n l errors codewords most s = .next sN) :
    Kept sN s := by
  unfold execLaneErrorWindow at h
  obtain ⟨u, hu, hk⟩ := settled_keep h
  refine hk.trans ?_
  clear h hk
  exact laneErrorWindowEvent_keep (h := hu)

theorem execLaneLockLost_keep (n : Fin 16) (l : Fin 8) (s : State) {sN : State} (h : execLaneLockLost n l s = .next sN) :
    Kept sN s := by
  unfold execLaneLockLost at h
  obtain ⟨u, hu, hk⟩ := settled_keep h
  refine hk.trans ?_
  clear h hk
  exact laneLockLostEvent_keep (h := hu)

theorem execFabricRetrain_keep (n : Fin 16) (s : State) {sN : State} (h : execFabricRetrain n s = .next sN) :
    Kept sN s := by
  unfold execFabricRetrain at h
  obtain ⟨u, hu, hk⟩ := settled_keep h
  refine hk.trans ?_
  clear h hk
  exact fabricRetrainEvent_keep (h := hu)

theorem execFabricRetrainDone_keep (n : Fin 16) (s : State) {sN : State} (h : execFabricRetrainDone n s = .next sN) :
    Kept sN s := by
  unfold execFabricRetrainDone at h
  obtain ⟨u, hu, hk⟩ := settled_keep h
  refine hk.trans ?_
  clear h hk
  exact fabricRetrainDoneEvent_keep (h := hu)

theorem execFabricRetrainTimeout_keep (n : Fin 16) (s : State) {sN : State} (h : execFabricRetrainTimeout n s = .next sN) :
    Kept sN s := by
  unfold execFabricRetrainTimeout at h
  obtain ⟨u, hu, hk⟩ := settled_keep h
  refine hk.trans ?_
  clear h hk
  exact fabricRetrainTimeoutEvent_keep (h := hu)

theorem execFabricRspTimeout_keep (n : Fin 16) (e : Fin 4096) (s : State) {sN : State} (h : execFabricRspTimeout n e s = .next sN) :
    Kept sN s := by
  unfold execFabricRspTimeout at h
  obtain ⟨u, hu, hk⟩ := settled_keep h
  refine hk.trans ?_
  clear h hk
  exact fabricRspTimeoutEvent_keep (h := hu)

theorem execPortUncorrectableError_keep (b : Fin 32) (stream : Option (Fin 8)) (s : State) {sN : State} (h : execPortUncorrectableError b stream s = .next sN) :
    Kept sN s := by
  unfold execPortUncorrectableError at h
  obtain ⟨u, hu, hk⟩ := settled_keep h
  refine hk.trans ?_
  clear h hk
  exact portUncorrectableErrorEvent_keep (h := hu)

theorem execHostLinkDown_keep (s : State) {sN : State} (h : execHostLinkDown s = .next sN) :
    Kept sN s := by
  unfold execHostLinkDown at h
  obtain ⟨u, hu, hk⟩ := settled_keep h
  refine hk.trans ?_
  clear h hk
  exact hostLinkDownEvent_keep (h := hu)

theorem execContainmentRelease_keep (s : State) {sN : State} (h : execContainmentRelease s = .next sN) :
    Kept sN s := by
  unfold execContainmentRelease at h
  obtain ⟨u, hu, hk⟩ := settled_keep h
  refine hk.trans ?_
  clear h hk
  exact containmentReleaseEvent_keep (h := hu)

theorem execFlr_keep (f : Fin 128) (s : State) {sN : State} (h : execFlr f s = .next sN) :
    Kept sN s := by
  unfold execFlr at h
  obtain ⟨u, hu, hk⟩ := settled_keep h
  refine hk.trans ?_
  clear h hk
  exact flrEvent_keep (h := hu)

theorem execData_keep (src : Option (Fin 6)) (i : Nat) (s : State) {sN : State} (h : execData src i s = .next sN) :
    Kept sN s := by
  unfold execData at h
  obtain ⟨u, hu, hk⟩ := settled_keep h
  refine hk.trans ?_
  clear h hk
  exact dataEvent_keep (h := hu)

theorem execComp_keep (i : Nat) (s : State) {sN : State} (h : execComp i s = .next sN) :
    Kept sN s := by
  unfold execComp at h
  obtain ⟨u, hu, hk⟩ := settled_keep h
  refine hk.trans ?_
  clear h hk
  exact compEvent_keep (h := hu)

theorem execWrAck_keep (i : Nat) (s : State) {sN : State} (h : execWrAck i s = .next sN) :
    Kept sN s := by
  unfold execWrAck at h
  obtain ⟨u, hu, hk⟩ := settled_keep h
  refine hk.trans ?_
  clear h hk
  exact wrAckEvent_keep (h := hu)

end Sys2Proof.Machine
end

