-- ==== Sys2Proof/Laws/KeptFaults.lean ====
section
/-!
SUPPORT. What the functions of Machine/Faults.lean leave alone: one lemma each, in the terms of Safety.lean (`Kept`, `Held`).
-/
namespace Sys2Proof.Machine

@[simp] theorem walkStep_keep (p i : Nat) (s : State) :
    Kept (walkStep p i s) s := by
  simp only [walkStep]
  repeat' first
    | (simp [*]; done)
    | (split <;> try (first
        | (rename_i hq; have h1 := congrArg (fun p => p.2.pending) hq; have h2 := congrArg (fun p => p.2.sec) hq; have h3 := congrArg (fun p => p.2.boot.tilesAt) hq; have h4 := congrArg (fun p => p.2.boot.digest) hq; simp at h1 h2 h3 h4)
        | (rename_i hq; have h1 := congrArg (fun p => p.2.2.pending) hq; have h2 := congrArg (fun p => p.2.2.sec) hq; have h3 := congrArg (fun p => p.2.2.boot.tilesAt) hq; have h4 := congrArg (fun p => p.2.2.boot.digest) hq; simp at h1 h2 h3 h4)))
    | refine forEach_keep _ _ _ _ ?_ (fun a u => ?_)
    | (simp_all; done)
    | (rename_i hq; split at hq)
    | simp

theorem execTranslationWalkStep_keep (p : Fin 3) (i : Nat) (s : State) {sN : State} (h : execTranslationWalkStep p i s = .next sN) :
    Kept sN s := by
  unfold execTranslationWalkStep at h
  obtain ⟨u, hu, hk⟩ := settled_keep h
  refine hk.trans ?_
  clear h hk
  injection hu with hu
  subst hu
  repeat' first
    | (simp [*]; done)
    | (split <;> try (first
        | (rename_i hq; have h1 := congrArg (fun p => p.2.pending) hq; have h2 := congrArg (fun p => p.2.sec) hq; have h3 := congrArg (fun p => p.2.boot.tilesAt) hq; have h4 := congrArg (fun p => p.2.boot.digest) hq; simp at h1 h2 h3 h4)
        | (rename_i hq; have h1 := congrArg (fun p => p.2.2.pending) hq; have h2 := congrArg (fun p => p.2.2.sec) hq; have h3 := congrArg (fun p => p.2.2.boot.tilesAt) hq; have h4 := congrArg (fun p => p.2.2.boot.digest) hq; simp at h1 h2 h3 h4)))
    | refine forEach_keep _ _ _ _ ?_ (fun a u => ?_)
    | (simp_all; done)
    | (rename_i hq; split at hq)
    | simp

@[simp] theorem joinPft_keep (p i : Nat) (e : Pft) (m : FaultMsg) (s : State) :
    Kept (joinPft p i e m s) s := by
  simp [joinPft]

@[simp] theorem allocPft_keep (p i : Nat) (m : FaultMsg) (s : State) :
    Kept (allocPft p i m s) s := by
  simp [allocPft]

@[simp] theorem faultArrival_keep (p i : Nat) (s : State) :
    Kept (faultArrival p i s) s := by
  simp only [faultArrival]
  repeat' first
    | (simp [*]; done)
    | split

theorem execFaultArrival_keep (p : Fin 3) (i : Fin 256) (s : State) {sN : State} (h : execFaultArrival p i s = .next sN) :
    Kept sN s := by
  simp only [execFaultArrival] at h
  injection h with h
  subst h
  simp

@[simp] theorem deliverFault_keep (p : Nat) (l : List Nat) (s : State) : Kept (deliverFault p l s) s := by
  induction l generalizing s with
  | nil => exact Kept.refl _
  | cons i l ih =>
    unfold deliverFault
    cases Table.find? (s.walker p).pft i with
    | none => exact ih _
    | some e =>
      dsimp only
      split
      · split
        · exact deliverEntry_keep ..
        · exact (ih _).trans (fltArea_keep ..)
      · exact ih _

theorem execFaultRecordDelivery_keep (p : Fin 3) (s : State) {sN : State} (h : execFaultRecordDelivery p s = .next sN) :
    Kept sN s := by
  simp only [execFaultRecordDelivery] at h
  injection h with h
  subst h
  simp

theorem execKeptRecordWrite_keep (s : State) {sN : State} (h : execKeptRecordWrite s = .next sN) :
    Kept sN s := by
  simp only [execKeptRecordWrite] at h
  injection h with h
  subst h
  simp

@[simp] theorem abortStalled_keep (e : Stalled) (s : State) :
    Kept (abortStalled e s) s := by
  simp only [abortStalled]
  split <;> simp

@[simp] theorem releaseStalled_keep (e : Pft) (abort : Bool) (s : State) :
    Kept (releaseStalled e abort s) s := by
  simp [releaseStalled]

@[simp] theorem resumeAtWalker_keep (id : Nat) (s : State) :
    Kept (resumeAtWalker id s) s := by
  simp only [resumeAtWalker]
  repeat' first
    | (simp [*]; done)
    | split

theorem execResumeAtWalker_keep (id : Nat) (s : State) {sN : State} (h : execResumeAtWalker id s = .next sN) :
    Kept sN s := by
  unfold execResumeAtWalker at h
  obtain ⟨u, hu, hk⟩ := settled_keep h
  refine hk.trans ?_
  clear h hk
  injection hu with hu
  subst hu
  repeat' first
    | (simp [*]; done)
    | (split <;> try (first
        | (rename_i hq; have h1 := congrArg (fun p => p.2.pending) hq; have h2 := congrArg (fun p => p.2.sec) hq; have h3 := congrArg (fun p => p.2.boot.tilesAt) hq; have h4 := congrArg (fun p => p.2.boot.digest) hq; simp at h1 h2 h3 h4)
        | (rename_i hq; have h1 := congrArg (fun p => p.2.2.pending) hq; have h2 := congrArg (fun p => p.2.2.sec) hq; have h3 := congrArg (fun p => p.2.2.boot.tilesAt) hq; have h4 := congrArg (fun p => p.2.2.boot.digest) hq; simp at h1 h2 h3 h4)))
    | refine forEach_keep _ _ _ _ ?_ (fun a u => ?_)
    | (simp_all; done)
    | (rename_i hq; split at hq)
    | simp

theorem execResumeWakeDone_keep (p : Fin 3) (i : Fin 256) (s : State) {sN : State} (h : execResumeWakeDone p i s = .next sN) :
    Kept sN s := by
  simp only [execResumeWakeDone] at h
  injection h with h
  subst h
  split <;> simp

theorem execHostWaitExpiry_keep (f : Fin 128) (id : Nat) (s : State) {sN : State} (h : execHostWaitExpiry f id s = .next sN) :
    Kept sN s := by
  simp only [execHostWaitExpiry] at h
  injection h with h
  subst h
  split <;> simp

@[simp] theorem wrXltInvCtrl_keep (f v : Nat) (s : State) :
    Kept (wrXltInvCtrl f v s) s := by
  simp [wrXltInvCtrl]

theorem execXltInv_keep (f : Fin 128) (v : BitVec 32) (s : State) {sN : State} (h : execXltInv f v s = .next sN) :
    Kept sN s := by
  simp only [execXltInv] at h
  injection h with h
  subst h
  simp

@[simp] theorem invalidate_keep (v : Inval) (s : State) :
    Kept (invalidate v s) s := by
  simp [invalidate]

theorem execXltInvDone_keep (f : Fin 128) (s : State) {sN : State} (h : execXltInvDone f s = .next sN) :
    Kept sN s := by
  simp only [execXltInvDone] at h
  injection h with h
  subst h
  split <;> simp

@[simp] theorem wrFltOpCtrl_keep (v : Nat) (s : State) :
    Kept (wrFltOpCtrl v s) s := by
  simp [wrFltOpCtrl]

theorem execFltOpEnable_keep (v : BitVec 31) (s : State) {sN : State} (h : execFltOpEnable v s = .next sN) :
    Kept sN s := by
  simp only [execFltOpEnable] at h
  injection h with h
  subst h
  simp

theorem execFltOpDisable_keep (v : BitVec 31) (s : State) {sN : State} (h : execFltOpDisable v s = .next sN) :
    Kept sN s := by
  simp only [execFltOpDisable] at h
  injection h with h
  subst h
  simp

@[simp] theorem wrHead_keep (head tail v : Nat) (s : State) :
    Kept (wrHead head tail v s) s := by
  simp [wrHead]

theorem execFltHeadWrite_keep (c : Option (Fin 4096)) (v : BitVec 32) (s : State) {sN : State} (h : execFltHeadWrite c v s = .next sN) :
    Kept sN s := by
  simp only [execFltHeadWrite] at h
  injection h with h
  subst h
  split <;> simp

end Sys2Proof.Machine
end

