-- ==== Sys2Proof/Laws/KeptStacks.lean ====
section
/-!
SUPPORT. What the functions of Machine/Stacks.lean leave alone: one lemma each, in the terms of Safety.lean (`Kept`, `Held`).
-/
namespace Sys2Proof.Machine

@[simp] theorem readEvent_keep (k u : Nat) (ev ev2 : EccOutcome) (s : State) :
    Kept (readEvent k u ev ev2 s) s := by
  simp only [readEvent]
  repeat' first
    | (simp [*]; done)
    | split
    | refine forEach_keep _ _ _ _ ?_ (fun a u => ?_)

@[simp] theorem writeEvent_keep (k u : Nat) (symbols : List Nat) (s : State) :
    Kept (writeEvent k u symbols s) s := by
  simp only [writeEvent]
  repeat' first
    | (simp [*]; done)
    | split
    | refine forEach_keep _ _ _ _ ?_ (fun a u => ?_)

theorem issueOrHold_keep (k u : Nat) (h : HeldMem) (go : State → State) (s : State) (hgo : ∀ u, Kept (go u) u) :
    Kept (issueOrHold k u h go s) s := by
  simp only [issueOrHold]
  split
  · exact hgo s
  · simp

theorem execMrd_keep (k : Fin 12) (u : Fin (2 ^ 30)) (ev ev2 : EccOutcome) (s : State) {sN : State}
    (h : execMrd k u ev ev2 s = .next sN) : Kept sN s := by
  simp only [execMrd] at h
  injection h with h
  subst h
  exact issueOrHold_keep _ _ _ _ _ (fun u => readEvent_keep ..)

theorem execMwr_keep (k : Fin 12) (u : Fin (2 ^ 30)) (symbols : List Nat) (s : State) {sN : State}
    (h : execMwr k u symbols s = .next sN) : Kept sN s := by
  simp only [execMwr] at h
  injection h with h
  subst h
  exact issueOrHold_keep _ _ _ _ _ (fun u => writeEvent_keep ..)

theorem execMirrorHeal_keep (k : Fin 12) (u : Fin (2 ^ 30)) (ev2 : EccOutcome) (s : State) {sN : State} (h : execMirrorHeal k u ev2 s = .next sN) :
    Kept sN s := by
  simp only [execMirrorHeal] at h
  injection h with h
  subst h
  simp

theorem execBondMonitorWindow_keep (k : Fin 12) (m : Fin 64) (s : State) {sN : State} (h : execBondMonitorWindow k m s = .next sN) :
    Kept sN s := by
  simp only [execBondMonitorWindow] at h
  injection h with h
  subst h
  simp

@[simp] theorem patrolUnit_keep (k a : Nat) (ev ev2 : EccOutcome) (s : State) :
    Kept (patrolUnit k a ev ev2 s) s := by
  simp only [patrolUnit]
  repeat' first
    | (simp [*]; done)
    | split
    | refine forEach_keep _ _ _ _ ?_ (fun a u => ?_)

theorem execPatrolRead_keep (k : Fin 12) (ev ev2 : EccOutcome) (s : State) {sN : State} (h : execPatrolRead k ev ev2 s = .next sN) :
    Kept sN s := by
  simp only [execPatrolRead] at h
  injection h with h
  subst h
  simp

@[simp] theorem scheduleRetrain_keep (k m : Nat) (s : State) :
    Kept (scheduleRetrain k m s) s := by
  simp [scheduleRetrain]

theorem execModuleRetrainStart_keep (k : Fin 12) (m : Fin 64) (s : State) {sN : State} (h : execModuleRetrainStart k m s = .next sN) :
    Kept sN s := by
  simp only [execModuleRetrainStart] at h
  injection h with h
  subst h
  simp

@[simp] theorem spareBonds_keep (k : Nat) (bs : List Nat) (s : State) :
    Kept (spareBonds k bs s) s := by
  simp only [spareBonds]
  repeat' first
    | (simp [*]; done)
    | split
    | refine forEach_keep _ _ _ _ ?_ (fun a u => ?_)

@[simp] theorem retireModule_keep (k m : Nat) (s : State) :
    Kept (retireModule k m s) s := by
  simp [retireModule]

@[simp] theorem retrainRecord_keep (k n : Nat) (retire : Bool) (s : State) :
    Kept (retrainRecord k n retire s) s := by
  simp only [retrainRecord]
  repeat' first
    | (simp [*]; done)
    | split
    | refine forEach_keep _ _ _ _ ?_ (fun a u => ?_)

@[simp] theorem moduleGone_keep (k m : Nat) (s : State) :
    Kept (moduleGone k m s) s := by
  simp only [moduleGone]
  repeat' first
    | (simp [*]; done)
    | split
    | refine forEach_keep _ _ _ _ ?_ (fun a u => ?_)

@[simp] theorem moduleRetrained_keep (k m : Nat) (s : State) :
    Kept (moduleRetrained k m s) s := by
  simp only [moduleRetrained]
  repeat' first
    | (simp [*]; done)
    | split
    | refine forEach_keep _ _ _ _ ?_ (fun a u => ?_)

@[simp] theorem issueHeld_keep (k : Nat) (h : HeldMem) (s : State) : Kept (issueHeld k h s) s := by
  simp only [issueHeld]
  split
  · exact issueOrHold_keep _ _ _ _ _ (fun u => by simp)
  · exact issueOrHold_keep _ _ _ _ _ (fun u => by simp)
  · simp

@[simp] theorem issueRetry_keep (k : Nat) (s : State) :
    Kept (issueRetry k s) s := by
  simp only [issueRetry]
  repeat' first
    | (simp [*]; done)
    | split
    | refine forEach_keep _ _ _ _ ?_ (fun a u => ?_)

theorem execModuleRetrainDone_keep (k : Fin 12) (m : Fin 64) (s : State) {sN : State} (h : execModuleRetrainDone k m s = .next sN) :
    Kept sN s := by
  simp only [execModuleRetrainDone] at h
  injection h with h
  subst h
  simp

theorem execStkCtrlRetrain_keep (k : Fin 12) (m : Fin 64) (s : State) {sN : State} (h : execStkCtrlRetrain k m s = .next sN) :
    Kept sN s := by
  simp only [execStkCtrlRetrain] at h
  injection h with h
  subst h
  simp

theorem execStkCtrlIsolate_keep (k : Fin 12) (s : State) {sN : State} (h : execStkCtrlIsolate k s = .next sN) :
    Kept sN s := by
  simp only [execStkCtrlIsolate] at h
  injection h with h
  subst h
  simp

@[simp] theorem takeTraining_keep (k : Nat) (t : StackTrain) (s : State) :
    Kept (takeTraining k t s) s := by
  simp only [takeTraining]
  repeat' first
    | (simp [*]; done)
    | split
    | refine forEach_keep _ _ _ _ ?_ (fun a u => ?_)

@[simp] theorem setStackSpares_keep (k : Nat) (s : State) :
    Kept (setStackSpares k s) s := by
  simp only [setStackSpares]
  repeat' first
    | (simp [*]; done)
    | split
    | refine forEach_keep _ _ _ _ ?_ (fun a u => ?_)

@[simp] theorem rejoinStack_keep (k : Nat) (t : StackTrain) (s : State) :
    Kept (rejoinStack k t s) s := by
  simp only [rejoinStack]
  repeat' first
    | (simp [*]; done)
    | split
    | refine forEach_keep _ _ _ _ ?_ (fun a u => ?_)

theorem execStkCtrlRejoin_keep (k : Fin 12) (t : StackTrain) (s : State) {sN : State} (h : execStkCtrlRejoin k t s = .next sN) :
    Kept sN s := by
  simp only [execStkCtrlRejoin] at h
  injection h with h
  subst h
  repeat' first
    | (simp [*]; done)
    | split
    | refine forEach_keep _ _ _ _ ?_ (fun a u => ?_)

@[simp] theorem restoreRange_keep (b b' z k : Nat) (s : State) :
    Kept (restoreRange b b' z k s) s := by
  simp only [restoreRange]
  repeat' first
    | (simp [*]; done)
    | split
    | refine forEach_keep _ _ _ _ ?_ (fun a u => ?_)

@[simp] theorem copyRegion_keep (b b' z k : Nat) (s : State) :
    Kept (copyRegion b b' z k s) s := by
  simp only [copyRegion]
  repeat' first
    | (simp [*]; done)
    | split
    | refine forEach_keep _ _ _ _ ?_ (fun a u => ?_)

@[simp] theorem refill_keep (n b b' z k : Nat) (s : State) :
    Kept (refill n b b' z k s) s := by
  simp only [refill]
  repeat' first
    | (simp [*]; done)
    | split
    | refine forEach_keep _ _ _ _ ?_ (fun a u => ?_)

@[simp] theorem fillStack_keep (k : Nat) (s : State) :
    Kept (fillStack k s) s := by
  simp [fillStack]

theorem execStackRejoinFillDone_keep (k : Fin 12) (s : State) {sN : State} (h : execStackRejoinFillDone k s = .next sN) :
    Kept sN s := by
  simp only [execStackRejoinFillDone] at h
  injection h with h
  subst h
  simp

theorem execStackClockLost_keep (k : Fin 12) (s : State) {sN : State} (h : execStackClockLost k s = .next sN) :
    Kept sN s := by
  simp only [execStackClockLost] at h
  injection h with h
  subst h
  simp

theorem execStackTrainingLost_keep (k : Fin 12) (s : State) {sN : State} (h : execStackTrainingLost k s = .next sN) :
    Kept sN s := by
  simp only [execStackTrainingLost] at h
  injection h with h
  subst h
  simp

theorem execStackBaseReset_keep (k : Fin 12) (s : State) {sN : State} (h : execStackBaseReset k s = .next sN) :
    Kept sN s := by
  simp only [execStackBaseReset] at h
  injection h with h
  subst h
  simp

theorem execChannelLost_keep (k : Fin 12) (s : State) {sN : State} (h : execChannelLost k s = .next sN) :
    Kept sN s := by
  simp only [execChannelLost] at h
  injection h with h
  subst h
  simp

@[simp] theorem sweepUnit_keep (k lk u : Nat) (s : State) :
    Kept (sweepUnit k lk u s) s := by
  simp only [sweepUnit]
  split <;> simp

theorem execStackSweepDone_keep (k : Fin 12) (s : State) {sN : State} (h : execStackSweepDone k s = .next sN) :
    Kept sN s := by
  simp only [execStackSweepDone] at h
  injection h with h
  subst h
  simp

theorem execStackTempReport_keep (k : Fin 12) (dies : Vector (BitVec 8) 16) (base : BitVec 8) (s : State) {sN : State} (h : execStackTempReport k dies base s = .next sN) :
    Kept sN s := by
  simp only [execStackTempReport] at h
  injection h with h
  subst h
  repeat' first
    | (simp [*]; done)
    | split

theorem execThrottleStepDown_keep (k : Fin 12) (s : State) {sN : State} (h : execThrottleStepDown k s = .next sN) :
    Kept sN s := by
  simp only [execThrottleStepDown] at h
  injection h with h
  subst h
  simp

theorem execThrottleStepUp_keep (k : Fin 12) (s : State) {sN : State} (h : execThrottleStepUp k s = .next sN) :
    Kept sN s := by
  simp only [execThrottleStepUp] at h
  injection h with h
  subst h
  simp

theorem execTelemetryStale_keep (k : Fin 12) (s : State) {sN : State} (h : execTelemetryStale k s = .next sN) :
    Kept sN s := by
  simp only [execTelemetryStale] at h
  injection h with h
  subst h
  simp

@[simp] theorem wrSrtCtrl_keep (n v : Nat) (s : State) :
    Kept (wrSrtCtrl n v s) s := by
  simp [wrSrtCtrl]

theorem execSrtValidSet_keep (n : Fin 256) (mirrored : Bool) (s : State) {sN : State} (h : execSrtValidSet n mirrored s = .next sN) :
    Kept sN s := by
  simp only [execSrtValidSet] at h
  injection h with h
  subst h
  simp

theorem execSrtValidClear_keep (n : Fin 256) (mirrored : Bool) (s : State) {sN : State} (h : execSrtValidClear n mirrored s = .next sN) :
    Kept sN s := by
  simp only [execSrtValidClear] at h
  injection h with h
  subst h
  simp

end Sys2Proof.Machine
end

