-- ==== Sys2Proof/Laws/KeptRecovery.lean ====
section
/-!
SUPPORT. What the functions of Machine/Recovery.lean leave alone: one lemma each, in the terms of Safety.lean (`Kept`, `Held`).
-/
namespace Sys2Proof.Machine

@[simp] theorem dropTile_keep (t cause detail : Nat) (s : State) :
    Kept (dropTile t cause detail s) s := by
  simp only [dropTile]
  split <;> simp

@[simp] theorem loadMonitor_keep (ty t : Nat) (s : State) :
    Kept (loadMonitor ty t s) s := by
  simp only [loadMonitor]
  split <;> simp

@[simp] theorem refix_keep (t : Nat) (s : State) :
    Kept (refix t s) s := by
  simp only [refix]
  repeat' first
    | (simp [*]; done)
    | split
    | refine forEach_keep _ _ _ _ ?_ (fun a u => ?_)

@[simp] theorem markFailed_keep (us : List (Nat × Nat × Nat)) (s : State) :
    Kept (markFailed us s) s := by
  simp [markFailed]

@[simp] theorem retireTile_keep (t cause : Nat) (s : State) :
    Kept (retireTile t cause s) s := by
  simp [retireTile]

@[simp] theorem storeFaults_keep (t : Nat) (s : State) :
    Kept (storeFaults t s) s := by
  simp [storeFaults]

@[simp] theorem dropCopies_keep (c cause detail : Nat) (s : State) :
    Kept (dropCopies c cause detail s) s := by
  simp [dropCopies]

@[simp] theorem failClusters_keep (first : List (Nat × Nat × Nat)) (cs : List Nat) (own tiles : Nat) (s : State) :
    Kept (failClusters first cs own tiles s) s := by
  simp only [failClusters]
  repeat' first
    | (simp [*]; done)
    | split
    | refine forEach_keep _ _ _ _ ?_ (fun a u => ?_)

@[simp] theorem retireCluster_keep (c cause : Nat) (s : State) :
    Kept (retireCluster c cause s) s := by
  simp [retireCluster]

@[simp] theorem failPartition_keep (p cause : Nat) (s : State) :
    Kept (failPartition p cause s) s := by
  simp [failPartition]

@[simp] theorem failWalker_keep (p : Nat) (s : State) :
    Kept (failWalker p s) s := by
  simp [failWalker]

@[simp] theorem wrTileRetire_keep (v : Nat) (s : State) :
    Kept (wrTileRetire v s) s := by
  simp only [wrTileRetire]
  repeat' first
    | (simp [*]; done)
    | split

theorem execTileRetire_keep (l : Fin 128) (s : State) {sN : State} (h : execTileRetire l s = .next sN) :
    Kept sN s := by
  simp only [execTileRetire] at h
  injection h with h
  subst h
  simp

@[simp] theorem setQuarStep_keep (ty id n : Nat) (s : State) :
    Kept (setQuarStep ty id n s) s := by
  simp [setQuarStep]

@[simp] theorem wipeUnit_keep (ty id : Nat) (s : State) :
    Kept (wipeUnit ty id s) s := by
  simp [wipeUnit]

@[simp] theorem clearFaulted_keep (t : Nat) (s : State) :
    Kept (clearFaulted t s) s := by
  simp [clearFaulted]

@[simp] theorem replayShadow_keep (ty id : Nat) (s : State) :
    Kept (replayShadow ty id s) s := by
  simp [replayShadow]

@[simp] theorem failTest_keep (ty id : Nat) (s : State) :
    Kept (failTest ty id s) s := by
  simp [failTest]

@[simp] theorem dropOffers_keep (us : List (Nat × Nat)) (s : State) :
    Kept (dropOffers us s) s := by
  simp only [dropOffers]
  repeat' first
    | (simp [*]; done)
    | split
    | refine forEach_keep _ _ _ _ ?_ (fun a u => ?_)

@[simp] theorem quarBegin_keep (us bad : List (Nat × Nat)) (s : State) :
    Kept (quarBegin us bad s) s := by
  simp [quarBegin]

@[simp] theorem sendMarkers_keep (u : QuarUnit) (s : State) :
    Kept (sendMarkers u s) s := by
  simp [sendMarkers]

@[simp] theorem quarEnd_keep (us : List (Nat × Nat)) (s : State) :
    Kept (quarEnd us s) s := by
  simp [quarEnd]

@[simp] theorem stackBack_keep (k : Nat) (s : State) :
    Kept (stackBack k s) s := by
  simp [stackBack]

@[simp] theorem quarantineExit_keep (u : QuarUnit) (bad : List QuarUnit) (s : State) :
    Kept (quarantineExit u bad s) s := by
  simp only [quarantineExit]
  repeat' first
    | (simp [*]; done)
    | split

theorem execQuarantineExit_keep (u : QuarUnit) (bad : List QuarUnit) (s : State) {sN : State} (h : execQuarantineExit u bad s = .next sN) :
    Kept sN s := by
  unfold execQuarantineExit at h
  obtain ⟨u, hu, hk⟩ := settled_keep h
  refine hk.trans ?_
  clear h hk
  injection hu with hu
  subst hu
  repeat' first
    | (simp [*]; done)
    | (split <;> try (first
        | (rename_i hq; have h1 := congrArg (fun p => p.2.pending) hq; have h2 := congrArg (fun p => p.2.sec) hq; have h3 := congrArg (fun p => p.2.boot.tilesAt) hq; have h4 := congrArg (fun p => p.2.boot.digest) hq; simp at h1 h2 h3 h4)
        | (rename_i hq; have h1 := congrArg (fun p => p.2.2.pending) hq; have h2 := congrArg (fun p => p.2.2.sec) hq; have h3 := congrArg (fun p => p.2.2.boot.tilesAt) hq; have h4 := congrArg (fun p => p.2.2.boot.digest) hq; simp at h1 h2 h3 h4)))
    | refine forEach_keep _ _ _ _ ?_ (fun a u => ?_)
    | (simp_all; done)
    | (rename_i hq; split at hq)
    | simp

@[simp] theorem resetPartition_keep (p : Nat) (s : State) :
    Kept (resetPartition p s) s := by
  simp [resetPartition]

theorem execPartitionReset_keep (p : Fin 3) (s : State) {sN : State} (h : execPartitionReset p s = .next sN) :
    Kept sN s := by
  simp only [execPartitionReset] at h
  injection h with h
  subst h
  simp

@[simp] theorem settlePartition_keep (p : Nat) (s : State) :
    Kept (settlePartition p s) s := by
  simp [settlePartition]

@[simp] theorem markersBack_keep (u : QuarUnit) (s : State) :
    Kept (markersBack u s) s := by
  simp only [markersBack]
  split <;> simp

theorem execFlushMarkerReturn_keep (m : FlushMarker) (s : State) {sN : State} (h : execFlushMarkerReturn m s = .next sN) :
    Kept sN s := by
  simp only [execFlushMarkerReturn] at h
  injection h with h
  subst h
  repeat' first
    | (simp [*]; done)
    | split
    | refine forEach_keep _ _ _ _ ?_ (fun a u => ?_)

theorem execPartitionResetDone_keep (p : Fin 3) (s : State) {sN : State} (h : execPartitionResetDone p s = .next sN) :
    Kept sN s := by
  simp only [execPartitionResetDone] at h
  injection h with h
  subst h
  simp

end Sys2Proof.Machine
end

