-- ==== Sys2Proof/Laws/KeptCounters.lean ====
section
/-!
SUPPORT. What the functions of Machine/Counters.lean leave alone: one lemma each, in the terms of Safety.lean (`Kept`, `Held`).
-/
namespace Sys2Proof.Machine

@[simp] theorem counterWrap_keep (s : State) :
    Kept (counterWrap s) s := by
  simp only [counterWrap]
  split <;> simp

theorem execCounterWrap_keep (s : State) {sN : State} (h : execCounterWrap s = .next sN) :
    Kept sN s := by
  simp only [execCounterWrap] at h
  injection h with h
  subst h
  simp

@[simp] theorem endWindow_keep (b : Nat) (s : State) :
    Kept (endWindow b s) s := by
  simp [endWindow]

theorem execBwWindowEnd_keep (b : Fin 353) (s : State) {sN : State} (h : execBwWindowEnd b s = .next sN) :
    Kept sN s := by
  simp only [execBwWindowEnd] at h
  injection h with h
  subst h
  simp

@[simp] theorem updBank_keep (k : Nat) (f : Table (Nat × Nat) → Table (Nat × Nat)) (s : State) :
    Kept (updBank k f s) s := by
  simp [updBank]

@[simp] theorem latchBlock_keep (b : Nat) (r : SnapRun) (s : State) :
    Kept (latchBlock b r s) s := by
  simp [latchBlock]

@[simp] theorem colourLatch_keep (b : Nat) (c : Bool) (s : State) :
    Kept (colourLatch b c s) s := by
  simp only [colourLatch]
  split <;> simp

@[simp] theorem countArrival_keep (b ev p v ch : Nat) (s : State) :
    Kept (countArrival b ev p v ch s) s := by
  simp only [countArrival]
  repeat' first
    | (simp [*]; done)
    | split
    | refine forEach_keep _ _ _ _ ?_ (fun a u => ?_)

@[simp] theorem snapMarker_keep (b ch : Nat) (s : State) :
    Kept (snapMarker b ch s) s := by
  simp only [snapMarker]
  repeat' first
    | (simp [*]; done)
    | split

@[simp] theorem behindMarker_keep (b port ch : Nat) (s : State) :
    Kept (behindMarker b port ch s) s := by
  simp only [behindMarker]
  repeat' first
    | (simp [*]; done)
    | split
    | refine forEach_keep _ _ _ _ ?_ (fun a u => ?_)

theorem execSnapshotMarker_keep (b : Fin 353) (port : Fin 8) (c : NetChannel) (s : State) {sN : State} (h : execSnapshotMarker b port c s = .next sN) :
    Kept sN s := by
  simp only [execSnapshotMarker] at h
  injection h with h
  subst h
  repeat' first
    | (simp [*]; done)
    | split
    | refine forEach_keep _ _ _ _ ?_ (fun a u => ?_)

@[simp] theorem snapRequest_keep (s : State) :
    Kept (snapRequest s) s := by
  simp [snapRequest]

@[simp] theorem wrSnapCtrl_keep (v : Nat) (s : State) :
    Kept (wrSnapCtrl v s) s := by
  simp [wrSnapCtrl]

theorem execSnapRequest_keep (s : State) {sN : State} (h : execSnapRequest s = .next sN) :
    Kept sN s := by
  simp only [execSnapRequest] at h
  injection h with h
  subst h
  simp

theorem execSnapshotBegin_keep (s : State) {sN : State} (h : execSnapshotBegin s = .next sN) :
    Kept sN s := by
  simp only [execSnapshotBegin] at h
  injection h with h
  subst h
  simp

theorem execSnapshotComplete_keep (s : State) {sN : State} (h : execSnapshotComplete s = .next sN) :
    Kept sN s := by
  simp only [execSnapshotComplete] at h
  injection h with h
  subst h
  split <;> simp

@[simp] theorem abortSnapshot_keep (s : State) :
    Kept (abortSnapshot s) s := by
  simp [abortSnapshot]

@[simp] theorem rdCounter_keep (fn b : Nat) (r : CntReg) (part : Nat) (s : State) :
    Kept (rdCounter fn b r part s).2 s := by
  simp only [rdCounter]
  repeat' first
    | (simp [*]; done)
    | split

@[simp] theorem wrCounter_keep (b i part v : Nat) (s : State) :
    Kept (wrCounter b i part v s) s := by
  simp [wrCounter]

theorem execCounterLoRead_keep (fn : Fin 128) (b : Fin 353) (r : CntReg) (s : State) {sN : State} (h : execCounterLoRead fn b r s = .next sN) :
    Kept sN s := by
  simp only [execCounterLoRead] at h
  injection h with h
  subst h
  simp

end Sys2Proof.Machine
end

