-- ==== Sys2Proof/Laws/KeptNetwork.lean ====
section
/-!
SUPPORT. What the functions of Machine/Network.lean leave alone: one lemma each, in the terms of Safety.lean (`Kept`, `Held`).
-/
namespace Sys2Proof.Machine

@[simp] theorem chargePacket_keep (p : Packet) (s : State) :
    Kept (chargePacket p s) s := by
  simp only [chargePacket]
  split <;> simp

@[simp] theorem leaveRouter_keep (p : Packet) (a o : Nat) (s : State) :
    Kept (leaveRouter p a o s) s := by
  simp only [leaveRouter]
  repeat' first
    | (simp [*]; done)
    | split
    | refine forEach_keep _ _ _ _ ?_ (fun a u => ?_)

@[simp] theorem reachRouter_keep (t : Transit) (s : State) :
    Kept (reachRouter t s) s := by
  simp only [reachRouter]
  repeat' first
    | (simp [*]; done)
    | split
    | refine forEach_keep _ _ _ _ ?_ (fun a u => ?_)

@[simp] theorem moveLink_keep (r o plane : Nat) (s : State) :
    Kept (moveLink r o plane s) s := by
  simp only [moveLink]
  repeat' first
    | (simp [*]; done)
    | split
    | refine forEach_keep _ _ _ _ ?_ (fun a u => ?_)

@[simp] theorem moveInject_keep (a plane : Nat) (s : State) :
    Kept (moveInject a plane s) s := by
  simp only [moveInject]
  repeat' first
    | (simp [*]; done)
    | split
    | refine forEach_keep _ _ _ _ ?_ (fun a u => ?_)

@[simp] theorem netMove_keep (m : NetMove) (s : State) :
    Kept (netMove m s) s := by
  simp only [netMove]
  repeat' first
    | (simp [*]; done)
    | split
    | refine forEach_keep _ _ _ _ ?_ (fun a u => ?_)

@[simp] theorem offer_keep (p : Packet) (txn : Nat) (cause : Option (Nat × Bool)) (s : State) :
    Kept (offer p txn cause s) s := by
  simp only [offer]
  repeat' first
    | (simp [*]; done)
    | split
    | refine forEach_keep _ _ _ _ ?_ (fun a u => ?_)

theorem execPacketInject_keep (p : Packet) (i : Injection) (s : State) {sN : State} (h : execPacketInject p i s = .next sN) :
    Kept sN s := by
  simp only [execPacketInject] at h
  injection h with h
  subst h
  repeat' first
    | (simp [*]; done)
    | split
    | refine forEach_keep _ _ _ _ ?_ (fun a u => ?_)

@[simp] theorem offerAnswer_keep (p : Packet) (s : State) :
    Kept (offerAnswer p s) s := by
  simp only [offerAnswer]
  repeat' first
    | (simp [*]; done)
    | split
    | refine forEach_keep _ _ _ _ ?_ (fun a u => ?_)

@[simp] theorem absorbPacket_keep (p : Packet) (quiet : Bool) (s : State) :
    Kept (absorbPacket p quiet s) s := by
  simp [absorbPacket]

@[simp] theorem ejectPacket_keep (p : Packet) (quiet : Bool) (s : State) :
    Kept (ejectPacket p quiet s) s := by
  simp only [ejectPacket]
  repeat' first
    | (simp [*]; done)
    | split

@[simp] theorem reachUnit_keep (t : Transit) (s : State) :
    Kept (reachUnit t s) s := by
  simp only [reachUnit]
  repeat' first
    | (simp [*]; done)
    | split
    | refine forEach_keep _ _ _ _ ?_ (fun a u => ?_)

@[simp] theorem ejectAt_keep (a plane : Nat) (holds quiet : Bool) (s : State) :
    Kept (ejectAt a plane holds quiet s) s := by
  simp only [ejectAt]
  repeat' first
    | (simp [*]; done)
    | split
    | refine forEach_keep _ _ _ _ ?_ (fun a u => ?_)

theorem execPacketEject_keep (moves : List NetMove) (e : Ejection) (s : State) {sN : State} (h : execPacketEject moves e s = .next sN) :
    Kept sN s := by
  simp only [execPacketEject] at h
  injection h with h
  subst h
  repeat' first
    | (simp [*]; done)
    | split
    | refine forEach_keep _ _ _ _ ?_ (fun a u => ?_)

@[simp] theorem recordDump_keep (s : State) :
    Kept (recordDump s) s := by
  simp [recordDump]

@[simp] theorem failTransit_keep (r : Nat) (s : State) :
    Kept (failTransit r s) s := by
  simp [failTransit]

theorem execRouterFailure_keep (r : Fin 192) (s : State) {sN : State} (h : execRouterFailure r s = .next sN) :
    Kept sN s := by
  simp only [execRouterFailure] at h
  injection h with h
  subst h
  simp

@[simp] theorem sentMwr_keep (k : Nat) (h : HeldMem) (s : State) :
    Kept (sentMwr k h s) s := by
  simp only [sentMwr]
  repeat' first
    | (simp [*]; done)
    | split
    | refine forEach_keep _ _ _ _ ?_ (fun a u => ?_)

@[simp] theorem poisonRetry_keep (k i : Nat) (s : State) :
    Kept (poisonRetry k i s) s := by
  simp only [poisonRetry]
  repeat' first
    | (simp [*]; done)
    | split
    | refine forEach_keep _ _ _ _ ?_ (fun a u => ?_)

@[simp] theorem poisonCarried_keep (c : Carried) (u : Nat) (s : State) :
    Kept (poisonCarried c u s) s := by
  simp only [poisonCarried]
  repeat' first
    | (simp [*]; done)
    | split
    | refine forEach_keep _ _ _ _ ?_ (fun a u => ?_)

theorem execLinkFlitError_keep (r : Fin 192) (i : Nat) (c : Carried) (f : FlitFault) (s : State) {sN : State} (h : execLinkFlitError r i c f s = .next sN) :
    Kept sN s := by
  simp only [execLinkFlitError] at h
  injection h with h
  subst h
  repeat' first
    | (simp [*]; done)
    | split

@[simp] theorem failTarget_keep (ty id : Nat) (s : State) :
    Kept (failTarget ty id s) s := by
  simp [failTarget]

@[simp] theorem isolateAtt_keep (a key : Nat) (s : State) :
    Kept (isolateAtt a key s) s := by
  simp only [isolateAtt]
  repeat' first
    | (simp [*]; done)
    | split
    | refine forEach_keep _ _ _ _ ?_ (fun a u => ?_)

theorem execDeadTargetTimeout_keep (r : Fin 192) (port : Fin 4) (s : State) {sN : State} (h : execDeadTargetTimeout r port s = .next sN) :
    Kept sN s := by
  simp only [execDeadTargetTimeout] at h
  injection h with h
  subst h
  split <;> simp

theorem execCrossingLinkLost_keep (c : Fin 2) (y : Fin 8) (s : State) {sN : State} (h : execCrossingLinkLost c y s = .next sN) :
    Kept sN s := by
  simp only [execCrossingLinkLost] at h
  injection h with h
  subst h
  simp

@[simp] theorem syncCrossing_keep (c : Nat) (s : State) :
    Kept (syncCrossing c s) s := by
  simp [syncCrossing]

theorem execCrossingDrainDone_keep (c : Fin 2) (y : Fin 8) (s : State) {sN : State} (h : execCrossingDrainDone c y s = .next sN) :
    Kept sN s := by
  simp only [execCrossingDrainDone] at h
  injection h with h
  subst h
  simp

@[simp] theorem setGuarantees_keep (loud : Bool) (s : State) :
    Kept (setGuarantees loud s) s := by
  simp [setGuarantees]

@[simp] theorem missOf_keep (n c : Nat) (s : State) :
    Kept (missOf n c s) s := by
  simp [missOf]

theorem execQosPeriodBoundary_keep (waited : List (Fin 113 × Fin 16)) (s : State) {sN : State} (h : execQosPeriodBoundary waited s = .next sN) :
    Kept sN s := by
  simp only [execQosPeriodBoundary] at h
  injection h with h
  subst h
  simp

end Sys2Proof.Machine
end

