-- ==== Sys2Proof/Laws/KeptPower.lean ====
section
/-!
SUPPORT. What the functions of Machine/Power.lean leave alone: one lemma each, in the terms of Safety.lean (`Kept`, `Held`).
-/
namespace Sys2Proof.Machine

@[simp] theorem setPwr_keep (ty id : Nat) (u : PUnit) (s : State) :
    Kept (setPwr ty id u s) s := by
  simp [setPwr]

@[simp] theorem updPwr_keep (ty id : Nat) (f : PUnit → PUnit) (s : State) :
    Kept (updPwr ty id f s) s := by
  simp [updPwr]

@[simp] theorem moveStack_keep (k p : Nat) (s : State) :
    Kept (moveStack k p s) s := by
  simp [moveStack]

@[simp] theorem moveSite_keep (n p : Nat) (s : State) :
    Kept (moveSite n p s) s := by
  simp [moveSite]

@[simp] theorem applyPower_keep (ty id p : Nat) (s : State) :
    Kept (applyPower ty id p s) s := by
  simp [applyPower]

@[simp] theorem commandPower_keep (ty id p : Nat) (s : State) :
    Kept (commandPower ty id p s) s := by
  simp [commandPower]

@[simp] theorem wrPwrCmd_keep (v : Nat) (s : State) :
    Kept (wrPwrCmd v s) s := by
  simp [wrPwrCmd]

theorem execPowerCommand_keep (ty id : BitVec 8) (p : Fin 4) (s : State) {sN : State} (h : execPowerCommand ty id p s = .next sN) :
    Kept sN s := by
  unfold execPowerCommand at h
  obtain ⟨u, hu, hk⟩ := settled_keep h
  refine hk.trans ?_
  clear h hk
  injection hu with hu
  subst hu
  repeat' first
    | (simp [*]; done)
    | (split <;> try (first
        | (rename_i hq; have h1 := congrArg (fun p => p.2.pending) hq; have h2 := congrArg (fun p => p.2.sec) hq; have h3 := congrArg (fun p => p.2.boot.tilesAt) hq; have h4 := congrArg (fun p => p.2.boot.digest) hq; simp at h1 h2 h3 h4)
        | (rename_i hq; have h1 := congrArg (fun p => p.2.2.pending) hq; have h2 := congrArg (fun p => p.2.2.sec) hq; have h3 := congrArg (fun p => p.2.2.boot.tilesAt) hq; have h4 := congrArg (fun p => p.2.2.boot.digest) hq; simp at h1 h2 h3 h4)))
    | refine forEach_keep _ _ _ _ ?_ (fun a u => ?_)
    | (simp_all; done)
    | (rename_i hq; split at hq)
    | simp

theorem execPowerCommandApply_keep (u : QuarUnit) (s : State) {sN : State} (h : execPowerCommandApply u s = .next sN) :
    Kept sN s := by
  simp only [execPowerCommandApply] at h
  injection h with h
  subst h
  split <;> simp

@[simp] theorem loseContents_keep (ty id : Nat) (s : State) :
    Kept (loseContents ty id s) s := by
  simp [loseContents]

@[simp] theorem stackMoved_keep (k p : Nat) (s : State) :
    Kept (stackMoved k p s) s := by
  simp [stackMoved]

@[simp] theorem siteMoved_keep (n p : Nat) (s : State) :
    Kept (siteMoved n p s) s := by
  simp [siteMoved]

theorem execPowerTransitionDone_keep (u : QuarUnit) (s : State) {sN : State} (h : execPowerTransitionDone u s = .next sN) :
    Kept sN s := by
  simp only [execPowerTransitionDone] at h
  injection h with h
  subst h
  repeat' first
    | (simp [*]; done)
    | split

theorem execStackPowerSweepDone_keep (k : Fin 12) (s : State) {sN : State} (h : execStackPowerSweepDone k s = .next sN) :
    Kept sN s := by
  simp only [execStackPowerSweepDone] at h
  injection h with h
  subst h
  split <;> simp

@[simp] theorem sendStackBudget_keep (k : Nat) (s : State) :
    Kept (sendStackBudget k s) s := by
  simp [sendStackBudget]

theorem execStackBudgetTimer_keep (s : State) {sN : State} (h : execStackBudgetTimer s = .next sN) :
    Kept sN s := by
  simp only [execStackBudgetTimer] at h
  injection h with h
  subst h
  simp

@[simp] theorem wrStackBudget_keep (k v : Nat) (s : State) :
    Kept (wrStackBudget k v s) s := by
  simp [wrStackBudget]

theorem execStackBudgetWrite_keep (k : Fin 12) (w : BitVec 9) (s : State) {sN : State} (h : execStackBudgetWrite k w s = .next sN) :
    Kept sN s := by
  simp only [execStackBudgetWrite] at h
  injection h with h
  subst h
  simp

theorem execStackPowerReport_keep (k : Fin 12) (w : BitVec 9) (s : State) {sN : State} (h : execStackPowerReport k w s = .next sN) :
    Kept sN s := by
  simp only [execStackPowerReport] at h
  injection h with h
  subst h
  simp

theorem execFieldPowerSample_keep (f : PowerField) (w : BitVec 11) (s : State) {sN : State} (h : execFieldPowerSample f w s = .next sN) :
    Kept sN s := by
  simp only [execFieldPowerSample] at h
  injection h with h
  subst h
  split <;> simp

theorem execStackClampTimeout_keep (k : Fin 12) (w : BitVec 11) (s : State) {sN : State} (h : execStackClampTimeout k w s = .next sN) :
    Kept sN s := by
  simp only [execStackClampTimeout] at h
  injection h with h
  subst h
  simp

theorem execStackUnclamp_keep (k : Fin 12) (s : State) {sN : State} (h : execStackUnclamp k s = .next sN) :
    Kept sN s := by
  simp only [execStackUnclamp] at h
  injection h with h
  subst h
  simp

@[simp] theorem syncHubOver_keep (s : State) :
    Kept (syncHubOver s) s := by
  simp [syncHubOver]

@[simp] theorem wrPwrPkg_keep (v : Nat) (s : State) :
    Kept (wrPwrPkg v s) s := by
  simp [wrPwrPkg]

@[simp] theorem wrHubBudget_keep (v : Nat) (s : State) :
    Kept (wrHubBudget v s) s := by
  simp [wrHubBudget]

theorem execHubPowerSample_keep (w : BitVec 12) (s : State) {sN : State} (h : execHubPowerSample w s = .next sN) :
    Kept sN s := by
  simp only [execHubPowerSample] at h
  injection h with h
  subst h
  simp

@[simp] theorem wrClock_keep (c v : Nat) (s : State) :
    Kept (wrClock c v s) s := by
  simp [wrClock]

theorem execPllLockLost_keep (p : Pll) (s : State) {sN : State} (h : execPllLockLost p s = .next sN) :
    Kept sN s := by
  simp only [execPllLockLost] at h
  injection h with h
  subst h
  repeat' first
    | (simp [*]; done)
    | split

theorem execRefclkLost_keep (s : State) {sN : State} (h : execRefclkLost s = .next sN) :
    Kept sN s := by
  simp only [execRefclkLost] at h
  injection h with h
  subst h
  simp

theorem execTempSensorRead_keep (k : Fin 54) (t : BitVec 8) (s : State) {sN : State} (h : execTempSensorRead k t s = .next sN) :
    Kept sN s := by
  simp only [execTempSensorRead] at h
  injection h with h
  subst h
  simp

end Sys2Proof.Machine
end

