-- ==== Sys2Proof/Laws/KeptSecurity.lean ====
section
/-!
SUPPORT. What the functions of Machine/Security.lean leave alone: one lemma each, in the terms of Safety.lean (`Kept`, `Held`).
-/
namespace Sys2Proof.Machine

theorem updOtp_held (f : Otp → Otp) (s : State) (hf : (f s.sec.otp).reserve = s.sec.otp.reserve) : Held (updOtp f s) s :=
  ⟨rfl, rfl, rfl, fun i => i.congr rfl rfl rfl hf⟩

theorem updSec_held (f : Sec → Sec) (s : State) (hi : (f s.sec).issued = s.sec.issued) (hb : (f s.sec).block = s.sec.block)
    (hc : (f s.sec).cert = s.sec.cert) (hr : (f s.sec).otp.reserve = s.sec.otp.reserve) : Held (updSec f s) s :=
  ⟨rfl, rfl, rfl, fun i => i.congr hi hb hc hr⟩

@[simp] theorem syncLms_keep (s : State) :
    Kept (syncLms s) s := by
  simp [syncLms]

theorem askCertificate_held (s : State) : Held (askCertificate s) s := by
  unfold askCertificate
  exact Held.ite ((setRf_keep ..).held.trans (updSec_held _ _ rfl rfl rfl rfl)) (Held.refl _)

/-- What issuing from block `b` does to the security state. -/
theorem issueWith_sec (b : Nat) (s : State) : (issueWith b s).sec = { s.sec with
    issued := s.sec.issued + 1, block := some b, due := false,
    cert := some { leaf := 4096 * b + s.sec.issued, epoch := s.epoch, lc := s.lcState, debug := s.debugStatus,
                   blocks := s.sec.otp.reserve.length } } := by
  unfold issueWith
  extract_lets c s1
  rw [(opRecord_keep ..).2.1, (setRf_keep ..).2.1, (setRf_keep ..).2.1, (syncLms_keep ..).2.1]
  rfl
theorem issueWith_pending (b : Nat) (s : State) : (issueWith b s).pending = s.pending ∧
    (issueWith b s).boot.tilesAt = s.boot.tilesAt ∧ (issueWith b s).boot.digest = s.boot.digest := by
  unfold issueWith
  extract_lets c s1
  have h : Kept (opRecord 0x0901 false [c.leaf, c.epoch] (setRf rSecCtrl 2 2 0 (setRf rSecStatus 4 4 1 (syncLms s1)))) s1 :=
    (opRecord_keep ..).trans ((setRf_keep ..).trans ((setRf_keep ..).trans (syncLms_keep ..)))
  exact ⟨h.1, h.2.2⟩
theorem leavesOk_issue {x : Sec} {b : Nat} {c : Cert} (h : x.LeavesOk) (hi : x.issued < 4096) (hm : b ∈ x.otp.reserve)
    (hb : x.block = some b ∨ x.block = none) (hl : c.leaf = 4096 * b + x.issued) :
    ({ x with issued := x.issued + 1, block := some b, due := false, cert := some c } : Sec).LeavesOk := by
  refine ⟨hi, h.2.1, h.2.2.1, fun d hd => ?_, fun d hd => ?_⟩
  · cases hd
    exact hm
  · cases hd
    exact ⟨b, x.issued, rfl, Nat.lt_succ_self _, hl⟩
/-- A block put in its place of a strictly rising list. -/
theorem pairwise_insert {l : List Nat} (h : l.Pairwise (· < ·)) (b : Nat) :
    (l.filter (fun x => decide (x < b)) ++ b :: l.filter (fun x => decide (b < x))).Pairwise (· < ·) := by
  rw [List.pairwise_append, List.pairwise_cons]
  refine ⟨h.filter _, ⟨fun x hx => by simpa using (List.mem_filter.mp hx).2, h.filter _⟩, fun x hx y hy => ?_⟩
  have hxb : x < b := by simpa using (List.mem_filter.mp hx).2
  rcases List.mem_cons.mp hy with rfl | hy
  · exact hxb
  · exact Nat.lt_trans hxb (by simpa using (List.mem_filter.mp hy).2)

theorem execCertIssue_held (s : State) {t : State} (h : execCertIssue s = .next t) : Held t s := by
  unfold execCertIssue at h
  cases h
  split
  · exact Held.refl _
  · rename_i hg
    have hi : s.sec.issued < 4096 := by
      simp only [Bool.or_eq_true, decide_eq_true_eq, not_or, Nat.not_le] at hg
      exact hg.2
    cases hb : s.sec.block with
    | some b =>
      dsimp only
      refine ⟨(issueWith_pending ..).1, (issueWith_pending ..).2.1, (issueWith_pending ..).2.2, fun i => ?_⟩
      rw [issueWith_sec]
      exact leavesOk_issue i hi (i.2.2.2.1 b hb) (.inl hb) rfl
    | none =>
      dsimp only
      cases hn : s.sec.otp.nextBlock? with
      | none =>
        dsimp only
        exact (opRecord_keep ..).held.trans ((setRf_keep ..).held.trans ((setRf_keep ..).held.trans
          (updSec_held _ _ rfl rfl rfl rfl)))
      | some b =>
        dsimp only
        generalize hu : updOtp _ s = u
        have hk := syncLms_keep u
        refine ⟨?_, ?_, ?_, fun i => ?_⟩
        · rw [(issueWith_pending ..).1, hk.1, ← hu]
          rfl
        · rw [(issueWith_pending ..).2.1, hk.2.2.1, ← hu]
          rfl
        · rw [(issueWith_pending ..).2.2, hk.2.2.2, ← hu]
          rfl
        · rw [issueWith_sec]
          have hbl : b < 32768 := by
            unfold Otp.nextBlock? at hn
            have hm := List.mem_of_find?_eq_some hn
            rw [List.mem_range] at hm
            exact hm
          have hj : u.sec.LeavesOk := by
            rw [← hu]
            refine ⟨i.1, pairwise_insert i.2.1 b, fun x hx => ?_, fun x hx => ?_, i.2.2.2.2⟩
            · rcases List.mem_append.mp hx with hx | hx
              · exact i.2.2.1 x (List.mem_filter.mp hx).1
              · rcases List.mem_cons.mp hx with rfl | hx
                · exact hbl
                · exact i.2.2.1 x (List.mem_filter.mp hx).1
            · exact absurd (hb.symm.trans hx) (by simp)
          have hm : b ∈ (syncLms u).sec.otp.reserve := by
            rw [hk.2.1, ← hu]
            exact List.mem_append_right _ (List.mem_cons_self ..)
          rw [← hk.2.1] at hj
          refine leavesOk_issue hj ?_ hm (.inr ?_) rfl
          · rw [hk.2.1, ← hu]
            exact hi
          · rw [hk.2.1, ← hu]
            exact hb

theorem reissue_held (s : State) : Held (reissue s) s := by
  unfold reissue
  exact Held.ite (Held.refl _) (Held.ite (Held.refl _) (Held.ite (askCertificate_held _) (rcFlag_keep ..).held))

theorem execReissue_held (s : State) {t : State} (h : execReissue s = .next t) : Held t s := by
  unfold execReissue at h
  cases h
  exact reissue_held _

theorem svnCommit_held (s : State) : Held (svnCommit s) s := by
  unfold svnCommit
  exact Held.ite ((setRf_keep ..).held.trans (updOtp_held _ _ rfl)) (Held.refl _)

theorem execSvnCommit_held (s : State) {t : State} (h : execSvnCommit s = .next t) : Held t s := by
  unfold execSvnCommit at h
  cases h
  exact svnCommit_held _

theorem wrSecCtrl_held (v : Nat) (s : State) : Held (wrSecCtrl v s) s := by
  unfold wrSecCtrl
  have h1 : Held (if bit v 0 then reissue s else s) s := Held.ite (reissue_held _) (Held.refl _)
  exact Held.ite ((svnCommit_held _).trans h1) h1

@[simp] theorem refuseLc_keep (reason : Nat) (s : State) :
    Kept (refuseLc reason s) s := by
  simp [refuseLc]

theorem goLc_held (dst : Nat) (s : State) : Held (goLc dst s) s := by
  unfold goLc
  refine Held.ite (refuseLc_keep ..).held (Held.ite (refuseLc_keep ..).held (Held.ite (refuseLc_keep ..).held ?_))
  have h1 : Held (updSec (fun x => { x with token := [] }) s) s := updSec_held _ _ rfl rfl rfl rfl
  refine Held.ite ((refuseLc_keep ..).held.trans h1) (Held.ite ?_ ?_)
  · exact (refuseLc_keep ..).held.trans ((setRf_keep ..).held.trans ((setRf_keep ..).held.trans h1))
  · exact (setRf_keep ..).held.trans ((updSec_held _ _ rfl rfl rfl rfl).trans h1)

theorem wrLcCtrl_held (v : Nat) (s : State) : Held (wrLcCtrl v s) s := by
  unfold wrLcCtrl
  exact Held.ite (goLc_held ..) (Held.refl _)

theorem execLcTransitionGo_held (target : Fin 8) (s : State) {t : State} (h : execLcTransitionGo target s = .next t) : Held t s := by
  unfold execLcTransitionGo at h
  cases h
  exact wrLcCtrl_held ..

theorem burnCut_reserve (s : State) : s.burnCut.1.reserve = s.sec.otp.reserve := by
  unfold State.burnCut
  cases s.sec.lcMove <;> rfl
theorem wipeOtp_reserve (c : Nat) (o : Otp) :
    (wipeOtp c o).reserve = o.reserve ∨ (wipeOtp c o).reserve = List.range 32768 := by
  unfold wipeOtp
  extract_lets some1
  by_cases hc : c = 4 ∧ o.scrapFull = true
  · rw [if_pos hc]
    right
    dsimp only
  · rw [if_neg hc]
    exact .inl rfl
theorem updOtp_wipe_held (f : Otp → Otp) (s : State)
    (hf : (f s.sec.otp).reserve = s.sec.otp.reserve ∨ (f s.sec.otp).reserve = List.range 32768) : Held (updOtp f s) s :=
  ⟨rfl, rfl, rfl, fun i => i.reserve rfl rfl rfl hf⟩
theorem execLcTransition_held (ok : Bool) (s : State) {t : State} (h : execLcTransition ok s = .next t) : Held t s := by
  unfold execLcTransition at h
  cases h
  cases s.sec.lcMove with
  | none => exact Held.refl _
  | some m =>
    dsimp only
    refine Held.ite ?_ ?_
    · generalize hq : opRecord _ _ _ _ = q
      have h2 : Held q s := by
        rw [← hq]
        refine (opRecord_keep ..).held.trans ((setRf_keep ..).held.trans ((updOtp_wipe_held _ _ ?_).trans
          (updSec_held _ _ rfl rfl rfl rfl)))
        split
        · exact wipeOtp_reserve ..
        · exact .inl rfl
      exact h2
    · refine (refuseLc_keep ..).held.trans ((setRf_keep ..).held.trans ⟨rfl, rfl, rfl, fun i => ?_⟩)
      exact i.congr rfl rfl rfl (burnCut_reserve s)

theorem wrUserData_held (v : Nat) (s : State) : Held (wrUserData v s) s := by
  unfold wrUserData
  exact Held.ite (updOtp_held _ _ rfl) (Held.refl _)

theorem execUserStoreBurn_held (v : BitVec 32) (s : State) {t : State} (h : execUserStoreBurn v s = .next t) : Held t s := by
  unfold execUserStoreBurn at h
  cases h
  exact wrUserData_held ..

theorem openGate_held (g : Nat) (s : State) : Held (openGate g s) s := by
  unfold openGate
  extract_lets k s1 s2
  refine Held.ite (Held.refl _) ?_
  have h1 : Held s1 s := (setRf_keep ..).held
  have h2 : Held s2 s := Held.ite h1 ((askCertificate_held _).trans ((setRf_keep ..).held.trans h1))
  exact Held.ite h2 ((opRecord_keep ..).held.trans ((updSec_held _ _ rfl rfl rfl rfl).trans h2))

@[simp] theorem closeGate_keep (g : Nat) (s : State) :
    Kept (closeGate g s) s := by
  simp [closeGate]

theorem wrGates_held (b n v : Nat) (s : State) : Held (wrGates b n v s) s :=
  forEach_held _ _ _ _ (Held.refl _) (fun _ _ => Held.ite (openGate_held ..) (closeGate_keep ..).held)

theorem execGateOpen_held (g : Fin 48) (s : State) {t : State} (h : execGateOpen g s = .next t) : Held t s := by
  unfold execGateOpen at h
  cases h
  exact Held.ite (openGate_held ..) (Held.refl _)

theorem execGateClose_keep (g : Fin 48) (s : State) {sN : State} (h : execGateClose g s = .next sN) :
    Kept sN s := by
  simp only [execGateClose] at h
  injection h with h
  subst h
  simp

theorem enableDebug_held (s : State) : Held (enableDebug s) s := by
  unfold enableDebug
  extract_lets lc s1
  refine Held.ite (Held.refl _) ?_
  have h1 : Held s1 s := by
    refine Kept.held ?_
    simp only [s1]
    refine forEach_keep _ _ _ _ ?_ (fun a u => ?_)
    · exact setRf_keep ..
    · exact tdiError_keep ..
  exact Held.ite h1 ((opRecord_keep ..).held.trans ((askCertificate_held _).trans ((setRf_keep ..).held.trans h1)))

@[simp] theorem disableDebug_keep (s : State) :
    Kept (disableDebug s) s := by
  simp [disableDebug]

theorem wrSecDebug_held (v : Nat) (s : State) : Held (wrSecDebug v s) s := by
  unfold wrSecDebug
  exact Held.ite (enableDebug_held ..) (disableDebug_keep ..).held

theorem execDebugEnable_held (s : State) {t : State} (h : execDebugEnable s = .next t) : Held t s := by
  unfold execDebugEnable at h
  cases h
  exact enableDebug_held _

theorem execDebugDisable_keep (s : State) {sN : State} (h : execDebugDisable s = .next sN) :
    Kept sN s := by
  simp only [execDebugDisable] at h
  injection h with h
  subst h
  simp

theorem execRngHealthFail_held (s : State) {t : State} (h : execRngHealthFail s = .next t) : Held t s := by
  unfold execRngHealthFail at h
  cases h
  refine Held.ite (Held.refl _) ?_
  have h1 : Held (updSec (fun x => { x with rngFailed := true }) s) s := updSec_held _ _ rfl rfl rfl rfl
  exact (serviceRequest_keep ..).held.trans h1

@[simp] theorem doe_keep (what : String) (words : List Nat) (bytes : List Byte) (s : State) :
    Kept (doe what words bytes s) s := by
  simp [doe]

@[simp] theorem spdmError_keep (code : Nat) (s : State) :
    Kept (spdmError code s) s := by
  simp [spdmError]

@[simp] theorem updSpdm_keep (f : Spdm → Spdm) (s : State) :
    Kept (updSpdm f s) s := by
  simp [updSpdm]

@[simp] theorem withCert_keep (k : Cert → State → State) (s : State) (hk : ∀ a u, Kept (k a u) u) :
    Kept (withCert k s) s := by
  simp only [withCert]
  repeat' first
    | (simp [*]; done)
    | split

theorem spdmRow_keep (k : State → State) (s : State) (hk : ∀ u, Kept (k u) u) {sN : State} (h : spdmRow k s = .next sN) :
    Kept sN s := by
  simp only [spdmRow] at h
  injection h with h
  subst h
  repeat' first
    | (simp [*]; done)
    | split

@[simp] theorem drawBytes_keep (n : Nat) (s : State) :
    Kept (drawBytes n s).2 s := by
  simp [drawBytes]

theorem execGetVersion_keep (s : State) {sN : State} (h : execGetVersion s = .next sN) :
    Kept sN s := by
  simp only [execGetVersion] at h
  injection h with h
  subst h
  simp

theorem execGetCapabilities_keep (s : State) {sN : State} (h : execGetCapabilities s = .next sN) :
    Kept sN s := by
  simp only [execGetCapabilities] at h
  injection h with h
  subst h
  simp

theorem execNegotiateAlgorithms_keep (offered : Bool) (s : State) {sN : State} (h : execNegotiateAlgorithms offered s = .next sN) :
    Kept sN s := by
  simp only [execNegotiateAlgorithms] at h
  injection h with h
  subst h
  simp

theorem execGetDigests_keep (s : State) {sN : State} (h : execGetDigests s = .next sN) :
    Kept sN s := by
  simp only [execGetDigests] at h
  injection h with h
  subst h
  simp

theorem execGetCertificate_keep (slot : BitVec 8) (off len : BitVec 16) (s : State) {sN : State} (h : execGetCertificate slot off len s = .next sN) :
    Kept sN s := by
  simp only [execGetCertificate] at h
  injection h with h
  subst h
  simp

theorem execChallenge_keep (slot : BitVec 8) (nonce : BitVec 256) (s : State) {sN : State} (h : execChallenge slot nonce s = .next sN) :
    Kept sN s := by
  simp only [execChallenge] at h
  injection h with h
  subst h
  simp

theorem execGetMeasurements_keep (index : BitVec 8) (sign : Bool) (nonce : BitVec 256) (s : State) {sN : State} (h : execGetMeasurements index sign nonce s = .next sN) :
    Kept sN s := by
  simp only [execGetMeasurements] at h
  injection h with h
  subst h
  simp

theorem execKeyExchange_keep (sid : BitVec 32) (s : State) {sN : State} (h : execKeyExchange sid s = .next sN) :
    Kept sN s := by
  simp only [execKeyExchange] at h
  injection h with h
  subst h
  simp

theorem execFinish_keep (sid : BitVec 32) (ok : Bool) (s : State) {sN : State} (h : execFinish sid ok s = .next sN) :
    Kept sN s := by
  simp only [execFinish] at h
  injection h with h
  subst h
  repeat' first
    | (simp [*]; done)
    | (split <;> try (first
        | (rename_i hq; have h1 := congrArg (fun p => p.2.pending) hq; have h2 := congrArg (fun p => p.2.sec) hq; have h3 := congrArg (fun p => p.2.boot.tilesAt) hq; have h4 := congrArg (fun p => p.2.boot.digest) hq; simp at h1 h2 h3 h4)
        | (rename_i hq; have h1 := congrArg (fun p => p.2.2.pending) hq; have h2 := congrArg (fun p => p.2.2.sec) hq; have h3 := congrArg (fun p => p.2.2.boot.tilesAt) hq; have h4 := congrArg (fun p => p.2.2.boot.digest) hq; simp at h1 h2 h3 h4)))
    | refine forEach_keep _ _ _ _ ?_ (fun a u => ?_)
    | (simp_all; done)
    | (rename_i hq; split at hq)
    | simp

theorem inSession_keep (sid : BitVec 32) (k : State → State) (s : State) (hk : ∀ u, Kept (k u) u) {sN : State} (h : inSession sid k s = .next sN) :
    Kept sN s := by
  simp only [inSession] at h
  injection h with h
  subst h
  repeat' first
    | (simp [*]; done)
    | split

theorem execHeartbeat_keep (sid : BitVec 32) (s : State) {sN : State} (h : execHeartbeat sid s = .next sN) :
    Kept sN s := by
  simp only [execHeartbeat] at h
  injection h with h
  subst h
  simp

theorem execKeyUpdate_keep (sid : BitVec 32) (op : BitVec 8) (s : State) {sN : State} (h : execKeyUpdate sid op s = .next sN) :
    Kept sN s := by
  simp only [execKeyUpdate] at h
  injection h with h
  subst h
  simp

theorem execEndSession_keep (sid : BitVec 32) (s : State) {sN : State} (h : execEndSession sid s = .next sN) :
    Kept sN s := by
  simp only [execEndSession] at h
  injection h with h
  subst h
  simp

theorem execIdeKm_keep (sid : BitVec 32) (stream : Fin 8) (s : State) {sN : State} (h : execIdeKm sid stream s = .next sN) :
    Kept sN s := by
  simp only [execIdeKm] at h
  injection h with h
  subst h
  simp

@[simp] theorem tdispError_keep (code : Nat) (s : State) :
    Kept (tdispError code s) s := by
  simp [tdispError]

theorem tdispRow_keep (sid : BitVec 32) (f : Nat) (k : State → State) (s : State) (hk : ∀ u, Kept (k u) u) {sN : State} (h : tdispRow sid f k s = .next sN) :
    Kept sN s := by
  simp only [tdispRow] at h
  injection h with h
  subst h
  repeat' first
    | (simp [*]; done)
    | split

theorem execLockInterfaceRequest_keep (sid : BitVec 32) (f : Fin 128) (stream : Fin 8) (s : State) {sN : State} (h : execLockInterfaceRequest sid f stream s = .next sN) :
    Kept sN s := by
  simp only [execLockInterfaceRequest] at h
  injection h with h
  subst h
  simp

theorem execGetDeviceInterfaceReport_keep (sid : BitVec 32) (f : Fin 128) (s : State) {sN : State} (h : execGetDeviceInterfaceReport sid f s = .next sN) :
    Kept sN s := by
  simp only [execGetDeviceInterfaceReport] at h
  injection h with h
  subst h
  simp

theorem execGetDeviceInterfaceState_keep (sid : BitVec 32) (f : Fin 128) (s : State) {sN : State} (h : execGetDeviceInterfaceState sid f s = .next sN) :
    Kept sN s := by
  simp only [execGetDeviceInterfaceState] at h
  injection h with h
  subst h
  simp

theorem execStartInterfaceRequest_keep (sid : BitVec 32) (f : Fin 128) (nonce : BitVec 256) (s : State) {sN : State} (h : execStartInterfaceRequest sid f nonce s = .next sN) :
    Kept sN s := by
  simp only [execStartInterfaceRequest] at h
  injection h with h
  subst h
  simp

theorem execStopInterfaceRequest_keep (sid : BitVec 32) (f : Fin 128) (s : State) {sN : State} (h : execStopInterfaceRequest sid f s = .next sN) :
    Kept sN s := by
  simp only [execStopInterfaceRequest] at h
  injection h with h
  subst h
  simp

end Sys2Proof.Machine
end

