-- ==== Sys2Proof/Laws/KeptBringup.lean ====
section
/-!
SUPPORT. What the functions of Machine/Bringup.lean leave alone: one lemma each, in the terms of Safety.lean (`Kept`, `Held`).
-/
namespace Sys2Proof.Machine

theorem execResetAssert_pending (s : State) {t : State} (h : execResetAssert s = .next t) : t.pending = s.pending := by
  unfold execResetAssert at h
  cases h
  rfl

theorem execResetRelease_keep (strap : Fin 4) (s : State) {sN : State} (h : execResetRelease strap s = .next sN) :
    Kept sN s := by
  simp only [execResetRelease] at h
  injection h with h
  subst h
  simp

theorem execRailUndervoltage_pending (s : State) {t : State} (h : execRailUndervoltage s = .next t) :
    t.pending = s.pending := by
  unfold execRailUndervoltage at h
  cases h
  rfl

theorem execRailBackInRange_keep (s : State) {sN : State} (h : execRailBackInRange s = .next sN) :
    Kept sN s := by
  simp only [execRailBackInRange] at h
  injection h with h
  subst h
  simp

@[simp] theorem report_keep (n result err : Nat) (us : List (Nat × Nat)) (data : List Nat) (s : State) :
    Kept (report n result err us data s) s := by
  simp [report]

@[simp] theorem passStage_keep (n : Nat) (us : List (Nat × Nat)) (data : List Nat) (s : State) :
    Kept (passStage n us data s) s := by
  simp [passStage]

@[simp] theorem failStage_keep (n err : Nat) (us : List (Nat × Nat)) (data : List Nat) (s : State) :
    Kept (failStage n err us data s) s := by
  simp [failStage]

theorem drawMemKey_held (s : State) : Held (drawMemKey s) s := by
  refine Held.trans (b := updSec (fun x => { x with
    volatileKey := if (!provisioned 512 s.sec.otp.memKey) = true then some s.free else none }) s) ?_
    (updSec_held _ _ rfl rfl rfl rfl)
  simp [drawMemKey]

theorem execStageS0Done_held (ok : Bool) (hot : Option (Fin 54)) (temp : BitVec 8) (s : State) {t : State}
    (h : execStageS0Done ok hot temp s = .next t) : Held t s := by
  unfold execStageS0Done at h
  cases h
  refine Held.ite (Held.refl _) (Held.ite (failStage_keep ..).held ?_)
  extract_lets lc s1 o s2 s3 s4 s5
  have h1 : Held s1 s := Held.ite (updOtp_wipe_held _ _ (wipeOtp_reserve ..)) (Held.refl _)
  clear_value s1
  have h2 : Held s2 s :=
    (setRf_keep ..).held.trans ((setRf_keep ..).held.trans ((drawMemKey_held ..).trans h1))
  clear_value s2
  have h4 : Held s4 s := (rewriteUnits_keep ..).held.trans ((setRf_keep ..).held.trans ((syncLms_keep ..).held.trans h2))
  clear_value s4
  have h5 : Held s5 s := by
    simp only [s5]
    cases hot with
    | none => exact h4
    | some k => exact (thermalTrip_keep ..).held.trans ((setRf_keep ..).held.trans h4)
  exact Held.ite ((failStage_keep ..).held.trans h5) ((passStage_keep ..).held.trans h5)

theorem execHostLinkTrained_keep (rate : Fin 8) (width : Fin 17) (s : State) {sN : State} (h : execHostLinkTrained rate width s = .next sN) :
    Kept sN s := by
  simp only [execHostLinkTrained] at h
  injection h with h
  subst h
  simp

@[simp] theorem imageReady_keep (s : State) :
    Kept (imageReady s) s := by
  simp [imageReady]

@[simp] theorem wrBootCtrl_keep (v : Nat) (s : State) :
    Kept (wrBootCtrl v s) s := by
  simp [wrBootCtrl]

theorem execImageReady_keep (s : State) {sN : State} (h : execImageReady s = .next sN) :
    Kept sN s := by
  simp only [execImageReady] at h
  injection h with h
  subst h
  simp

@[simp] theorem fieldsOn_keep (s : State) :
    Kept (fieldsOn s) s := by
  simp [fieldsOn]

theorem execImageAdmission_held (s : State) {t : State} (h : execImageAdmission s = .next t) : Held t s := by
  unfold execImageAdmission at h
  cases h
  refine Held.ite (Held.refl _) ?_
  extract_lets data code s1 slot revoke s2 s3 s4
  have h1 : Held s1 s := (setRf_keep ..).held.trans (setRf_keep ..).held
  clear_value s1 code
  refine Held.ite ((failStage_keep ..).held.trans h1) ?_
  have h2 : Held s2 s := (updOtp_held _ _ rfl).trans h1
  clear_value s2
  have h3 : Held s3 s := (updSec_held _ _ rfl rfl rfl rfl).trans h2
  clear_value s3
  have h4 : Held s4 s := (setRf_keep ..).held.trans ((setRf_keep ..).held.trans h3)
  clear_value s4
  exact (fieldsOn_keep ..).held.trans ((passStage_keep ..).held.trans h4)

@[simp] theorem stackOutAt_keep (k cause : Nat) (s : State) :
    Kept (stackOutAt k cause s) s := by
  simp [stackOutAt]

@[simp] theorem stackWidth_keep (k : Nat) (s : State) :
    Kept (stackWidth k s) s := by
  simp [stackWidth]

@[simp] theorem trainStack_keep (k : Nat) (o : Option StackTrain) (s : State) :
    Kept (trainStack k o s) s := by
  simp only [trainStack]
  split <;> simp

@[simp] theorem takeSiteSpares_keep (n : Nat) (sp : List Nat) (s : State) :
    Kept (takeSiteSpares n sp s) s := by
  simp [takeSiteSpares]

@[simp] theorem siteWidth_keep (n : Nat) (s : State) :
    Kept (siteWidth n s) s := by
  simp [siteWidth]

@[simp] theorem trainSite_keep (n : Nat) (o : Option SiteTrain) (s : State) :
    Kept (trainSite n o s) s := by
  simp only [trainSite]
  repeat' first
    | (simp [*]; done)
    | split

@[simp] theorem portOutAt_keep (n cause : Nat) (s : State) :
    Kept (portOutAt n cause s) s := by
  simp [portOutAt]

@[simp] theorem portLanesAt_keep (n lanes : Nat) (s : State) :
    Kept (portLanesAt n lanes s) s := by
  simp [portLanesAt]

@[simp] theorem trainPort_keep (n : Nat) (o : Option PortTrain) (s : State) :
    Kept (trainPort n o s) s := by
  simp only [trainPort]
  split <;> simp

@[simp] theorem crossingRecord_keep (c cause : Nat) (s : State) :
    Kept (crossingRecord c cause s) s := by
  simp only [crossingRecord]
  repeat' first
    | (simp [*]; done)
    | split
    | refine forEach_keep _ _ _ _ ?_ (fun a u => ?_)

@[simp] theorem endTraining_keep (tr : Training) (s : State) :
    Kept (endTraining tr s) s := by
  simp [endTraining]

theorem execTrainingDone_keep (tr : Training) (s : State) {sN : State} (h : execTrainingDone tr s = .next sN) :
    Kept sN s := by
  simp only [execTrainingDone] at h
  injection h with h
  subst h
  simp

@[simp] theorem testFail_keep (ts : List Nat) (own : Nat) (s : State) :
    Kept (testFail ts own s) s := by
  simp [testFail]

@[simp] theorem clusterFail_keep (own tiles c : Nat) (s : State) :
    Kept (clusterFail own tiles c s) s := by
  simp [clusterFail]

@[simp] theorem prepareStores_keep (s : State) :
    Kept (prepareStores s) s := by
  simp [prepareStores]

@[simp] theorem assignSlots_keep (s : State) :
    Kept (assignSlots s) s := by
  simp [assignSlots]

theorem execSelftestDone_keep (t : SelfTest) (s : State) {sN : State} (h : execSelftestDone t s = .next sN) :
    Kept sN s := by
  simp only [execSelftestDone] at h
  injection h with h
  subst h
  simp

@[simp] theorem recordRate_keep (ty id : Nat) (d : Dwell) (s : State) :
    Kept (recordRate ty id d s) s := by
  simp [recordRate]

@[simp] theorem qualify_keep (ty id : Nat) (o : Option Dwell) (out : State → State) (s : State) (hout : ∀ u, Kept (out u) u) :
    Kept (qualify ty id o out s) s := by
  simp only [qualify]
  repeat' first
    | (simp [*]; done)
    | split

@[simp] theorem monitorsAct_keep (q : Qualification) (s : State) :
    Kept (monitorsAct q s) s := by
  simp [monitorsAct]

@[simp] theorem endQualification_keep (q : Qualification) (s : State) :
    Kept (endQualification q s) s := by
  simp [endQualification]

theorem execQualificationDone_keep (q : Qualification) (s : State) {sN : State} (h : execQualificationDone q s = .next sN) :
    Kept sN s := by
  simp only [execQualificationDone] at h
  injection h with h
  subst h
  simp

@[simp] theorem powerAtReady_keep (s : State) :
    Kept (powerAtReady s) s := by
  simp [powerAtReady]

@[simp] theorem syncCaps_keep (s : State) :
    Kept (syncCaps s) s := by
  simp [syncCaps]

@[simp] theorem seedSamples_keep (s : State) :
    Kept (seedSamples s) s := by
  simp [seedSamples]

theorem numberTiles_held (s : State) : (numberTiles s).pending = s.pending ∧ (numberTiles s).sec = s.sec := by
  unfold numberTiles
  extract_lets tiles
  exact ⟨(rewriteUnits_keep ..).1.trans (setReg_keep ..).1, (rewriteUnits_keep ..).2.1.trans (setReg_keep ..).2.1⟩

theorem firstPlan_held (s : State) : (firstPlan s).pending = s.pending ∧ (firstPlan s).sec = s.sec := ⟨rfl, rfl⟩

theorem startNet_keep (tags : Table Nat) (s : State) : Kept (startNet tags s) s := Kept.refl _

@[simp] theorem joinSites_keep (s : State) :
    Kept (joinSites s) s := by
  simp [joinSites]

@[simp] theorem warnLms_keep (s : State) :
    Kept (warnLms s) s := by
  simp [warnLms]

theorem becomeReady_held (s : State) : (becomeReady s).pending = s.pending ∧
    (s.sec.LeavesOk → (becomeReady s).sec.LeavesOk) := by
  unfold becomeReady
  extract_lets s1 s2 s3 s4 s5
  have h1 : s1.pending = s.pending ∧ s1.sec = s.sec := numberTiles_held s
  clear_value s1
  have k2 : Kept s2 (firstPlan s1) := (setGuarantees_keep ..).trans ((syncCaps_keep ..).trans (powerAtReady_keep ..))
  clear_value s2
  have k3 : Kept s3 (firstPlan s1) := (report_keep ..).trans ((startNet_keep ..).trans k2)
  clear_value s3
  have k4 : Kept s4 (firstPlan s1) :=
    (warnLms_keep ..).trans ((joinSites_keep ..).trans ((seedSamples_keep ..).trans ((setRf_keep ..).trans k3)))
  clear_value s4
  have k5 : Kept s5 (firstPlan s1) := (emit_keep ..).trans ((emit_keep ..).trans k4)
  clear_value s5
  generalize hq : syncGates _ = q
  have k : Kept q (firstPlan s1) := by
    rw [← hq]
    refine (syncGates_keep ..).trans ?_
    refine forEach_keep _ _ _ _ k5 (fun a u => syncClocks_keep ..)
  refine ⟨(askCertificate_held q).1.trans (k.1.trans ((firstPlan_held _).1.trans h1.1)),
    fun i => (askCertificate_held q).2.2.2 ?_⟩
  rw [k.2.1, (firstPlan_held _).2, h1.2]
  exact i

theorem execReady_held (s : State) {t : State} (h : execReady s = .next t) : t.pending = s.pending ∧
    (s.sec.LeavesOk → t.sec.LeavesOk) := by
  unfold execReady at h
  cases h
  split
  · exact becomeReady_held s
  · exact ⟨rfl, fun i => i⟩

theorem execStageTimeout_keep (tr : Training) (q : Qualification) (s : State) {sN : State} (h : execStageTimeout tr q s = .next sN) :
    Kept sN s := by
  simp only [execStageTimeout] at h
  injection h with h
  subst h
  simp

end Sys2Proof.Machine
end

