-- ==== Sys2Proof/Laws/KeptBulk.lean ====
section
/-!
SUPPORT. What the functions of Machine/Bulk.lean leave alone: one lemma each, in the terms of Safety.lean (`Kept`, `Held`).
-/
namespace Sys2Proof.Machine

@[simp] theorem regFlag_keep (f b off : Nat) (s : State) :
    Kept (regFlag f b off s) s := by
  simp [regFlag]

@[simp] theorem setBulkAddr_keep (f a : Nat) (s : State) :
    Kept (setBulkAddr f a s) s := by
  simp [setBulkAddr]

@[simp] theorem bulkFlag_keep (f b : Nat) (s : State) :
    Kept (bulkFlag f b s) s := by
  simp [bulkFlag]

@[simp] theorem debugUnits_keep (l : List Nat) (s : State) : Kept (debugUnits l s).2 s := by
  induction l generalizing s with
  | nil => exact Kept.refl _
  | cons u l ih =>
    have hr := agentRead_keep opRecord .welore (paTarget (64 * u)) 0 0 s (by intros; simp)
    unfold debugUnits
    generalize agentRead opRecord .welore (paTarget (64 * u)) 0 0 s = r at hr
    obtain ⟨r, s1⟩ := r
    cases r with
    | none => exact (ih s1).trans hr
    | some v =>
      dsimp only
      have hl := ih s1
      generalize debugUnits l s1 = q at hl
      obtain ⟨q, s2⟩ := q
      cases q with
      | some vs => exact Kept.trans hl hr
      | none => exact (arrive_keep ..).trans (Kept.trans hl hr)

@[simp] theorem readDebugMem_keep (f a n : Nat) (s : State) :
    Kept (readDebugMem f a n s).2 s := by
  simp only [readDebugMem]
  repeat' first
    | (simp [*]; done)
    | (split <;> try (first
        | (rename_i hq; have h1 := congrArg (fun p => p.2.pending) hq; have h2 := congrArg (fun p => p.2.sec) hq; have h3 := congrArg (fun p => p.2.boot.tilesAt) hq; have h4 := congrArg (fun p => p.2.boot.digest) hq; simp at h1 h2 h3 h4)
        | (rename_i hq; have h1 := congrArg (fun p => p.2.2.pending) hq; have h2 := congrArg (fun p => p.2.2.sec) hq; have h3 := congrArg (fun p => p.2.2.boot.tilesAt) hq; have h4 := congrArg (fun p => p.2.2.boot.digest) hq; simp at h1 h2 h3 h4)))
    | refine forEach_keep _ _ _ _ ?_ (fun a u => ?_)
    | (simp_all; done)
    | (rename_i hq; split at hq)
    | simp

@[simp] theorem resumeTile_keep (t : Nat) (s : State) :
    Kept (resumeTile t s) s := by
  simp [resumeTile]

@[simp] theorem endHalted_keep (t : Nat) (s : State) :
    Kept (endHalted t s) s := by
  simp [endHalted]

@[simp] theorem readDebugUnit_keep (o : Nat) (s : State) :
    Kept (readDebugUnit o s).2 s := by
  simp only [readDebugUnit]
  repeat' first
    | (simp [*]; done)
    | split

@[simp] theorem writeDebugUnit_keep (o v : Nat) (s : State) :
    Kept (writeDebugUnit o v s) s := by
  simp [writeDebugUnit]

theorem execDebugResume_keep (t : Fin 72) (s : State) {sN : State} (h : execDebugResume t s = .next sN) :
    Kept sN s := by
  simp only [execDebugResume] at h
  injection h with h
  subst h
  simp

theorem execDebugEndTask_keep (t : Fin 72) (s : State) {sN : State} (h : execDebugEndTask t s = .next sN) :
    Kept sN s := by
  simp only [execDebugEndTask] at h
  injection h with h
  subst h
  simp

@[simp] theorem readWords_keep (g : Nat → State → Nat × State) (hg : ∀ o u, Kept (g o u).2 u) (l : List Nat) (s : State) :
    Kept (readWords g l s).2 s := by
  induction l generalizing s with
  | nil => exact Kept.refl _
  | cons o l ih =>
    unfold readWords
    exact (ih _).trans (hg ..)

@[simp] theorem beginPass_keep (f a : Nat) (s : State) :
    Kept (beginPass f a s) s := by
  simp [beginPass]

@[simp] theorem bulkRead_keep (f a n : Nat) (s : State) :
    Kept (bulkRead f a n s).2 s := by
  simp only [bulkRead]
  repeat' first
    | (simp [*]; done)
    | split

@[simp] theorem bulkWrite_keep (f a : Nat) (bs : List Byte) (s : State) :
    Kept (bulkWrite f a bs s) s := by
  simp only [bulkWrite]
  repeat' first
    | (simp [*]; done)
    | split

@[simp] theorem bulkStep_keep (f : Nat) (s : State) :
    Kept (bulkStep f s) s := by
  simp [bulkStep]

@[simp] theorem readBulkData_keep (f : Nat) (s : State) :
    Kept (readBulkData f s).2 s := by
  simp only [readBulkData]
  repeat' first
    | (simp [*]; done)
    | (split <;> try (first
        | (rename_i hq; have h1 := congrArg (fun p => p.2.pending) hq; have h2 := congrArg (fun p => p.2.sec) hq; have h3 := congrArg (fun p => p.2.boot.tilesAt) hq; have h4 := congrArg (fun p => p.2.boot.digest) hq; simp at h1 h2 h3 h4)
        | (rename_i hq; have h1 := congrArg (fun p => p.2.2.pending) hq; have h2 := congrArg (fun p => p.2.2.sec) hq; have h3 := congrArg (fun p => p.2.2.boot.tilesAt) hq; have h4 := congrArg (fun p => p.2.2.boot.digest) hq; simp at h1 h2 h3 h4)))
    | refine forEach_keep _ _ _ _ ?_ (fun a u => ?_)
    | (simp_all; done)
    | (rename_i hq; split at hq)
    | simp

@[simp] theorem writeBulkData_keep (f v : Nat) (s : State) :
    Kept (writeBulkData f v s) s := by
  simp [writeBulkData]

@[simp] theorem writeBulkSel_keep (f v : Nat) (s : State) :
    Kept (writeBulkSel f v s) s := by
  simp [writeBulkSel]

@[simp] theorem mboxSend_keep (n len : Nat) (s : State) :
    Kept (mboxSend n len s) s := by
  simp [mboxSend]

@[simp] theorem mboxAck_keep (n : Nat) (s : State) :
    Kept (mboxAck n s) s := by
  simp [mboxAck]

@[simp] theorem wrMbox_keep (v : Nat) (s : State) :
    Kept (wrMbox v s) s := by
  simp [wrMbox]

theorem execMboxSend_keep (n : Fin 8) (len : BitVec 9) (s : State) {sN : State} (h : execMboxSend n len s = .next sN) :
    Kept sN s := by
  simp only [execMboxSend] at h
  injection h with h
  subst h
  simp

theorem execMboxInAck_keep (n : Fin 8) (len : BitVec 9) (s : State) {sN : State} (h : execMboxInAck n len s = .next sN) :
    Kept sN s := by
  simp only [execMboxInAck] at h
  injection h with h
  subst h
  simp

theorem execMboxOutDone_keep (n : Fin 6) (s : State) {sN : State} (h : execMboxOutDone n s = .next sN) :
    Kept sN s := by
  simp only [execMboxOutDone] at h
  injection h with h
  subst h
  split <;> simp

theorem execMbox_keep (n : Fin 6) (bytes : List Byte) (s : State) {t : State} (h : execMbox n bytes s = .next t) :
    Kept t s := by
  unfold execMbox at h
  split at h
  · cases h
  · cases h
    exact Kept.ite (Kept.refl _) (Kept.ite (rcFlag_keep ..) ((setRf_keep ..).trans (Kept.refl s)))

end Sys2Proof.Machine
end

