-- ==== Sys2Proof/Laws/KeptEngines.lean ====
section
/-!
SUPPORT. What the functions of Machine/Engines.lean leave alone: one lemma each, in the terms of Safety.lean (`Kept`, `Held`).
-/
namespace Sys2Proof.Machine

theorem execMatmul_keep (t : Fin 72) (bad : Option (Fin 65536)) (mismatch : Bool) (s : State) {sN : State} (h : execMatmul t bad mismatch s = .next sN) :
    Kept sN s := by
  simp only [execMatmul] at h
  injection h with h
  subst h
  simp

theorem execVopCopy_keep (t : Fin 72) (bad : Option (Fin 65536)) (s : State) {sN : State} (h : execVopCopy t bad s = .next sN) :
    Kept sN s := by
  simp only [execVopCopy] at h
  injection h with h
  subst h
  simp

theorem execVopAdd_keep (t : Fin 72) (bad : Option (Fin 65536)) (s : State) {sN : State} (h : execVopAdd t bad s = .next sN) :
    Kept sN s := by
  simp only [execVopAdd] at h
  injection h with h
  subst h
  simp

theorem execVopSub_keep (t : Fin 72) (bad : Option (Fin 65536)) (s : State) {sN : State} (h : execVopSub t bad s = .next sN) :
    Kept sN s := by
  simp only [execVopSub] at h
  injection h with h
  subst h
  simp

theorem execVopMul_keep (t : Fin 72) (bad : Option (Fin 65536)) (s : State) {sN : State} (h : execVopMul t bad s = .next sN) :
    Kept sN s := by
  simp only [execVopMul] at h
  injection h with h
  subst h
  simp

theorem execVopFma_keep (t : Fin 72) (bad : Option (Fin 65536)) (s : State) {sN : State} (h : execVopFma t bad s = .next sN) :
    Kept sN s := by
  simp only [execVopFma] at h
  injection h with h
  subst h
  simp

theorem execVopMax_keep (t : Fin 72) (bad : Option (Fin 65536)) (s : State) {sN : State} (h : execVopMax t bad s = .next sN) :
    Kept sN s := by
  simp only [execVopMax] at h
  injection h with h
  subst h
  simp

theorem execVopMin_keep (t : Fin 72) (bad : Option (Fin 65536)) (s : State) {sN : State} (h : execVopMin t bad s = .next sN) :
    Kept sN s := by
  simp only [execVopMin] at h
  injection h with h
  subst h
  simp

theorem execVopAbs_keep (t : Fin 72) (bad : Option (Fin 65536)) (s : State) {sN : State} (h : execVopAbs t bad s = .next sN) :
    Kept sN s := by
  simp only [execVopAbs] at h
  injection h with h
  subst h
  simp

theorem execVopNeg_keep (t : Fin 72) (bad : Option (Fin 65536)) (s : State) {sN : State} (h : execVopNeg t bad s = .next sN) :
    Kept sN s := by
  simp only [execVopNeg] at h
  injection h with h
  subst h
  simp

theorem execVopExp_keep (t : Fin 72) (bad : Option (Fin 65536)) (s : State) {sN : State} (h : execVopExp t bad s = .next sN) :
    Kept sN s := by
  simp only [execVopExp] at h
  injection h with h
  subst h
  simp

theorem execVopLog_keep (t : Fin 72) (bad : Option (Fin 65536)) (s : State) {sN : State} (h : execVopLog t bad s = .next sN) :
    Kept sN s := by
  simp only [execVopLog] at h
  injection h with h
  subst h
  simp

theorem execVopRcp_keep (t : Fin 72) (bad : Option (Fin 65536)) (s : State) {sN : State} (h : execVopRcp t bad s = .next sN) :
    Kept sN s := by
  simp only [execVopRcp] at h
  injection h with h
  subst h
  simp

theorem execVopRsqrt_keep (t : Fin 72) (bad : Option (Fin 65536)) (s : State) {sN : State} (h : execVopRsqrt t bad s = .next sN) :
    Kept sN s := by
  simp only [execVopRsqrt] at h
  injection h with h
  subst h
  simp

theorem execVopTanh_keep (t : Fin 72) (bad : Option (Fin 65536)) (s : State) {sN : State} (h : execVopTanh t bad s = .next sN) :
    Kept sN s := by
  simp only [execVopTanh] at h
  injection h with h
  subst h
  simp

theorem execVopErf_keep (t : Fin 72) (bad : Option (Fin 65536)) (s : State) {sN : State} (h : execVopErf t bad s = .next sN) :
    Kept sN s := by
  simp only [execVopErf] at h
  injection h with h
  subst h
  simp

theorem execVopCmplt_keep (t : Fin 72) (bad : Option (Fin 65536)) (s : State) {sN : State} (h : execVopCmplt t bad s = .next sN) :
    Kept sN s := by
  simp only [execVopCmplt] at h
  injection h with h
  subst h
  simp

theorem execVopCmple_keep (t : Fin 72) (bad : Option (Fin 65536)) (s : State) {sN : State} (h : execVopCmple t bad s = .next sN) :
    Kept sN s := by
  simp only [execVopCmple] at h
  injection h with h
  subst h
  simp

theorem execVopCmpeq_keep (t : Fin 72) (bad : Option (Fin 65536)) (s : State) {sN : State} (h : execVopCmpeq t bad s = .next sN) :
    Kept sN s := by
  simp only [execVopCmpeq] at h
  injection h with h
  subst h
  simp

theorem execVopSel_keep (t : Fin 72) (bad : Option (Fin 65536)) (s : State) {sN : State} (h : execVopSel t bad s = .next sN) :
    Kept sN s := by
  simp only [execVopSel] at h
  injection h with h
  subst h
  simp

theorem execVopUrand_keep (t : Fin 72) (bad : Option (Fin 65536)) (s : State) {sN : State} (h : execVopUrand t bad s = .next sN) :
    Kept sN s := by
  simp only [execVopUrand] at h
  injection h with h
  subst h
  simp

theorem execCompress_keep (t : Fin 72) (bad : Option (Fin 65536)) (s : State) {sN : State} (h : execCompress t bad s = .next sN) :
    Kept sN s := by
  simp only [execCompress] at h
  injection h with h
  subst h
  simp

theorem execExpand_keep (t : Fin 72) (bad : Option (Fin 65536)) (s : State) {sN : State} (h : execExpand t bad s = .next sN) :
    Kept sN s := by
  simp only [execExpand] at h
  injection h with h
  subst h
  simp

theorem execMxpack_keep (t : Fin 72) (bad : Option (Fin 65536)) (s : State) {sN : State} (h : execMxpack t bad s = .next sN) :
    Kept sN s := by
  simp only [execMxpack] at h
  injection h with h
  subst h
  simp

theorem execRsum_keep (t : Fin 72) (bad : Option (Fin 65536)) (s : State) {sN : State} (h : execRsum t bad s = .next sN) :
    Kept sN s := by
  simp only [execRsum] at h
  injection h with h
  subst h
  simp

theorem execRsumInclusiveScan_keep (t : Fin 72) (bad : Option (Fin 65536)) (s : State) {sN : State} (h : execRsumInclusiveScan t bad s = .next sN) :
    Kept sN s := by
  simp only [execRsumInclusiveScan] at h
  injection h with h
  subst h
  simp

theorem execRsumExclusiveScan_keep (t : Fin 72) (bad : Option (Fin 65536)) (s : State) {sN : State} (h : execRsumExclusiveScan t bad s = .next sN) :
    Kept sN s := by
  simp only [execRsumExclusiveScan] at h
  injection h with h
  subst h
  simp

theorem execRmax_keep (t : Fin 72) (bad : Option (Fin 65536)) (s : State) {sN : State} (h : execRmax t bad s = .next sN) :
    Kept sN s := by
  simp only [execRmax] at h
  injection h with h
  subst h
  simp

theorem execRmin_keep (t : Fin 72) (bad : Option (Fin 65536)) (s : State) {sN : State} (h : execRmin t bad s = .next sN) :
    Kept sN s := by
  simp only [execRmin] at h
  injection h with h
  subst h
  simp

theorem execRargmax_keep (t : Fin 72) (bad : Option (Fin 65536)) (s : State) {sN : State} (h : execRargmax t bad s = .next sN) :
    Kept sN s := by
  simp only [execRargmax] at h
  injection h with h
  subst h
  simp

theorem execRtopk_keep (t : Fin 72) (bad : Option (Fin 65536)) (s : State) {sN : State} (h : execRtopk t bad s = .next sN) :
    Kept sN s := by
  simp only [execRtopk] at h
  injection h with h
  subst h
  simp

end Sys2Proof.Machine
end

