-- ==== Sys2Proof/Laws/KeptRegisters.lean ====
section
/-!
SUPPORT. What the functions of Machine/Registers.lean leave alone: one lemma each, in the terms of Safety.lean (`Kept`, `Held`).
-/
namespace Sys2Proof.Machine

@[simp] theorem readRc_keep (f k : Nat) (fs : List FieldInfo) (s : State) :
    Kept (readRc f k fs s).2 s := by
  simp only [readRc]
  repeat' first
    | (simp [*]; done)
    | split

@[simp] theorem readKey_keep (f k : Nat) (part : Bool) (s : State) :
    Kept (readKey f k part s).2 s := by
  simp only [readKey]
  split <;> simp

@[simp] theorem readCounters_keep (f off : Nat) (s : State) :
    Kept (readCounters f off s).2 s := by
  simp only [readCounters]
  repeat' first
    | (simp [*]; done)
    | split

@[simp] theorem readReg_keep (f off : Nat) (s : State) :
    Kept (readReg f off s).2 s := by
  simp only [readReg]
  repeat' first
    | (simp [*]; done)
    | (split <;> try (first
        | (rename_i hq; have h1 := congrArg (fun p => p.2.pending) hq; have h2 := congrArg (fun p => p.2.sec) hq; have h3 := congrArg (fun p => p.2.boot.tilesAt) hq; have h4 := congrArg (fun p => p.2.boot.digest) hq; simp at h1 h2 h3 h4)
        | (rename_i hq; have h1 := congrArg (fun p => p.2.2.pending) hq; have h2 := congrArg (fun p => p.2.2.sec) hq; have h3 := congrArg (fun p => p.2.2.boot.tilesAt) hq; have h4 := congrArg (fun p => p.2.2.boot.digest) hq; simp at h1 h2 h3 h4)))
    | refine forEach_keep _ _ _ _ ?_ (fun a u => ?_)
    | (simp_all; done)
    | (rename_i hq; split at hq)
    | simp

theorem execRcRead_keep (f : Fin 128) (off : BitVec 26) (s : State) {sN : State} (h : execRcRead f off s = .next sN) :
    Kept sN s := by
  simp only [execRcRead] at h
  injection h with h
  subst h
  repeat' first
    | (simp [*]; done)
    | split

@[simp] theorem sqClear_keep (f k off : Nat) (fs : List FieldInfo) (n : Nat) (s : State) :
    Kept (sqClear f k off fs n s) s := by
  simp only [sqClear]
  split <;> simp

theorem execSqClear_keep (f : Fin 128) (off : BitVec 26) (n : BitVec 32) (s : State) {sN : State} (h : execSqClear f off n s = .next sN) :
    Kept sN s := by
  simp only [execSqClear] at h
  injection h with h
  subst h
  repeat' first
    | (simp [*]; done)
    | split

@[simp] theorem writeRsvd_keep (f off k : Nat) (fs : List FieldInfo) (v : Nat) (s : State) :
    Kept (writeRsvd f off k fs v s) s := by
  simp [writeRsvd]

@[simp] theorem putCfg_keep (k : Nat) (fs : List FieldInfo) (v : Nat) (s : State) :
    Kept (putCfg k fs v s) s := by
  simp only [putCfg]
  split <;> simp

@[simp] theorem writeFields_keep (f k : Nat) (part : Bool) (v : Nat) (s : State) :
    Kept (writeFields f k part v s) s := by
  simp [writeFields]

@[simp] theorem wrCtx_keep (f k : Nat) (v : Nat) (s : State) :
    Kept (wrCtx f k v s) s := by
  simp only [wrCtx]
  split <;> simp

@[simp] theorem wrRing_keep (f k : Nat) (part : Bool) (v : Nat) (s : State) :
    Kept (wrRing f k part v s) s := by
  simp [wrRing]

@[simp] theorem wrCnt_keep (k v : Nat) (s : State) :
    Kept (wrCnt k v s) s := by
  simp [wrCnt]

@[simp] theorem dropLatched_keep (f : Nat) (s : State) :
    Kept (dropLatched f s) s := by
  simp [dropLatched]

@[simp] theorem wrView_keep (f k m v : Nat) (s : State) :
    Kept (wrView f k m v s) s := by
  simp [wrView]

@[simp] theorem wrSmpCtrl_keep (v : Nat) (s : State) :
    Kept (wrSmpCtrl v s) s := by
  simp [wrSmpCtrl]

@[simp] theorem wrMemCtrl_keep (v : Nat) (s : State) :
    Kept (wrMemCtrl v s) s := by
  simp only [wrMemCtrl]
  refine forEach_keep _ _ _ _ (writeFields_keep ..) (fun a u => ?_)
  split <;> simp

@[simp] theorem wrHub_keep (m v : Nat) (s : State) :
    Kept (wrHub m v s) s := by
  simp [wrHub]

theorem wrSec_held (m v : Nat) (s : State) : Held (wrSec m v s) s := by
  unfold wrSec
  refine Held.ite (wrSecCtrl_held ..) (Held.ite (updSec_held _ _ rfl rfl rfl rfl) (Held.ite (wrLcCtrl_held ..)
    (Held.ite (wrGates_held ..) (Held.ite (wrGates_held ..) (Held.ite (wrSecDebug_held ..)
      (Held.ite (wrUserData_held ..) (writeFields_keep ..).held))))))

@[simp] theorem wrStkCtrl_keep (k v : Nat) (s : State) :
    Kept (wrStkCtrl k v s) s := by
  simp [wrStkCtrl]

@[simp] theorem wrSiteCtrl_keep (n v : Nat) (s : State) :
    Kept (wrSiteCtrl n v s) s := by
  simp [wrSiteCtrl]

@[simp] theorem wrUnit_keep (m v : Nat) (s : State) :
    Kept (wrUnit m v s) s := by
  simp [wrUnit]

theorem writeKey_held (f k : Nat) (part : Bool) (v : Nat) (s : State) : Held (writeKey f k part v s) s := by
  unfold writeKey
  exact Held.ite (wrCtx_keep ..).held (Held.ite (doorbell_keep ..).held (Held.ite (Held.refl _)
    (Held.ite (wrCnt_keep ..).held (Held.ite (wrView_keep ..).held (Held.ite (wrHub_keep ..).held
      (Held.ite (wrSec_held ..) (Held.ite (wrUnit_keep ..).held (Held.ite (wrRing_keep ..).held (setReg_keep ..).held))))))))

theorem checkLocked_keep (was s : State) : Kept (checkLocked was s) s :=
  forEach_keep _ _ _ _ (Kept.refl _) (fun _ _ => Kept.ite (Kept.refl _) (tdiError_keep ..))
theorem writeReg_held (f off v : Nat) (s : State) : Held (writeReg f off v s) s := by
  unfold writeReg
  refine Held.ite (Held.refl _) (Held.ite (writeMsix_keep ..).held ?_)
  cases s.locate f off with
  | none => exact Held.refl _
  | some p =>
    obtain ⟨k, part⟩ := p
    dsimp only
    refine Held.ite (sqClear_keep ..).held ((checkLocked_keep ..).held.trans ((writeKey_held ..).trans (writeRsvd_keep ..).held))

theorem execRegisterWrite_held (f : Fin 128) (off : BitVec 26) (v : BitVec 32) (s : State) {t : State}
    (h : execRegisterWrite f off v s = .next t) : Held t s := by
  unfold execRegisterWrite at h
  obtain ⟨u, hu, hk⟩ := settled_keep h
  refine hk.held.trans ?_
  injection hu with hu
  rw [← hu]
  exact Held.ite (writeReg_held ..) (Held.refl _)

theorem execBulkSelWrite_held (f : Fin 128) (v : BitVec 32) (s : State) {t : State} (h : execBulkSelWrite f v s = .next t) : Held t s := by
  unfold execBulkSelWrite at h
  cases h
  exact Held.ite (writeReg_held ..) (Held.refl _)

theorem execBulkDataAccess_held (f : Fin 128) (w : Option (BitVec 32)) (s : State) {t : State}
    (h : execBulkDataAccess f w s = .next t) : Held t s := by
  unfold execBulkDataAccess at h
  obtain ⟨u, hu, hk⟩ := settled_keep h
  refine hk.held.trans ?_
  injection hu with hu
  rw [← hu]
  refine Held.ite (Held.refl _) ?_
  cases w with
  | some v => exact writeReg_held ..
  | none =>
    dsimp only
    have hr := readReg_keep f rBulkData s
    generalize readReg f rBulkData s = r at hr
    obtain ⟨r, s1⟩ := r
    cases r with
    | none => exact Kept.held hr
    | some v => exact (emit_keep ..).held.trans (Kept.held hr)

@[simp] theorem badAccess_keep (f off : Nat) (s : State) :
    Kept (badAccess f off s) s := by
  simp [badAccess]

@[simp] theorem readRegs_keep (f : Nat) (l : List Nat) (s : State) : Kept (readRegs f l s).2 s := by
  induction l generalizing s with
  | nil => exact Kept.refl _
  | cons off l ih =>
    have hr := readReg_keep f off s
    unfold readRegs
    generalize readReg f off s = r at hr
    obtain ⟨r, s1⟩ := r
    cases r with
    | none => exact hr
    | some v =>
      dsimp only
      have hl := ih s1
      generalize readRegs f l s1 = q at hl
      obtain ⟨q, s2⟩ := q
      cases q <;> exact Kept.trans hl hr

@[simp] theorem readBar0_keep (f off n : Nat) (s : State) :
    Kept (readBar0 f off n s).2 s := by
  simp only [readBar0]
  repeat' first
    | (simp [*]; done)
    | (split <;> try (first
        | (rename_i hq; have h1 := congrArg (fun p => p.2.pending) hq; have h2 := congrArg (fun p => p.2.sec) hq; have h3 := congrArg (fun p => p.2.boot.tilesAt) hq; have h4 := congrArg (fun p => p.2.boot.digest) hq; simp at h1 h2 h3 h4)
        | (rename_i hq; have h1 := congrArg (fun p => p.2.2.pending) hq; have h2 := congrArg (fun p => p.2.2.sec) hq; have h3 := congrArg (fun p => p.2.2.boot.tilesAt) hq; have h4 := congrArg (fun p => p.2.2.boot.digest) hq; simp at h1 h2 h3 h4)))
    | refine forEach_keep _ _ _ _ ?_ (fun a u => ?_)
    | (simp_all; done)
    | (rename_i hq; split at hq)
    | simp

theorem writeBar0_held (f off : Nat) (bs : List Byte) (s : State) : Held (writeBar0 f off bs s) s := by
  unfold writeBar0
  extract_lets n words
  have hw : ∀ u, Held (words u) u := fun u => forEach_held _ _ _ _ (Held.refl _) (fun _ _ => writeReg_held ..)
  clear_value words
  exact Held.ite (Held.ite (bulkWrite_keep ..).held (badAccess_keep ..).held) (Held.ite (Held.ite (hw _) (Held.refl _))
    (Held.ite (hw _) (badAccess_keep ..).held))

@[simp] theorem hostRead_keep (t : HostTlp) (off n : Nat) (s : State) :
    Kept (hostRead t off n s) s := by
  simp only [hostRead]
  repeat' first
    | (simp [*]; done)
    | (split <;> try (first
        | (rename_i hq; have h1 := congrArg (fun p => p.2.pending) hq; have h2 := congrArg (fun p => p.2.sec) hq; have h3 := congrArg (fun p => p.2.boot.tilesAt) hq; have h4 := congrArg (fun p => p.2.boot.digest) hq; simp at h1 h2 h3 h4)
        | (rename_i hq; have h1 := congrArg (fun p => p.2.2.pending) hq; have h2 := congrArg (fun p => p.2.2.sec) hq; have h3 := congrArg (fun p => p.2.2.boot.tilesAt) hq; have h4 := congrArg (fun p => p.2.2.boot.digest) hq; simp at h1 h2 h3 h4)))
    | refine forEach_keep _ _ _ _ ?_ (fun a u => ?_)
    | (simp_all; done)
    | (rename_i hq; split at hq)
    | simp

theorem hostWrite_held (t : HostTlp) (off : Nat) (bs : List Byte) (s : State) : Held (hostWrite t off bs s) s := by
  unfold hostWrite
  exact Held.ite (logError_keep ..).held (Held.ite (writeBar0_held ..) (Held.refl _))

theorem execHostMemoryRequest_held (q : HostTlp) (bar2 : Bool) (off : BitVec 36) (len : BitVec 13) (w : Option (List Byte))
    (s : State) {t : State} (h : execHostMemoryRequest q bar2 off len w s = .next t) : Held t s := by
  unfold execHostMemoryRequest at h
  obtain ⟨u, hu, hk⟩ := settled_keep h
  refine hk.held.trans ?_
  injection hu with hu
  rw [← hu]
  have h1 := (countEvent_keep blkHost 0x72 none none none 1 s).held
  cases bar2 <;> cases w
  · exact (hostRead_keep ..).held.trans h1
  · exact (hostWrite_held ..).trans h1
  · exact (readApt_keep ..).held.trans h1
  · exact (storeApt_keep ..).held.trans h1

theorem execBulkBurstAccess_held (q : HostTlp) (o : Fin 4096) (len : BitVec 13) (w : Option (List Byte))
    (s : State) {t : State} (h : execBulkBurstAccess q o len w s = .next t) : Held t s := by
  unfold execBulkBurstAccess at h
  obtain ⟨u, hu, hk⟩ := settled_keep h
  refine hk.held.trans ?_
  injection hu with hu
  rw [← hu]
  have h1 := (countEvent_keep blkHost 0x72 none none none 1 s).held
  cases w
  · exact (hostRead_keep ..).held.trans h1
  · exact (hostWrite_held ..).trans h1

theorem execRegisterStallTimeout_keep (t : HostTlp) (off : BitVec 26) (write : Bool) (s : State) {sN : State} (h : execRegisterStallTimeout t off write s = .next sN) :
    Kept sN s := by
  simp only [execRegisterStallTimeout] at h
  injection h with h
  subst h
  simp

end Sys2Proof.Machine
end

