-- ==== Sys2Proof/Laws/KeptPins.lean ====
section
/-!
SUPPORT. What the functions of Machine/Pins.lean leave alone: one lemma each, in the terms of Safety.lean (`Kept`, `Held`).
-/
namespace Sys2Proof.Machine

@[simp] theorem tapTake_keep (i : TapInstr) (v : Nat) (s : State) :
    Kept (tapTake i v s) s := by
  simp [tapTake]

@[simp] theorem tapOpen_keep (i : TapInstr) (s : State) :
    Kept (tapOpen i s) s := by
  simp [tapOpen]

theorem execTapInstruction_held (i : TapInstr) (s : State) {t : State} (h : execTapInstruction i s = .next t) : Held t s := by
  unfold execTapInstruction at h
  cases h
  cases i with
  | idcode => exact (tapTake_keep ..).held
  | bypass => exact (tapTake_keep ..).held
  | samplePreload => exact (tapOpen_keep ..).held
  | extest => exact Held.ite (tapOpen_keep ..).held (Held.refl _)
  | gate g on => exact (tapTake_keep ..).held.trans (Held.ite (openGate_held ..) (closeGate_keep ..).held)
  | other c => exact Held.ite (Held.refl _) (tapOpen_keep ..).held

theorem execSetdasa_keep (static dynamic : BitVec 7) (s : State) {sN : State} (h : execSetdasa static dynamic s = .next sN) :
    Kept sN s := by
  simp only [execSetdasa] at h
  injection h with h
  subst h
  simp

theorem execEntdaa_keep (won : Bool) (dynamic : BitVec 7) (s : State) {sN : State} (h : execEntdaa won dynamic s = .next sN) :
    Kept sN s := by
  simp only [execEntdaa] at h
  injection h with h
  subst h
  simp

theorem execI3cRead_keep (addr : BitVec 7) (index : BitVec 8) (s : State) {sN : State} (h : execI3cRead addr index s = .next sN) :
    Kept sN s := by
  simp only [execI3cRead] at h
  injection h with h
  subst h
  repeat' first
    | (simp [*]; done)
    | split

end Sys2Proof.Machine
end

