-- ==== Sys2Proof/Laws/KeptTileCore.lean ====
section
/-!
SUPPORT. What the functions of Machine/TileCore.lean leave alone: one lemma each, in the terms of Safety.lean (`Kept`, `Held`).
-/
namespace Sys2Proof.Machine

@[simp] theorem fillLine_keep (t va : Nat) (s : State) :
    Kept (fillLine t va s) s := by
  simp only [fillLine]
  repeat' first
    | (simp [*]; done)
    | (split <;> try (first
        | (rename_i hq; have h1 := congrArg (fun p => p.2.pending) hq; have h2 := congrArg (fun p => p.2.sec) hq; have h3 := congrArg (fun p => p.2.boot.tilesAt) hq; have h4 := congrArg (fun p => p.2.boot.digest) hq; simp at h1 h2 h3 h4)
        | (rename_i hq; have h1 := congrArg (fun p => p.2.2.pending) hq; have h2 := congrArg (fun p => p.2.2.sec) hq; have h3 := congrArg (fun p => p.2.2.boot.tilesAt) hq; have h4 := congrArg (fun p => p.2.2.boot.digest) hq; simp at h1 h2 h3 h4)))
    | refine forEach_keep _ _ _ _ ?_ (fun a u => ?_)
    | (simp_all; done)
    | (rename_i hq; split at hq)
    | simp

@[simp] theorem fetchAt_keep (t va : Nat) (s : State) :
    Kept (fetchAt t va s) s := by
  simp [fetchAt]

@[simp] theorem userFetch_keep (t : Nat) (s : State) :
    Kept (userFetch t s) s := by
  simp only [userFetch]
  repeat' first
    | (simp [*]; done)
    | split

@[simp] theorem machineFetch_keep (t : Nat) (s : State) :
    Kept (machineFetch t s) s := by
  simp only [machineFetch]
  repeat' first
    | (simp [*]; done)
    | split

theorem execInstructionFetch_keep (t : Fin 72) (s : State) {sN : State} (h : execInstructionFetch t s = .next sN) :
    Kept sN s := by
  simp only [execInstructionFetch] at h
  injection h with h
  subst h
  repeat' first
    | (simp [*]; done)
    | split

theorem execAluInstruction_keep (t : Fin 72) (s : State) {sN : State} (h : execAluInstruction t s = .next sN) :
    Kept sN s := by
  simp only [execAluInstruction] at h
  injection h with h
  subst h
  repeat' first
    | (simp [*]; done)
    | split

theorem execLoad_keep (t : Fin 72) (ue : Bool) (s : State) {sN : State} (h : execLoad t ue s = .next sN) :
    Kept sN s := by
  simp only [execLoad] at h
  injection h with h
  subst h
  repeat' first
    | (simp [*]; done)
    | split

theorem execStore_keep (t : Fin 72) (s : State) {sN : State} (h : execStore t s = .next sN) :
    Kept sN s := by
  simp only [execStore] at h
  injection h with h
  subst h
  repeat' first
    | (simp [*]; done)
    | split

theorem execAmo_keep (t : Fin 72) (ue : Bool) (s : State) {sN : State} (h : execAmo t ue s = .next sN) :
    Kept sN s := by
  simp only [execAmo] at h
  injection h with h
  subst h
  repeat' first
    | (simp [*]; done)
    | split

theorem execFenceI_keep (t : Fin 72) (s : State) {sN : State} (h : execFenceI t s = .next sN) :
    Kept sN s := by
  simp only [execFenceI] at h
  injection h with h
  subst h
  split <;> simp

theorem execEbreak_keep (t : Fin 72) (s : State) {sN : State} (h : execEbreak t s = .next sN) :
    Kept sN s := by
  simp only [execEbreak] at h
  injection h with h
  subst h
  split <;> simp

theorem execWfi_keep (t : Fin 72) (s : State) {sN : State} (h : execWfi t s = .next sN) :
    Kept sN s := by
  simp only [execWfi] at h
  injection h with h
  subst h
  split <;> simp

theorem execCsrAccess_keep (t : Fin 72) (s : State) {sN : State} (h : execCsrAccess t s = .next sN) :
    Kept sN s := by
  simp only [execCsrAccess] at h
  injection h with h
  subst h
  repeat' first
    | (simp [*]; done)
    | split

theorem execTaskEnd_keep (t : Fin 72) (s : State) {sN : State} (h : execTaskEnd t s = .next sN) :
    Kept sN s := by
  simp only [execTaskEnd] at h
  injection h with h
  subst h
  split <;> simp

theorem execTaskFail_keep (t : Fin 72) (s : State) {sN : State} (h : execTaskFail t s = .next sN) :
    Kept sN s := by
  simp only [execTaskFail] at h
  injection h with h
  subst h
  split <;> simp

theorem execTrace_keep (t : Fin 72) (s : State) {sN : State} (h : execTrace t s = .next sN) :
    Kept sN s := by
  simp only [execTrace] at h
  injection h with h
  subst h
  split <;> simp

theorem execIllegalEcall_keep (t : Fin 72) (s : State) {sN : State} (h : execIllegalEcall t s = .next sN) :
    Kept sN s := by
  simp only [execIllegalEcall] at h
  injection h with h
  subst h
  repeat' first
    | (simp [*]; done)
    | split

theorem execXkWait_keep (t : Fin 72) (s : State) {sN : State} (h : execXkWait t s = .next sN) :
    Kept sN s := by
  simp only [execXkWait] at h
  injection h with h
  subst h
  split <;> simp

theorem execXkTest_keep (t : Fin 72) (s : State) {sN : State} (h : execXkTest t s = .next sN) :
    Kept sN s := by
  simp only [execXkTest] at h
  injection h with h
  subst h
  split <;> simp

theorem execXkQfence_keep (t : Fin 72) (s : State) {sN : State} (h : execXkQfence t s = .next sN) :
    Kept sN s := by
  simp only [execXkQfence] at h
  injection h with h
  subst h
  split <;> simp

theorem execXkBput_keep (t : Fin 72) (s : State) {sN : State} (h : execXkBput t s = .next sN) :
    Kept sN s := by
  simp only [execXkBput] at h
  injection h with h
  subst h
  split <;> simp

theorem execXkBget_keep (t : Fin 72) (s : State) {sN : State} (h : execXkBget t s = .next sN) :
    Kept sN s := by
  simp only [execXkBget] at h
  injection h with h
  subst h
  split <;> simp

theorem execXkBar_keep (t : Fin 72) (s : State) {sN : State} (h : execXkBar t s = .next sN) :
    Kept sN s := by
  simp only [execXkBar] at h
  injection h with h
  subst h
  split <;> simp

theorem execBarrierRelease_keep (id : Nat) (b : Fin 4) (s : State) {sN : State} (h : execBarrierRelease id b s = .next sN) :
    Kept sN s := by
  simp only [execBarrierRelease] at h
  injection h with h
  subst h
  split <;> simp

end Sys2Proof.Machine
end

