-- ==== Sys2Proof/Laws/Table.lean ====
section
/-!
SUPPORT. Laws of the sparse tables, of byte memories in canonical form (read after write, every other byte unchanged,
every operation keeps the form), of bit fields, vectors and `forEach`.
-/
namespace Sys2Proof

/-! ### Tables -/

@[simp] theorem Table.find?_set_self {α : Type} (t : Table α) (k : Nat) (v : α) :
    Table.find? (Table.set t k v) k = some v := by
  induction t with
  | nil => simp [Table.set, Table.find?]
  | cons e t ih =>
    obtain ⟨j, w⟩ := e
    unfold Table.set
    split
    · simp [Table.find?]
    · split
      · simp [Table.find?]
      · rename_i h1 h2
        simp only [Table.find?]
        rw [if_neg (Ne.symm h2), if_neg h1]
        exact ih

theorem Table.find?_set_ne {α : Type} (t : Table α) {k j : Nat} (v : α) (h : j ≠ k) :
    Table.find? (Table.set t k v) j = Table.find? t j := by
  induction t with
  | nil =>
    simp only [Table.set, Table.find?]
    rw [if_neg (Ne.symm h)]
    split <;> rfl
  | cons e t ih =>
    obtain ⟨i, w⟩ := e
    unfold Table.set
    split
    · rename_i h1
      simp only [Table.find?]
      rw [if_neg (Ne.symm h)]
      by_cases h2 : j < k
      · rw [if_pos h2, if_neg (by omega), if_pos (by omega)]
      · rw [if_neg h2]
    · split
      · rename_i h1 h2
        subst h2
        simp only [Table.find?]
        rw [if_neg (Ne.symm h), if_neg (Ne.symm h)]
      · simp only [Table.find?]
        rw [ih]

@[simp] theorem Table.get_set_self {α : Type} (d : α) (t : Table α) (k : Nat) (v : α) :
    Table.get d (Table.set t k v) k = v := by
  simp [Table.get]

theorem Table.get_set_ne {α : Type} (d : α) (t : Table α) {k j : Nat} (v : α) (h : j ≠ k) :
    Table.get d (Table.set t k v) j = Table.get d t j := by
  simp [Table.get, Table.find?_set_ne t v h]

theorem Table.get_set {α : Type} (d : α) (t : Table α) (k j : Nat) (v : α) :
    Table.get d (Table.set t k v) j = if j = k then v else Table.get d t j := by
  by_cases h : j = k
  · subst h
    simp
  · rw [if_neg h, Table.get_set_ne d t v h]

@[simp] theorem Table.get_nil {α : Type} (d : α) (k : Nat) : Table.get d ([] : Table α) k = d := rfl

theorem Table.wfFrom_mono {α : Type} (t : Table α) {a b : Nat} (h : a ≤ b) (ht : Table.wfFrom b t = true) :
    Table.wfFrom a t = true := by
  cases t with
  | nil => rfl
  | cons e t =>
    obtain ⟨j, w⟩ := e
    simp only [Table.wfFrom, Bool.and_eq_true, decide_eq_true_eq] at *
    exact ⟨by omega, ht.2⟩

theorem Table.wfFrom_set {α : Type} (t : Table α) (k : Nat) (v : α) {lo : Nat} (hk : lo ≤ k)
    (ht : Table.wfFrom lo t = true) : Table.wfFrom lo (Table.set t k v) = true := by
  induction t generalizing lo with
  | nil => simpa [Table.set, Table.wfFrom] using hk
  | cons e t ih =>
    obtain ⟨j, w⟩ := e
    simp only [Table.wfFrom, Bool.and_eq_true, decide_eq_true_eq] at ht
    unfold Table.set
    split
    · simp only [Table.wfFrom, Bool.and_eq_true, decide_eq_true_eq]
      exact ⟨hk, by omega, ht.2⟩
    · split
      · rename_i h2
        subst h2
        simp only [Table.wfFrom, Bool.and_eq_true, decide_eq_true_eq]
        exact ht
      · simp only [Table.wfFrom, Bool.and_eq_true, decide_eq_true_eq]
        exact ⟨ht.1, ih (by omega) ht.2⟩

/-- Setting an entry keeps the canonical form. -/
theorem Table.wf_set {α : Type} (t : Table α) (k : Nat) (v : α) (ht : Table.wf t = true) :
    Table.wf (Table.set t k v) = true := Table.wfFrom_set t k v (Nat.zero_le _) ht

theorem Table.wfFrom_erase {α : Type} (t : Table α) (k : Nat) {lo : Nat} (ht : Table.wfFrom lo t = true) :
    Table.wfFrom lo (Table.erase t k) = true := by
  induction t generalizing lo with
  | nil => rfl
  | cons e t ih =>
    obtain ⟨j, w⟩ := e
    have h := ht
    simp only [Table.wfFrom, Bool.and_eq_true, decide_eq_true_eq] at h
    unfold Table.erase
    split
    · exact ht
    · split
      · exact Table.wfFrom_mono t (by omega) h.2
      · simp only [Table.wfFrom, Bool.and_eq_true, decide_eq_true_eq]
        exact ⟨h.1, ih h.2⟩

/-- Erasing an entry keeps the canonical form. -/
theorem Table.wf_erase {α : Type} (t : Table α) (k : Nat) (ht : Table.wf t = true) :
    Table.wf (Table.erase t k) = true := Table.wfFrom_erase t k ht

theorem Table.wfFrom_filter {α : Type} (t : Table α) (p : Nat × α → Bool) {lo : Nat} (ht : Table.wfFrom lo t = true) :
    Table.wfFrom lo (t.filter p) = true := by
  induction t generalizing lo with
  | nil => rfl
  | cons e t ih =>
    obtain ⟨j, w⟩ := e
    simp only [Table.wfFrom, Bool.and_eq_true, decide_eq_true_eq] at ht
    rw [List.filter_cons]
    split
    · simp only [Table.wfFrom, Bool.and_eq_true, decide_eq_true_eq]
      exact ⟨ht.1, ih ht.2⟩
    · exact Table.wfFrom_mono _ (by omega) (ih ht.2)

/-- Below its lowest key a table lists nothing. -/
theorem Table.find?_below {α : Type} (t : Table α) {lo k : Nat} (ht : Table.wfFrom lo t = true) (h : k < lo) :
    Table.find? t k = none := by
  cases t with
  | nil => rfl
  | cons e t =>
    obtain ⟨j, w⟩ := e
    simp only [Table.wfFrom, Bool.and_eq_true, decide_eq_true_eq] at ht
    simp only [Table.find?]
    rw [if_neg (by omega), if_pos (by omega)]

theorem Table.find?_erase_from {α : Type} (t : Table α) (k j : Nat) {lo : Nat} (ht : Table.wfFrom lo t = true) :
    Table.find? (Table.erase t k) j = if j = k then none else Table.find? t j := by
  induction t generalizing lo with
  | nil => simp [Table.erase, Table.find?]
  | cons e t ih =>
    obtain ⟨i, w⟩ := e
    simp only [Table.wfFrom, Bool.and_eq_true, decide_eq_true_eq] at ht
    unfold Table.erase
    split
    · simp only [Table.find?]
      by_cases hj : j = k
      · subst hj
        rw [if_neg (by omega), if_pos (by omega), if_pos rfl]
      · rw [if_neg hj]
    · split
      · rename_i h1 h2
        subst h2
        by_cases hj : j = k
        · subst hj
          rw [if_pos rfl, Table.find?_below t ht.2 (by omega)]
        · rw [if_neg hj]
          simp only [Table.find?]
          rw [if_neg (Ne.symm hj)]
          by_cases hlt : j < k
          · rw [if_pos hlt, Table.find?_below t ht.2 (by omega)]
          · rw [if_neg hlt]
      · rename_i h1 h2
        simp only [Table.find?]
        rw [ih ht.2]
        by_cases hj : j = k
        · subst hj
          rw [if_neg (by omega), if_neg (by omega), if_pos rfl, if_pos rfl]
        · rw [if_neg hj, if_neg hj]

/-- What a table in canonical form lists once an entry has been erased. -/
theorem Table.find?_erase {α : Type} (t : Table α) (k j : Nat) (ht : Table.wf t = true) :
    Table.find? (Table.erase t k) j = if j = k then none else Table.find? t j := Table.find?_erase_from t k j ht

/-! ### Memories -/

theorem Mem.noEmpty_set (m : Mem) (a : Nat) (b : Byte) (hb : b ≠ Mem.empty) (hm : Mem.noEmpty m = true) :
    Mem.noEmpty (Table.set m a b) = true := by
  induction m with
  | nil => simpa [Table.set, Mem.noEmpty] using hb
  | cons e m ih =>
    obtain ⟨j, w⟩ := e
    have h := hm
    simp only [Mem.noEmpty, Bool.and_eq_true, decide_eq_true_eq] at h
    unfold Table.set
    split
    · simp only [Mem.noEmpty, Bool.and_eq_true, decide_eq_true_eq]
      exact ⟨hb, h⟩
    · split
      · simp only [Mem.noEmpty, Bool.and_eq_true, decide_eq_true_eq]
        exact ⟨hb, h.2⟩
      · simp only [Mem.noEmpty, Bool.and_eq_true, decide_eq_true_eq]
        exact ⟨h.1, ih h.2⟩

theorem Mem.noEmpty_erase (m : Mem) (a : Nat) (hm : Mem.noEmpty m = true) : Mem.noEmpty (Table.erase m a) = true := by
  induction m with
  | nil => rfl
  | cons e m ih =>
    obtain ⟨j, w⟩ := e
    have h := hm
    simp only [Mem.noEmpty, Bool.and_eq_true, decide_eq_true_eq] at h
    unfold Table.erase
    split
    · exact hm
    · split
      · exact h.2
      · simp only [Mem.noEmpty, Bool.and_eq_true, decide_eq_true_eq]
        exact ⟨h.1, ih h.2⟩

theorem Mem.noEmpty_filter (m : Mem) (p : Nat × Byte → Bool) (hm : Mem.noEmpty m = true) :
    Mem.noEmpty (m.filter p) = true := by
  induction m with
  | nil => rfl
  | cons e m ih =>
    simp only [Mem.noEmpty, Bool.and_eq_true] at hm
    rw [List.filter_cons]
    split
    · simp only [Mem.noEmpty, Bool.and_eq_true]
      exact ⟨hm.1, ih hm.2⟩
    · exact ih hm.2

/-- A write keeps the canonical form. -/
theorem Mem.wf_write (m : Mem) (a : Nat) (b : Byte) (hm : Mem.wf m = true) : Mem.wf (Mem.write m a b) = true := by
  simp only [Mem.wf, Bool.and_eq_true] at *
  unfold Mem.write
  split
  · exact ⟨Table.wf_erase m a hm.1, Mem.noEmpty_erase m a hm.2⟩
  · rename_i hb
    exact ⟨Table.wf_set m a b hm.1, Mem.noEmpty_set m a b hb hm.2⟩

/-- Dropping entries keeps the canonical form. -/
theorem Mem.wf_filter (m : Mem) (p : Nat × Byte → Bool) (hm : Mem.wf m = true) : Mem.wf (m.filter p) = true := by
  simp only [Mem.wf, Bool.and_eq_true] at *
  exact ⟨Table.wfFrom_filter m p hm.1, Mem.noEmpty_filter m p hm.2⟩

theorem Mem.wf_writeBytes (bs : List Byte) (m : Mem) (a : Nat) (hm : Mem.wf m = true) :
    Mem.wf (Mem.writeBytes m a bs) = true := by
  induction bs generalizing m a with
  | nil => exact hm
  | cons b bs ih => exact ih _ _ (Mem.wf_write m a b hm)

theorem Mem.wf_writeMasked (bs : List Byte) (m : Mem) (a mask : Nat) (hm : Mem.wf m = true) :
    Mem.wf (Mem.writeMasked m a mask bs) = true := by
  induction bs generalizing m a mask with
  | nil => exact hm
  | cons b bs ih =>
    refine ih _ _ _ ?_
    split
    · exact Mem.wf_write m a b hm
    · exact hm

theorem Mem.wf_writeNat (m : Mem) (a n v : Nat) (hm : Mem.wf m = true) : Mem.wf (Mem.writeNat m a n v) = true :=
  Mem.wf_writeBytes _ _ _ hm

/-- A byte read after a byte written, in a memory in canonical form. -/
theorem Mem.read_write (m : Mem) (a x : Nat) (b : Byte) (hm : Mem.wf m = true) :
    Mem.read (Mem.write m a b) x = if x = a then b else Mem.read m x := by
  simp only [Mem.wf, Bool.and_eq_true] at hm
  unfold Mem.write Mem.read
  split
  · rename_i hb
    simp only [Table.get]
    rw [Table.find?_erase m a x hm.1]
    split
    · rw [hb]
      rfl
    · rfl
  · rw [Table.get_set]

/-- Bytes outside those written read as before. -/
theorem Mem.read_writeBytes_outside (bs : List Byte) (m : Mem) (a x : Nat) (hm : Mem.wf m = true)
    (hx : x < a ∨ a + bs.length ≤ x) : Mem.read (Mem.writeBytes m a bs) x = Mem.read m x := by
  induction bs generalizing m a with
  | nil => rfl
  | cons b bs ih =>
    simp only [List.length_cons] at hx
    simp only [Mem.writeBytes]
    rw [ih _ _ (Mem.wf_write m a b hm) (by omega), Mem.read_write m a x b hm, if_neg (by omega)]

/-- A byte within those written reads as the byte written there. -/
theorem Mem.read_writeBytes_inside (bs : List Byte) (m : Mem) (a i : Nat) (hm : Mem.wf m = true) (hi : i < bs.length) :
    Mem.read (Mem.writeBytes m a bs) (a + i) = bs[i] := by
  induction bs generalizing m a i with
  | nil => simp at hi
  | cons b bs ih =>
    simp only [Mem.writeBytes]
    cases i with
    | zero =>
      rw [Mem.read_writeBytes_outside bs _ (a + 1) (a + 0) (Mem.wf_write m a b hm) (by omega), Mem.read_write m a _ b hm]
      simp
    | succ i =>
      have h := ih (Mem.write m a b) (a + 1) i (Mem.wf_write m a b hm) (by simpa using hi)
      rw [show a + (i + 1) = a + 1 + i by omega, h]
      rfl

/-- Bytes outside those of a masked write read as before. -/
theorem Mem.read_writeMasked_outside (bs : List Byte) (m : Mem) (a mask x : Nat) (hm : Mem.wf m = true)
    (hx : x < a ∨ a + bs.length ≤ x) : Mem.read (Mem.writeMasked m a mask bs) x = Mem.read m x := by
  induction bs generalizing m a mask with
  | nil => rfl
  | cons b bs ih =>
    simp only [List.length_cons] at hx
    simp only [Mem.writeMasked]
    split
    · rw [ih _ _ _ (Mem.wf_write m a b hm) (by omega), Mem.read_write m a x b hm, if_neg (by omega)]
    · exact ih _ _ _ hm (by omega)

@[simp] theorem Mem.length_readBytes (m : Mem) (a n : Nat) : (Mem.readBytes m a n).length = n := by
  induction n generalizing a with
  | zero => rfl
  | succ n ih => simp [Mem.readBytes, ih]

@[simp] theorem length_natToBytes (n v : Nat) : (natToBytes n v).length = n := by
  induction n generalizing v with
  | zero => rfl
  | succ n ih => simp [natToBytes, ih]

/-- The value of the `n` low bytes. -/
theorem bytesToNat_natToBytes (n v : Nat) : bytesToNat (natToBytes n v) = v % 256 ^ n := by
  induction n generalizing v with
  | zero => simp [natToBytes, bytesToNat, Nat.mod_one]
  | succ n ih =>
    simp only [natToBytes, bytesToNat]
    rw [ih, BitVec.toNat_ofNat, show (256 : Nat) ^ (n + 1) = 256 * 256 ^ n from Nat.pow_succ', Nat.mod_mul]

/-! ### Bit fields -/

theorem testBit_bits (v hi lo i : Nat) :
    (bits v hi lo).testBit i = (decide (i < hi + 1 - lo) && v.testBit (i + lo)) := by
  simp [bits, Nat.testBit_mod_two_pow, Nat.testBit_div_two_pow]

theorem bit_eq_testBit (v i : Nat) : bit v i = v.testBit i := by
  simp [bit, Nat.testBit_eq_decide_div_mod_eq]

/-- Bit `i` of a word with a field set. -/
theorem testBit_setBits (v hi lo x i : Nat) :
    (setBits v hi lo x).testBit i =
      if lo ≤ i ∧ i < lo + (hi + 1 - lo) then x.testBit (i - lo) else v.testBit i := by
  unfold setBits bits
  generalize hw : hi + 1 - lo = w
  have hp : 0 < 2 ^ lo := Nat.two_pow_pos lo
  have e1 : v = v / 2 ^ lo / 2 ^ w * 2 ^ w * 2 ^ lo + v / 2 ^ lo % 2 ^ w * 2 ^ lo + v % 2 ^ lo := by
    have h1 := Nat.div_add_mod v (2 ^ lo)
    have h2 := Nat.div_add_mod (v / 2 ^ lo) (2 ^ w)
    have h3 : (v / 2 ^ lo / 2 ^ w * 2 ^ w + v / 2 ^ lo % 2 ^ w) * 2 ^ lo = v / 2 ^ lo * 2 ^ lo := by
      rw [Nat.mul_comm (v / 2 ^ lo / 2 ^ w), h2]
    rw [Nat.add_mul] at h3
    rw [h3, Nat.mul_comm, h1]
  have e2 : v - v / 2 ^ lo % 2 ^ w * 2 ^ lo + x % 2 ^ w * 2 ^ lo =
      2 ^ lo * (2 ^ w * (v / 2 ^ lo / 2 ^ w) + x % 2 ^ w) + v % 2 ^ lo := by
    have h4 : v - v / 2 ^ lo % 2 ^ w * 2 ^ lo = v / 2 ^ lo / 2 ^ w * 2 ^ w * 2 ^ lo + v % 2 ^ lo := by omega
    rw [h4, Nat.mul_add, Nat.mul_comm (v / 2 ^ lo / 2 ^ w) (2 ^ w), Nat.mul_comm (2 ^ w * _) (2 ^ lo),
      Nat.mul_comm (x % 2 ^ w) (2 ^ lo)]
    omega
  rw [e2, Nat.testBit_two_pow_mul_add _ (Nat.mod_lt _ hp)]
  by_cases h1 : i < lo
  · rw [if_pos h1, if_neg (by omega), Nat.testBit_mod_two_pow]
    simp [h1]
  · rw [if_neg h1, Nat.testBit_two_pow_mul_add _ (Nat.mod_lt _ (Nat.two_pow_pos w))]
    by_cases h2 : i - lo < w
    · rw [if_pos h2, if_pos (by omega), Nat.testBit_mod_two_pow]
      simp [h2]
    · rw [if_neg h2, if_neg (by omega), Nat.testBit_div_two_pow, Nat.testBit_div_two_pow]
      congr 1
      omega

/-- A field reads as what was set in it. -/
theorem bits_setBits_self (v hi lo x : Nat) : bits (setBits v hi lo x) hi lo = x % 2 ^ (hi + 1 - lo) := by
  apply Nat.eq_of_testBit_eq
  intro i
  rw [testBit_bits, testBit_setBits, Nat.testBit_mod_two_pow]
  by_cases h : i < hi + 1 - lo
  · rw [if_pos (by omega)]
    simp
  · simp [h]

/-- A field apart from the one set reads as before. -/
theorem bits_setBits_apart (v hi lo x hi2 lo2 : Nat) (h : hi2 < lo ∨ hi < lo2) (h2 : lo ≤ hi + 1) :
    bits (setBits v hi lo x) hi2 lo2 = bits v hi2 lo2 := by
  apply Nat.eq_of_testBit_eq
  intro i
  rw [testBit_bits, testBit_bits, testBit_setBits]
  by_cases h3 : i < hi2 + 1 - lo2
  · rw [if_neg (by omega)]
  · simp [h3]

theorem bit_setBits_apart (v hi lo x b : Nat) (h : b < lo ∨ hi < b) (h2 : lo ≤ hi + 1) :
    bit (setBits v hi lo x) b = bit v b := by
  rw [bit_eq_testBit, bit_eq_testBit, testBit_setBits, if_neg (by omega)]

theorem bit_setBits_self (v b x : Nat) : bit (setBits v b b x) b = bit x 0 := by
  rw [bit_eq_testBit, bit_eq_testBit, testBit_setBits, if_pos (by omega)]
  simp

/-- A word of `w` bits stays one when a field within it is set. -/
theorem setBits_lt (v hi lo x w : Nat) (hv : v < 2 ^ w) (hw : lo + (hi + 1 - lo) ≤ w) : setBits v hi lo x < 2 ^ w := by
  apply Nat.lt_pow_two_of_testBit
  intro i hi'
  rw [testBit_setBits, if_neg (by omega)]
  exact Nat.testBit_lt_two_pow (Nat.lt_of_lt_of_le hv (Nat.pow_le_pow_right (by omega) hi'))

theorem bits_lt (v hi lo : Nat) : bits v hi lo < 2 ^ (hi + 1 - lo) := Nat.mod_lt _ (Nat.two_pow_pos _)

theorem bit_b2n (b : Bool) : bit (b2n b) 0 = b := by cases b <;> rfl

/-! ### Vectors and repetition -/

theorem vget_vupd {α : Type} {n : Nat} (d : α) (v : Vector α n) (i j : Nat) (f : α → α) :
    vget d (vupd d v i f) j = if j = i ∧ i < n then f (vget d v i) else vget d v j := by
  unfold vget vupd
  rw [Vector.getElem?_setIfInBounds]
  by_cases h : i = j
  · subst h
    by_cases hn : i < n
    · simp [hn, vget]
    · simp [hn]
  · rw [if_neg h, if_neg (fun k => h k.1.symm)]

@[simp] theorem vget_replicate {α : Type} (n i : Nat) (d : α) : vget d (Vector.replicate n d) i = d := by
  unfold vget
  rw [Vector.getElem?_replicate]
  split <;> rfl

@[simp] theorem forEach_nil {α β : Type} (f : α → β → β) (b : β) : forEach [] f b = b := rfl
@[simp] theorem forEach_cons {α β : Type} (a : α) (l : List α) (f : α → β → β) (b : β) :
    forEach (a :: l) f b = forEach l f (f a b) := rfl

/-- What every repetition keeps, the whole loop keeps. -/
theorem forEach_induct {α β : Type} (P : β → Prop) (l : List α) (f : α → β → β) (b : β) (hb : P b)
    (h : ∀ a b, P b → P (f a b)) : P (forEach l f b) := by
  induction l generalizing b with
  | nil => exact hb
  | cons a l ih => exact ih _ (h a b hb)

end Sys2Proof
end

