-- ==== Sys2Proof/Laws/State.lean ====
section
/-!
SUPPORT. One lemma per field of State and named update of it, and what the accessors of units, registers and fields
read after an update.
-/
namespace Sys2Proof.Machine

@[simp] theorem updTile_pending (t : Nat) (f : Tile → Tile) (s : State) : (updTile t f s).pending = s.pending := rfl
@[simp] theorem updTile_regs (t : Nat) (f : Tile → Tile) (s : State) : (updTile t f s).regs = s.regs := rfl
@[simp] theorem updTile_clusters (t : Nat) (f : Tile → Tile) (s : State) : (updTile t f s).clusters = s.clusters := rfl
@[simp] theorem updTile_ctxs (t : Nat) (f : Tile → Tile) (s : State) : (updTile t f s).ctxs = s.ctxs := rfl
@[simp] theorem updTile_rings (t : Nat) (f : Tile → Tile) (s : State) : (updTile t f s).rings = s.rings := rfl
@[simp] theorem updTile_lives (t : Nat) (f : Tile → Tile) (s : State) : (updTile t f s).lives = s.lives := rfl
@[simp] theorem updTile_nextLive (t : Nat) (f : Tile → Tile) (s : State) : (updTile t f s).nextLive = s.nextLive := rfl
@[simp] theorem updTile_xlt (t : Nat) (f : Tile → Tile) (s : State) : (updTile t f s).xlt = s.xlt := rfl
@[simp] theorem updTile_stacks (t : Nat) (f : Tile → Tile) (s : State) : (updTile t f s).stks = s.stks := rfl
@[simp] theorem updTile_dram (t : Nat) (f : Tile → Tile) (s : State) : (updTile t f s).dram = s.dram := rfl
@[simp] theorem updTile_plz (t : Nat) (f : Tile → Tile) (s : State) : (updTile t f s).plz = s.plz := rfl
@[simp] theorem updTile_sites (t : Nat) (f : Tile → Tile) (s : State) : (updTile t f s).sites = s.sites := rfl
@[simp] theorem updTile_net (t : Nat) (f : Tile → Tile) (s : State) : (updTile t f s).net = s.net := rfl
@[simp] theorem updTile_fab (t : Nat) (f : Tile → Tile) (s : State) : (updTile t f s).fab = s.fab := rfl
@[simp] theorem updTile_host (t : Nat) (f : Tile → Tile) (s : State) : (updTile t f s).host = s.host := rfl
@[simp] theorem updTile_boot (t : Nat) (f : Tile → Tile) (s : State) : (updTile t f s).boot = s.boot := rfl
@[simp] theorem updTile_sec (t : Nat) (f : Tile → Tile) (s : State) : (updTile t f s).sec = s.sec := rfl
@[simp] theorem updTile_pwr (t : Nat) (f : Tile → Tile) (s : State) : (updTile t f s).pwr = s.pwr := rfl
@[simp] theorem updTile_cnt (t : Nat) (f : Tile → Tile) (s : State) : (updTile t f s).cnt = s.cnt := rfl
@[simp] theorem updTile_mbox (t : Nat) (f : Tile → Tile) (s : State) : (updTile t f s).mbox = s.mbox := rfl
@[simp] theorem updTile_pins (t : Nat) (f : Tile → Tile) (s : State) : (updTile t f s).pins = s.pins := rfl
@[simp] theorem updTile_out (t : Nat) (f : Tile → Tile) (s : State) : (updTile t f s).out = s.out := rfl
@[simp] theorem updTile_free (t : Nat) (f : Tile → Tile) (s : State) : (updTile t f s).free = s.free := rfl

@[simp] theorem updCluster_pending (c : Nat) (f : Cluster → Cluster) (s : State) : (updCluster c f s).pending = s.pending := rfl
@[simp] theorem updCluster_regs (c : Nat) (f : Cluster → Cluster) (s : State) : (updCluster c f s).regs = s.regs := rfl
@[simp] theorem updCluster_tiles (c : Nat) (f : Cluster → Cluster) (s : State) : (updCluster c f s).tiles = s.tiles := rfl
@[simp] theorem updCluster_ctxs (c : Nat) (f : Cluster → Cluster) (s : State) : (updCluster c f s).ctxs = s.ctxs := rfl
@[simp] theorem updCluster_rings (c : Nat) (f : Cluster → Cluster) (s : State) : (updCluster c f s).rings = s.rings := rfl
@[simp] theorem updCluster_lives (c : Nat) (f : Cluster → Cluster) (s : State) : (updCluster c f s).lives = s.lives := rfl
@[simp] theorem updCluster_nextLive (c : Nat) (f : Cluster → Cluster) (s : State) : (updCluster c f s).nextLive = s.nextLive := rfl
@[simp] theorem updCluster_xlt (c : Nat) (f : Cluster → Cluster) (s : State) : (updCluster c f s).xlt = s.xlt := rfl
@[simp] theorem updCluster_stacks (c : Nat) (f : Cluster → Cluster) (s : State) : (updCluster c f s).stks = s.stks := rfl
@[simp] theorem updCluster_dram (c : Nat) (f : Cluster → Cluster) (s : State) : (updCluster c f s).dram = s.dram := rfl
@[simp] theorem updCluster_plz (c : Nat) (f : Cluster → Cluster) (s : State) : (updCluster c f s).plz = s.plz := rfl
@[simp] theorem updCluster_sites (c : Nat) (f : Cluster → Cluster) (s : State) : (updCluster c f s).sites = s.sites := rfl
@[simp] theorem updCluster_net (c : Nat) (f : Cluster → Cluster) (s : State) : (updCluster c f s).net = s.net := rfl
@[simp] theorem updCluster_fab (c : Nat) (f : Cluster → Cluster) (s : State) : (updCluster c f s).fab = s.fab := rfl
@[simp] theorem updCluster_host (c : Nat) (f : Cluster → Cluster) (s : State) : (updCluster c f s).host = s.host := rfl
@[simp] theorem updCluster_boot (c : Nat) (f : Cluster → Cluster) (s : State) : (updCluster c f s).boot = s.boot := rfl
@[simp] theorem updCluster_sec (c : Nat) (f : Cluster → Cluster) (s : State) : (updCluster c f s).sec = s.sec := rfl
@[simp] theorem updCluster_pwr (c : Nat) (f : Cluster → Cluster) (s : State) : (updCluster c f s).pwr = s.pwr := rfl
@[simp] theorem updCluster_cnt (c : Nat) (f : Cluster → Cluster) (s : State) : (updCluster c f s).cnt = s.cnt := rfl
@[simp] theorem updCluster_mbox (c : Nat) (f : Cluster → Cluster) (s : State) : (updCluster c f s).mbox = s.mbox := rfl
@[simp] theorem updCluster_pins (c : Nat) (f : Cluster → Cluster) (s : State) : (updCluster c f s).pins = s.pins := rfl
@[simp] theorem updCluster_out (c : Nat) (f : Cluster → Cluster) (s : State) : (updCluster c f s).out = s.out := rfl
@[simp] theorem updCluster_free (c : Nat) (f : Cluster → Cluster) (s : State) : (updCluster c f s).free = s.free := rfl

@[simp] theorem updStack_pending (k : Nat) (f : Stack → Stack) (s : State) : (updStack k f s).pending = s.pending := rfl
@[simp] theorem updStack_regs (k : Nat) (f : Stack → Stack) (s : State) : (updStack k f s).regs = s.regs := rfl
@[simp] theorem updStack_tiles (k : Nat) (f : Stack → Stack) (s : State) : (updStack k f s).tiles = s.tiles := rfl
@[simp] theorem updStack_clusters (k : Nat) (f : Stack → Stack) (s : State) : (updStack k f s).clusters = s.clusters := rfl
@[simp] theorem updStack_ctxs (k : Nat) (f : Stack → Stack) (s : State) : (updStack k f s).ctxs = s.ctxs := rfl
@[simp] theorem updStack_rings (k : Nat) (f : Stack → Stack) (s : State) : (updStack k f s).rings = s.rings := rfl
@[simp] theorem updStack_lives (k : Nat) (f : Stack → Stack) (s : State) : (updStack k f s).lives = s.lives := rfl
@[simp] theorem updStack_nextLive (k : Nat) (f : Stack → Stack) (s : State) : (updStack k f s).nextLive = s.nextLive := rfl
@[simp] theorem updStack_xlt (k : Nat) (f : Stack → Stack) (s : State) : (updStack k f s).xlt = s.xlt := rfl
@[simp] theorem updStack_dram (k : Nat) (f : Stack → Stack) (s : State) : (updStack k f s).dram = s.dram := rfl
@[simp] theorem updStack_plz (k : Nat) (f : Stack → Stack) (s : State) : (updStack k f s).plz = s.plz := rfl
@[simp] theorem updStack_sites (k : Nat) (f : Stack → Stack) (s : State) : (updStack k f s).sites = s.sites := rfl
@[simp] theorem updStack_net (k : Nat) (f : Stack → Stack) (s : State) : (updStack k f s).net = s.net := rfl
@[simp] theorem updStack_fab (k : Nat) (f : Stack → Stack) (s : State) : (updStack k f s).fab = s.fab := rfl
@[simp] theorem updStack_host (k : Nat) (f : Stack → Stack) (s : State) : (updStack k f s).host = s.host := rfl
@[simp] theorem updStack_boot (k : Nat) (f : Stack → Stack) (s : State) : (updStack k f s).boot = s.boot := rfl
@[simp] theorem updStack_sec (k : Nat) (f : Stack → Stack) (s : State) : (updStack k f s).sec = s.sec := rfl
@[simp] theorem updStack_pwr (k : Nat) (f : Stack → Stack) (s : State) : (updStack k f s).pwr = s.pwr := rfl
@[simp] theorem updStack_cnt (k : Nat) (f : Stack → Stack) (s : State) : (updStack k f s).cnt = s.cnt := rfl
@[simp] theorem updStack_mbox (k : Nat) (f : Stack → Stack) (s : State) : (updStack k f s).mbox = s.mbox := rfl
@[simp] theorem updStack_pins (k : Nat) (f : Stack → Stack) (s : State) : (updStack k f s).pins = s.pins := rfl
@[simp] theorem updStack_out (k : Nat) (f : Stack → Stack) (s : State) : (updStack k f s).out = s.out := rfl
@[simp] theorem updStack_free (k : Nat) (f : Stack → Stack) (s : State) : (updStack k f s).free = s.free := rfl

@[simp] theorem updSite_pending (n : Nat) (f : Site → Site) (s : State) : (updSite n f s).pending = s.pending := rfl
@[simp] theorem updSite_regs (n : Nat) (f : Site → Site) (s : State) : (updSite n f s).regs = s.regs := rfl
@[simp] theorem updSite_tiles (n : Nat) (f : Site → Site) (s : State) : (updSite n f s).tiles = s.tiles := rfl
@[simp] theorem updSite_clusters (n : Nat) (f : Site → Site) (s : State) : (updSite n f s).clusters = s.clusters := rfl
@[simp] theorem updSite_ctxs (n : Nat) (f : Site → Site) (s : State) : (updSite n f s).ctxs = s.ctxs := rfl
@[simp] theorem updSite_rings (n : Nat) (f : Site → Site) (s : State) : (updSite n f s).rings = s.rings := rfl
@[simp] theorem updSite_lives (n : Nat) (f : Site → Site) (s : State) : (updSite n f s).lives = s.lives := rfl
@[simp] theorem updSite_nextLive (n : Nat) (f : Site → Site) (s : State) : (updSite n f s).nextLive = s.nextLive := rfl
@[simp] theorem updSite_xlt (n : Nat) (f : Site → Site) (s : State) : (updSite n f s).xlt = s.xlt := rfl
@[simp] theorem updSite_stacks (n : Nat) (f : Site → Site) (s : State) : (updSite n f s).stks = s.stks := rfl
@[simp] theorem updSite_dram (n : Nat) (f : Site → Site) (s : State) : (updSite n f s).dram = s.dram := rfl
@[simp] theorem updSite_plz (n : Nat) (f : Site → Site) (s : State) : (updSite n f s).plz = s.plz := rfl
@[simp] theorem updSite_net (n : Nat) (f : Site → Site) (s : State) : (updSite n f s).net = s.net := rfl
@[simp] theorem updSite_fab (n : Nat) (f : Site → Site) (s : State) : (updSite n f s).fab = s.fab := rfl
@[simp] theorem updSite_host (n : Nat) (f : Site → Site) (s : State) : (updSite n f s).host = s.host := rfl
@[simp] theorem updSite_boot (n : Nat) (f : Site → Site) (s : State) : (updSite n f s).boot = s.boot := rfl
@[simp] theorem updSite_sec (n : Nat) (f : Site → Site) (s : State) : (updSite n f s).sec = s.sec := rfl
@[simp] theorem updSite_pwr (n : Nat) (f : Site → Site) (s : State) : (updSite n f s).pwr = s.pwr := rfl
@[simp] theorem updSite_cnt (n : Nat) (f : Site → Site) (s : State) : (updSite n f s).cnt = s.cnt := rfl
@[simp] theorem updSite_mbox (n : Nat) (f : Site → Site) (s : State) : (updSite n f s).mbox = s.mbox := rfl
@[simp] theorem updSite_pins (n : Nat) (f : Site → Site) (s : State) : (updSite n f s).pins = s.pins := rfl
@[simp] theorem updSite_out (n : Nat) (f : Site → Site) (s : State) : (updSite n f s).out = s.out := rfl
@[simp] theorem updSite_free (n : Nat) (f : Site → Site) (s : State) : (updSite n f s).free = s.free := rfl

@[simp] theorem updCtx_pending (c : Nat) (f : Ctx → Ctx) (s : State) : (updCtx c f s).pending = s.pending := rfl
@[simp] theorem updCtx_regs (c : Nat) (f : Ctx → Ctx) (s : State) : (updCtx c f s).regs = s.regs := rfl
@[simp] theorem updCtx_tiles (c : Nat) (f : Ctx → Ctx) (s : State) : (updCtx c f s).tiles = s.tiles := rfl
@[simp] theorem updCtx_clusters (c : Nat) (f : Ctx → Ctx) (s : State) : (updCtx c f s).clusters = s.clusters := rfl
@[simp] theorem updCtx_rings (c : Nat) (f : Ctx → Ctx) (s : State) : (updCtx c f s).rings = s.rings := rfl
@[simp] theorem updCtx_lives (c : Nat) (f : Ctx → Ctx) (s : State) : (updCtx c f s).lives = s.lives := rfl
@[simp] theorem updCtx_nextLive (c : Nat) (f : Ctx → Ctx) (s : State) : (updCtx c f s).nextLive = s.nextLive := rfl
@[simp] theorem updCtx_xlt (c : Nat) (f : Ctx → Ctx) (s : State) : (updCtx c f s).xlt = s.xlt := rfl
@[simp] theorem updCtx_stacks (c : Nat) (f : Ctx → Ctx) (s : State) : (updCtx c f s).stks = s.stks := rfl
@[simp] theorem updCtx_dram (c : Nat) (f : Ctx → Ctx) (s : State) : (updCtx c f s).dram = s.dram := rfl
@[simp] theorem updCtx_plz (c : Nat) (f : Ctx → Ctx) (s : State) : (updCtx c f s).plz = s.plz := rfl
@[simp] theorem updCtx_sites (c : Nat) (f : Ctx → Ctx) (s : State) : (updCtx c f s).sites = s.sites := rfl
@[simp] theorem updCtx_net (c : Nat) (f : Ctx → Ctx) (s : State) : (updCtx c f s).net = s.net := rfl
@[simp] theorem updCtx_fab (c : Nat) (f : Ctx → Ctx) (s : State) : (updCtx c f s).fab = s.fab := rfl
@[simp] theorem updCtx_host (c : Nat) (f : Ctx → Ctx) (s : State) : (updCtx c f s).host = s.host := rfl
@[simp] theorem updCtx_boot (c : Nat) (f : Ctx → Ctx) (s : State) : (updCtx c f s).boot = s.boot := rfl
@[simp] theorem updCtx_sec (c : Nat) (f : Ctx → Ctx) (s : State) : (updCtx c f s).sec = s.sec := rfl
@[simp] theorem updCtx_pwr (c : Nat) (f : Ctx → Ctx) (s : State) : (updCtx c f s).pwr = s.pwr := rfl
@[simp] theorem updCtx_cnt (c : Nat) (f : Ctx → Ctx) (s : State) : (updCtx c f s).cnt = s.cnt := rfl
@[simp] theorem updCtx_mbox (c : Nat) (f : Ctx → Ctx) (s : State) : (updCtx c f s).mbox = s.mbox := rfl
@[simp] theorem updCtx_pins (c : Nat) (f : Ctx → Ctx) (s : State) : (updCtx c f s).pins = s.pins := rfl
@[simp] theorem updCtx_out (c : Nat) (f : Ctx → Ctx) (s : State) : (updCtx c f s).out = s.out := rfl
@[simp] theorem updCtx_free (c : Nat) (f : Ctx → Ctx) (s : State) : (updCtx c f s).free = s.free := rfl

@[simp] theorem updRing_pending (r : Nat) (f : Ring → Ring) (s : State) : (updRing r f s).pending = s.pending := rfl
@[simp] theorem updRing_regs (r : Nat) (f : Ring → Ring) (s : State) : (updRing r f s).regs = s.regs := rfl
@[simp] theorem updRing_tiles (r : Nat) (f : Ring → Ring) (s : State) : (updRing r f s).tiles = s.tiles := rfl
@[simp] theorem updRing_clusters (r : Nat) (f : Ring → Ring) (s : State) : (updRing r f s).clusters = s.clusters := rfl
@[simp] theorem updRing_ctxs (r : Nat) (f : Ring → Ring) (s : State) : (updRing r f s).ctxs = s.ctxs := rfl
@[simp] theorem updRing_lives (r : Nat) (f : Ring → Ring) (s : State) : (updRing r f s).lives = s.lives := rfl
@[simp] theorem updRing_nextLive (r : Nat) (f : Ring → Ring) (s : State) : (updRing r f s).nextLive = s.nextLive := rfl
@[simp] theorem updRing_xlt (r : Nat) (f : Ring → Ring) (s : State) : (updRing r f s).xlt = s.xlt := rfl
@[simp] theorem updRing_stacks (r : Nat) (f : Ring → Ring) (s : State) : (updRing r f s).stks = s.stks := rfl
@[simp] theorem updRing_dram (r : Nat) (f : Ring → Ring) (s : State) : (updRing r f s).dram = s.dram := rfl
@[simp] theorem updRing_plz (r : Nat) (f : Ring → Ring) (s : State) : (updRing r f s).plz = s.plz := rfl
@[simp] theorem updRing_sites (r : Nat) (f : Ring → Ring) (s : State) : (updRing r f s).sites = s.sites := rfl
@[simp] theorem updRing_net (r : Nat) (f : Ring → Ring) (s : State) : (updRing r f s).net = s.net := rfl
@[simp] theorem updRing_fab (r : Nat) (f : Ring → Ring) (s : State) : (updRing r f s).fab = s.fab := rfl
@[simp] theorem updRing_host (r : Nat) (f : Ring → Ring) (s : State) : (updRing r f s).host = s.host := rfl
@[simp] theorem updRing_boot (r : Nat) (f : Ring → Ring) (s : State) : (updRing r f s).boot = s.boot := rfl
@[simp] theorem updRing_sec (r : Nat) (f : Ring → Ring) (s : State) : (updRing r f s).sec = s.sec := rfl
@[simp] theorem updRing_pwr (r : Nat) (f : Ring → Ring) (s : State) : (updRing r f s).pwr = s.pwr := rfl
@[simp] theorem updRing_cnt (r : Nat) (f : Ring → Ring) (s : State) : (updRing r f s).cnt = s.cnt := rfl
@[simp] theorem updRing_mbox (r : Nat) (f : Ring → Ring) (s : State) : (updRing r f s).mbox = s.mbox := rfl
@[simp] theorem updRing_pins (r : Nat) (f : Ring → Ring) (s : State) : (updRing r f s).pins = s.pins := rfl
@[simp] theorem updRing_out (r : Nat) (f : Ring → Ring) (s : State) : (updRing r f s).out = s.out := rfl
@[simp] theorem updRing_free (r : Nat) (f : Ring → Ring) (s : State) : (updRing r f s).free = s.free := rfl

@[simp] theorem updLive_pending (id : Nat) (f : Live → Live) (s : State) : (updLive id f s).pending = s.pending := rfl
@[simp] theorem updLive_regs (id : Nat) (f : Live → Live) (s : State) : (updLive id f s).regs = s.regs := rfl
@[simp] theorem updLive_tiles (id : Nat) (f : Live → Live) (s : State) : (updLive id f s).tiles = s.tiles := rfl
@[simp] theorem updLive_clusters (id : Nat) (f : Live → Live) (s : State) : (updLive id f s).clusters = s.clusters := rfl
@[simp] theorem updLive_ctxs (id : Nat) (f : Live → Live) (s : State) : (updLive id f s).ctxs = s.ctxs := rfl
@[simp] theorem updLive_rings (id : Nat) (f : Live → Live) (s : State) : (updLive id f s).rings = s.rings := rfl
@[simp] theorem updLive_nextLive (id : Nat) (f : Live → Live) (s : State) : (updLive id f s).nextLive = s.nextLive := rfl
@[simp] theorem updLive_xlt (id : Nat) (f : Live → Live) (s : State) : (updLive id f s).xlt = s.xlt := rfl
@[simp] theorem updLive_stacks (id : Nat) (f : Live → Live) (s : State) : (updLive id f s).stks = s.stks := rfl
@[simp] theorem updLive_dram (id : Nat) (f : Live → Live) (s : State) : (updLive id f s).dram = s.dram := rfl
@[simp] theorem updLive_plz (id : Nat) (f : Live → Live) (s : State) : (updLive id f s).plz = s.plz := rfl
@[simp] theorem updLive_sites (id : Nat) (f : Live → Live) (s : State) : (updLive id f s).sites = s.sites := rfl
@[simp] theorem updLive_net (id : Nat) (f : Live → Live) (s : State) : (updLive id f s).net = s.net := rfl
@[simp] theorem updLive_fab (id : Nat) (f : Live → Live) (s : State) : (updLive id f s).fab = s.fab := rfl
@[simp] theorem updLive_host (id : Nat) (f : Live → Live) (s : State) : (updLive id f s).host = s.host := rfl
@[simp] theorem updLive_boot (id : Nat) (f : Live → Live) (s : State) : (updLive id f s).boot = s.boot := rfl
@[simp] theorem updLive_sec (id : Nat) (f : Live → Live) (s : State) : (updLive id f s).sec = s.sec := rfl
@[simp] theorem updLive_pwr (id : Nat) (f : Live → Live) (s : State) : (updLive id f s).pwr = s.pwr := rfl
@[simp] theorem updLive_cnt (id : Nat) (f : Live → Live) (s : State) : (updLive id f s).cnt = s.cnt := rfl
@[simp] theorem updLive_mbox (id : Nat) (f : Live → Live) (s : State) : (updLive id f s).mbox = s.mbox := rfl
@[simp] theorem updLive_pins (id : Nat) (f : Live → Live) (s : State) : (updLive id f s).pins = s.pins := rfl
@[simp] theorem updLive_out (id : Nat) (f : Live → Live) (s : State) : (updLive id f s).out = s.out := rfl
@[simp] theorem updLive_free (id : Nat) (f : Live → Live) (s : State) : (updLive id f s).free = s.free := rfl

@[simp] theorem updWalker_pending (p : Nat) (f : Walker → Walker) (s : State) : (updWalker p f s).pending = s.pending := rfl
@[simp] theorem updWalker_regs (p : Nat) (f : Walker → Walker) (s : State) : (updWalker p f s).regs = s.regs := rfl
@[simp] theorem updWalker_tiles (p : Nat) (f : Walker → Walker) (s : State) : (updWalker p f s).tiles = s.tiles := rfl
@[simp] theorem updWalker_clusters (p : Nat) (f : Walker → Walker) (s : State) : (updWalker p f s).clusters = s.clusters := rfl
@[simp] theorem updWalker_ctxs (p : Nat) (f : Walker → Walker) (s : State) : (updWalker p f s).ctxs = s.ctxs := rfl
@[simp] theorem updWalker_rings (p : Nat) (f : Walker → Walker) (s : State) : (updWalker p f s).rings = s.rings := rfl
@[simp] theorem updWalker_lives (p : Nat) (f : Walker → Walker) (s : State) : (updWalker p f s).lives = s.lives := rfl
@[simp] theorem updWalker_nextLive (p : Nat) (f : Walker → Walker) (s : State) : (updWalker p f s).nextLive = s.nextLive := rfl
@[simp] theorem updWalker_stacks (p : Nat) (f : Walker → Walker) (s : State) : (updWalker p f s).stks = s.stks := rfl
@[simp] theorem updWalker_dram (p : Nat) (f : Walker → Walker) (s : State) : (updWalker p f s).dram = s.dram := rfl
@[simp] theorem updWalker_plz (p : Nat) (f : Walker → Walker) (s : State) : (updWalker p f s).plz = s.plz := rfl
@[simp] theorem updWalker_sites (p : Nat) (f : Walker → Walker) (s : State) : (updWalker p f s).sites = s.sites := rfl
@[simp] theorem updWalker_net (p : Nat) (f : Walker → Walker) (s : State) : (updWalker p f s).net = s.net := rfl
@[simp] theorem updWalker_fab (p : Nat) (f : Walker → Walker) (s : State) : (updWalker p f s).fab = s.fab := rfl
@[simp] theorem updWalker_host (p : Nat) (f : Walker → Walker) (s : State) : (updWalker p f s).host = s.host := rfl
@[simp] theorem updWalker_boot (p : Nat) (f : Walker → Walker) (s : State) : (updWalker p f s).boot = s.boot := rfl
@[simp] theorem updWalker_sec (p : Nat) (f : Walker → Walker) (s : State) : (updWalker p f s).sec = s.sec := rfl
@[simp] theorem updWalker_pwr (p : Nat) (f : Walker → Walker) (s : State) : (updWalker p f s).pwr = s.pwr := rfl
@[simp] theorem updWalker_cnt (p : Nat) (f : Walker → Walker) (s : State) : (updWalker p f s).cnt = s.cnt := rfl
@[simp] theorem updWalker_mbox (p : Nat) (f : Walker → Walker) (s : State) : (updWalker p f s).mbox = s.mbox := rfl
@[simp] theorem updWalker_pins (p : Nat) (f : Walker → Walker) (s : State) : (updWalker p f s).pins = s.pins := rfl
@[simp] theorem updWalker_out (p : Nat) (f : Walker → Walker) (s : State) : (updWalker p f s).out = s.out := rfl
@[simp] theorem updWalker_free (p : Nat) (f : Walker → Walker) (s : State) : (updWalker p f s).free = s.free := rfl

@[simp] theorem updPort_pending (n : Nat) (f : FabPort → FabPort) (s : State) : (updPort n f s).pending = s.pending := rfl
@[simp] theorem updPort_regs (n : Nat) (f : FabPort → FabPort) (s : State) : (updPort n f s).regs = s.regs := rfl
@[simp] theorem updPort_tiles (n : Nat) (f : FabPort → FabPort) (s : State) : (updPort n f s).tiles = s.tiles := rfl
@[simp] theorem updPort_clusters (n : Nat) (f : FabPort → FabPort) (s : State) : (updPort n f s).clusters = s.clusters := rfl
@[simp] theorem updPort_ctxs (n : Nat) (f : FabPort → FabPort) (s : State) : (updPort n f s).ctxs = s.ctxs := rfl
@[simp] theorem updPort_rings (n : Nat) (f : FabPort → FabPort) (s : State) : (updPort n f s).rings = s.rings := rfl
@[simp] theorem updPort_lives (n : Nat) (f : FabPort → FabPort) (s : State) : (updPort n f s).lives = s.lives := rfl
@[simp] theorem updPort_nextLive (n : Nat) (f : FabPort → FabPort) (s : State) : (updPort n f s).nextLive = s.nextLive := rfl
@[simp] theorem updPort_xlt (n : Nat) (f : FabPort → FabPort) (s : State) : (updPort n f s).xlt = s.xlt := rfl
@[simp] theorem updPort_stacks (n : Nat) (f : FabPort → FabPort) (s : State) : (updPort n f s).stks = s.stks := rfl
@[simp] theorem updPort_dram (n : Nat) (f : FabPort → FabPort) (s : State) : (updPort n f s).dram = s.dram := rfl
@[simp] theorem updPort_plz (n : Nat) (f : FabPort → FabPort) (s : State) : (updPort n f s).plz = s.plz := rfl
@[simp] theorem updPort_sites (n : Nat) (f : FabPort → FabPort) (s : State) : (updPort n f s).sites = s.sites := rfl
@[simp] theorem updPort_net (n : Nat) (f : FabPort → FabPort) (s : State) : (updPort n f s).net = s.net := rfl
@[simp] theorem updPort_host (n : Nat) (f : FabPort → FabPort) (s : State) : (updPort n f s).host = s.host := rfl
@[simp] theorem updPort_boot (n : Nat) (f : FabPort → FabPort) (s : State) : (updPort n f s).boot = s.boot := rfl
@[simp] theorem updPort_sec (n : Nat) (f : FabPort → FabPort) (s : State) : (updPort n f s).sec = s.sec := rfl
@[simp] theorem updPort_pwr (n : Nat) (f : FabPort → FabPort) (s : State) : (updPort n f s).pwr = s.pwr := rfl
@[simp] theorem updPort_cnt (n : Nat) (f : FabPort → FabPort) (s : State) : (updPort n f s).cnt = s.cnt := rfl
@[simp] theorem updPort_mbox (n : Nat) (f : FabPort → FabPort) (s : State) : (updPort n f s).mbox = s.mbox := rfl
@[simp] theorem updPort_pins (n : Nat) (f : FabPort → FabPort) (s : State) : (updPort n f s).pins = s.pins := rfl
@[simp] theorem updPort_out (n : Nat) (f : FabPort → FabPort) (s : State) : (updPort n f s).out = s.out := rfl
@[simp] theorem updPort_free (n : Nat) (f : FabPort → FabPort) (s : State) : (updPort n f s).free = s.free := rfl

@[simp] theorem updFn_pending (f : Nat) (g : Fn → Fn) (s : State) : (updFn f g s).pending = s.pending := rfl
@[simp] theorem updFn_regs (f : Nat) (g : Fn → Fn) (s : State) : (updFn f g s).regs = s.regs := rfl
@[simp] theorem updFn_tiles (f : Nat) (g : Fn → Fn) (s : State) : (updFn f g s).tiles = s.tiles := rfl
@[simp] theorem updFn_clusters (f : Nat) (g : Fn → Fn) (s : State) : (updFn f g s).clusters = s.clusters := rfl
@[simp] theorem updFn_ctxs (f : Nat) (g : Fn → Fn) (s : State) : (updFn f g s).ctxs = s.ctxs := rfl
@[simp] theorem updFn_rings (f : Nat) (g : Fn → Fn) (s : State) : (updFn f g s).rings = s.rings := rfl
@[simp] theorem updFn_lives (f : Nat) (g : Fn → Fn) (s : State) : (updFn f g s).lives = s.lives := rfl
@[simp] theorem updFn_nextLive (f : Nat) (g : Fn → Fn) (s : State) : (updFn f g s).nextLive = s.nextLive := rfl
@[simp] theorem updFn_xlt (f : Nat) (g : Fn → Fn) (s : State) : (updFn f g s).xlt = s.xlt := rfl
@[simp] theorem updFn_stacks (f : Nat) (g : Fn → Fn) (s : State) : (updFn f g s).stks = s.stks := rfl
@[simp] theorem updFn_dram (f : Nat) (g : Fn → Fn) (s : State) : (updFn f g s).dram = s.dram := rfl
@[simp] theorem updFn_plz (f : Nat) (g : Fn → Fn) (s : State) : (updFn f g s).plz = s.plz := rfl
@[simp] theorem updFn_sites (f : Nat) (g : Fn → Fn) (s : State) : (updFn f g s).sites = s.sites := rfl
@[simp] theorem updFn_net (f : Nat) (g : Fn → Fn) (s : State) : (updFn f g s).net = s.net := rfl
@[simp] theorem updFn_fab (f : Nat) (g : Fn → Fn) (s : State) : (updFn f g s).fab = s.fab := rfl
@[simp] theorem updFn_boot (f : Nat) (g : Fn → Fn) (s : State) : (updFn f g s).boot = s.boot := rfl
@[simp] theorem updFn_sec (f : Nat) (g : Fn → Fn) (s : State) : (updFn f g s).sec = s.sec := rfl
@[simp] theorem updFn_pwr (f : Nat) (g : Fn → Fn) (s : State) : (updFn f g s).pwr = s.pwr := rfl
@[simp] theorem updFn_cnt (f : Nat) (g : Fn → Fn) (s : State) : (updFn f g s).cnt = s.cnt := rfl
@[simp] theorem updFn_mbox (f : Nat) (g : Fn → Fn) (s : State) : (updFn f g s).mbox = s.mbox := rfl
@[simp] theorem updFn_pins (f : Nat) (g : Fn → Fn) (s : State) : (updFn f g s).pins = s.pins := rfl
@[simp] theorem updFn_out (f : Nat) (g : Fn → Fn) (s : State) : (updFn f g s).out = s.out := rfl
@[simp] theorem updFn_free (f : Nat) (g : Fn → Fn) (s : State) : (updFn f g s).free = s.free := rfl

@[simp] theorem updPlz_pending (f : Plaza → Plaza) (s : State) : (updPlz f s).pending = s.pending := rfl
@[simp] theorem updPlz_regs (f : Plaza → Plaza) (s : State) : (updPlz f s).regs = s.regs := rfl
@[simp] theorem updPlz_tiles (f : Plaza → Plaza) (s : State) : (updPlz f s).tiles = s.tiles := rfl
@[simp] theorem updPlz_clusters (f : Plaza → Plaza) (s : State) : (updPlz f s).clusters = s.clusters := rfl
@[simp] theorem updPlz_ctxs (f : Plaza → Plaza) (s : State) : (updPlz f s).ctxs = s.ctxs := rfl
@[simp] theorem updPlz_rings (f : Plaza → Plaza) (s : State) : (updPlz f s).rings = s.rings := rfl
@[simp] theorem updPlz_lives (f : Plaza → Plaza) (s : State) : (updPlz f s).lives = s.lives := rfl
@[simp] theorem updPlz_nextLive (f : Plaza → Plaza) (s : State) : (updPlz f s).nextLive = s.nextLive := rfl
@[simp] theorem updPlz_xlt (f : Plaza → Plaza) (s : State) : (updPlz f s).xlt = s.xlt := rfl
@[simp] theorem updPlz_stacks (f : Plaza → Plaza) (s : State) : (updPlz f s).stks = s.stks := rfl
@[simp] theorem updPlz_dram (f : Plaza → Plaza) (s : State) : (updPlz f s).dram = s.dram := rfl
@[simp] theorem updPlz_sites (f : Plaza → Plaza) (s : State) : (updPlz f s).sites = s.sites := rfl
@[simp] theorem updPlz_net (f : Plaza → Plaza) (s : State) : (updPlz f s).net = s.net := rfl
@[simp] theorem updPlz_fab (f : Plaza → Plaza) (s : State) : (updPlz f s).fab = s.fab := rfl
@[simp] theorem updPlz_host (f : Plaza → Plaza) (s : State) : (updPlz f s).host = s.host := rfl
@[simp] theorem updPlz_boot (f : Plaza → Plaza) (s : State) : (updPlz f s).boot = s.boot := rfl
@[simp] theorem updPlz_sec (f : Plaza → Plaza) (s : State) : (updPlz f s).sec = s.sec := rfl
@[simp] theorem updPlz_pwr (f : Plaza → Plaza) (s : State) : (updPlz f s).pwr = s.pwr := rfl
@[simp] theorem updPlz_cnt (f : Plaza → Plaza) (s : State) : (updPlz f s).cnt = s.cnt := rfl
@[simp] theorem updPlz_mbox (f : Plaza → Plaza) (s : State) : (updPlz f s).mbox = s.mbox := rfl
@[simp] theorem updPlz_pins (f : Plaza → Plaza) (s : State) : (updPlz f s).pins = s.pins := rfl
@[simp] theorem updPlz_out (f : Plaza → Plaza) (s : State) : (updPlz f s).out = s.out := rfl
@[simp] theorem updPlz_free (f : Plaza → Plaza) (s : State) : (updPlz f s).free = s.free := rfl

@[simp] theorem updXlt_pending (f : Xlt → Xlt) (s : State) : (updXlt f s).pending = s.pending := rfl
@[simp] theorem updXlt_regs (f : Xlt → Xlt) (s : State) : (updXlt f s).regs = s.regs := rfl
@[simp] theorem updXlt_tiles (f : Xlt → Xlt) (s : State) : (updXlt f s).tiles = s.tiles := rfl
@[simp] theorem updXlt_clusters (f : Xlt → Xlt) (s : State) : (updXlt f s).clusters = s.clusters := rfl
@[simp] theorem updXlt_ctxs (f : Xlt → Xlt) (s : State) : (updXlt f s).ctxs = s.ctxs := rfl
@[simp] theorem updXlt_rings (f : Xlt → Xlt) (s : State) : (updXlt f s).rings = s.rings := rfl
@[simp] theorem updXlt_lives (f : Xlt → Xlt) (s : State) : (updXlt f s).lives = s.lives := rfl
@[simp] theorem updXlt_nextLive (f : Xlt → Xlt) (s : State) : (updXlt f s).nextLive = s.nextLive := rfl
@[simp] theorem updXlt_stacks (f : Xlt → Xlt) (s : State) : (updXlt f s).stks = s.stks := rfl
@[simp] theorem updXlt_dram (f : Xlt → Xlt) (s : State) : (updXlt f s).dram = s.dram := rfl
@[simp] theorem updXlt_plz (f : Xlt → Xlt) (s : State) : (updXlt f s).plz = s.plz := rfl
@[simp] theorem updXlt_sites (f : Xlt → Xlt) (s : State) : (updXlt f s).sites = s.sites := rfl
@[simp] theorem updXlt_net (f : Xlt → Xlt) (s : State) : (updXlt f s).net = s.net := rfl
@[simp] theorem updXlt_fab (f : Xlt → Xlt) (s : State) : (updXlt f s).fab = s.fab := rfl
@[simp] theorem updXlt_host (f : Xlt → Xlt) (s : State) : (updXlt f s).host = s.host := rfl
@[simp] theorem updXlt_boot (f : Xlt → Xlt) (s : State) : (updXlt f s).boot = s.boot := rfl
@[simp] theorem updXlt_sec (f : Xlt → Xlt) (s : State) : (updXlt f s).sec = s.sec := rfl
@[simp] theorem updXlt_pwr (f : Xlt → Xlt) (s : State) : (updXlt f s).pwr = s.pwr := rfl
@[simp] theorem updXlt_cnt (f : Xlt → Xlt) (s : State) : (updXlt f s).cnt = s.cnt := rfl
@[simp] theorem updXlt_mbox (f : Xlt → Xlt) (s : State) : (updXlt f s).mbox = s.mbox := rfl
@[simp] theorem updXlt_pins (f : Xlt → Xlt) (s : State) : (updXlt f s).pins = s.pins := rfl
@[simp] theorem updXlt_out (f : Xlt → Xlt) (s : State) : (updXlt f s).out = s.out := rfl
@[simp] theorem updXlt_free (f : Xlt → Xlt) (s : State) : (updXlt f s).free = s.free := rfl

@[simp] theorem emit_pending (o : Out) (s : State) : (emit o s).pending = s.pending := rfl
@[simp] theorem emit_regs (o : Out) (s : State) : (emit o s).regs = s.regs := rfl
@[simp] theorem emit_tiles (o : Out) (s : State) : (emit o s).tiles = s.tiles := rfl
@[simp] theorem emit_clusters (o : Out) (s : State) : (emit o s).clusters = s.clusters := rfl
@[simp] theorem emit_ctxs (o : Out) (s : State) : (emit o s).ctxs = s.ctxs := rfl
@[simp] theorem emit_rings (o : Out) (s : State) : (emit o s).rings = s.rings := rfl
@[simp] theorem emit_lives (o : Out) (s : State) : (emit o s).lives = s.lives := rfl
@[simp] theorem emit_nextLive (o : Out) (s : State) : (emit o s).nextLive = s.nextLive := rfl
@[simp] theorem emit_xlt (o : Out) (s : State) : (emit o s).xlt = s.xlt := rfl
@[simp] theorem emit_stacks (o : Out) (s : State) : (emit o s).stks = s.stks := rfl
@[simp] theorem emit_dram (o : Out) (s : State) : (emit o s).dram = s.dram := rfl
@[simp] theorem emit_plz (o : Out) (s : State) : (emit o s).plz = s.plz := rfl
@[simp] theorem emit_sites (o : Out) (s : State) : (emit o s).sites = s.sites := rfl
@[simp] theorem emit_net (o : Out) (s : State) : (emit o s).net = s.net := rfl
@[simp] theorem emit_fab (o : Out) (s : State) : (emit o s).fab = s.fab := rfl
@[simp] theorem emit_host (o : Out) (s : State) : (emit o s).host = s.host := rfl
@[simp] theorem emit_boot (o : Out) (s : State) : (emit o s).boot = s.boot := rfl
@[simp] theorem emit_sec (o : Out) (s : State) : (emit o s).sec = s.sec := rfl
@[simp] theorem emit_pwr (o : Out) (s : State) : (emit o s).pwr = s.pwr := rfl
@[simp] theorem emit_cnt (o : Out) (s : State) : (emit o s).cnt = s.cnt := rfl
@[simp] theorem emit_mbox (o : Out) (s : State) : (emit o s).mbox = s.mbox := rfl
@[simp] theorem emit_pins (o : Out) (s : State) : (emit o s).pins = s.pins := rfl
@[simp] theorem emit_free (o : Out) (s : State) : (emit o s).free = s.free := rfl

@[simp] theorem setReg_pending (k v : Nat) (s : State) : (setReg k v s).pending = s.pending := rfl
@[simp] theorem setReg_tiles (k v : Nat) (s : State) : (setReg k v s).tiles = s.tiles := rfl
@[simp] theorem setReg_clusters (k v : Nat) (s : State) : (setReg k v s).clusters = s.clusters := rfl
@[simp] theorem setReg_ctxs (k v : Nat) (s : State) : (setReg k v s).ctxs = s.ctxs := rfl
@[simp] theorem setReg_rings (k v : Nat) (s : State) : (setReg k v s).rings = s.rings := rfl
@[simp] theorem setReg_lives (k v : Nat) (s : State) : (setReg k v s).lives = s.lives := rfl
@[simp] theorem setReg_nextLive (k v : Nat) (s : State) : (setReg k v s).nextLive = s.nextLive := rfl
@[simp] theorem setReg_xlt (k v : Nat) (s : State) : (setReg k v s).xlt = s.xlt := rfl
@[simp] theorem setReg_stacks (k v : Nat) (s : State) : (setReg k v s).stks = s.stks := rfl
@[simp] theorem setReg_dram (k v : Nat) (s : State) : (setReg k v s).dram = s.dram := rfl
@[simp] theorem setReg_plz (k v : Nat) (s : State) : (setReg k v s).plz = s.plz := rfl
@[simp] theorem setReg_sites (k v : Nat) (s : State) : (setReg k v s).sites = s.sites := rfl
@[simp] theorem setReg_net (k v : Nat) (s : State) : (setReg k v s).net = s.net := rfl
@[simp] theorem setReg_fab (k v : Nat) (s : State) : (setReg k v s).fab = s.fab := rfl
@[simp] theorem setReg_host (k v : Nat) (s : State) : (setReg k v s).host = s.host := rfl
@[simp] theorem setReg_boot (k v : Nat) (s : State) : (setReg k v s).boot = s.boot := rfl
@[simp] theorem setReg_sec (k v : Nat) (s : State) : (setReg k v s).sec = s.sec := rfl
@[simp] theorem setReg_pwr (k v : Nat) (s : State) : (setReg k v s).pwr = s.pwr := rfl
@[simp] theorem setReg_cnt (k v : Nat) (s : State) : (setReg k v s).cnt = s.cnt := rfl
@[simp] theorem setReg_mbox (k v : Nat) (s : State) : (setReg k v s).mbox = s.mbox := rfl
@[simp] theorem setReg_pins (k v : Nat) (s : State) : (setReg k v s).pins = s.pins := rfl
@[simp] theorem setReg_out (k v : Nat) (s : State) : (setReg k v s).out = s.out := rfl
@[simp] theorem setReg_free (k v : Nat) (s : State) : (setReg k v s).free = s.free := rfl

@[simp] theorem setRf_pending (k hi lo v : Nat) (s : State) : (setRf k hi lo v s).pending = s.pending := rfl
@[simp] theorem setRf_tiles (k hi lo v : Nat) (s : State) : (setRf k hi lo v s).tiles = s.tiles := rfl
@[simp] theorem setRf_clusters (k hi lo v : Nat) (s : State) : (setRf k hi lo v s).clusters = s.clusters := rfl
@[simp] theorem setRf_ctxs (k hi lo v : Nat) (s : State) : (setRf k hi lo v s).ctxs = s.ctxs := rfl
@[simp] theorem setRf_rings (k hi lo v : Nat) (s : State) : (setRf k hi lo v s).rings = s.rings := rfl
@[simp] theorem setRf_lives (k hi lo v : Nat) (s : State) : (setRf k hi lo v s).lives = s.lives := rfl
@[simp] theorem setRf_nextLive (k hi lo v : Nat) (s : State) : (setRf k hi lo v s).nextLive = s.nextLive := rfl
@[simp] theorem setRf_xlt (k hi lo v : Nat) (s : State) : (setRf k hi lo v s).xlt = s.xlt := rfl
@[simp] theorem setRf_stacks (k hi lo v : Nat) (s : State) : (setRf k hi lo v s).stks = s.stks := rfl
@[simp] theorem setRf_dram (k hi lo v : Nat) (s : State) : (setRf k hi lo v s).dram = s.dram := rfl
@[simp] theorem setRf_plz (k hi lo v : Nat) (s : State) : (setRf k hi lo v s).plz = s.plz := rfl
@[simp] theorem setRf_sites (k hi lo v : Nat) (s : State) : (setRf k hi lo v s).sites = s.sites := rfl
@[simp] theorem setRf_net (k hi lo v : Nat) (s : State) : (setRf k hi lo v s).net = s.net := rfl
@[simp] theorem setRf_fab (k hi lo v : Nat) (s : State) : (setRf k hi lo v s).fab = s.fab := rfl
@[simp] theorem setRf_host (k hi lo v : Nat) (s : State) : (setRf k hi lo v s).host = s.host := rfl
@[simp] theorem setRf_boot (k hi lo v : Nat) (s : State) : (setRf k hi lo v s).boot = s.boot := rfl
@[simp] theorem setRf_sec (k hi lo v : Nat) (s : State) : (setRf k hi lo v s).sec = s.sec := rfl
@[simp] theorem setRf_pwr (k hi lo v : Nat) (s : State) : (setRf k hi lo v s).pwr = s.pwr := rfl
@[simp] theorem setRf_cnt (k hi lo v : Nat) (s : State) : (setRf k hi lo v s).cnt = s.cnt := rfl
@[simp] theorem setRf_mbox (k hi lo v : Nat) (s : State) : (setRf k hi lo v s).mbox = s.mbox := rfl
@[simp] theorem setRf_pins (k hi lo v : Nat) (s : State) : (setRf k hi lo v s).pins = s.pins := rfl
@[simp] theorem setRf_out (k hi lo v : Nat) (s : State) : (setRf k hi lo v s).out = s.out := rfl
@[simp] theorem setRf_free (k hi lo v : Nat) (s : State) : (setRf k hi lo v s).free = s.free := rfl

@[simp] theorem setRc_pending (fn k : Nat) (r : RcReg) (s : State) : (setRc fn k r s).pending = s.pending := rfl
@[simp] theorem setRc_tiles (fn k : Nat) (r : RcReg) (s : State) : (setRc fn k r s).tiles = s.tiles := rfl
@[simp] theorem setRc_clusters (fn k : Nat) (r : RcReg) (s : State) : (setRc fn k r s).clusters = s.clusters := rfl
@[simp] theorem setRc_ctxs (fn k : Nat) (r : RcReg) (s : State) : (setRc fn k r s).ctxs = s.ctxs := rfl
@[simp] theorem setRc_rings (fn k : Nat) (r : RcReg) (s : State) : (setRc fn k r s).rings = s.rings := rfl
@[simp] theorem setRc_lives (fn k : Nat) (r : RcReg) (s : State) : (setRc fn k r s).lives = s.lives := rfl
@[simp] theorem setRc_nextLive (fn k : Nat) (r : RcReg) (s : State) : (setRc fn k r s).nextLive = s.nextLive := rfl
@[simp] theorem setRc_xlt (fn k : Nat) (r : RcReg) (s : State) : (setRc fn k r s).xlt = s.xlt := rfl
@[simp] theorem setRc_stacks (fn k : Nat) (r : RcReg) (s : State) : (setRc fn k r s).stks = s.stks := rfl
@[simp] theorem setRc_dram (fn k : Nat) (r : RcReg) (s : State) : (setRc fn k r s).dram = s.dram := rfl
@[simp] theorem setRc_plz (fn k : Nat) (r : RcReg) (s : State) : (setRc fn k r s).plz = s.plz := rfl
@[simp] theorem setRc_sites (fn k : Nat) (r : RcReg) (s : State) : (setRc fn k r s).sites = s.sites := rfl
@[simp] theorem setRc_net (fn k : Nat) (r : RcReg) (s : State) : (setRc fn k r s).net = s.net := rfl
@[simp] theorem setRc_fab (fn k : Nat) (r : RcReg) (s : State) : (setRc fn k r s).fab = s.fab := rfl
@[simp] theorem setRc_host (fn k : Nat) (r : RcReg) (s : State) : (setRc fn k r s).host = s.host := rfl
@[simp] theorem setRc_boot (fn k : Nat) (r : RcReg) (s : State) : (setRc fn k r s).boot = s.boot := rfl
@[simp] theorem setRc_sec (fn k : Nat) (r : RcReg) (s : State) : (setRc fn k r s).sec = s.sec := rfl
@[simp] theorem setRc_pwr (fn k : Nat) (r : RcReg) (s : State) : (setRc fn k r s).pwr = s.pwr := rfl
@[simp] theorem setRc_cnt (fn k : Nat) (r : RcReg) (s : State) : (setRc fn k r s).cnt = s.cnt := rfl
@[simp] theorem setRc_mbox (fn k : Nat) (r : RcReg) (s : State) : (setRc fn k r s).mbox = s.mbox := rfl
@[simp] theorem setRc_pins (fn k : Nat) (r : RcReg) (s : State) : (setRc fn k r s).pins = s.pins := rfl
@[simp] theorem setRc_out (fn k : Nat) (r : RcReg) (s : State) : (setRc fn k r s).out = s.out := rfl
@[simp] theorem setRc_free (fn k : Nat) (r : RcReg) (s : State) : (setRc fn k r s).free = s.free := rfl

/-! ### Units after an update -/

theorem updTile_tile (t u : Nat) (f : Tile → Tile) (s : State) :
    (updTile t f s).tile u = if u = t ∧ t < 72 then f (s.tile t) else s.tile u := vget_vupd _ _ _ _ _
@[simp] theorem updTile_tile_self (t : Fin 72) (f : Tile → Tile) (s : State) :
    (updTile t.val f s).tile t.val = f (s.tile t.val) := by
  rw [updTile_tile, if_pos ⟨rfl, t.isLt⟩]
theorem updCluster_cluster (t u : Nat) (f : Cluster → Cluster) (s : State) :
    (updCluster t f s).cluster u = if u = t ∧ t < 18 then f (s.cluster t) else s.cluster u := vget_vupd _ _ _ _ _
@[simp] theorem updCluster_cluster_self (t : Fin 18) (f : Cluster → Cluster) (s : State) :
    (updCluster t.val f s).cluster t.val = f (s.cluster t.val) := by
  rw [updCluster_cluster, if_pos ⟨rfl, t.isLt⟩]
theorem updStack_stack (t u : Nat) (f : Stack → Stack) (s : State) :
    (updStack t f s).stack u = if u = t ∧ t < 12 then f (s.stack t) else s.stack u := vget_vupd _ _ _ _ _
@[simp] theorem updStack_stack_self (t : Fin 12) (f : Stack → Stack) (s : State) :
    (updStack t.val f s).stack t.val = f (s.stack t.val) := by
  rw [updStack_stack, if_pos ⟨rfl, t.isLt⟩]
theorem updSite_site (t u : Nat) (f : Site → Site) (s : State) :
    (updSite t f s).site u = if u = t ∧ t < 6 then f (s.site t) else s.site u := vget_vupd _ _ _ _ _
@[simp] theorem updSite_site_self (t : Fin 6) (f : Site → Site) (s : State) :
    (updSite t.val f s).site t.val = f (s.site t.val) := by
  rw [updSite_site, if_pos ⟨rfl, t.isLt⟩]
theorem updPort_port (t u : Nat) (f : FabPort → FabPort) (s : State) :
    (updPort t f s).port u = if u = t ∧ t < 16 then f (s.port t) else s.port u := vget_vupd _ _ _ _ _
@[simp] theorem updPort_port_self (t : Fin 16) (f : FabPort → FabPort) (s : State) :
    (updPort t.val f s).port t.val = f (s.port t.val) := by
  rw [updPort_port, if_pos ⟨rfl, t.isLt⟩]
theorem updFn_fn (t u : Nat) (f : Fn → Fn) (s : State) :
    (updFn t f s).fn u = if u = t ∧ t < 128 then f (s.fn t) else s.fn u := vget_vupd _ _ _ _ _
@[simp] theorem updFn_fn_self (t : Fin 128) (f : Fn → Fn) (s : State) :
    (updFn t.val f s).fn t.val = f (s.fn t.val) := by
  rw [updFn_fn, if_pos ⟨rfl, t.isLt⟩]
theorem updWalker_walker (t u : Nat) (f : Walker → Walker) (s : State) :
    (updWalker t f s).walker u = if u = t ∧ t < 3 then f (s.walker t) else s.walker u := vget_vupd _ _ _ _ _
@[simp] theorem updWalker_walker_self (t : Fin 3) (f : Walker → Walker) (s : State) :
    (updWalker t.val f s).walker t.val = f (s.walker t.val) := by
  rw [updWalker_walker, if_pos ⟨rfl, t.isLt⟩]
theorem updCtx_context (c d : Nat) (f : Ctx → Ctx) (s : State) :
    (updCtx c f s).context d = if d = c then f (s.context c) else s.context d := Table.get_set ..
theorem updRing_ring (r q : Nat) (f : Ring → Ring) (s : State) :
    (updRing r f s).ring q = if q = r then f (s.ring r) else s.ring q := Table.get_set ..

/-! ### Registers after an update -/

theorem State.reg_lt (s : State) (k : Nat) : s.reg k < 2 ^ 32 := BitVec.isLt _
@[simp] theorem reg_setReg_self (k v : Nat) (s : State) : (setReg k v s).reg k = v % 2 ^ 32 := by
  simp only [State.reg, setReg]
  rw [Table.get_set_self, BitVec.toNat_ofNat]
theorem reg_setReg_ne {k j : Nat} (v : Nat) (s : State) (h : j ≠ k) : (setReg k v s).reg j = s.reg j := by
  simp only [State.reg, setReg]
  rw [Table.get_set_ne _ _ _ h]
theorem reg_setRf_ne {k j : Nat} (hi lo v : Nat) (s : State) (h : j ≠ k) : (setRf k hi lo v s).reg j = s.reg j :=
  reg_setReg_ne _ _ h
/-- A register once one of its fields has been set. -/
theorem reg_setRf_self (k hi lo v : Nat) (s : State) (h : lo + (hi + 1 - lo) ≤ 32) :
    (setRf k hi lo v s).reg k = setBits (s.reg k) hi lo v := by
  rw [setRf, reg_setReg_self, Nat.mod_eq_of_lt (setBits_lt _ _ _ _ _ (s.reg_lt k) h)]
theorem rf_setRf_self (k hi lo v : Nat) (s : State) (h : lo + (hi + 1 - lo) ≤ 32) :
    (setRf k hi lo v s).rf k hi lo = v % 2 ^ (hi + 1 - lo) := by
  rw [State.rf, reg_setRf_self _ _ _ _ _ h, bits_setBits_self]
theorem rf_setRf_apart (k hi lo v hi2 lo2 : Nat) (s : State) (h : lo + (hi + 1 - lo) ≤ 32) (ha : hi2 < lo ∨ hi < lo2)
    (hl : lo ≤ hi + 1) : (setRf k hi lo v s).rf k hi2 lo2 = s.rf k hi2 lo2 := by
  rw [State.rf, reg_setRf_self _ _ _ _ _ h, bits_setBits_apart _ _ _ _ _ _ ha hl]
  rfl
theorem rf_setRf_ne {k j : Nat} (hi lo v hi2 lo2 : Nat) (s : State) (h : j ≠ k) :
    (setRf k hi lo v s).rf j hi2 lo2 = s.rf j hi2 lo2 := by
  rw [State.rf, reg_setRf_ne _ _ _ _ h]
  rfl
theorem rb_setRf_self (k b v : Nat) (s : State) (h : b < 32) : (setRf k b b v s).rb k b = bit v 0 := by
  rw [State.rb, reg_setRf_self _ _ _ _ _ (by omega), bit_setBits_self]
theorem rb_setRf_apart (k hi lo v b : Nat) (s : State) (h : lo + (hi + 1 - lo) ≤ 32) (ha : b < lo ∨ hi < b)
    (hl : lo ≤ hi + 1) : (setRf k hi lo v s).rb k b = s.rb k b := by
  rw [State.rb, reg_setRf_self _ _ _ _ _ h, bit_setBits_apart _ _ _ _ _ ha hl]
  rfl
theorem rb_setRf_ne {k j : Nat} (hi lo v b : Nat) (s : State) (h : j ≠ k) : (setRf k hi lo v s).rb j b = s.rb j b := by
  rw [State.rb, reg_setRf_ne _ _ _ _ h]
  rfl

/-! ### Values at reset -/

/-- Every register holds its table's reset value. -/
theorem reg_reset (k : Nat) : State.reset.reg k = (BitVec.ofNat 32 (regReset (k % 2 ^ 30))).toNat := rfl
/-- The memories of the hub at reset have their canonical form. -/
theorem reset_dram_wf : Mem.wf State.reset.dram.bytes = true := by decide

end Sys2Proof.Machine
end

