-- ==== Sys2Proof/Laws/StillOps.lean ====
section
/-!
SUPPORT. Which functions of Machine/Ops.lean leave alone bring-up with the floor plan, the contexts, the rings and the mailbox
(`Still` of Safety.lean): one lemma each.
-/
namespace Sys2Proof.Machine

theorem forEach_still {α : Type} (l : List α) (f : α → State → State) (s s' : State) (hs : Still s' s)
    (h : ∀ a u, Still (f a u) u) : Still (forEach l f s') s := by
  unfold forEach
  induction l generalizing s' with
  | nil => exact hs
  | cons a l ih =>
    simp only [List.foldl_cons]
    have k := h a s'
    exact ih _ ⟨k.1.trans hs.1, k.2.1.trans hs.2.1, k.2.2.1.trans hs.2.2.1, k.2.2.2.trans hs.2.2.2⟩
@[simp] theorem forEach_still_boot_ {α : Type} (l : List α) (f : α → State → State) (s : State)
    (h : ∀ a u, Still (f a u) u) : (forEach l f s).boot = s.boot :=
  (forEach_still l f s s ⟨rfl, rfl, rfl, rfl⟩ h).1
@[simp] theorem ite_bootf (c : Prop) [Decidable c] (a b : State) :
    (if c then a else b).boot = if c then a.boot else b.boot := by split <;> rfl
@[simp] theorem forEach_still_ctxs {α : Type} (l : List α) (f : α → State → State) (s : State)
    (h : ∀ a u, Still (f a u) u) : (forEach l f s).ctxs = s.ctxs :=
  (forEach_still l f s s ⟨rfl, rfl, rfl, rfl⟩ h).2.1
@[simp] theorem ite_ctxs (c : Prop) [Decidable c] (a b : State) :
    (if c then a else b).ctxs = if c then a.ctxs else b.ctxs := by split <;> rfl
@[simp] theorem forEach_still_rings {α : Type} (l : List α) (f : α → State → State) (s : State)
    (h : ∀ a u, Still (f a u) u) : (forEach l f s).rings = s.rings :=
  (forEach_still l f s s ⟨rfl, rfl, rfl, rfl⟩ h).2.2.1
@[simp] theorem ite_rings (c : Prop) [Decidable c] (a b : State) :
    (if c then a else b).rings = if c then a.rings else b.rings := by split <;> rfl
@[simp] theorem forEach_still_mbox {α : Type} (l : List α) (f : α → State → State) (s : State)
    (h : ∀ a u, Still (f a u) u) : (forEach l f s).mbox = s.mbox :=
  (forEach_still l f s s ⟨rfl, rfl, rfl, rfl⟩ h).2.2.2
@[simp] theorem ite_mbox (c : Prop) [Decidable c] (a b : State) :
    (if c then a else b).mbox = if c then a.mbox else b.mbox := by split <;> rfl
theorem Still.trans {a b c : State} (h : Still a b) (k : Still b c) : Still a c :=
  ⟨h.1.trans k.1, h.2.1.trans k.2.1, h.2.2.1.trans k.2.2.1, h.2.2.2.trans k.2.2.2⟩
theorem Still.refl (a : State) : Still a a := ⟨rfl, rfl, rfl, rfl⟩
theorem Still.ite {c : Prop} [Decidable c] {a b s : State} (ha : Still a s) (hb : Still b s) : Still (if c then a else b) s := by
  split
  · exact ha
  · exact hb

@[simp] theorem updTile_still (t : Nat) (f : Tile → Tile) (s : State) :
    Still (updTile t f s) s := by
  simp [updTile]

@[simp] theorem updCluster_still (c : Nat) (f : Cluster → Cluster) (s : State) :
    Still (updCluster c f s) s := by
  simp [updCluster]

@[simp] theorem updStack_still (k : Nat) (f : Stack → Stack) (s : State) :
    Still (updStack k f s) s := by
  simp [updStack]

@[simp] theorem updSite_still (n : Nat) (f : Site → Site) (s : State) :
    Still (updSite n f s) s := by
  simp [updSite]

@[simp] theorem updLive_still (id : Nat) (f : Live → Live) (s : State) :
    Still (updLive id f s) s := by
  simp [updLive]

@[simp] theorem updWalker_still (p : Nat) (f : Walker → Walker) (s : State) :
    Still (updWalker p f s) s := by
  simp [updWalker]

@[simp] theorem updPort_still (n : Nat) (f : FabPort → FabPort) (s : State) :
    Still (updPort n f s) s := by
  simp [updPort]

@[simp] theorem updFn_still (f : Nat) (g : Fn → Fn) (s : State) :
    Still (updFn f g s) s := by
  simp [updFn]

@[simp] theorem updPlz_still (f : Plaza → Plaza) (s : State) :
    Still (updPlz f s) s := by
  simp [updPlz]

@[simp] theorem updXlt_still (f : Xlt → Xlt) (s : State) :
    Still (updXlt f s) s := by
  simp [updXlt]

@[simp] theorem emit_still (o : Out) (s : State) :
    Still (emit o s) s := by
  simp [emit]

@[simp] theorem fresh_still (s : State) :
    Still (fresh s).2 s := by
  simp [fresh]

@[simp] theorem setReg_still (k v : Nat) (s : State) :
    Still (setReg k v s) s := by
  simp [setReg]

@[simp] theorem setRf_still (k hi lo v : Nat) (s : State) :
    Still (setRf k hi lo v s) s := by
  simp [setRf]

@[simp] theorem addRf_still (k hi lo n : Nat) (s : State) :
    Still (addRf k hi lo n s) s := by
  simp [addRf]

@[simp] theorem putFields_still (k : Nat) (fs : List FieldInfo) (v : Nat) (s : State) :
    Still (putFields k fs v s) s := by
  simp [putFields]

@[simp] theorem applyKey_still (ap : Apply) (k : Nat) (s : State) :
    Still (applyKey ap k s) s := by
  simp only [applyKey]
  split <;> simp

@[simp] theorem applyAll_still (ap : Apply) (p : Nat → Bool) (s : State) :
    Still (applyAll ap p s) s := by
  simp [applyAll]

@[simp] theorem setRc_still (fn k : Nat) (r : RcReg) (s : State) :
    Still (setRc fn k r s) s := by
  simp [setRc]

@[simp] theorem rcEvent_still (k hi lo : Nat) (f : Nat → Nat) (s : State) :
    Still (rcEvent k hi lo f s) s := by
  simp [rcEvent]

@[simp] theorem rcFlag_still (k b : Nat) (s : State) :
    Still (rcFlag k b s) s := by
  simp [rcFlag]

@[simp] theorem rcCount_still (k hi lo n : Nat) (s : State) :
    Still (rcCount k hi lo n s) s := by
  simp [rcCount]

@[simp] theorem sendVector_still (f v : Nat) (s : State) :
    Still (sendVector f v s) s := by
  simp [sendVector]

@[simp] theorem sendPending_still (f : Nat) (s : State) :
    Still (sendPending f s) s := by
  simp [sendPending]

@[simp] theorem syncGate_still (f : Nat) (s : State) :
    Still (syncGate f s) s := by
  simp [syncGate]

@[simp] theorem syncGates_still (s : State) :
    Still (syncGates s) s := by
  simp [syncGates]

@[simp] theorem syncStatus_still (s : State) :
    Still (syncStatus s) s := by
  simp [syncStatus]

@[simp] theorem syncUnit_still (key : Nat) (s : State) :
    Still (syncUnit key s) s := by
  simp [syncUnit]

@[simp] theorem bumpEpoch_still (s : State) :
    Still (bumpEpoch s) s := by
  simp [bumpEpoch]

@[simp] theorem unisolate_still (ty id : Nat) (s : State) :
    Still (unisolate ty id s) s := by
  simp only [unisolate]
  repeat' first
    | (simp [*]; done)
    | split
    | refine forEach_still _ _ _ _ ?_ (fun a u => ?_)

@[simp] theorem bumpCounter_still (b i n : Nat) (s : State) :
    Still (bumpCounter b i n s) s := by
  simp [bumpCounter]

@[simp] theorem countEvent_still (b ev : Nat) (ctx cls : Option Nat) (pv : Option (Nat × Nat)) (n : Nat) (s : State) :
    Still (countEvent b ev ctx cls pv n s) s := by
  simp [countEvent]

@[simp] theorem countUnits_still (b p n : Nat) (s : State) :
    Still (countUnits b p n s) s := by
  simp [countUnits]

end Sys2Proof.Machine
end

