-- ==== Sys2Proof/Laws/StillMemory.lean ====
section
/-!
SUPPORT. Which functions of Machine/Memory.lean leave alone bring-up with the floor plan, the contexts, the rings and the mailbox
(`Still` of Safety.lean): one lemma each.
-/
namespace Sys2Proof.Machine

@[simp] theorem noteMark_still (raise : Raise) (k a : Nat) (was is : Bool) (s : State) (hraise : ∀ c k ws u, Still (raise c k ws u) u) :
    Still (noteMark raise k a was is s) s := by
  simp only [noteMark]
  repeat' first
    | (simp [*]; done)
    | split

@[simp] theorem noteNotOn_still (raise : Raise) (k source : Nat) (s : State) (hraise : ∀ c k ws u, Still (raise c k ws u) u) :
    Still (noteNotOn raise k source s) s := by
  simp only [noteNotOn]
  repeat' first
    | (simp [*]; done)
    | split

@[simp] theorem tracked_still (raise : Raise) (k a : Nat) (f : State → State) (s : State)
    (hraise : ∀ c k ws u, Still (raise c k ws u) u) (hf : ∀ u, Still (f u) u) : Still (tracked raise k a f s) s := by
  simp only [tracked]
  have := hf s
  simp_all

@[simp] theorem putDram_still (k a : Nat) (d : UnitData) (m : Option Mark) (s : State) :
    Still (putDram k a d m s) s := by
  simp [putDram]

@[simp] theorem clearMark_still (k a : Nat) (s : State) :
    Still (clearMark k a s) s := by
  simp [clearMark]

@[simp] theorem countBonds_still (k a : Nat) (symbols : List Nat) (s : State) :
    Still (countBonds k a symbols s) s := by
  simp [countBonds]

@[simp] theorem convertPoison_still (raise : Raise) (k a source : Nat) (s : State) (hraise : ∀ c k ws u, Still (raise c k ws u) u) :
    Still (convertPoison raise k a source s).2 s := by
  simp only [convertPoison]
  repeat' first
    | (simp [*]; done)
    | split

@[simp] theorem readUnit_still (raise : Raise) (k a : Nat) (ev : EccOutcome) (s : State) (hraise : ∀ c k ws u, Still (raise c k ws u) u) :
    Still (readUnit raise k a ev s).2 s := by
  simp only [readUnit]
  repeat' first
    | (simp [*]; done)
    | split

@[simp] theorem readOut_still (raise : Raise) (k a src : Nat) (look : Nat → Nat → State → (UnitData × Option Mark) × State)
    (s : State) (hraise : ∀ c k ws u, Still (raise c k ws u) u) (hlook : ∀ k a u, Still (look k a u).2 u) :
    Still (readOut raise k a src look s).2 s := by
  simp only [readOut]
  repeat' first
    | (simp [*]; done)
    | split

@[simp] theorem memLook_still (raise : Raise) (k a : Nat) (s : State) (hraise : ∀ c k ws u, Still (raise c k ws u) u) :
    Still (memLook raise k a s).2 s := by
  simp only [memLook]
  repeat' first
    | (simp [*]; done)
    | split

@[simp] theorem healUnit_still (raise : Raise) (n k a : Nat) (d : UnitData) (s : State) (hraise : ∀ c k ws u, Still (raise c k ws u) u) :
    Still (healUnit raise n k a d s) s := by
  simp only [healUnit]
  repeat' first
    | (simp [*]; done)
    | split

@[simp] theorem memRead_still (raise : Raise) (k a : Nat) (ev ev2 : EccOutcome) (s : State) (hraise : ∀ c k ws u, Still (raise c k ws u) u) :
    Still (memRead raise k a ev ev2 s).2 s := by
  simp only [memRead]
  repeat' first
    | (simp [*]; done)
    | split

@[simp] theorem dropWrite_still (raise : Raise) (k src : Nat) (s : State) (hraise : ∀ c k ws u, Still (raise c k ws u) u) :
    Still (dropWrite raise k src s) s := by
  simp only [dropWrite]
  repeat' first
    | (simp [*]; done)
    | split

@[simp] theorem memWrite_still (raise : Raise) (k a : Nat) (d : UnitData) (m : Option Mark) (symbols : List Nat) (s : State) (hraise : ∀ c k ws u, Still (raise c k ws u) u) :
    Still (memWrite raise k a d m symbols s) s := by
  simp only [memWrite]
  repeat' first
    | (simp [*]; done)
    | split

@[simp] theorem holdMem_still (k : Nat) (h : HeldMem) (s : State) :
    Still (holdMem k h s) s := by
  simp [holdMem]

@[simp] theorem hubWrite_still (raise : Raise) (k a : Nat) (d : UnitData) (m : Option Mark) (s : State) (hraise : ∀ c k ws u, Still (raise c k ws u) u) :
    Still (hubWrite raise k a d m s) s := by
  simp only [hubWrite]
  repeat' first
    | (simp [*]; done)
    | split

@[simp] theorem setPline_still (lk : Nat) (l : PLine) (s : State) :
    Still (setPline lk l s) s := by
  simp [setPline]

@[simp] theorem homeUnit_still (raise : Raise) (lk u : Nat) (s : State) (hraise : ∀ c k ws u, Still (raise c k ws u) u) :
    Still (homeUnit raise lk u s).2 s := by
  simp only [homeUnit]
  repeat' first
    | (simp [*]; done)
    | split
    | refine forEach_still _ _ _ _ ?_ (fun a u => ?_)

@[simp] theorem allocLine_still (raise : Raise) (lk : Nat) (s : State) (hraise : ∀ c k ws u, Still (raise c k ws u) u) :
    Still (allocLine raise lk s) s := by
  simp only [allocLine]
  repeat' first
    | (simp [*]; done)
    | split
    | refine forEach_still _ _ _ _ ?_ (fun a u => ?_)

@[simp] theorem storeUnitAt_still (raise : Raise) (lk u : Nat) (d : UnitData) (m : Option Mark) (dirty : Bool) (s : State) (hraise : ∀ c k ws u, Still (raise c k ws u) u) :
    Still (storeUnitAt raise lk u d m dirty s) s := by
  refine tracked_still _ _ _ _ _ hraise (fun u => ?_)
  repeat' first
    | (simp [*]; done)
    | split

@[simp] theorem mergeUnit_still (raise : Raise) (stream : Bool) (lk u : Nat) (d : UnitData) (mask : Nat) (m : Option Mark) (s : State) (hraise : ∀ c k ws u, Still (raise c k ws u) u) :
    Still (mergeUnit raise stream lk u d mask m s) s := by
  simp only [mergeUnit]
  repeat' first
    | (simp [*]; done)
    | split

@[simp] theorem mergeLine_still (raise : Raise) (lk : Nat) (d : LineData) (mask : Nat) (m0 m1 : Option Mark) (hint : Nat) (s : State) (hraise : ∀ c k ws u, Still (raise c k ws u) u) :
    Still (mergeLine raise lk d mask m0 m1 hint s) s := by
  simp only [mergeLine]
  repeat' first
    | (simp [*]; done)
    | split

@[simp] theorem homeWrite_still (raise : Raise) (lk : Nat) (d : LineData) (mask : Nat) (m0 m1 : Option Mark) (hint : Nat) (mirror : Bool) (s : State) (hraise : ∀ c k ws u, Still (raise c k ws u) u) :
    Still (homeWrite raise lk d mask m0 m1 hint mirror s) s := by
  simp only [homeWrite]
  repeat' first
    | (simp [*]; done)
    | split

@[simp] theorem homeRead_still (raise : Raise) (lk u : Nat) (s : State) (hraise : ∀ c k ws u, Still (raise c k ws u) u) :
    Still (homeRead raise lk u s).2 s := by
  simp only [homeRead]
  repeat' first
    | (simp [*]; done)
    | split
    | refine forEach_still _ _ _ _ ?_ (fun a u => ?_)

@[simp] theorem cleanLine_still (raise : Raise) (lk : Nat) (s : State) (hraise : ∀ c k ws u, Still (raise c k ws u) u) :
    Still (cleanLine raise lk s) s := by
  simp only [cleanLine]
  repeat' first
    | (simp [*]; done)
    | split

@[simp] theorem dropLine_still (lk : Nat) (s : State) :
    Still (dropLine lk s) s := by
  simp [dropLine]

@[simp] theorem giveLine_still (lk : Nat) (s : State) :
    Still (giveLine lk s) s := by
  simp only [giveLine]
  repeat' first
    | (simp [*]; done)
    | split

end Sys2Proof.Machine
end

