-- ==== Sys2Proof/Laws/StillAccess.lean ====
section
/-!
SUPPORT. Which functions of Machine/Access.lean leave alone bring-up with the floor plan, the contexts, the rings and the mailbox
(`Still` of Safety.lean): one lemma each.
-/
namespace Sys2Proof.Machine

@[simp] theorem syncTracker_still (p : Nat) (s : State) :
    Still (syncTracker p s) s := by
  simp [syncTracker]

@[simp] theorem setTxns_still (lk : Nat) (f : List Txn → List Txn) (s : State) :
    Still (setTxns lk f s) s := by
  simp [setTxns]

@[simp] theorem postTxn_still (kind : TKind) (req : Req) (lk : Nat) (d : LineData) (mask : BitVec 128) (m0 m1 : Option Mark) (hint : Nat) (mirror : Bool) (s : State) :
    Still (postTxn kind req lk d mask m0 m1 hint mirror s) s := by
  simp [postTxn]

@[simp] theorem putFlit_still (n k : Nat) (f : Flit) (s : State) :
    Still (putFlit n k f s) s := by
  simp only [putFlit]
  repeat' first
    | (simp [*]; done)
    | split
    | refine forEach_still _ _ _ _ ?_ (fun a u => ?_)

@[simp] theorem sendIdle_still (n : Nat) (nak : Bool) (s : State) :
    Still (sendIdle n nak s) s := by
  simp only [sendIdle]
  repeat' first
    | (simp [*]; done)
    | split
    | refine forEach_still _ _ _ _ ?_ (fun a u => ?_)

@[simp] theorem placeFlit_still (n : Nat) (f : Flit) (s : State) :
    Still (placeFlit n f s) s := by
  simp only [placeFlit]
  repeat' first
    | (simp [*]; done)
    | split
    | refine forEach_still _ _ _ _ ?_ (fun a u => ?_)

@[simp] theorem transmit_still (n : Nat) (m : KMsg) (u : UnitData) (s : State) :
    Still (transmit n m u s) s := by
  simp [transmit]

@[simp] theorem flushHeld_still (n : Nat) (s : State) :
    Still (flushHeld n s) s := by
  simp [flushHeld]

@[simp] theorem toSite_still (n : Nat) (m : KMsg) (u : UnitData) (s : State) :
    Still (toSite n m u s) s := by
  simp [toSite]

@[simp] theorem tgtSend_still (n : Nat) (who : Who) (key : Tgt) (write : Bool) (d : UnitData) (mask : Nat) (m : Option Mark) (s : State) :
    Still (tgtSend n who key write d mask m s) s := by
  simp [tgtSend]

@[simp] theorem windowMiss_still (raise : Raise) (w off : Nat) (write : Bool) (s : State) (hraise : ∀ c k ws u, Still (raise c k ws u) u) :
    Still (windowMiss raise w off write s) s := by
  simp only [windowMiss]
  repeat' first
    | (simp [*]; done)
    | split

@[simp] theorem hostPost_still (f addr : Nat) (bytes : List Byte) (poisoned : Bool) (s : State) :
    Still (hostPost f addr bytes poisoned s) s := by
  simp [hostPost]

@[simp] theorem hostUnit_still (raise : Raise) (w off : Nat) (d : UnitData) (mask : Nat) (m : Option Mark) (s : State) (hraise : ∀ c k ws u, Still (raise c k ws u) u) :
    Still (hostUnit raise w off d mask m s) s := by
  simp only [hostUnit]
  repeat' first
    | (simp [*]; done)
    | split

@[simp] theorem oweUnits_still (n c u : Nat) (s : State) :
    Still (oweUnits n c u s) s := by
  simp only [oweUnits]
  repeat' first
    | (simp [*]; done)
    | split
    | refine forEach_still _ _ _ _ ?_ (fun a u => ?_)

@[simp] theorem sendFabIdle_still (n : Nat) (nak : Bool) (s : State) :
    Still (sendFabIdle n nak s) s := by
  simp only [sendFabIdle]
  repeat' first
    | (simp [*]; done)
    | split
    | refine forEach_still _ _ _ _ ?_ (fun a u => ?_)

@[simp] theorem sendFabFlit_still (n : Nat) (s : State) :
    Still (sendFabFlit n s) s := by
  simp only [sendFabFlit]
  repeat' first
    | (simp [*]; done)
    | split
    | refine forEach_still _ _ _ _ ?_ (fun a u => ?_)

@[simp] theorem drainTx_still (n : Nat) (all : Bool) (fuel : Nat) (s : State) : Still (drainTx n all fuel s) s := by
  induction fuel generalizing s with
  | zero => simp [drainTx]
  | succ k ih =>
    simp only [drainTx]
    repeat' first
      | (simp [ih]; done)
      | split

@[simp] theorem kflTransmit_still (n : Nat) (m : KflMsg) (s : State) :
    Still (kflTransmit n m s) s := by
  simp [kflTransmit]

@[simp] theorem kflFlush_still (n : Nat) (s : State) :
    Still (kflFlush n s) s := by
  simp [kflFlush]

@[simp] theorem kflSend_still (out : Nat) (m : KflMsg) (s : State) :
    Still (kflSend out m s) s := by
  simp [kflSend]

theorem remoteSend_still {who : Who} {node win off msg units cls : Nat} {payload : List UnitData} {m : List (Option Mark)} {s : State} {r : Bool × State} (h : remoteSend who node win off msg units cls payload m s = some r) :
    Still r.2 s := by
  simp only [remoteSend] at h
  repeat' first
    | (cases h; done)
    | split at h
    | (cases h; simp [*]; done)
    | (cases h; simp)

@[simp] theorem arrive_still (who : Who) (key : Tgt) (d : UnitData) (m : Option Mark) (s : State) :
    Still (arrive who key d m s) s := by
  simp [arrive]

theorem takeArrival_still {who : Who} {key : Tgt} {s : State} {r : (UnitData × Option Mark) × State} (h : takeArrival who key s = some r) :
    Still r.2 s := by
  simp only [takeArrival] at h
  repeat' first
    | (cases h; done)
    | split at h
    | (cases h; simp [*]; done)
    | (cases h; simp)

@[simp] theorem askUnits_still (who : Who) (key : Tgt) (n : Nat) (s : State) :
    Still (askUnits who key n s) s := by
  simp [askUnits]

@[simp] theorem countLookup_still (ctx : Option Nat) (lk : Nat) (s : State) :
    Still (countLookup ctx lk s) s := by
  simp [countLookup]

@[simp] theorem agentRead_still (raise : Raise) (who : Who) (key : Tgt) (more cls : Nat) (s : State) (hraise : ∀ c k ws u, Still (raise c k ws u) u) :
    Still (agentRead raise who key more cls s).2 s := by
  simp only [agentRead]
  repeat' first
    | (simp [*]; done)
    | (split <;> try (first
        | (rename_i hq; have h1 := congrArg (fun p => p.2.boot) hq; have h2 := congrArg (fun p => p.2.ctxs) hq; have h3 := congrArg (fun p => p.2.rings) hq; have h4 := congrArg (fun p => p.2.mbox) hq; simp at h1 h2 h3 h4)
        | (rename_i hq; have h1 := congrArg (fun p => p.2.2.boot) hq; have h2 := congrArg (fun p => p.2.2.ctxs) hq; have h3 := congrArg (fun p => p.2.2.rings) hq; have h4 := congrArg (fun p => p.2.2.mbox) hq; simp at h1 h2 h3 h4)))
    | refine forEach_still _ _ _ _ ?_ (fun a u => ?_)
    | (simp_all; done)
    | (have hk := remoteSend_still (by assumption); simp_all; done)
    | (have hk := takeArrival_still (by assumption); simp_all; done)
    | (rename_i hq; split at hq)
    | simp

@[simp] theorem agentAtomic_still (who : Who) (node win o cls : Nat) (payload : UnitData) (s : State) :
    Still (agentAtomic who node win o cls payload s).2 s := by
  simp only [agentAtomic]
  repeat' first
    | (simp [*]; done)
    | (split <;> try (first
        | (rename_i hq; have h1 := congrArg (fun p => p.2.boot) hq; have h2 := congrArg (fun p => p.2.ctxs) hq; have h3 := congrArg (fun p => p.2.rings) hq; have h4 := congrArg (fun p => p.2.mbox) hq; simp at h1 h2 h3 h4)
        | (rename_i hq; have h1 := congrArg (fun p => p.2.2.boot) hq; have h2 := congrArg (fun p => p.2.2.ctxs) hq; have h3 := congrArg (fun p => p.2.2.rings) hq; have h4 := congrArg (fun p => p.2.2.mbox) hq; simp at h1 h2 h3 h4)))
    | refine forEach_still _ _ _ _ ?_ (fun a u => ?_)
    | (simp_all; done)
    | (have hk := remoteSend_still (by assumption); simp_all; done)
    | (have hk := takeArrival_still (by assumption); simp_all; done)
    | (rename_i hq; split at hq)
    | simp

@[simp] theorem storeLine_still (raise : Raise) (who : Who) (lk : Nat) (d : LineData) (mask : Nat) (m0 m1 : Option Mark) (hint : Nat) (mirror : Bool) (s : State) (hraise : ∀ c k ws u, Still (raise c k ws u) u) :
    Still (storeLine raise who lk d mask m0 m1 hint mirror s).2 s := by
  simp only [storeLine]
  repeat' first
    | (simp [*]; done)
    | split

@[simp] theorem storeUnit_still (raise : Raise) (who : Who) (key : Tgt) (d : UnitData) (mask : Nat) (m : Option Mark) (cls : Nat) (s : State) (hraise : ∀ c k ws u, Still (raise c k ws u) u) :
    Still (storeUnit raise who key d mask m cls s).2 s := by
  simp only [storeUnit]
  repeat' first
    | (simp [*]; done)
    | (split <;> try (first
        | (rename_i hq; have h1 := congrArg (fun p => p.2.boot) hq; have h2 := congrArg (fun p => p.2.ctxs) hq; have h3 := congrArg (fun p => p.2.rings) hq; have h4 := congrArg (fun p => p.2.mbox) hq; simp at h1 h2 h3 h4)
        | (rename_i hq; have h1 := congrArg (fun p => p.2.2.boot) hq; have h2 := congrArg (fun p => p.2.2.ctxs) hq; have h3 := congrArg (fun p => p.2.2.rings) hq; have h4 := congrArg (fun p => p.2.2.mbox) hq; simp at h1 h2 h3 h4)))
    | refine forEach_still _ _ _ _ ?_ (fun a u => ?_)
    | (simp_all; done)
    | (have hk := remoteSend_still (by assumption); simp_all; done)
    | (rename_i hq; split at hq)
    | simp

@[simp] theorem agentStore_still (raise : Raise) (who : Who) (mark : Nat → Option Mark) (hint cls : Nat) (mirror : Bool)
    (hraise : ∀ c k ws u, Still (raise c k ws u) u)
    (fuel i : Nat) (key : Tgt) (bytes : List Byte) (s : State) :
    Still ((agentStore raise who mark hint cls mirror fuel i key bytes s).2) s := by
  induction fuel generalizing i key bytes s with
  | zero => simp [agentStore]
  | succ n ih =>
    cases bytes with
    | nil => simp [agentStore]
    | cons b bs =>
      unfold agentStore
      cases key with
      | stacked k a => exact (ih ..).trans (storeLine_still _ _ _ _ _ _ _ _ _ _ hraise)
      | remote node win o =>
        refine (ih ..).trans ?_
        split
        · split
          · exact Still.refl _
          · rename_i hq
            exact remoteSend_still hq
          · rename_i hq
            exact remoteSend_still hq
        · exact storeUnit_still _ _ _ _ _ _ _ _ hraise
      | _ => exact (ih ..).trans (storeUnit_still _ _ _ _ _ _ _ _ hraise)

@[simp] theorem storeBytes_still (raise : Raise) (who : Who) (key : Tgt) (bytes : List Byte) (hint cls : Nat) (mirror : Bool) (s : State) (hraise : ∀ c k ws u, Still (raise c k ws u) u) :
    Still (storeBytes raise who key bytes hint cls mirror s).2 s := by
  simp only [storeBytes]
  repeat' first
    | (simp [*]; done)
    | split

@[simp] theorem ackWrite_still (who : Who) (fail : Option Nat) (s : State) :
    Still (ackWrite who fail s) s := by
  simp only [ackWrite]
  repeat' first
    | (simp [*]; done)
    | split

end Sys2Proof.Machine
end

