-- ==== Sys2Proof/Laws/StillRecords.lean ====
section
/-!
SUPPORT. Which functions of Machine/Records.lean leave alone bring-up with the floor plan, the contexts, the rings and the mailbox
(`Still` of Safety.lean): one lemma each.
-/
namespace Sys2Proof.Machine

@[simp] theorem storeHeld_still (raise : Raise) (who : Who) (e : CacheEnt) (va : Nat) (bytes : List Byte) (s : State) (hraise : ∀ c k ws u, Still (raise c k ws u) u) :
    Still (storeHeld raise who e va bytes s) s := by
  simp only [storeHeld]
  repeat' first
    | (simp [*]; done)
    | split
    | refine forEach_still _ _ _ _ ?_ (fun a u => ?_)

@[simp] theorem dropOp_still (s : State) :
    Still (dropOp s) s := by
  simp [dropOp]

@[simp] theorem keepRecord_still (r : Rec) (s : State) :
    Still (keepRecord r s) s := by
  simp [keepRecord]

@[simp] theorem quietRaise_still (c : Nat) (k : Bool) (ws : List Nat) (u : State) :
    Still (quietRaise c k ws u) u := by
  simp only [quietRaise]
  split <;> simp

@[simp] theorem writeOp_still (r : Rec) (s : State) :
    Still (writeOp r s) s := by
  simp [writeOp]

@[simp] theorem placeLost_still (s : State) :
    Still (placeLost s) s := by
  simp [placeLost]

@[simp] theorem drainKept_still (n : Nat) (s : State) :
    Still ((drainKept n s)) s := by
  induction n generalizing s with
  | zero => simp [drainKept]
  | succ n ih =>
    simp only [drainKept]
    repeat' first
      | (simp [*]; done)
      | split

@[simp] theorem opRecord_still (code : Nat) (kept : Bool) (words : List Nat) (s : State) :
    Still (opRecord code kept words s) s := by
  simp [opRecord]

@[simp] theorem serviceRequest_still (ty id cause action : Nat) (s : State) :
    Still (serviceRequest ty id cause action s) s := by
  simp [serviceRequest]

end Sys2Proof.Machine
end

