-- ==== Sys2Proof/Laws/StillTranslate.lean ====
section
/-!
SUPPORT. Which functions of Machine/Translate.lean leave alone bring-up with the floor plan, the contexts, the rings and the mailbox
(`Still` of Safety.lean): one lemma each.
-/
namespace Sys2Proof.Machine

@[simp] theorem updCache_still (who : Who) (f : List CacheEnt → List CacheEnt) (s : State) :
    Still (updCache who f s) s := by
  simp only [updCache]
  split <;> simp

@[simp] theorem forget_still (who : Who) (ctx va : Nat) (s : State) :
    Still (forget who ctx va s) s := by
  simp [forget]

@[simp] theorem stallFault_still (who : Who) (ctx va : Nat) (acc : AccKind) (cause : XFault) (level : Nat) (s : State) :
    Still (stallFault who ctx va acc cause level s) s := by
  simp [stallFault]

@[simp] theorem countCtc_still (who : Who) (ctx ev : Nat) (s : State) :
    Still (countCtc who ctx ev s) s := by
  simp only [countCtc]
  split <;> simp

@[simp] theorem xlate_still (who : Who) (ctx va : Nat) (acc : AccKind) (s : State) :
    Still (xlate who ctx va acc s).2 s := by
  simp only [xlate]
  repeat' first
    | (simp [*]; done)
    | split

@[simp] theorem walkEntry_still (p k : Nat) (w : Walk) (e : Option Nat) (s : State) :
    Still (walkEntry p k w e s) s := by
  simp only [walkEntry]
  repeat' first
    | (simp [*]; done)
    | split

@[simp] theorem syncLive_still (p : Nat) (s : State) :
    Still (syncLive p s) s := by
  simp [syncLive]

@[simp] theorem freePft_still (p i : Nat) (s : State) :
    Still (freePft p i s) s := by
  simp [freePft]

@[simp] theorem clearBits_still (p : Nat) (gone : List (Nat × Nat × Nat)) (s : State) :
    Still (clearBits p gone s) s := by
  simp [clearBits]

@[simp] theorem trimWalks_still (s : State) :
    Still (trimWalks s) s := by
  simp [trimWalks]

@[simp] theorem endStalls_still (q : Who → Nat → Bool) (s : State) :
    Still (endStalls q s) s := by
  simp [endStalls]

@[simp] theorem leaveStalls_still (q : Who → Nat → Bool) (s : State) :
    Still (leaveStalls q s) s := by
  simp [leaveStalls]

@[simp] theorem dropArrivals_still (q : Who → Bool) (s : State) :
    Still (dropArrivals q s) s := by
  simp [dropArrivals]

@[simp] theorem leaveFaults_still (q : Who → Nat → Bool) (s : State) :
    Still (leaveFaults q s) s := by
  simp [leaveFaults]

@[simp] theorem dropFaults_still (ctx : Nat) (s : State) :
    Still (dropFaults ctx s) s := by
  simp [dropFaults]

end Sys2Proof.Machine
end

