-- ==== Sys2Proof/Laws/StillCoherence.lean ====
section
/-!
SUPPORT. Which functions of Machine/Coherence.lean leave alone bring-up with the floor plan, the contexts, the rings and the mailbox
(`Still` of Safety.lean): one lemma each.
-/
namespace Sys2Proof.Machine

@[simp] theorem updTxn_still (id : Nat) (f : Txn → Txn) (s : State) :
    Still (updTxn id f s) s := by
  simp [updTxn]

@[simp] theorem endTxn_still (t : Txn) (s : State) :
    Still (endTxn t s) s := by
  simp [endTxn]

@[simp] theorem sendMsg_still (m : CMsg) (s : State) :
    Still (sendMsg m s) s := by
  simp [sendMsg]

@[simp] theorem syncOwners_still (p : Nat) (s : State) :
    Still (syncOwners p s) s := by
  simp [syncOwners]

@[simp] theorem ownLine_still (lk n : Nat) (s : State) :
    Still (ownLine lk n s) s := by
  simp [ownLine]

@[simp] theorem freeOwner_still (lk : Nat) (s : State) :
    Still (freeOwner lk s) s := by
  simp [freeOwner]

@[simp] theorem protocolError_still (n msg : Nat) (s : State) :
    Still (protocolError n msg s) s := by
  simp [protocolError]

@[simp] theorem storeReturn_still (lk u : Nat) (d : UnitData) (m : Option Mark) (dirty : Bool) (s : State) :
    Still (storeReturn lk u d m dirty s) s := by
  simp only [storeReturn]
  split <;> simp

@[simp] theorem poisonLine_still (lk : Nat) (s : State) :
    Still (poisonLine lk s) s := by
  simp [poisonLine]

@[simp] theorem readLine_still (lk : Nat) (us : List Nat) (s : State) :
    Still (readLine lk us s).2.2 s := by
  simp only [readLine]
  repeat' first
    | (simp [*]; done)
    | split

@[simp] theorem doAtomic_still (lk off w op x cmp : Nat) (mirror : Bool) (s : State) :
    Still (doAtomic lk off w op x cmp mirror s).2 s := by
  simp only [doAtomic]
  repeat' first
    | (simp [*]; done)
    | split
    | refine forEach_still _ _ _ _ ?_ (fun a u => ?_)

@[simp] theorem mergeTxn_still (t : Txn) (s : State) :
    Still (mergeTxn t s) s := by
  simp only [mergeTxn]
  repeat' first
    | (simp [*]; done)
    | split

@[simp] theorem awaitMem_still (t : Txn) (s : State) :
    Still (awaitMem t s) s := by
  simp [awaitMem]

@[simp] theorem ackTxn_still (t : Txn) (s : State) :
    Still (ackTxn t s) s := by
  simp only [ackTxn]
  split <;> simp

@[simp] theorem evictLine_still (l : Nat) (s : State) :
    Still (evictLine l s) s := by
  simp [evictLine]

@[simp] theorem serveTxn_still (t : Txn) (fwd : Bool) (s : State) :
    Still (serveTxn t fwd s) s := by
  simp only [serveTxn]
  repeat' first
    | (simp [*]; done)
    | split

@[simp] theorem unowned_still (t : Txn) (fwd : Bool) (s : State) :
    Still (unowned t fwd s) s := by
  simp [unowned]

@[simp] theorem updAgentReq_still (n txn : Nat) (f : AgentReq → AgentReq) (s : State) :
    Still (updAgentReq n txn f s) s := by
  simp [updAgentReq]

@[simp] theorem countRequest_still (t : Txn) (s : State) :
    Still (countRequest t s) s := by
  simp only [countRequest]
  split <;> simp

@[simp] theorem snoopOwner_still (t : Txn) (k : Nat) (s : State) :
    Still (snoopOwner t k s) s := by
  simp only [snoopOwner]
  repeat' first
    | (simp [*]; done)
    | split

@[simp] theorem plazaUe_still (lk u : Nat) (s : State) :
    Still (plazaUe lk u s) s := by
  simp only [plazaUe]
  split <;> simp

@[simp] theorem absorbTxn_still (t : Txn) (s : State) :
    Still (absorbTxn t s) s := by
  simp only [absorbTxn]
  repeat' first
    | (simp [*]; done)
    | split
    | refine forEach_still _ _ _ _ ?_ (fun a u => ?_)

@[simp] theorem putBefore_still (t : Txn) (kind : TKind) (l : Nat) (s : State) :
    Still (putBefore t kind l s) s := by
  simp only [putBefore]
  repeat' first
    | (simp [*]; done)
    | split
    | refine forEach_still _ _ _ _ ?_ (fun a u => ?_)

@[simp] theorem lookUp_still (t : Txn) (ev : HomeEv) (s : State) :
    Still (lookUp t ev s) s := by
  simp only [lookUp]
  repeat' first
    | (simp [*]; done)
    | split
    | refine forEach_still _ _ _ _ ?_ (fun a u => ?_)

@[simp] theorem unownedOrSnoop_still (t : Txn) (s : State) :
    Still (unownedOrSnoop t s) s := by
  simp only [unownedOrSnoop]
  repeat' first
    | (simp [*]; done)
    | split
    | refine forEach_still _ _ _ _ ?_ (fun a u => ?_)

@[simp] theorem startBefore_still (t : Txn) (kind : TKind) (l : Nat) (s : State) :
    Still (startBefore t kind l s) s := by
  simp only [startBefore]
  repeat' first
    | (simp [*]; done)
    | split
    | refine forEach_still _ _ _ _ ?_ (fun a u => ?_)

@[simp] theorem startRecall_still (t : Txn) (l : Nat) (s : State) :
    Still (startRecall t l s) s := by
  simp only [startRecall]
  repeat' first
    | (simp [*]; done)
    | split
    | refine forEach_still _ _ _ _ ?_ (fun a u => ?_)

theorem makeRoom_still (t : Txn) (l : Nat) (choice : Option Nat) (go : State → State) (s : State)
    (hgo : ∀ u, Still (go u) u) : Still (makeRoom t l choice go s) s := by
  simp only [makeRoom]
  repeat' first
    | (simp [*]; done)
    | split

@[simp] theorem carryOut_still (t : Txn) (s : State) :
    Still (carryOut t s) s := by
  simp only [carryOut]
  repeat' first
    | (simp [*]; done)
    | split
    | refine forEach_still _ _ _ _ ?_ (fun a u => ?_)

@[simp] theorem beginTxn_still (t : Txn) (choice : Option Nat) (s : State) :
    Still (beginTxn t choice s) s := by
  simp only [beginTxn]
  split
  · refine makeRoom_still _ _ _ _ _ (fun u => ?_)
    split <;> simp
  · simp

@[simp] theorem recallLine_still (lk : Nat) (s : State) :
    Still (recallLine lk s) s := by
  simp only [recallLine]
  repeat' first
    | (simp [*]; done)
    | split
    | refine forEach_still _ _ _ _ ?_ (fun a u => ?_)

@[simp] theorem compFwd_still (t : Txn) (m : Option Mark) (s : State) :
    Still (compFwd t m s) s := by
  simp [compFwd]

@[simp] theorem afterSnoop_still (t : Txn) (gone : Bool) (s : State) :
    Still (afterSnoop t gone s) s := by
  simp only [afterSnoop]
  repeat' first
    | (simp [*]; done)
    | split
    | refine forEach_still _ _ _ _ ?_ (fun a u => ?_)

@[simp] theorem snpRsp_still (n txn : Nat) (toReq toHome : Bool) (left : Nat) (s : State) :
    Still (snpRsp n txn toReq toHome left s) s := by
  simp only [snpRsp]
  repeat' first
    | (simp [*]; done)
    | split
    | refine forEach_still _ _ _ _ ?_ (fun a u => ?_)

@[simp] theorem wbData_still (n txn u : Nat) (d : UnitData) (m : Option Mark) (dirty : Bool) (s : State) :
    Still (wbData n txn u d m dirty s) s := by
  simp only [wbData]
  split <;> simp

@[simp] theorem kspUnit_still (n txn cls u : Nat) (d : UnitData) (m : Option Mark) (g : Grant) (s : State) :
    Still (kspUnit n txn cls u d m g s) s := by
  simp only [kspUnit]
  repeat' first
    | (simp [*]; done)
    | split
    | refine forEach_still _ _ _ _ ?_ (fun a u => ?_)

@[simp] theorem kspData_still (n txn u : Nat) (d : UnitData) (m : Option Mark) (g : Grant) (s : State) :
    Still (kspData n txn u d m g s) s := by
  simp [kspData]

@[simp] theorem compAck_still (n txn : Nat) (s : State) :
    Still (compAck n txn s) s := by
  simp only [compAck]
  split <;> simp

@[simp] theorem retireAgent_still (n txn : Nat) (s : State) :
    Still (retireAgent n txn s) s := by
  simp [retireAgent]

@[simp] theorem cxlDeliver_still (n txn : Nat) (s : State) :
    Still (cxlDeliver n txn s) s := by
  simp only [cxlDeliver]
  split <;> simp

@[simp] theorem deliverData_still (req : Req) (lk : Nat) (d : LineData) (m0 m1 : Option Mark) (g : Grant) (s : State) :
    Still (deliverData req lk d m0 m1 g s) s := by
  simp only [deliverData]
  repeat' first
    | (simp [*]; done)
    | split

@[simp] theorem settleFwd_still (f : Fwd) (s : State) :
    Still (settleFwd f s) s := by
  simp only [settleFwd]
  repeat' first
    | (simp [*]; done)
    | split

theorem routeData_still {num u : Nat} {d : UnitData} {m : Option Mark} {g : Grant} {s : State} {r : State} (h : routeData num u d m g s = some r) :
    Still r s := by
  simp only [routeData] at h
  repeat' first
    | (cases h; done)
    | split at h
    | (cases h; simp [*]; done)
    | (cases h; simp)

@[simp] theorem deliverComp_still (req : Req) (id : Nat) (m : Option Mark) (s : State) :
    Still (deliverComp req id m s) s := by
  simp only [deliverComp]
  repeat' first
    | (simp [*]; done)
    | split

@[simp] theorem deliverWrAck_still (req : Req) (status : Nat) (s : State) :
    Still (deliverWrAck req status s) s := by
  simp only [deliverWrAck]
  split <;> simp

@[simp] theorem deliverWbAck_still (req : Req) (ok : Bool) (s : State) :
    Still (deliverWbAck req ok s) s := by
  simp only [deliverWbAck]
  split <;> simp

@[simp] theorem memDone_still (id : Nat) (s : State) :
    Still (memDone id s) s := by
  simp only [memDone]
  repeat' first
    | (simp [*]; done)
    | split

@[simp] theorem stashAck_still (n txn : Nat) (s : State) :
    Still (stashAck n txn s) s := by
  simp only [stashAck]
  split <;> simp

@[simp] theorem takeMsg_still (m : CMsg) (s : State) :
    Still (takeMsg m s) s := by
  simp [takeMsg]

@[simp] theorem snoopSite_still (n code lk txn : Nat) (req : Req) (s : State) :
    Still (snoopSite n code lk txn req s) s := by
  simp [snoopSite]

@[simp] theorem directedSnoop_still (code n : Nat) (s : State) :
    Still (directedSnoop code n s) s := by
  simp only [directedSnoop]
  repeat' first
    | (simp [*]; done)
    | split

theorem takeInbox_still {n cls : Nat} {q : KMsg → Bool} {s : State} {r : (KMsg × UnitData) × State} (h : takeInbox n cls q s = some r) :
    Still r.2 s := by
  simp only [takeInbox] at h
  repeat' first
    | (cases h; done)
    | split at h
    | (cases h; simp [*]; done)
    | (cases h; simp)

theorem execSnpFwdShared_still (n : Fin 6) (s : State) {sN : State} (h : execSnpFwdShared n s = .next sN) :
    Still sN s := by
  simp only [execSnpFwdShared] at h
  injection h with h
  subst h
  simp

theorem execSnpFwdUnique_still (n : Fin 6) (s : State) {sN : State} (h : execSnpFwdUnique n s = .next sN) :
    Still sN s := by
  simp only [execSnpFwdUnique] at h
  injection h with h
  subst h
  simp

theorem execSnpFwdOnce_still (n : Fin 6) (s : State) {sN : State} (h : execSnpFwdOnce n s = .next sN) :
    Still sN s := by
  simp only [execSnpFwdOnce] at h
  injection h with h
  subst h
  simp

theorem execSnpRecall_still (n : Fin 6) (s : State) {sN : State} (h : execSnpRecall n s = .next sN) :
    Still sN s := by
  simp only [execSnpRecall] at h
  injection h with h
  subst h
  simp

theorem execSnpDrop_still (n : Fin 6) (s : State) {sN : State} (h : execSnpDrop n s = .next sN) :
    Still sN s := by
  simp only [execSnpDrop] at h
  injection h with h
  subst h
  simp

@[simp] theorem moveOnRing_still (m x : CMsg) (stop slot : Nat) (s : State) :
    Still (moveOnRing m x stop slot s) s := by
  simp only [moveOnRing]
  repeat' first
    | (simp [*]; done)
    | split
    | refine forEach_still _ _ _ _ ?_ (fun a u => ?_)

theorem execSnpInvPass_still (n : Fin 6) (txn : Nat) (s : State) {sN : State} (h : execSnpInvPass n txn s = .next sN) :
    Still sN s := by
  simp only [execSnpInvPass] at h
  injection h with h
  subst h
  split <;> simp

theorem execSnpInvReturn_still (txn : Nat) (s : State) {sN : State} (h : execSnpInvReturn txn s = .next sN) :
    Still sN s := by
  simp only [execSnpInvReturn] at h
  injection h with h
  subst h
  repeat' first
    | (simp [*]; done)
    | split

theorem execRingSlotMark_still (stop : Fin 42) (s : State) {sN : State} (h : execRingSlotMark stop s = .next sN) :
    Still sN s := by
  simp only [execRingSlotMark] at h
  injection h with h
  subst h
  repeat' first
    | (simp [*]; done)
    | split
    | refine forEach_still _ _ _ _ ?_ (fun a u => ?_)

theorem execSnpRsp_still (n : Fin 6) (s : State) {sN : State} (h : execSnpRsp n s = .next sN) :
    Still sN s := by
  simp only [execSnpRsp] at h
  injection h with h
  subst h
  repeat' first
    | (simp [*]; done)
    | (split <;> try (first
        | (rename_i hq; have h1 := congrArg (fun p => p.2.boot) hq; have h2 := congrArg (fun p => p.2.ctxs) hq; have h3 := congrArg (fun p => p.2.rings) hq; have h4 := congrArg (fun p => p.2.mbox) hq; simp at h1 h2 h3 h4)
        | (rename_i hq; have h1 := congrArg (fun p => p.2.2.boot) hq; have h2 := congrArg (fun p => p.2.2.ctxs) hq; have h3 := congrArg (fun p => p.2.2.rings) hq; have h4 := congrArg (fun p => p.2.2.mbox) hq; simp at h1 h2 h3 h4)))
    | refine forEach_still _ _ _ _ ?_ (fun a u => ?_)
    | (simp_all; done)
    | (have hk := takeInbox_still (by assumption); simp_all; done)
    | (rename_i hq; split at hq)
    | simp

theorem execCompAck_still (n : Fin 6) (s : State) {sN : State} (h : execCompAck n s = .next sN) :
    Still sN s := by
  simp only [execCompAck] at h
  injection h with h
  subst h
  repeat' first
    | (simp [*]; done)
    | (split <;> try (first
        | (rename_i hq; have h1 := congrArg (fun p => p.2.boot) hq; have h2 := congrArg (fun p => p.2.ctxs) hq; have h3 := congrArg (fun p => p.2.rings) hq; have h4 := congrArg (fun p => p.2.mbox) hq; simp at h1 h2 h3 h4)
        | (rename_i hq; have h1 := congrArg (fun p => p.2.2.boot) hq; have h2 := congrArg (fun p => p.2.2.ctxs) hq; have h3 := congrArg (fun p => p.2.2.rings) hq; have h4 := congrArg (fun p => p.2.2.mbox) hq; simp at h1 h2 h3 h4)))
    | refine forEach_still _ _ _ _ ?_ (fun a u => ?_)
    | (simp_all; done)
    | (have hk := takeInbox_still (by assumption); simp_all; done)
    | (rename_i hq; split at hq)
    | simp

theorem execWbData_still (n : Fin 6) (s : State) {sN : State} (h : execWbData n s = .next sN) :
    Still sN s := by
  simp only [execWbData] at h
  injection h with h
  subst h
  repeat' first
    | (simp [*]; done)
    | (split <;> try (first
        | (rename_i hq; have h1 := congrArg (fun p => p.2.boot) hq; have h2 := congrArg (fun p => p.2.ctxs) hq; have h3 := congrArg (fun p => p.2.rings) hq; have h4 := congrArg (fun p => p.2.mbox) hq; simp at h1 h2 h3 h4)
        | (rename_i hq; have h1 := congrArg (fun p => p.2.2.boot) hq; have h2 := congrArg (fun p => p.2.2.ctxs) hq; have h3 := congrArg (fun p => p.2.2.rings) hq; have h4 := congrArg (fun p => p.2.2.mbox) hq; simp at h1 h2 h3 h4)))
    | refine forEach_still _ _ _ _ ?_ (fun a u => ?_)
    | (simp_all; done)
    | (have hk := takeInbox_still (by assumption); simp_all; done)
    | (rename_i hq; split at hq)
    | simp

theorem execStashAck_still (n : Fin 6) (s : State) {sN : State} (h : execStashAck n s = .next sN) :
    Still sN s := by
  simp only [execStashAck] at h
  injection h with h
  subst h
  repeat' first
    | (simp [*]; done)
    | (split <;> try (first
        | (rename_i hq; have h1 := congrArg (fun p => p.2.boot) hq; have h2 := congrArg (fun p => p.2.ctxs) hq; have h3 := congrArg (fun p => p.2.rings) hq; have h4 := congrArg (fun p => p.2.mbox) hq; simp at h1 h2 h3 h4)
        | (rename_i hq; have h1 := congrArg (fun p => p.2.2.boot) hq; have h2 := congrArg (fun p => p.2.2.ctxs) hq; have h3 := congrArg (fun p => p.2.2.rings) hq; have h4 := congrArg (fun p => p.2.2.mbox) hq; simp at h1 h2 h3 h4)))
    | refine forEach_still _ _ _ _ ?_ (fun a u => ?_)
    | (simp_all; done)
    | (have hk := takeInbox_still (by assumption); simp_all; done)
    | (rename_i hq; split at hq)
    | simp

theorem execMemDone_still (i : Nat) (s : State) {sN : State} (h : execMemDone i s = .next sN) :
    Still sN s := by
  simp only [execMemDone] at h
  injection h with h
  subst h
  split <;> simp

@[simp] theorem pushStash_still (n : Nat) (s : State) :
    Still (pushStash n s) s := by
  simp only [pushStash]
  split <;> simp

@[simp] theorem pushStashes_still (s : State) :
    Still (pushStashes s) s := by
  simp only [pushStashes]
  repeat' first
    | (simp [*]; done)
    | split
    | refine forEach_still _ _ _ _ ?_ (fun a u => ?_)

theorem dataEvent_still (src : Option (Fin 6)) (i : Nat) (s : State) {t : State} (h : dataEvent src i s = .next t) :
    Still t s := by
  simp only [dataEvent] at h
  injection h with h
  subst h
  repeat' first
    | (simp [*]; done)
    | (have hk := routeData_still (by assumption); have hj := takeInbox_still (by assumption); simp_all; done)
    | (have hj := takeInbox_still (by assumption); simp_all; done)
    | split

theorem compEvent_still (i : Nat) (s : State) {sN : State} (h : compEvent i s = .next sN) :
    Still sN s := by
  simp only [compEvent] at h
  injection h with h
  subst h
  split <;> simp

theorem wrAckEvent_still (i : Nat) (s : State) {sN : State} (h : wrAckEvent i s = .next sN) :
    Still sN s := by
  simp only [wrAckEvent] at h
  injection h with h
  subst h
  split <;> simp

theorem execWbAck_still (i : Nat) (s : State) {sN : State} (h : execWbAck i s = .next sN) :
    Still sN s := by
  simp only [execWbAck] at h
  injection h with h
  subst h
  split <;> simp

@[simp] theorem flushAll_still (s : State) :
    Still (flushAll s) s := by
  simp [flushAll]

theorem execFlushAll_still (s : State) {sN : State} (h : execFlushAll s = .next sN) :
    Still sN s := by
  simp only [execFlushAll] at h
  injection h with h
  subst h
  simp

theorem execFlushAllDone_still (s : State) {sN : State} (h : execFlushAllDone s = .next sN) :
    Still sN s := by
  simp only [execFlushAllDone] at h
  injection h with h
  subst h
  simp

end Sys2Proof.Machine
end

