-- ==== Sys2Proof/Laws/StillShared.lean ====
section
/-!
SUPPORT. Which functions of Machine/Shared.lean leave alone bring-up with the floor plan, the contexts, the rings and the mailbox
(`Still` of Safety.lean): one lemma each.
-/
namespace Sys2Proof.Machine

@[simp] theorem setCap_still (r c : Nat) (s : State) :
    Still (setCap r c s) s := by
  simp [setCap]

@[simp] theorem syncStackCap_still (k : Nat) (s : State) :
    Still (syncStackCap k s) s := by
  simp [syncStackCap]

@[simp] theorem syncClocks_still (k : Nat) (s : State) :
    Still (syncClocks k s) s := by
  simp [syncClocks]

@[simp] theorem sideband_still (n mtype : Nat) (fields : List (Nat × Nat)) (rest : List Nat) (s : State) :
    Still (sideband n mtype fields rest s) s := by
  simp only [sideband]
  repeat' first
    | (simp [*]; done)
    | split
    | refine forEach_still _ _ _ _ ?_ (fun a u => ?_)

@[simp] theorem sendBudget_still (n watts : Nat) (clamp : Bool) (s : State) :
    Still (sendBudget n watts clamp s) s := by
  simp only [sendBudget]
  repeat' first
    | (simp [*]; done)
    | split
    | refine forEach_still _ _ _ _ ?_ (fun a u => ?_)

@[simp] theorem thermalTrip_still (sensor stack die temp : Nat) (s : State) :
    Still (thermalTrip sensor stack die temp s) s := by
  simp [thermalTrip]

@[simp] theorem failOver_still (n k : Nat) (s : State) :
    Still (failOver n k s) s := by
  simp [failOver]

@[simp] theorem poisonRegion_still (n u : Nat) (s : State) :
    Still (poisonRegion n u s) s := by
  simp [poisonRegion]

@[simp] theorem regionsLose_still (k : Nat) (s : State) :
    Still (regionsLose k s) s := by
  simp only [regionsLose]
  repeat' first
    | (simp [*]; done)
    | split
    | refine forEach_still _ _ _ _ ?_ (fun a u => ?_)

@[simp] theorem recallStack_still (k : Nat) (s : State) :
    Still (recallStack k s) s := by
  simp only [recallStack]
  repeat' first
    | (simp [*]; done)
    | split
    | refine forEach_still _ _ _ _ ?_ (fun a u => ?_)

end Sys2Proof.Machine
end

