-- ==== Sys2Proof/Laws/StillCairn.lean ====
section
/-!
SUPPORT. Which functions of Machine/Cairn.lean leave alone bring-up with the floor plan, the contexts, the rings and the mailbox
(`Still` of Safety.lean): one lemma each.
-/
namespace Sys2Proof.Machine

@[simp] theorem readUnits_still (who : Who) (ctx cls fuel unit : Nat) (got : List (Tgt × UnitData × Option Mark)) (s : State) :
    Still (readUnits who ctx cls fuel unit got s).2 s := by
  induction fuel generalizing unit got s with
  | zero => simp [readUnits]
  | succ n ih =>
    simp only [readUnits]
    repeat' first
      | (simp [*]; done)
      | (split <;> try (first
        | (rename_i hq; have h1 := congrArg (fun p => p.2.boot) hq; have h2 := congrArg (fun p => p.2.ctxs) hq; have h3 := congrArg (fun p => p.2.rings) hq; have h4 := congrArg (fun p => p.2.mbox) hq; simp at h1 h2 h3 h4)
        | (rename_i hq; have h1 := congrArg (fun p => p.2.2.boot) hq; have h2 := congrArg (fun p => p.2.2.ctxs) hq; have h3 := congrArg (fun p => p.2.2.rings) hq; have h4 := congrArg (fun p => p.2.2.mbox) hq; simp at h1 h2 h3 h4)))
      | refine forEach_still _ _ _ _ ?_ (fun a u => ?_)

@[simp] theorem readRange_still (who : Who) (ctx cls va len : Nat) (s : State) :
    Still (readRange who ctx cls va len s).2 s := by
  simp only [readRange]
  repeat' first
    | (simp [*]; done)
    | (split <;> try (first
        | (rename_i hq; have h1 := congrArg (fun p => p.2.boot) hq; have h2 := congrArg (fun p => p.2.ctxs) hq; have h3 := congrArg (fun p => p.2.rings) hq; have h4 := congrArg (fun p => p.2.mbox) hq; simp at h1 h2 h3 h4)
        | (rename_i hq; have h1 := congrArg (fun p => p.2.2.boot) hq; have h2 := congrArg (fun p => p.2.2.ctxs) hq; have h3 := congrArg (fun p => p.2.2.rings) hq; have h4 := congrArg (fun p => p.2.2.mbox) hq; simp at h1 h2 h3 h4)))
    | refine forEach_still _ _ _ _ ?_ (fun a u => ?_)
    | (simp_all; done)
    | (rename_i hq; split at hq)
    | simp

@[simp] theorem writeTargets_still (who : Who) (ctx : Nat) (l : List (Nat × Nat)) (s : State) :
    Still (writeTargets who ctx l s).2.2 s := by
  induction l generalizing s with
  | nil => exact Still.refl _
  | cons a l ih =>
    obtain ⟨va, n⟩ := a
    have hx := xlate_still who ctx va .write s
    unfold writeTargets
    generalize xlate who ctx va .write s = r at hx
    obtain ⟨o, s1⟩ := r
    cases o with
    | ok tgt ent =>
      dsimp only
      split
      · exact hx
      · have hw := ih s1
        generalize writeTargets who ctx l s1 = q at hw
        obtain ⟨q, b, s2⟩ := q
        cases q <;> exact hw.trans hx
    | _ => exact hx

@[simp] theorem updGroup_still (id : Nat) (f : Group → Group) (s : State) :
    Still (updGroup id f s) s := by
  simp [updGroup]

@[simp] theorem syncGroups_still (p : Nat) (s : State) :
    Still (syncGroups p s) s := by
  simp [syncGroups]

@[simp] theorem redSend_still (p : Nat) (m : KflMsg) (s : State) :
    Still (redSend p m s) s := by
  simp [redSend]

@[simp] theorem redData_still (p : Nat) (l : Live) (down fp32 : Bool) (c : Nat) (bs : List Byte) (m : Option Mark) (s : State) :
    Still (redData p l down fp32 c bs m s) s := by
  simp [redData]

@[simp] theorem redReady_still (p : Nat) (l : Live) (g : Group) (s : State) :
    Still (redReady p l g s) s := by
  simp [redReady]

@[simp] theorem endGroup_still (id status port : Nat) (ff : Option (Nat × Nat)) (from? : Option Nat) (s : State) :
    Still (endGroup id status port ff from? s) s := by
  simp only [endGroup]
  split <;> simp

@[simp] theorem failGroup_still (id status port : Nat) (from? : Option Nat) (s : State) :
    Still (failGroup id status port from? s) s := by
  simp [failGroup]

@[simp] theorem drainGroups_still (c : Nat) (s : State) :
    Still (drainGroups c s) s := by
  simp only [drainGroups]
  repeat' first
    | (simp [*]; done)
    | split
    | refine forEach_still _ _ _ _ ?_ (fun a u => ?_)

@[simp] theorem abortReduce_still (id : Nat) (s : State) :
    Still (abortReduce id s) s := by
  simp only [abortReduce]
  split <;> simp

@[simp] theorem portGroups_still (p : Nat) (s : State) :
    Still (portGroups p s) s := by
  simp [portGroups]

theorem storePieces_still (who : Who) (m : Option Mark) (cls : Nat) (ts : List (Tgt × Nat × Nat))
    (st : (List Byte × Nat × Option Nat) × State) :
    Still (ts.foldl (fun (st : (List Byte × Nat × Option Nat) × State) t =>
      let a := agentStore opRecord who (fun _ => m) 0 cls (entMirror t.2.1) (t.2.2 + 1) 0 t.1
        (st.1.1.take t.2.2) st.2
      ((st.1.1.drop t.2.2, st.1.2.1 + a.1.1, st.1.2.2.or a.1.2), a.2)) st).2 st.2 := by
  induction ts generalizing st with
  | nil => exact Still.refl _
  | cons a ts ih =>
    rw [List.foldl_cons]
    refine (ih _).trans ?_
    exact agentStore_still _ _ _ _ _ _ (by intros; simp) _ _ _ _ _

@[simp] theorem writeChunk_still (id : Nat) (g : Group) (l : Live) (ts : List (Tgt × Nat × Nat)) (bs : List Byte) (m : Option Mark)
    (s : State) : Still (writeChunk id g l ts bs m s) s := by
  have h := storePieces_still (.reduce g.port id) m (redClass l) ts ((bs, 0, none), s)
  unfold writeChunk
  extract_lets r s1
  have h1 : Still s1 s := (updGroup_still ..).trans h
  clear_value s1 r
  split
  · exact (updLive_still ..).trans h1
  · exact h1

@[simp] theorem sendChunk_still (id : Nat) (g : Group) (l : Live) (ts : List (Tgt × Nat × Nat)) (bs : List Byte) (vs : List Nat)
    (m : Option Mark) (s : State) : Still (sendChunk id g l ts bs vs m s) s := by
  simp only [sendChunk]
  split
  · exact forEach_still _ _ _ _ (writeChunk_still ..) (fun a u => redData_still ..)
  · split <;> exact redData_still ..

@[simp] theorem formRead_still (id : Nat) (g : Group) (l : Live) (ts : List (Tgt × Nat × Nat)) (r : RangeRes × State) :
    Still (formRead id g l ts r) r.2 := by
  obtain ⟨r, s2⟩ := r
  unfold formRead
  cases r with
  | wait => exact Still.refl _
  | aborted => exact abortReduce_still ..
  | ok bs m =>
    dsimp only
    generalize hs3 : countEvent (blkPort g.port) 0x64 none none none 1 _ = s3
    have h3 : Still s3 s2 := by
      rw [← hs3]
      exact (countEvent_still ..).trans (updGroup_still ..)
    have h4 : ∀ vs mk, Still (sendChunk id g l ts bs vs mk s3) s2 := fun vs mk => (sendChunk_still ..).trans h3
    split
    · split
      · exact forEach_still _ _ _ _ (h4 ..) (fun a u => redReady_still ..)
      · exact h4 ..
    · exact h4 ..

@[simp] theorem formFound_still (id : Nat) (g : Group) (l : Live) (wt : Option (List (Tgt × Nat × Nat)) × Bool × State) :
    Still (formFound id g l wt) wt.2.2 := by
  obtain ⟨w1, ab, s1⟩ := wt
  unfold formFound
  cases w1 with
  | none =>
    dsimp only
    split
    · exact abortReduce_still ..
    · exact Still.refl _
  | some ts =>
    dsimp only
    exact (formRead_still ..).trans (readRange_still ..)

@[simp] theorem formChunk_still (id : Nat) (s : State) : Still (formChunk id s) s := by
  unfold formChunk
  split
  · split
    · dsimp only
      refine (formFound_still ..).trans ?_
      split
      · exact writeTargets_still ..
      · exact Still.refl _
    · exact Still.refl _
  · exact Still.refl _

@[simp] theorem reduceRead_still (id : Nat) (r : RangeRes × State) : Still (reduceRead id r) r.2 := by
  obtain ⟨r, s⟩ := r
  unfold reduceRead
  cases r with
  | wait => exact Still.refl _
  | aborted => exact abortReduce_still ..
  | ok bs m =>
    cases m with
    | some m => exact updLive_still ..
    | none =>
      dsimp only
      split
      · exact Still.refl _
      · exact updLive_still ..

theorem execReduce_still (id : Nat) (s : State) {t : State} (h : execReduce id s = .next t) : Still t s := by
  unfold execReduce at h
  cases h
  split
  · exact Still.refl _
  · exact formChunk_still ..
  · exact (reduceRead_still ..).trans (readRange_still ..)

theorem execReduceArm_still (id : Nat) (s : State) {sN : State} (h : execReduceArm id s = .next sN) :
    Still sN s := by
  simp only [execReduceArm] at h
  injection h with h
  subst h
  split <;> simp

theorem execRedReadyRepeat_still (id : Nat) (p : Fin 16) (s : State) {sN : State} (h : execRedReadyRepeat id p s = .next sN) :
    Still sN s := by
  simp only [execRedReadyRepeat] at h
  injection h with h
  subst h
  split <;> simp

@[simp] theorem discardKfl_still (n : Nat) (s : State) :
    Still (discardKfl n s) s := by
  simp [discardKfl]

@[simp] theorem takeRedReady_still (n : Nat) (m : KflMsg) (s : State) :
    Still (takeRedReady n m s) s := by
  simp only [takeRedReady]
  split <;> simp

@[simp] theorem takeRedAbort_still (n : Nat) (m : KflMsg) (s : State) :
    Still (takeRedAbort n m s) s := by
  simp only [takeRedAbort]
  split <;> simp

theorem downFound_still (g : Group) (l : Live) (c : Nat) (out : List Byte) (mark : Option Mark)
    (wt : Option (List (Tgt × Nat × Nat)) × Bool × State) :
    Still (downFound g l c out mark wt).2 wt.2.2 ∧ ∀ t, (downFound g l c out mark wt).1 = some t → Still t wt.2.2 := by
  obtain ⟨w1, ab, s⟩ := wt
  unfold downFound
  cases w1 with
  | none =>
    dsimp only
    cases ab with
    | true =>
      refine ⟨Still.refl _, fun t h => ?_⟩
      cases h
      exact abortReduce_still ..
    | false => exact ⟨Still.refl _, fun t h => by cases h⟩
  | some ts =>
    refine ⟨Still.refl _, fun t h => ?_⟩
    cases h
    exact forEach_still _ _ _ _ (writeChunk_still ..) (fun a u => redData_still ..)

theorem takeRedData_still (n : Nat) (m : KflMsg) (s : State) :
    Still (takeRedData n m s).2 s ∧ ∀ t, (takeRedData n m s).1 = some t → Still t s := by
  unfold takeRedData
  have hd : ∀ t, some (discardKfl n s) = some t → Still t s := fun t h => by cases h; exact discardKfl_still ..
  dsimp only
  split
  · exact ⟨Still.refl _, hd⟩
  · split
    · exact ⟨Still.refl _, hd⟩
    · split
      · split
        · exact ⟨Still.refl _, hd⟩
        · have hw := downFound_still
          have ht := writeTargets_still
          exact ⟨(hw ..).1.trans (ht ..), fun t h => ((hw ..).2 t h).trans (ht ..)⟩
      · split
        · exact ⟨Still.refl _, hd⟩
        · refine ⟨Still.refl _, fun t h => ?_⟩
          cases h
          exact (formChunk_still ..).trans (updGroup_still ..)

theorem execReduceTimeout_still (id : Nat) (s : State) {sN : State} (h : execReduceTimeout id s = .next sN) :
    Still sN s := by
  simp only [execReduceTimeout] at h
  injection h with h
  subst h
  split <;> simp

theorem execReduceComplete_still (id : Nat) (s : State) {sN : State} (h : execReduceComplete id s = .next sN) :
    Still sN s := by
  simp only [execReduceComplete] at h
  injection h with h
  subst h
  split <;> simp

end Sys2Proof.Machine
end

