-- ==== Sys2Proof/Laws/StillSites.lean ====
section
/-!
SUPPORT. Which functions of Machine/Sites.lean leave alone bring-up with the floor plan, the contexts, the rings and the mailbox
(`Still` of Safety.lean): one lemma each.
-/
namespace Sys2Proof.Machine

@[simp] theorem syncSiteCap_still (n : Nat) (s : State) :
    Still (syncSiteCap n s) s := by
  simp [syncSiteCap]

@[simp] theorem sendSiteBudget_still (n : Nat) (s : State) :
    Still (sendSiteBudget n s) s := by
  simp [sendSiteBudget]

@[simp] theorem setSitePower_still (n p : Nat) (s : State) :
    Still (setSitePower n p s) s := by
  simp [setSitePower]

@[simp] theorem loseTxn_still (n : Nat) (t : Txn) (s : State) :
    Still (loseTxn n t s) s := by
  simp only [loseTxn]
  repeat' first
    | (simp [*]; done)
    | split

@[simp] theorem ackDead_still (who : Who) (s : State) :
    Still (ackDead who s) s := by
  simp only [ackDead]
  repeat' first
    | (simp [*]; done)
    | split
    | refine forEach_still _ _ _ _ ?_ (fun a u => ?_)

@[simp] theorem answerTgts_still (n : Nat) (s : State) :
    Still (answerTgts n s) s := by
  simp [answerTgts]

@[simp] theorem syncModules_still (n : Nat) (s : State) :
    Still (syncModules n s) s := by
  simp [syncModules]

@[simp] theorem siteTraining_still (n : Nat) (s : State) :
    Still (siteTraining n s) s := by
  simp [siteTraining]

@[simp] theorem closeOpen_still (n txn : Nat) (s : State) :
    Still (closeOpen n txn s) s := by
  simp [closeOpen]

@[simp] theorem siteData_still (n txn cls u : Nat) (d : UnitData) (m : Option Mark) (s : State) :
    Still (siteData n txn cls u d m s) s := by
  simp only [siteData]
  repeat' first
    | (simp [*]; done)
    | split
    | refine forEach_still _ _ _ _ ?_ (fun a u => ?_)

@[simp] theorem siteWrAck_still (n txn cls status : Nat) (s : State) :
    Still (siteWrAck n txn cls status s) s := by
  simp only [siteWrAck]
  repeat' first
    | (simp [*]; done)
    | split
    | refine forEach_still _ _ _ _ ?_ (fun a u => ?_)

@[simp] theorem failOpen_still (n : Nat) (o : OpenReq) (s : State) :
    Still (failOpen n o s) s := by
  simp [failOpen]

@[simp] theorem postOpen_still (n : Nat) (o : OpenReq) (k a : Nat) (mirror : Bool) (s : State) :
    Still (postOpen n o k a mirror s) s := by
  simp [postOpen]

@[simp] theorem updOpen_still (n txn : Nat) (f : OpenReq → OpenReq) (s : State) :
    Still (updOpen n txn f s) s := by
  simp [updOpen]

@[simp] theorem readOpen_still (n : Nat) (o : OpenReq) (t : Tgt) (s : State) :
    Still (readOpen n o t s) s := by
  simp only [readOpen]
  repeat' first
    | (simp [*]; done)
    | split
    | refine forEach_still _ _ _ _ ?_ (fun a u => ?_)

@[simp] theorem dropDead_still (t : Tgt) (s : State) :
    Still (dropDead t s) s := by
  simp only [dropDead]
  repeat' first
    | (simp [*]; done)
    | split
    | refine forEach_still _ _ _ _ ?_ (fun a u => ?_)

@[simp] theorem writeOpen_still (n : Nat) (o : OpenReq) (t : Tgt) (s : State) :
    Still (writeOpen n o t s) s := by
  unfold writeOpen
  extract_lets txn base s0 s1
  have h1 : Still s1 s := by
    refine Still.ite (Still.refl _) ((updOpen_still ..).trans (?_ : Still s0 s))
    refine (forEach_still _ _ _ _ (Still.refl _) (fun u w => ?_))
    dsimp only
    cases w.openOf? n txn with
    | none => exact Still.refl _
    | some o =>
      refine Still.ite (Still.refl _) (Still.ite ((updOpen_still ..).trans (dropDead_still ..)) ?_)
      generalize hr : storeUnit _ _ _ _ _ _ _ _ = r
      have hk : Still r.2 w := by rw [← hr]; exact storeUnit_still _ _ _ _ _ _ _ _ (by intros; exact opRecord_still ..)
      cases r.1 with
      | wait => exact hk
      | failed d => exact (updOpen_still ..).trans hk
      | posted => exact (updOpen_still ..).trans hk
      | done => exact (updOpen_still ..).trans hk
  clear_value s1
  cases s1.openOf? n txn with
  | none => exact h1
  | some o =>
    exact Still.ite (Still.ite ((siteWrAck_still ..).trans ((closeOpen_still ..).trans h1)) ((failOpen_still ..).trans h1)) h1

@[simp] theorem windowDenied_still (n : Nat) (h : KMsg) (s : State) :
    Still (windowDenied n h s) s := by
  simp only [windowDenied]
  repeat' first
    | (simp [*]; done)
    | split
    | refine forEach_still _ _ _ _ ?_ (fun a u => ?_)

@[simp] theorem serveOpen_still (n txn : Nat) (s : State) :
    Still (serveOpen n txn s) s := by
  simp only [serveOpen]
  repeat' first
    | (simp [*]; done)
    | (split <;> try (first
        | (rename_i hq; have h1 := congrArg (fun p => p.2.boot) hq; have h2 := congrArg (fun p => p.2.ctxs) hq; have h3 := congrArg (fun p => p.2.rings) hq; have h4 := congrArg (fun p => p.2.mbox) hq; simp at h1 h2 h3 h4)
        | (rename_i hq; have h1 := congrArg (fun p => p.2.2.boot) hq; have h2 := congrArg (fun p => p.2.2.ctxs) hq; have h3 := congrArg (fun p => p.2.2.rings) hq; have h4 := congrArg (fun p => p.2.2.mbox) hq; simp at h1 h2 h3 h4)))
    | refine forEach_still _ _ _ _ ?_ (fun a u => ?_)
    | (simp_all; done)
    | (rename_i hq; split at hq)
    | simp

@[simp] theorem serveSites_still (s : State) :
    Still (serveSites s) s := by
  simp [serveSites]

@[simp] theorem admitReq_still (n : Nat) (h0 : KMsg) (data : LineData) (mask : BitVec 128) (m0 m1 : Option Mark) (need : Nat) (s : State) :
    Still (admitReq n h0 data mask m0 m1 need s) s := by
  simp [admitReq]

end Sys2Proof.Machine
end

