-- ==== Sys2Proof/Laws/StillSiteCmds.lean ====
section
/-!
SUPPORT. Which functions of Machine/SiteCmds.lean leave alone bring-up with the floor plan, the contexts, the rings and the mailbox
(`Still` of Safety.lean): one lemma each.
-/
namespace Sys2Proof.Machine

@[simp] theorem dropAcked_still (n ack : Nat) (s : State) :
    Still (dropAcked n ack s) s := by
  simp [dropAcked]

@[simp] theorem takeCredits_still (n : Nat) (credits : List Nat) (s : State) :
    Still (takeCredits n credits s) s := by
  simp [takeCredits]

@[simp] theorem takeAck_still (n ack : Nat) (s : State) :
    Still (takeAck n ack s) s := by
  simp only [takeAck]
  repeat' first
    | (simp [*]; done)
    | split
    | refine forEach_still _ _ _ _ ?_ (fun a u => ?_)

@[simp] theorem oweCredit_still (n cls : Nat) (s : State) :
    Still (oweCredit n cls s) s := by
  simp only [oweCredit]
  repeat' first
    | (simp [*]; done)
    | split
    | refine forEach_still _ _ _ _ ?_ (fun a u => ?_)

@[simp] theorem acceptMsg_still (n : Nat) (m : KMsg) (u : UnitData) (s : State) :
    Still (acceptMsg n m u s) s := by
  simp [acceptMsg]

@[simp] theorem takeStream_still (n : Nat) (bs : List Byte) (s : State) :
    Still (takeStream n bs s) s := by
  simp only [takeStream]
  repeat' first
    | (simp [*]; done)
    | split
    | refine forEach_still _ _ _ _ ?_ (fun a u => ?_)

@[simp] theorem deliverFlit_still (n : Nat) (f : Flit) (s : State) :
    Still (deliverFlit n f s) s := by
  simp only [deliverFlit]
  split <;> simp

@[simp] theorem deliverEarly_still (n fuel : Nat) (s : State) : Still (deliverEarly n fuel s) s := by
  induction fuel generalizing s with
  | zero => exact Still.refl _
  | succ k ih =>
    unfold deliverEarly
    cases (s.site n).early.find? (fun f => f.seq == (s.site n).rxSeq) with
    | none => exact Still.refl _
    | some f => exact (ih _).trans ((deliverFlit_still ..).trans (updSite_still ..))

theorem execSiteAckTimer_still (n : Fin 6) (s : State) {sN : State} (h : execSiteAckTimer n s = .next sN) :
    Still sN s := by
  simp only [execSiteAckTimer] at h
  injection h with h
  subst h
  simp

theorem execSiteMonitorWindow_still (n : Fin 6) (m : Fin 64) (b : Fin 96) (s : State) {sN : State} (h : execSiteMonitorWindow n m b s = .next sN) :
    Still sN s := by
  simp only [execSiteMonitorWindow] at h
  injection h with h
  subst h
  simp

theorem execKspReqAdmission_still (n : Fin 6) (s : State) {sN : State} (h : execKspReqAdmission n s = .next sN) :
    Still sN s := by
  simp only [execKspReqAdmission] at h
  injection h with h
  subst h
  repeat' first
    | (simp [*]; done)
    | (split <;> try (first
        | (rename_i hq; have h1 := congrArg (fun p => p.2.boot) hq; have h2 := congrArg (fun p => p.2.ctxs) hq; have h3 := congrArg (fun p => p.2.rings) hq; have h4 := congrArg (fun p => p.2.mbox) hq; simp at h1 h2 h3 h4)
        | (rename_i hq; have h1 := congrArg (fun p => p.2.2.boot) hq; have h2 := congrArg (fun p => p.2.2.ctxs) hq; have h3 := congrArg (fun p => p.2.2.rings) hq; have h4 := congrArg (fun p => p.2.2.mbox) hq; simp at h1 h2 h3 h4)))
    | refine forEach_still _ _ _ _ ?_ (fun a u => ?_)
    | (simp_all; done)
    | (have hk := takeInbox_still (by assumption); simp_all; done)
    | (rename_i hq; split at hq)
    | simp

theorem execWdata_still (n : Fin 6) (last : Bool) (s : State) {sN : State} (h : execWdata n last s = .next sN) :
    Still sN s := by
  simp only [execWdata] at h
  injection h with h
  subst h
  repeat' first
    | (simp [*]; done)
    | (split <;> try (first
        | (rename_i hq; have h1 := congrArg (fun p => p.2.boot) hq; have h2 := congrArg (fun p => p.2.ctxs) hq; have h3 := congrArg (fun p => p.2.rings) hq; have h4 := congrArg (fun p => p.2.mbox) hq; simp at h1 h2 h3 h4)
        | (rename_i hq; have h1 := congrArg (fun p => p.2.2.boot) hq; have h2 := congrArg (fun p => p.2.2.ctxs) hq; have h3 := congrArg (fun p => p.2.2.rings) hq; have h4 := congrArg (fun p => p.2.2.mbox) hq; simp at h1 h2 h3 h4)))
    | refine forEach_still _ _ _ _ ?_ (fun a u => ?_)
    | (simp_all; done)
    | (have hk := takeInbox_still (by assumption); simp_all; done)
    | (rename_i hq; split at hq)
    | simp

theorem takeTgt_still {n txn : Nat} {write : Bool} {s : State} {r : TgtReq × State} (h : takeTgt n txn write s = some r) :
    Still r.2 s := by
  simp only [takeTgt] at h
  repeat' first
    | (cases h; done)
    | split at h
    | (cases h; simp [*]; done)
    | (cases h; simp)

@[simp] theorem strayTgt_still (n txn : Nat) (write : Bool) (code : Nat) (s : State) :
    Still (strayTgt n txn write code s) s := by
  simp only [strayTgt]
  repeat' first
    | (simp [*]; done)
    | split
    | refine forEach_still _ _ _ _ ?_ (fun a u => ?_)

@[simp] theorem ackDenied_still (who : Who) (s : State) :
    Still (ackDenied who s) s := by
  simp only [ackDenied]
  repeat' first
    | (simp [*]; done)
    | split
    | refine forEach_still _ _ _ _ ?_ (fun a u => ?_)

theorem memDataEvent_still (n : Fin 6) (s : State) {t : State} (h : memDataEvent n s = .next t) : Still t s := by
  unfold memDataEvent at h
  cases h
  generalize hk : takeInbox n 4 (fun m => m.msg == 0x34) s = o
  cases o with
  | none => exact Still.refl _
  | some y =>
    obtain ⟨e, s1⟩ := y
    have h1 : Still s1 s := takeInbox_still hk
    dsimp only
    generalize hq : takeTgt n e.1.txn false s1 = o
    cases o with
    | none => exact (strayTgt_still ..).trans h1
    | some y =>
      obtain ⟨q, s2⟩ := y
      have h2 : Still s2 s1 := takeTgt_still hq
      dsimp only
      refine (serveSites_still _).trans ?_
      exact (arrive_still ..).trans (h2.trans h1)

theorem memAckEvent_still (n : Fin 6) (s : State) {t : State} (h : memAckEvent n s = .next t) : Still t s := by
  unfold memAckEvent at h
  cases h
  generalize hk : takeInbox n 3 (fun m => m.msg == 0x27) s = o
  cases o with
  | none => exact Still.refl _
  | some y =>
    obtain ⟨e, s1⟩ := y
    have h1 : Still s1 s := takeInbox_still hk
    dsimp only
    generalize hq : takeTgt n e.1.txn true s1 = o
    cases o with
    | none => exact (strayTgt_still ..).trans h1
    | some y =>
      obtain ⟨q, s2⟩ := y
      have h2 : Still s2 s1 := takeTgt_still hq
      dsimp only
      refine (serveSites_still _).trans ?_
      exact Still.ite ((ackDenied_still ..).trans (h2.trans h1)) ((ackWrite_still ..).trans (h2.trans h1))

theorem tgtTimeoutEvent_still (n : Fin 6) (txn : Fin 4096) (s : State) {sN : State} (h : tgtTimeoutEvent n txn s = .next sN) :
    Still sN s := by
  simp only [tgtTimeoutEvent] at h
  injection h with h
  subst h
  split <;> simp

theorem cxlMemResponseEvent_still (n : Fin 6) (txn : Fin 4096) (data : UnitData) (poison : Bool) (s : State) {sN : State} (h : cxlMemResponseEvent n txn data poison s = .next sN) :
    Still sN s := by
  simp only [cxlMemResponseEvent] at h
  injection h with h
  subst h
  repeat' first
    | (simp [*]; done)
    | split

@[simp] theorem nonce_still (s : State) :
    Still (nonce s).2 s := by
  simp [nonce]

@[simp] theorem sendJoin_still (n : Nat) (s : State) :
    Still (sendJoin n s) s := by
  simp [sendJoin]

@[simp] theorem grantCredits_still (n : Nat) (s : State) :
    Still (grantCredits n s) s := by
  simp only [grantCredits]
  repeat' first
    | (simp [*]; done)
    | split
    | refine forEach_still _ _ _ _ ?_ (fun a u => ?_)

theorem execJoined_still (n : Fin 6) (s : State) {sN : State} (h : execJoined n s = .next sN) :
    Still sN s := by
  simp only [execJoined] at h
  injection h with h
  subst h
  simp

theorem execStatus_still (n : Fin 6) (word : BitVec 64) (s : State) {sN : State} (h : execStatus n word s = .next sN) :
    Still sN s := by
  simp only [execStatus] at h
  injection h with h
  subst h
  repeat' first
    | (simp [*]; done)
    | split
    | refine forEach_still _ _ _ _ ?_ (fun a u => ?_)

theorem execPowerReport_still (n : Fin 6) (watts : BitVec 11) (seq : BitVec 9) (s : State) {sN : State} (h : execPowerReport n watts seq s = .next sN) :
    Still sN s := by
  simp only [execPowerReport] at h
  injection h with h
  subst h
  simp

@[simp] theorem startRejoin_still (n : Nat) (s : State) :
    Still (startRejoin n s) s := by
  simp [startRejoin]

theorem execSiteRejoin_still (n : Fin 6) (s : State) {sN : State} (h : execSiteRejoin n s = .next sN) :
    Still sN s := by
  simp only [execSiteRejoin] at h
  injection h with h
  subst h
  simp

@[simp] theorem winFence_still (n : Nat) (s : State) :
    Still (winFence n s) s := by
  simp [winFence]

theorem execSiteWinFence_still (n : Fin 6) (s : State) {sN : State} (h : execSiteWinFence n s = .next sN) :
    Still sN s := by
  simp only [execSiteWinFence] at h
  injection h with h
  subst h
  simp

theorem execSiteWinFenceDone_still (n : Fin 6) (s : State) {sN : State} (h : execSiteWinFenceDone n s = .next sN) :
    Still sN s := by
  simp only [execSiteWinFenceDone] at h
  injection h with h
  subst h
  simp

theorem execSiteBudgetTimer_still (n : Fin 6) (s : State) {sN : State} (h : execSiteBudgetTimer n s = .next sN) :
    Still sN s := by
  simp only [execSiteBudgetTimer] at h
  injection h with h
  subst h
  simp

theorem execSiteOverpower_still (n : Fin 6) (w : BitVec 11) (s : State) {sN : State} (h : execSiteOverpower n w s = .next sN) :
    Still sN s := by
  simp only [execSiteOverpower] at h
  injection h with h
  subst h
  simp

theorem execSiteUnclamp_still (n : Fin 6) (s : State) {sN : State} (h : execSiteUnclamp n s = .next sN) :
    Still sN s := by
  simp only [execSiteUnclamp] at h
  injection h with h
  subst h
  simp

@[simp] theorem recallSite_still (n : Nat) (s : State) :
    Still (recallSite n s) s := by
  simp only [recallSite]
  repeat' first
    | (simp [*]; done)
    | split
    | refine forEach_still _ _ _ _ ?_ (fun a u => ?_)

theorem execFlushed_still (n : Fin 6) (s : State) {sN : State} (h : execFlushed n s = .next sN) :
    Still sN s := by
  simp only [execFlushed] at h
  injection h with h
  subst h
  simp

end Sys2Proof.Machine
end

