-- ==== Sys2Proof/Laws/StillCxl.lean ====
section
/-!
SUPPORT. Which functions of Machine/Cxl.lean leave alone bring-up with the floor plan, the contexts, the rings and the mailbox
(`Still` of Safety.lean): one lemma each.
-/
namespace Sys2Proof.Machine

@[simp] theorem cxlReq_still (n tag pa msg w3 : Nat) (nodata : Bool) (data : LineData) (mask : BitVec 128) (poison : Bool) (s : State) :
    Still (cxlReq n tag pa msg w3 nodata data mask poison s) s := by
  simp [cxlReq]

@[simp] theorem cxlWrite_still (n tag pa : Nat) (data : LineData) (mask : BitVec 128) (poison : Bool) (s : State) :
    Still (cxlWrite n tag pa data mask poison s) s := by
  simp [cxlWrite]

theorem execCxlRdshared_still (n : Fin 6) (tag : Fin 4096) (pa : BitVec 52) (s : State) {sN : State} (h : execCxlRdshared n tag pa s = .next sN) :
    Still sN s := by
  simp only [execCxlRdshared] at h
  injection h with h
  subst h
  simp

theorem execCxlRdany_still (n : Fin 6) (tag : Fin 4096) (pa : BitVec 52) (s : State) {sN : State} (h : execCxlRdany n tag pa s = .next sN) :
    Still sN s := by
  simp only [execCxlRdany] at h
  injection h with h
  subst h
  simp

theorem execCxlRdown_still (n : Fin 6) (tag : Fin 4096) (pa : BitVec 52) (s : State) {sN : State} (h : execCxlRdown n tag pa s = .next sN) :
    Still sN s := by
  simp only [execCxlRdown] at h
  injection h with h
  subst h
  simp

theorem execCxlRdownnodata_still (n : Fin 6) (tag : Fin 4096) (pa : BitVec 52) (s : State) {sN : State} (h : execCxlRdownnodata n tag pa s = .next sN) :
    Still sN s := by
  simp only [execCxlRdownnodata] at h
  injection h with h
  subst h
  simp

theorem execCxlRdcurr_still (n : Fin 6) (tag : Fin 4096) (pa : BitVec 52) (s : State) {sN : State} (h : execCxlRdcurr n tag pa s = .next sN) :
    Still sN s := by
  simp only [execCxlRdcurr] at h
  injection h with h
  subst h
  simp

theorem execCxlItomwr_still (n : Fin 6) (tag : Fin 4096) (pa : BitVec 52) (data : LineData) (mask : BitVec 128) (poison : Bool) (s : State) {sN : State} (h : execCxlItomwr n tag pa data mask poison s = .next sN) :
    Still sN s := by
  simp only [execCxlItomwr] at h
  injection h with h
  subst h
  simp

theorem execCxlWrcur_still (n : Fin 6) (tag : Fin 4096) (pa : BitVec 52) (data : LineData) (mask : BitVec 128) (poison : Bool) (s : State) {sN : State} (h : execCxlWrcur n tag pa data mask poison s = .next sN) :
    Still sN s := by
  simp only [execCxlWrcur] at h
  injection h with h
  subst h
  simp

theorem execCxlWrinv_still (n : Fin 6) (tag : Fin 4096) (pa : BitVec 52) (data : LineData) (mask : BitVec 128) (poison : Bool) (s : State) {sN : State} (h : execCxlWrinv n tag pa data mask poison s = .next sN) :
    Still sN s := by
  simp only [execCxlWrinv] at h
  injection h with h
  subst h
  simp

theorem execCxlWowrinv_still (n : Fin 6) (tag : Fin 4096) (pa : BitVec 52) (data : LineData) (mask : BitVec 128) (poison : Bool) (s : State) {sN : State} (h : execCxlWowrinv n tag pa data mask poison s = .next sN) :
    Still sN s := by
  simp only [execCxlWowrinv] at h
  injection h with h
  subst h
  simp

theorem execCxlWowrinvf_still (n : Fin 6) (tag : Fin 4096) (pa : BitVec 52) (data : LineData) (mask : BitVec 128) (poison : Bool) (s : State) {sN : State} (h : execCxlWowrinvf n tag pa data mask poison s = .next sN) :
    Still sN s := by
  simp only [execCxlWowrinvf] at h
  injection h with h
  subst h
  simp

theorem execCxlDirtyevict_still (n : Fin 6) (tag : Fin 4096) (pa : BitVec 52) (s : State) {sN : State} (h : execCxlDirtyevict n tag pa s = .next sN) :
    Still sN s := by
  simp only [execCxlDirtyevict] at h
  injection h with h
  subst h
  split <;> simp

@[simp] theorem cxlCleanEvict_still (n tag pa : Nat) (s : State) :
    Still (cxlCleanEvict n tag pa s) s := by
  simp only [cxlCleanEvict]
  split <;> simp

theorem execCxlCleanevict_still (n : Fin 6) (tag : Fin 4096) (pa : BitVec 52) (s : State) {sN : State} (h : execCxlCleanevict n tag pa s = .next sN) :
    Still sN s := by
  simp only [execCxlCleanevict] at h
  injection h with h
  subst h
  simp

theorem execCxlCleanevictnodata_still (n : Fin 6) (tag : Fin 4096) (pa : BitVec 52) (s : State) {sN : State} (h : execCxlCleanevictnodata n tag pa s = .next sN) :
    Still sN s := by
  simp only [execCxlCleanevictnodata] at h
  injection h with h
  subst h
  simp

theorem execCxlClflush_still (n : Fin 6) (tag : Fin 4096) (pa : BitVec 52) (s : State) {sN : State} (h : execCxlClflush n tag pa s = .next sN) :
    Still sN s := by
  simp only [execCxlClflush] at h
  injection h with h
  subst h
  simp

theorem execCxlCacheflushed_still (_n : Fin 6) (s : State) {sN : State} (h : execCxlCacheflushed _n s = .next sN) :
    Still sN s := by
  simp only [execCxlCacheflushed] at h
  injection h with h
  subst h
  simp

theorem execCxlOtherRequest_still (n : Fin 6) (s : State) {sN : State} (h : execCxlOtherRequest n s = .next sN) :
    Still sN s := by
  simp only [execCxlOtherRequest] at h
  injection h with h
  subst h
  simp

theorem execCxlSnoopResponse_still (n : Fin 6) (k : Fin 12) (l : Fin (2 ^ 29)) (r : CxlRsp) (s : State) {sN : State} (h : execCxlSnoopResponse n k l r s = .next sN) :
    Still sN s := by
  unfold execCxlSnoopResponse at h
  injection h with h
  subst h
  refine Still.ite (Still.refl _) ?_
  cases s.plz.snoops.find? _ with
  | none => exact protocolError_still ..
  | some x =>
    dsimp only
    cases s.txn? x.txn with
    | none => exact snpRsp_still ..
    | some t => exact (snpRsp_still ..).trans (Still.ite (updSite_still ..) (Still.refl _))

@[simp] theorem routeData_getD_still (num u : Nat) (d : UnitData) (m : Option Mark) (g : Grant) (s : State) :
    Still ((routeData num u d m g s).getD s) s := by
  generalize hr : routeData num u d m g s = o
  cases o with
  | none => exact Still.refl _
  | some r => exact routeData_still hr

theorem execCxlD2hData_still (n : Fin 6) (k : Fin 12) (l : Fin (2 ^ 29)) (data : LineData) (poison : Bool) (s : State) {sN : State} (h : execCxlD2hData n k l data poison s = .next sN) :
    Still sN s := by
  simp only [execCxlD2hData] at h
  injection h with h
  subst h
  repeat' first
    | (simp [*]; done)
    | split

end Sys2Proof.Machine
end

