-- ==== Sys2Proof/Laws/StillFabric.lean ====
section
/-!
SUPPORT. Which functions of Machine/Fabric.lean leave alone bring-up with the floor plan, the contexts, the rings and the mailbox
(`Still` of Safety.lean): one lemma each.
-/
namespace Sys2Proof.Machine

@[simp] theorem syncPortCap_still (n : Nat) (s : State) :
    Still (syncPortCap n s) s := by
  simp [syncPortCap]

@[simp] theorem answerKfl_still (m : KflMsg) (status : Nat) (units : List UnitData) (marks : List (Option Mark)) (s : State) :
    Still (answerKfl m status units marks s) s := by
  simp only [answerKfl]
  split <;> simp

@[simp] theorem dropKfl_still (n : Nat) (m : KflMsg) (s : State) :
    Still (dropKfl n m s) s := by
  simp [dropKfl]

@[simp] theorem routeKfl_still (n : Nat) (m : KflMsg) (s : State) :
    Still (routeKfl n m s).2 s := by
  simp only [routeKfl]
  repeat' first
    | (simp [*]; done)
    | split

@[simp] theorem sendHello_still (n : Nat) (s : State) :
    Still (sendHello n s) s := by
  simp [sendHello]

@[simp] theorem takeHello_still (n : Nat) (m : KflMsg) (s : State) :
    Still (takeHello n m s) s := by
  simp [takeHello]

@[simp] theorem endRequest_still (p e status : Nat) (units : List UnitData) (marks : List (Option Mark)) (s : State) :
    Still (endRequest p e status units marks s) s := by
  simp only [endRequest]
  repeat' first
    | (simp [*]; done)
    | split
    | refine forEach_still _ _ _ _ ?_ (fun a u => ?_)

@[simp] theorem grantUnits_still (n : Nat) (s : State) :
    Still (grantUnits n s) s := by
  simp only [grantUnits]
  repeat' first
    | (simp [*]; done)
    | split
    | refine forEach_still _ _ _ _ ?_ (fun a u => ?_)

@[simp] theorem resendFab_still (n : Nat) (s : State) :
    Still (resendFab n s) s := by
  simp only [resendFab]
  repeat' first
    | (simp [*]; done)
    | split
    | refine forEach_still _ _ _ _ ?_ (fun a u => ?_)

@[simp] theorem kflCredits_still (n : Nat) (credits : List (Nat × Nat)) (s : State) :
    Still (kflCredits n credits s) s := by
  simp only [kflCredits]
  repeat' first
    | (simp [*]; done)
    | split
    | refine forEach_still _ _ _ _ ?_ (fun a u => ?_)

@[simp] theorem kflAcked_still (n ack : Nat) (s : State) :
    Still (kflAcked n ack s) s := by
  simp only [kflAcked]
  repeat' first
    | (simp [*]; done)
    | split
    | refine forEach_still _ _ _ _ ?_ (fun a u => ?_)

@[simp] theorem kflAck_still (n ack : Nat) (s : State) :
    Still (kflAck n ack s) s := by
  simp only [kflAck]
  repeat' first
    | (simp [*]; done)
    | split
    | refine forEach_still _ _ _ _ ?_ (fun a u => ?_)

@[simp] theorem countNak_still (n : Nat) (s : State) :
    Still (countNak n s) s := by
  simp [countNak]

@[simp] theorem bufferKfl_still (n : Nat) (m : KflMsg) (s : State) :
    Still (bufferKfl n m s) s := by
  simp only [bufferKfl]
  repeat' first
    | (simp [*]; done)
    | split
    | refine forEach_still _ _ _ _ ?_ (fun a u => ?_)

@[simp] theorem deliverKfl_still (n : Nat) (f : KflFlit) (s : State) :
    Still (deliverKfl n f s) s := by
  simp only [deliverKfl]
  repeat' first
    | (simp [*]; done)
    | split
    | refine forEach_still _ _ _ _ ?_ (fun a u => ?_)

theorem execFabricAckTimer_still (n : Fin 16) (s : State) {sN : State} (h : execFabricAckTimer n s = .next sN) :
    Still sN s := by
  simp only [execFabricAckTimer] at h
  injection h with h
  subst h
  simp

theorem kflTake_still {n code : Nat} {s : State} {r : KflMsg × State} (h : kflTake n code s = some r) :
    Still r.2 s := by
  simp only [kflTake] at h
  repeat' first
    | (cases h; done)
    | split at h
    | (cases h; simp [*]; done)
    | (cases h; simp)

@[simp] theorem updWinReq_still (p id : Nat) (f : WinReq → WinReq) (s : State) :
    Still (updWinReq p id f s) s := by
  simp [updWinReq]

@[simp] theorem answerWin_still (p : Nat) (r : WinReq) (status : Nat) (units : List UnitData) (marks : List (Option Mark)) (s : State) :
    Still (answerWin p r status units marks s) s := by
  simp [answerWin]

@[simp] theorem winTarget_still (p : Nat) (r : WinReq) (off : Nat) (s : State) :
    Still (winTarget p r off s).2 s := by
  simp only [winTarget]
  split <;> simp

@[simp] theorem winRead_still (p id i : Nat) (s : State) :
    Still (winRead p id i s) s := by
  simp only [winRead]
  repeat' first
    | (simp [*]; done)
    | (split <;> try (first
        | (rename_i hq; have h1 := congrArg (fun p => p.2.boot) hq; have h2 := congrArg (fun p => p.2.ctxs) hq; have h3 := congrArg (fun p => p.2.rings) hq; have h4 := congrArg (fun p => p.2.mbox) hq; simp at h1 h2 h3 h4)
        | (rename_i hq; have h1 := congrArg (fun p => p.2.2.boot) hq; have h2 := congrArg (fun p => p.2.2.ctxs) hq; have h3 := congrArg (fun p => p.2.2.rings) hq; have h4 := congrArg (fun p => p.2.2.mbox) hq; simp at h1 h2 h3 h4)))
    | refine forEach_still _ _ _ _ ?_ (fun a u => ?_)
    | (simp_all; done)
    | (rename_i hq; split at hq)
    | simp

@[simp] theorem winWrite_still (p id i : Nat) (s : State) :
    Still (winWrite p id i s) s := by
  simp only [winWrite]
  repeat' first
    | (simp [*]; done)
    | (split <;> try (first
        | (rename_i hq; have h1 := congrArg (fun p => p.2.boot) hq; have h2 := congrArg (fun p => p.2.ctxs) hq; have h3 := congrArg (fun p => p.2.rings) hq; have h4 := congrArg (fun p => p.2.mbox) hq; simp at h1 h2 h3 h4)
        | (rename_i hq; have h1 := congrArg (fun p => p.2.2.boot) hq; have h2 := congrArg (fun p => p.2.2.ctxs) hq; have h3 := congrArg (fun p => p.2.2.rings) hq; have h4 := congrArg (fun p => p.2.2.mbox) hq; simp at h1 h2 h3 h4)))
    | refine forEach_still _ _ _ _ ?_ (fun a u => ?_)
    | (simp_all; done)
    | (rename_i hq; split at hq)
    | simp

@[simp] theorem winAtomic_still (p : Nat) (r : WinReq) (s : State) : Still (winAtomic p r s) s := by
  unfold winAtomic
  extract_lets pay op w who answer
  have ha : ∀ v u, Still (answer v u) u := fun v u => answerWin_still ..
  clear_value answer
  have hx := winTarget_still p r 0 s
  generalize winTarget p r 0 s = q at hx
  obtain ⟨q, s1⟩ := q
  cases q with
  | aborted => exact (answerWin_still ..).trans hx
  | ok t e =>
    cases t with
    | stacked k a =>
      dsimp only
      refine Still.ite ((answerWin_still ..).trans hx) (Still.ite ((answerWin_still ..).trans hx) ?_)
      generalize hq : takeArrival who (.stacked k (a / 64 * 64)) s1 = o
      cases o with
      | none => exact Still.ite hx ((askUnits_still ..).trans ((postTxn_still ..).trans hx))
      | some y => exact (ha ..).trans ((takeArrival_still hq).trans hx)
    | remote node win off =>
      dsimp only
      have hy := agentAtomic_still who node win off r.cls pay s1
      generalize agentAtomic who node win off r.cls pay s1 = o at hy
      obtain ⟨o, s2⟩ := o
      cases o with
      | none => exact Still.trans hy hx
      | some v => exact (ha ..).trans (Still.trans hy hx)
    | _ => exact (answerWin_still ..).trans hx
  | _ => exact hx

@[simp] theorem serveWin_still (p id : Nat) (s : State) :
    Still (serveWin p id s) s := by
  simp only [serveWin]
  repeat' first
    | (simp [*]; done)
    | split

@[simp] theorem serveWins_still (s : State) :
    Still (serveWins s) s := by
  simp [serveWins]

@[simp] theorem admitKfl_still (n : Nat) (m : KflMsg) (s : State) :
    Still (admitKfl n m s) s := by
  simp [admitKfl]

@[simp] theorem takeKflReq_still (n code : Nat) (s : State) :
    Still (takeKflReq n code s) s := by
  simp only [takeKflReq]
  repeat' first
    | (simp [*]; done)
    | (split <;> try (first
        | (rename_i hq; have h1 := congrArg (fun p => p.2.boot) hq; have h2 := congrArg (fun p => p.2.ctxs) hq; have h3 := congrArg (fun p => p.2.rings) hq; have h4 := congrArg (fun p => p.2.mbox) hq; simp at h1 h2 h3 h4)
        | (rename_i hq; have h1 := congrArg (fun p => p.2.2.boot) hq; have h2 := congrArg (fun p => p.2.2.ctxs) hq; have h3 := congrArg (fun p => p.2.2.rings) hq; have h4 := congrArg (fun p => p.2.2.mbox) hq; simp at h1 h2 h3 h4)))
    | refine forEach_still _ _ _ _ ?_ (fun a u => ?_)
    | (simp_all; done)
    | (have hk := kflTake_still (by assumption); simp_all; done)
    | (rename_i hq; split at hq)
    | simp

theorem execKflRd_still (n : Fin 17) (s : State) {sN : State} (h : execKflRd n s = .next sN) :
    Still sN s := by
  simp only [execKflRd] at h
  injection h with h
  subst h
  simp

theorem execKflWr_still (n : Fin 17) (s : State) {sN : State} (h : execKflWr n s = .next sN) :
    Still sN s := by
  simp only [execKflWr] at h
  injection h with h
  subst h
  simp

theorem execKflWrPart_still (n : Fin 17) (s : State) {sN : State} (h : execKflWrPart n s = .next sN) :
    Still sN s := by
  simp only [execKflWrPart] at h
  injection h with h
  subst h
  simp

theorem execKflAtomic_still (n : Fin 17) (s : State) {sN : State} (h : execKflAtomic n s = .next sN) :
    Still sN s := by
  simp only [execKflAtomic] at h
  injection h with h
  subst h
  simp

@[simp] theorem takeAnswer_still (n code : Nat) (s : State) :
    Still (takeAnswer n code s) s := by
  simp only [takeAnswer]
  repeat' first
    | (simp [*]; done)
    | (split <;> try (first
        | (rename_i hq; have h1 := congrArg (fun p => p.2.boot) hq; have h2 := congrArg (fun p => p.2.ctxs) hq; have h3 := congrArg (fun p => p.2.rings) hq; have h4 := congrArg (fun p => p.2.mbox) hq; simp at h1 h2 h3 h4)
        | (rename_i hq; have h1 := congrArg (fun p => p.2.2.boot) hq; have h2 := congrArg (fun p => p.2.2.ctxs) hq; have h3 := congrArg (fun p => p.2.2.rings) hq; have h4 := congrArg (fun p => p.2.2.mbox) hq; simp at h1 h2 h3 h4)))
    | refine forEach_still _ _ _ _ ?_ (fun a u => ?_)
    | (simp_all; done)
    | (have hk := kflTake_still (by assumption); simp_all; done)
    | (rename_i hq; split at hq)
    | simp

@[simp] theorem timeoutRequest_still (n e : Nat) (s : State) :
    Still (timeoutRequest n e s) s := by
  simp [timeoutRequest]

@[simp] theorem expireWin_still (p id : Nat) (s : State) :
    Still (expireWin p id s) s := by
  simp only [expireWin]
  repeat' first
    | (simp [*]; done)
    | split

theorem execHello_still (n : Fin 16) (s : State) {sN : State} (h : execHello n s = .next sN) :
    Still sN s := by
  simp only [execHello] at h
  injection h with h
  subst h
  repeat' first
    | (simp [*]; done)
    | (split <;> try (first
        | (rename_i hq; have h1 := congrArg (fun p => p.2.boot) hq; have h2 := congrArg (fun p => p.2.ctxs) hq; have h3 := congrArg (fun p => p.2.rings) hq; have h4 := congrArg (fun p => p.2.mbox) hq; simp at h1 h2 h3 h4)
        | (rename_i hq; have h1 := congrArg (fun p => p.2.2.boot) hq; have h2 := congrArg (fun p => p.2.2.ctxs) hq; have h3 := congrArg (fun p => p.2.2.rings) hq; have h4 := congrArg (fun p => p.2.2.mbox) hq; simp at h1 h2 h3 h4)))
    | refine forEach_still _ _ _ _ ?_ (fun a u => ?_)
    | (simp_all; done)
    | (have hk := kflTake_still (by assumption); simp_all; done)
    | (rename_i hq; split at hq)
    | simp

theorem execHelloTimer_still (n : Fin 16) (s : State) {sN : State} (h : execHelloTimer n s = .next sN) :
    Still sN s := by
  simp only [execHelloTimer] at h
  injection h with h
  subst h
  simp

@[simp] theorem wrFabNode_still (v : Nat) (s : State) :
    Still (wrFabNode v s) s := by
  simp [wrFabNode]

theorem execFabNodeWrite_still (v : BitVec 16) (s : State) {sN : State} (h : execFabNodeWrite v s = .next sN) :
    Still sN s := by
  simp only [execFabNodeWrite] at h
  injection h with h
  subst h
  simp

@[simp] theorem stepRtSel_still (s : State) :
    Still (stepRtSel s) s := by
  simp [stepRtSel]

@[simp] theorem rdFabRtData_still (s : State) :
    Still (rdFabRtData s).2 s := by
  simp [rdFabRtData]

@[simp] theorem wrFabRtData_still (v : Nat) (s : State) :
    Still (wrFabRtData v s) s := by
  simp only [wrFabRtData]
  split <;> simp

theorem execFabRtDataAccess_still (w : Option (BitVec 32)) (s : State) {sN : State} (h : execFabRtDataAccess w s = .next sN) :
    Still sN s := by
  simp only [execFabRtDataAccess] at h
  injection h with h
  subst h
  split <;> simp

@[simp] theorem fabFence_still (s : State) :
    Still (fabFence s) s := by
  simp [fabFence]

theorem execFabWinFence_still (s : State) {sN : State} (h : execFabWinFence s = .next sN) :
    Still sN s := by
  simp only [execFabWinFence] at h
  injection h with h
  subst h
  simp

theorem execFabWinFenceDone_still (s : State) {sN : State} (h : execFabWinFenceDone s = .next sN) :
    Still sN s := by
  simp only [execFabWinFenceDone] at h
  injection h with h
  subst h
  simp

@[simp] theorem wrFabCtrl_still (v : Nat) (s : State) :
    Still (wrFabCtrl v s) s := by
  simp [wrFabCtrl]

@[simp] theorem takeRed_still (n code : Nat) (f : KflMsg → State → State) (s : State) (hf : ∀ a u, Still (f a u) u) :
    Still (takeRed n code f s) s := by
  simp only [takeRed]
  repeat' first
    | (simp [*]; done)
    | (split <;> try (first
        | (rename_i hq; have h1 := congrArg (fun p => p.2.boot) hq; have h2 := congrArg (fun p => p.2.ctxs) hq; have h3 := congrArg (fun p => p.2.rings) hq; have h4 := congrArg (fun p => p.2.mbox) hq; simp at h1 h2 h3 h4)
        | (rename_i hq; have h1 := congrArg (fun p => p.2.2.boot) hq; have h2 := congrArg (fun p => p.2.2.ctxs) hq; have h3 := congrArg (fun p => p.2.2.rings) hq; have h4 := congrArg (fun p => p.2.2.mbox) hq; simp at h1 h2 h3 h4)))
    | refine forEach_still _ _ _ _ ?_ (fun a u => ?_)
    | (simp_all; done)
    | (have hk := kflTake_still (by assumption); simp_all; done)
    | (rename_i hq; split at hq)
    | simp

theorem execRedReady_still (n : Fin 16) (s : State) {sN : State} (h : execRedReady n s = .next sN) :
    Still sN s := by
  simp only [execRedReady] at h
  injection h with h
  subst h
  simp

theorem execRedData_still (n : Fin 16) (s : State) {t : State} (h : execRedData n s = .next t) : Still t s := by
  unfold execRedData at h
  cases h
  generalize hk : kflTake n 0x21 s = o
  cases o with
  | none => exact Still.refl _
  | some y =>
    obtain ⟨m, s1⟩ := y
    have h1 : Still s1 s := kflTake_still hk
    dsimp only
    refine Still.ite ((dropKfl_still ..).trans h1) ?_
    have h2 := takeRedData_still n m s1
    generalize takeRedData n m s1 = q at h2
    obtain ⟨q, s2⟩ := q
    cases q with
    | none => exact (takeRedData_still ..).1
    | some u => exact (h2.2 u rfl).trans h1

theorem execRedAbort_still (n : Fin 16) (s : State) {sN : State} (h : execRedAbort n s = .next sN) :
    Still sN s := by
  simp only [execRedAbort] at h
  injection h with h
  subst h
  simp

theorem fabricRspTimeoutEvent_still (n : Fin 16) (e : Fin 4096) (s : State) {sN : State} (h : fabricRspTimeoutEvent n e s = .next sN) :
    Still sN s := by
  simp only [fabricRspTimeoutEvent] at h
  injection h with h
  subst h
  simp

end Sys2Proof.Machine
end

