-- ==== Sys2Proof/Laws/StillStacks.lean ====
section
/-!
SUPPORT. Which functions of Machine/Stacks.lean leave alone bring-up with the floor plan, the contexts, the rings and the mailbox
(`Still` of Safety.lean): one lemma each.
-/
namespace Sys2Proof.Machine

@[simp] theorem readEvent_still (k u : Nat) (ev ev2 : EccOutcome) (s : State) :
    Still (readEvent k u ev ev2 s) s := by
  simp only [readEvent]
  repeat' first
    | (simp [*]; done)
    | split
    | refine forEach_still _ _ _ _ ?_ (fun a u => ?_)

@[simp] theorem writeEvent_still (k u : Nat) (symbols : List Nat) (s : State) :
    Still (writeEvent k u symbols s) s := by
  simp only [writeEvent]
  repeat' first
    | (simp [*]; done)
    | split
    | refine forEach_still _ _ _ _ ?_ (fun a u => ?_)

theorem issueOrHold_still (k u : Nat) (h : HeldMem) (go : State → State) (s : State) (hgo : ∀ u, Still (go u) u) :
    Still (issueOrHold k u h go s) s := by
  simp only [issueOrHold]
  split
  · exact hgo s
  · simp

theorem execMrd_still (k : Fin 12) (u : Fin (2 ^ 30)) (ev ev2 : EccOutcome) (s : State) {sN : State}
    (h : execMrd k u ev ev2 s = .next sN) : Still sN s := by
  simp only [execMrd] at h
  injection h with h
  subst h
  exact issueOrHold_still _ _ _ _ _ (fun u => readEvent_still ..)

theorem execMwr_still (k : Fin 12) (u : Fin (2 ^ 30)) (symbols : List Nat) (s : State) {sN : State}
    (h : execMwr k u symbols s = .next sN) : Still sN s := by
  simp only [execMwr] at h
  injection h with h
  subst h
  exact issueOrHold_still _ _ _ _ _ (fun u => writeEvent_still ..)

theorem execMirrorHeal_still (k : Fin 12) (u : Fin (2 ^ 30)) (ev2 : EccOutcome) (s : State) {sN : State} (h : execMirrorHeal k u ev2 s = .next sN) :
    Still sN s := by
  simp only [execMirrorHeal] at h
  injection h with h
  subst h
  simp

theorem execBondMonitorWindow_still (k : Fin 12) (m : Fin 64) (s : State) {sN : State} (h : execBondMonitorWindow k m s = .next sN) :
    Still sN s := by
  simp only [execBondMonitorWindow] at h
  injection h with h
  subst h
  simp

@[simp] theorem patrolUnit_still (k a : Nat) (ev ev2 : EccOutcome) (s : State) :
    Still (patrolUnit k a ev ev2 s) s := by
  simp only [patrolUnit]
  repeat' first
    | (simp [*]; done)
    | split
    | refine forEach_still _ _ _ _ ?_ (fun a u => ?_)

theorem execPatrolRead_still (k : Fin 12) (ev ev2 : EccOutcome) (s : State) {sN : State} (h : execPatrolRead k ev ev2 s = .next sN) :
    Still sN s := by
  simp only [execPatrolRead] at h
  injection h with h
  subst h
  simp

@[simp] theorem scheduleRetrain_still (k m : Nat) (s : State) :
    Still (scheduleRetrain k m s) s := by
  simp [scheduleRetrain]

theorem execModuleRetrainStart_still (k : Fin 12) (m : Fin 64) (s : State) {sN : State} (h : execModuleRetrainStart k m s = .next sN) :
    Still sN s := by
  simp only [execModuleRetrainStart] at h
  injection h with h
  subst h
  simp

@[simp] theorem spareBonds_still (k : Nat) (bs : List Nat) (s : State) :
    Still (spareBonds k bs s) s := by
  simp only [spareBonds]
  repeat' first
    | (simp [*]; done)
    | split
    | refine forEach_still _ _ _ _ ?_ (fun a u => ?_)

@[simp] theorem issueHeld_still (k : Nat) (h : HeldMem) (s : State) : Still (issueHeld k h s) s := by
  simp only [issueHeld]
  split
  · exact issueOrHold_still _ _ _ _ _ (fun u => by simp)
  · exact issueOrHold_still _ _ _ _ _ (fun u => by simp)
  · simp

@[simp] theorem issueRetry_still (k : Nat) (s : State) :
    Still (issueRetry k s) s := by
  simp only [issueRetry]
  repeat' first
    | (simp [*]; done)
    | split
    | refine forEach_still _ _ _ _ ?_ (fun a u => ?_)

theorem execStkCtrlRetrain_still (k : Fin 12) (m : Fin 64) (s : State) {sN : State} (h : execStkCtrlRetrain k m s = .next sN) :
    Still sN s := by
  simp only [execStkCtrlRetrain] at h
  injection h with h
  subst h
  simp

@[simp] theorem takeTraining_still (k : Nat) (t : StackTrain) (s : State) :
    Still (takeTraining k t s) s := by
  simp only [takeTraining]
  repeat' first
    | (simp [*]; done)
    | split
    | refine forEach_still _ _ _ _ ?_ (fun a u => ?_)

@[simp] theorem restoreRange_still (b b' z k : Nat) (s : State) :
    Still (restoreRange b b' z k s) s := by
  simp only [restoreRange]
  repeat' first
    | (simp [*]; done)
    | split
    | refine forEach_still _ _ _ _ ?_ (fun a u => ?_)

@[simp] theorem copyRegion_still (b b' z k : Nat) (s : State) :
    Still (copyRegion b b' z k s) s := by
  simp only [copyRegion]
  repeat' first
    | (simp [*]; done)
    | split
    | refine forEach_still _ _ _ _ ?_ (fun a u => ?_)

@[simp] theorem refill_still (n b b' z k : Nat) (s : State) :
    Still (refill n b b' z k s) s := by
  simp only [refill]
  repeat' first
    | (simp [*]; done)
    | split
    | refine forEach_still _ _ _ _ ?_ (fun a u => ?_)

@[simp] theorem fillStack_still (k : Nat) (s : State) :
    Still (fillStack k s) s := by
  simp [fillStack]

@[simp] theorem sweepUnit_still (k lk u : Nat) (s : State) :
    Still (sweepUnit k lk u s) s := by
  simp only [sweepUnit]
  split <;> simp

theorem execStackTempReport_still (k : Fin 12) (dies : Vector (BitVec 8) 16) (base : BitVec 8) (s : State) {sN : State} (h : execStackTempReport k dies base s = .next sN) :
    Still sN s := by
  simp only [execStackTempReport] at h
  injection h with h
  subst h
  repeat' first
    | (simp [*]; done)
    | split

theorem execThrottleStepDown_still (k : Fin 12) (s : State) {sN : State} (h : execThrottleStepDown k s = .next sN) :
    Still sN s := by
  simp only [execThrottleStepDown] at h
  injection h with h
  subst h
  simp

theorem execThrottleStepUp_still (k : Fin 12) (s : State) {sN : State} (h : execThrottleStepUp k s = .next sN) :
    Still sN s := by
  simp only [execThrottleStepUp] at h
  injection h with h
  subst h
  simp

theorem execTelemetryStale_still (k : Fin 12) (s : State) {sN : State} (h : execTelemetryStale k s = .next sN) :
    Still sN s := by
  simp only [execTelemetryStale] at h
  injection h with h
  subst h
  simp

@[simp] theorem wrSrtCtrl_still (n v : Nat) (s : State) :
    Still (wrSrtCtrl n v s) s := by
  simp [wrSrtCtrl]

theorem execSrtValidSet_still (n : Fin 256) (mirrored : Bool) (s : State) {sN : State} (h : execSrtValidSet n mirrored s = .next sN) :
    Still sN s := by
  simp only [execSrtValidSet] at h
  injection h with h
  subst h
  simp

theorem execSrtValidClear_still (n : Fin 256) (mirrored : Bool) (s : State) {sN : State} (h : execSrtValidClear n mirrored s = .next sN) :
    Still sN s := by
  simp only [execSrtValidClear] at h
  injection h with h
  subst h
  simp

end Sys2Proof.Machine
end

