-- ==== Sys2Proof/Laws/SweptOps.lean ====
section
/-!
SUPPORT. Which functions of Machine/Ops.lean leave alone what a loss of a site and a sweep go by
(`Swept` of Safety.lean): one lemma each.
-/
namespace Sys2Proof.Machine

@[simp] theorem updSite_retired (n : Nat) (f : Site → Site) (s : State) (h1 : ∀ x, (f x).retired = x.retired) (h2 : ∀ x, (f x).inbox = x.inbox) (h3 : ∀ x, (f x).absCause = x.absCause) (h4 : ∀ x, (f x).join = x.join) : (updSite n f s).sites.map Site.base = s.sites.map Site.base := by
  unfold updSite
  apply Vector.ext
  intro i hi
  simp only [Vector.getElem_map]
  unfold vupd
  rw [Vector.getElem_setIfInBounds]
  split
  · rename_i e
    subst e
    simp [Site.base, vget, hi, h1, h2, h3, h4]
  · rfl
@[simp] theorem updPlz_osweep (f : Plaza → Plaza) (s : State) (h : ∀ p, (f p).ownerSweep = p.ownerSweep) : (updPlz f s).plz.ownerSweep = s.plz.ownerSweep := h _
@[simp] theorem updPlz_ssweep (f : Plaza → Plaza) (s : State) (h : ∀ p, (f p).stackSweep = p.stackSweep) : (updPlz f s).plz.stackSweep = s.plz.stackSweep := h _
@[simp] theorem updPlz_sites_ (f : Plaza → Plaza) (s : State) : (updPlz f s).sites = s.sites := rfl
@[simp] theorem updPlz_flushing (f : Plaza → Plaza) (s : State) (h : ∀ p, (f p).flushing = p.flushing) : (updPlz f s).plz.flushing = s.plz.flushing := h _
@[simp] theorem updSite_plz_ (n : Nat) (f : Site → Site) (s : State) : (updSite n f s).plz = s.plz := rfl
@[simp] theorem updSite_fab_ (n : Nat) (f : Site → Site) (s : State) : (updSite n f s).fab = s.fab := rfl
@[simp] theorem updPort_sites_ (n : Nat) (f : FabPort → FabPort) (s : State) : (updPort n f s).sites = s.sites := rfl
@[simp] theorem updPort_plz_ (n : Nat) (f : FabPort → FabPort) (s : State) : (updPort n f s).plz = s.plz := rfl
theorem forEach_swept {α : Type} (l : List α) (f : α → State → State) (s s' : State) (hs : Swept s' s)
    (h : ∀ a u, Swept (f a u) u) : Swept (forEach l f s') s := by
  unfold forEach
  induction l generalizing s' with
  | nil => exact hs
  | cons a l ih =>
    simp only [List.foldl_cons]
    have k := h a s'
    exact ih _ ⟨k.1.trans hs.1, k.2.1.trans hs.2.1, k.2.2.1.trans hs.2.2.1, k.2.2.2.trans hs.2.2.2⟩
@[simp] theorem forEach_swept_retired {α : Type} (l : List α) (f : α → State → State) (s : State)
    (h : ∀ a u, Swept (f a u) u) : (forEach l f s).sites.map Site.base = s.sites.map Site.base :=
  (forEach_swept l f s s ⟨rfl, rfl, rfl, rfl⟩ h).1
@[simp] theorem ite_retired (c : Prop) [Decidable c] (a b : State) :
    (if c then a else b).sites.map Site.base = if c then a.sites.map Site.base else b.sites.map Site.base := by split <;> rfl
@[simp] theorem forEach_swept_osweep {α : Type} (l : List α) (f : α → State → State) (s : State)
    (h : ∀ a u, Swept (f a u) u) : (forEach l f s).plz.ownerSweep = s.plz.ownerSweep :=
  (forEach_swept l f s s ⟨rfl, rfl, rfl, rfl⟩ h).2.1
@[simp] theorem ite_osweep (c : Prop) [Decidable c] (a b : State) :
    (if c then a else b).plz.ownerSweep = if c then a.plz.ownerSweep else b.plz.ownerSweep := by split <;> rfl
@[simp] theorem forEach_swept_ssweep {α : Type} (l : List α) (f : α → State → State) (s : State)
    (h : ∀ a u, Swept (f a u) u) : (forEach l f s).plz.stackSweep = s.plz.stackSweep :=
  (forEach_swept l f s s ⟨rfl, rfl, rfl, rfl⟩ h).2.2.1
@[simp] theorem ite_ssweep (c : Prop) [Decidable c] (a b : State) :
    (if c then a else b).plz.stackSweep = if c then a.plz.stackSweep else b.plz.stackSweep := by split <;> rfl
@[simp] theorem forEach_swept_flushing {α : Type} (l : List α) (f : α → State → State) (s : State)
    (h : ∀ a u, Swept (f a u) u) : (forEach l f s).plz.flushing = s.plz.flushing :=
  (forEach_swept l f s s ⟨rfl, rfl, rfl, rfl⟩ h).2.2.2
@[simp] theorem ite_flushing (c : Prop) [Decidable c] (a b : State) :
    (if c then a else b).plz.flushing = if c then a.plz.flushing else b.plz.flushing := by split <;> rfl
theorem Swept.trans {a b c : State} (h : Swept a b) (k : Swept b c) : Swept a c :=
  ⟨h.1.trans k.1, h.2.1.trans k.2.1, h.2.2.1.trans k.2.2.1, h.2.2.2.trans k.2.2.2⟩
theorem Swept.refl (a : State) : Swept a a := ⟨rfl, rfl, rfl, rfl⟩
theorem Swept.ite {c : Prop} [Decidable c] {a b s : State} (ha : Swept a s) (hb : Swept b s) : Swept (if c then a else b) s := by
  split
  · exact ha
  · exact hb

@[simp] theorem updTile_swept (t : Nat) (f : Tile → Tile) (s : State) :
    Swept (updTile t f s) s := by
  simp [updTile]

@[simp] theorem updCluster_swept (c : Nat) (f : Cluster → Cluster) (s : State) :
    Swept (updCluster c f s) s := by
  simp [updCluster]

@[simp] theorem updStack_swept (k : Nat) (f : Stack → Stack) (s : State) :
    Swept (updStack k f s) s := by
  simp [updStack]

@[simp] theorem updCtx_swept (c : Nat) (f : Ctx → Ctx) (s : State) :
    Swept (updCtx c f s) s := by
  simp [updCtx]

@[simp] theorem updRing_swept (r : Nat) (f : Ring → Ring) (s : State) :
    Swept (updRing r f s) s := by
  simp [updRing]

@[simp] theorem updLive_swept (id : Nat) (f : Live → Live) (s : State) :
    Swept (updLive id f s) s := by
  simp [updLive]

@[simp] theorem updWalker_swept (p : Nat) (f : Walker → Walker) (s : State) :
    Swept (updWalker p f s) s := by
  simp [updWalker]

@[simp] theorem updPort_swept (n : Nat) (f : FabPort → FabPort) (s : State) :
    Swept (updPort n f s) s := by
  simp [updPort]

@[simp] theorem updFn_swept (f : Nat) (g : Fn → Fn) (s : State) :
    Swept (updFn f g s) s := by
  simp [updFn]

@[simp] theorem updXlt_swept (f : Xlt → Xlt) (s : State) :
    Swept (updXlt f s) s := by
  simp [updXlt]

@[simp] theorem emit_swept (o : Out) (s : State) :
    Swept (emit o s) s := by
  simp [emit]

@[simp] theorem fresh_swept (s : State) :
    Swept (fresh s).2 s := by
  simp [fresh]

@[simp] theorem setReg_swept (k v : Nat) (s : State) :
    Swept (setReg k v s) s := by
  simp [setReg]

@[simp] theorem setRf_swept (k hi lo v : Nat) (s : State) :
    Swept (setRf k hi lo v s) s := by
  simp [setRf]

@[simp] theorem addRf_swept (k hi lo n : Nat) (s : State) :
    Swept (addRf k hi lo n s) s := by
  simp [addRf]

@[simp] theorem putFields_swept (k : Nat) (fs : List FieldInfo) (v : Nat) (s : State) :
    Swept (putFields k fs v s) s := by
  simp [putFields]

@[simp] theorem applyKey_swept (ap : Apply) (k : Nat) (s : State) :
    Swept (applyKey ap k s) s := by
  simp only [applyKey]
  split <;> simp

@[simp] theorem applyAll_swept (ap : Apply) (p : Nat → Bool) (s : State) :
    Swept (applyAll ap p s) s := by
  simp [applyAll]

@[simp] theorem setRc_swept (fn k : Nat) (r : RcReg) (s : State) :
    Swept (setRc fn k r s) s := by
  simp [setRc]

@[simp] theorem rcEvent_swept (k hi lo : Nat) (f : Nat → Nat) (s : State) :
    Swept (rcEvent k hi lo f s) s := by
  simp [rcEvent]

@[simp] theorem rcFlag_swept (k b : Nat) (s : State) :
    Swept (rcFlag k b s) s := by
  simp [rcFlag]

@[simp] theorem rcCount_swept (k hi lo n : Nat) (s : State) :
    Swept (rcCount k hi lo n s) s := by
  simp [rcCount]

@[simp] theorem sendVector_swept (f v : Nat) (s : State) :
    Swept (sendVector f v s) s := by
  simp [sendVector]

@[simp] theorem sendPending_swept (f : Nat) (s : State) :
    Swept (sendPending f s) s := by
  simp [sendPending]

@[simp] theorem syncGate_swept (f : Nat) (s : State) :
    Swept (syncGate f s) s := by
  simp [syncGate]

@[simp] theorem syncGates_swept (s : State) :
    Swept (syncGates s) s := by
  simp [syncGates]

@[simp] theorem syncStatus_swept (s : State) :
    Swept (syncStatus s) s := by
  simp [syncStatus]

@[simp] theorem syncUnit_swept (key : Nat) (s : State) :
    Swept (syncUnit key s) s := by
  simp [syncUnit]

@[simp] theorem rewriteUnits_swept (ch : List (Nat × (UnitRec → UnitRec))) (s : State) :
    Swept (rewriteUnits ch s) s := by
  simp [rewriteUnits]

@[simp] theorem unmark_swept (key : Nat) (s : State) :
    Swept (unmark key s) s := by
  simp only [unmark]
  repeat' first
    | (simp [*]; done)
    | split
    | refine forEach_swept _ _ _ _ ?_ (fun a u => ?_)

@[simp] theorem markUnit_swept (ty id st : Nat) (s : State) :
    Swept (markUnit ty id st s) s := by
  simp only [markUnit]
  repeat' first
    | (simp [*]; done)
    | split
    | refine forEach_swept _ _ _ _ ?_ (fun a u => ?_)

@[simp] theorem setStatus_swept (ty id st cause : Nat) (s : State) :
    Swept (setStatus ty id st cause s) s := by
  simp [setStatus]

@[simp] theorem recordMarked_swept (ty id cause : Nat) (s : State) :
    Swept (recordMarked ty id cause s) s := by
  simp only [recordMarked]
  repeat' first
    | (simp [*]; done)
    | split
    | refine forEach_swept _ _ _ _ ?_ (fun a u => ?_)

@[simp] theorem bumpEpoch_swept (s : State) :
    Swept (bumpEpoch s) s := by
  simp [bumpEpoch]

@[simp] theorem enterQuarWith_swept (us : List (Nat × Nat)) (cause : Nat) (f : UnitRec → UnitRec) (s : State) :
    Swept (enterQuarWith us cause f s) s := by
  simp only [enterQuarWith]
  repeat' first
    | (simp [*]; done)
    | split
    | refine forEach_swept _ _ _ _ ?_ (fun a u => ?_)

@[simp] theorem unisolate_swept (ty id : Nat) (s : State) :
    Swept (unisolate ty id s) s := by
  simp only [unisolate]
  repeat' first
    | (simp [*]; done)
    | split
    | refine forEach_swept _ _ _ _ ?_ (fun a u => ?_)

@[simp] theorem enterQuar_swept (us : List (Nat × Nat)) (cause : Nat) (s : State) :
    Swept (enterQuar us cause s) s := by
  simp [enterQuar]

@[simp] theorem toShadow_swept (off v : Nat) (s : State) :
    Swept (toShadow off v s) s := by
  simp [toShadow]

@[simp] theorem bumpCounter_swept (b i n : Nat) (s : State) :
    Swept (bumpCounter b i n s) s := by
  simp [bumpCounter]

@[simp] theorem countEvent_swept (b ev : Nat) (ctx cls : Option Nat) (pv : Option (Nat × Nat)) (n : Nat) (s : State) :
    Swept (countEvent b ev ctx cls pv n s) s := by
  simp [countEvent]

@[simp] theorem countUnits_swept (b p n : Nat) (s : State) :
    Swept (countUnits b p n s) s := by
  simp [countUnits]

end Sys2Proof.Machine
end

