-- ==== Sys2Proof/Laws/SweptMemory.lean ====
section
/-!
SUPPORT. Which functions of Machine/Memory.lean leave alone what a loss of a site and a sweep go by
(`Swept` of Safety.lean): one lemma each.
-/
namespace Sys2Proof.Machine

@[simp] theorem noteMark_swept (raise : Raise) (k a : Nat) (was is : Bool) (s : State) (hraise : ∀ c k ws u, Swept (raise c k ws u) u) :
    Swept (noteMark raise k a was is s) s := by
  simp only [noteMark]
  repeat' first
    | (simp [*]; done)
    | split

@[simp] theorem noteNotOn_swept (raise : Raise) (k source : Nat) (s : State) (hraise : ∀ c k ws u, Swept (raise c k ws u) u) :
    Swept (noteNotOn raise k source s) s := by
  simp only [noteNotOn]
  repeat' first
    | (simp [*]; done)
    | split

@[simp] theorem tracked_swept (raise : Raise) (k a : Nat) (f : State → State) (s : State)
    (hraise : ∀ c k ws u, Swept (raise c k ws u) u) (hf : ∀ u, Swept (f u) u) : Swept (tracked raise k a f s) s := by
  simp only [tracked]
  have := hf s
  simp_all

@[simp] theorem putDram_swept (k a : Nat) (d : UnitData) (m : Option Mark) (s : State) :
    Swept (putDram k a d m s) s := by
  simp [putDram]

@[simp] theorem clearMark_swept (k a : Nat) (s : State) :
    Swept (clearMark k a s) s := by
  simp [clearMark]

@[simp] theorem countBonds_swept (k a : Nat) (symbols : List Nat) (s : State) :
    Swept (countBonds k a symbols s) s := by
  simp [countBonds]

@[simp] theorem convertPoison_swept (raise : Raise) (k a source : Nat) (s : State) (hraise : ∀ c k ws u, Swept (raise c k ws u) u) :
    Swept (convertPoison raise k a source s).2 s := by
  simp only [convertPoison]
  repeat' first
    | (simp [*]; done)
    | split

@[simp] theorem readUnit_swept (raise : Raise) (k a : Nat) (ev : EccOutcome) (s : State) (hraise : ∀ c k ws u, Swept (raise c k ws u) u) :
    Swept (readUnit raise k a ev s).2 s := by
  simp only [readUnit]
  repeat' first
    | (simp [*]; done)
    | split

@[simp] theorem readOut_swept (raise : Raise) (k a src : Nat) (look : Nat → Nat → State → (UnitData × Option Mark) × State)
    (s : State) (hraise : ∀ c k ws u, Swept (raise c k ws u) u) (hlook : ∀ k a u, Swept (look k a u).2 u) :
    Swept (readOut raise k a src look s).2 s := by
  simp only [readOut]
  repeat' first
    | (simp [*]; done)
    | split

@[simp] theorem memLook_swept (raise : Raise) (k a : Nat) (s : State) (hraise : ∀ c k ws u, Swept (raise c k ws u) u) :
    Swept (memLook raise k a s).2 s := by
  simp only [memLook]
  repeat' first
    | (simp [*]; done)
    | split

@[simp] theorem healUnit_swept (raise : Raise) (n k a : Nat) (d : UnitData) (s : State) (hraise : ∀ c k ws u, Swept (raise c k ws u) u) :
    Swept (healUnit raise n k a d s) s := by
  simp only [healUnit]
  repeat' first
    | (simp [*]; done)
    | split

@[simp] theorem memRead_swept (raise : Raise) (k a : Nat) (ev ev2 : EccOutcome) (s : State) (hraise : ∀ c k ws u, Swept (raise c k ws u) u) :
    Swept (memRead raise k a ev ev2 s).2 s := by
  simp only [memRead]
  repeat' first
    | (simp [*]; done)
    | split

@[simp] theorem dropWrite_swept (raise : Raise) (k src : Nat) (s : State) (hraise : ∀ c k ws u, Swept (raise c k ws u) u) :
    Swept (dropWrite raise k src s) s := by
  simp only [dropWrite]
  repeat' first
    | (simp [*]; done)
    | split

@[simp] theorem memWrite_swept (raise : Raise) (k a : Nat) (d : UnitData) (m : Option Mark) (symbols : List Nat) (s : State) (hraise : ∀ c k ws u, Swept (raise c k ws u) u) :
    Swept (memWrite raise k a d m symbols s) s := by
  simp only [memWrite]
  repeat' first
    | (simp [*]; done)
    | split

@[simp] theorem holdMem_swept (k : Nat) (h : HeldMem) (s : State) :
    Swept (holdMem k h s) s := by
  simp [holdMem]

@[simp] theorem hubWrite_swept (raise : Raise) (k a : Nat) (d : UnitData) (m : Option Mark) (s : State) (hraise : ∀ c k ws u, Swept (raise c k ws u) u) :
    Swept (hubWrite raise k a d m s) s := by
  simp only [hubWrite]
  repeat' first
    | (simp [*]; done)
    | split

@[simp] theorem setPline_swept (lk : Nat) (l : PLine) (s : State) :
    Swept (setPline lk l s) s := by
  simp [setPline]

@[simp] theorem homeUnit_swept (raise : Raise) (lk u : Nat) (s : State) (hraise : ∀ c k ws u, Swept (raise c k ws u) u) :
    Swept (homeUnit raise lk u s).2 s := by
  simp only [homeUnit]
  repeat' first
    | (simp [*]; done)
    | split
    | refine forEach_swept _ _ _ _ ?_ (fun a u => ?_)

@[simp] theorem allocLine_swept (raise : Raise) (lk : Nat) (s : State) (hraise : ∀ c k ws u, Swept (raise c k ws u) u) :
    Swept (allocLine raise lk s) s := by
  simp only [allocLine]
  repeat' first
    | (simp [*]; done)
    | split
    | refine forEach_swept _ _ _ _ ?_ (fun a u => ?_)

@[simp] theorem storeUnitAt_swept (raise : Raise) (lk u : Nat) (d : UnitData) (m : Option Mark) (dirty : Bool) (s : State) (hraise : ∀ c k ws u, Swept (raise c k ws u) u) :
    Swept (storeUnitAt raise lk u d m dirty s) s := by
  refine tracked_swept _ _ _ _ _ hraise (fun u => ?_)
  repeat' first
    | (simp [*]; done)
    | split

@[simp] theorem mergeUnit_swept (raise : Raise) (stream : Bool) (lk u : Nat) (d : UnitData) (mask : Nat) (m : Option Mark) (s : State) (hraise : ∀ c k ws u, Swept (raise c k ws u) u) :
    Swept (mergeUnit raise stream lk u d mask m s) s := by
  simp only [mergeUnit]
  repeat' first
    | (simp [*]; done)
    | split

@[simp] theorem mergeLine_swept (raise : Raise) (lk : Nat) (d : LineData) (mask : Nat) (m0 m1 : Option Mark) (hint : Nat) (s : State) (hraise : ∀ c k ws u, Swept (raise c k ws u) u) :
    Swept (mergeLine raise lk d mask m0 m1 hint s) s := by
  simp only [mergeLine]
  repeat' first
    | (simp [*]; done)
    | split

@[simp] theorem homeWrite_swept (raise : Raise) (lk : Nat) (d : LineData) (mask : Nat) (m0 m1 : Option Mark) (hint : Nat) (mirror : Bool) (s : State) (hraise : ∀ c k ws u, Swept (raise c k ws u) u) :
    Swept (homeWrite raise lk d mask m0 m1 hint mirror s) s := by
  simp only [homeWrite]
  repeat' first
    | (simp [*]; done)
    | split

@[simp] theorem homeRead_swept (raise : Raise) (lk u : Nat) (s : State) (hraise : ∀ c k ws u, Swept (raise c k ws u) u) :
    Swept (homeRead raise lk u s).2 s := by
  simp only [homeRead]
  repeat' first
    | (simp [*]; done)
    | split
    | refine forEach_swept _ _ _ _ ?_ (fun a u => ?_)

@[simp] theorem cleanLine_swept (raise : Raise) (lk : Nat) (s : State) (hraise : ∀ c k ws u, Swept (raise c k ws u) u) :
    Swept (cleanLine raise lk s) s := by
  simp only [cleanLine]
  repeat' first
    | (simp [*]; done)
    | split

@[simp] theorem dropLine_swept (lk : Nat) (s : State) :
    Swept (dropLine lk s) s := by
  simp [dropLine]

@[simp] theorem giveLine_swept (lk : Nat) (s : State) :
    Swept (giveLine lk s) s := by
  simp only [giveLine]
  repeat' first
    | (simp [*]; done)
    | split

end Sys2Proof.Machine
end

