-- ==== Sys2Proof/Laws/SweptAccess.lean ====
section
/-!
SUPPORT. Which functions of Machine/Access.lean leave alone what a loss of a site and a sweep go by
(`Swept` of Safety.lean): one lemma each.
-/
namespace Sys2Proof.Machine

@[simp] theorem syncTracker_swept (p : Nat) (s : State) :
    Swept (syncTracker p s) s := by
  simp [syncTracker]

@[simp] theorem setTxns_swept (lk : Nat) (f : List Txn → List Txn) (s : State) :
    Swept (setTxns lk f s) s := by
  simp [setTxns]

@[simp] theorem postTxn_swept (kind : TKind) (req : Req) (lk : Nat) (d : LineData) (mask : BitVec 128) (m0 m1 : Option Mark) (hint : Nat) (mirror : Bool) (s : State) :
    Swept (postTxn kind req lk d mask m0 m1 hint mirror s) s := by
  simp [postTxn]

@[simp] theorem putFlit_swept (n k : Nat) (f : Flit) (s : State) :
    Swept (putFlit n k f s) s := by
  simp only [putFlit]
  repeat' first
    | (simp [*]; done)
    | split
    | refine forEach_swept _ _ _ _ ?_ (fun a u => ?_)

@[simp] theorem sendIdle_swept (n : Nat) (nak : Bool) (s : State) :
    Swept (sendIdle n nak s) s := by
  simp only [sendIdle]
  repeat' first
    | (simp [*]; done)
    | split
    | refine forEach_swept _ _ _ _ ?_ (fun a u => ?_)

@[simp] theorem placeFlit_swept (n : Nat) (f : Flit) (s : State) :
    Swept (placeFlit n f s) s := by
  simp only [placeFlit]
  repeat' first
    | (simp [*]; done)
    | split
    | refine forEach_swept _ _ _ _ ?_ (fun a u => ?_)

@[simp] theorem transmit_swept (n : Nat) (m : KMsg) (u : UnitData) (s : State) :
    Swept (transmit n m u s) s := by
  simp [transmit]

@[simp] theorem flushHeld_swept (n : Nat) (s : State) :
    Swept (flushHeld n s) s := by
  simp [flushHeld]

@[simp] theorem toSite_swept (n : Nat) (m : KMsg) (u : UnitData) (s : State) :
    Swept (toSite n m u s) s := by
  simp [toSite]

@[simp] theorem tgtSend_swept (n : Nat) (who : Who) (key : Tgt) (write : Bool) (d : UnitData) (mask : Nat) (m : Option Mark) (s : State) :
    Swept (tgtSend n who key write d mask m s) s := by
  simp [tgtSend]

@[simp] theorem windowMiss_swept (raise : Raise) (w off : Nat) (write : Bool) (s : State) (hraise : ∀ c k ws u, Swept (raise c k ws u) u) :
    Swept (windowMiss raise w off write s) s := by
  simp only [windowMiss]
  repeat' first
    | (simp [*]; done)
    | split

@[simp] theorem hostPost_swept (f addr : Nat) (bytes : List Byte) (poisoned : Bool) (s : State) :
    Swept (hostPost f addr bytes poisoned s) s := by
  simp [hostPost]

@[simp] theorem hostUnit_swept (raise : Raise) (w off : Nat) (d : UnitData) (mask : Nat) (m : Option Mark) (s : State) (hraise : ∀ c k ws u, Swept (raise c k ws u) u) :
    Swept (hostUnit raise w off d mask m s) s := by
  simp only [hostUnit]
  repeat' first
    | (simp [*]; done)
    | split

@[simp] theorem oweUnits_swept (n c u : Nat) (s : State) :
    Swept (oweUnits n c u s) s := by
  simp only [oweUnits]
  repeat' first
    | (simp [*]; done)
    | split
    | refine forEach_swept _ _ _ _ ?_ (fun a u => ?_)

@[simp] theorem sendFabIdle_swept (n : Nat) (nak : Bool) (s : State) :
    Swept (sendFabIdle n nak s) s := by
  simp only [sendFabIdle]
  repeat' first
    | (simp [*]; done)
    | split
    | refine forEach_swept _ _ _ _ ?_ (fun a u => ?_)

@[simp] theorem sendFabFlit_swept (n : Nat) (s : State) :
    Swept (sendFabFlit n s) s := by
  simp only [sendFabFlit]
  repeat' first
    | (simp [*]; done)
    | split
    | refine forEach_swept _ _ _ _ ?_ (fun a u => ?_)

@[simp] theorem drainTx_swept (n : Nat) (all : Bool) (fuel : Nat) (s : State) : Swept (drainTx n all fuel s) s := by
  induction fuel generalizing s with
  | zero => simp [drainTx]
  | succ k ih =>
    simp only [drainTx]
    repeat' first
      | (simp [ih]; done)
      | split

@[simp] theorem kflTransmit_swept (n : Nat) (m : KflMsg) (s : State) :
    Swept (kflTransmit n m s) s := by
  simp [kflTransmit]

@[simp] theorem kflFlush_swept (n : Nat) (s : State) :
    Swept (kflFlush n s) s := by
  simp [kflFlush]

@[simp] theorem kflSend_swept (out : Nat) (m : KflMsg) (s : State) :
    Swept (kflSend out m s) s := by
  simp [kflSend]

theorem remoteSend_swept {who : Who} {node win off msg units cls : Nat} {payload : List UnitData} {m : List (Option Mark)} {s : State} {r : Bool × State} (h : remoteSend who node win off msg units cls payload m s = some r) :
    Swept r.2 s := by
  simp only [remoteSend] at h
  repeat' first
    | (cases h; done)
    | split at h
    | (cases h; simp [*]; done)
    | (cases h; simp)

@[simp] theorem arrive_swept (who : Who) (key : Tgt) (d : UnitData) (m : Option Mark) (s : State) :
    Swept (arrive who key d m s) s := by
  simp [arrive]

theorem takeArrival_swept {who : Who} {key : Tgt} {s : State} {r : (UnitData × Option Mark) × State} (h : takeArrival who key s = some r) :
    Swept r.2 s := by
  simp only [takeArrival] at h
  repeat' first
    | (cases h; done)
    | split at h
    | (cases h; simp [*]; done)
    | (cases h; simp)

@[simp] theorem askUnits_swept (who : Who) (key : Tgt) (n : Nat) (s : State) :
    Swept (askUnits who key n s) s := by
  simp [askUnits]

@[simp] theorem countLookup_swept (ctx : Option Nat) (lk : Nat) (s : State) :
    Swept (countLookup ctx lk s) s := by
  simp [countLookup]

@[simp] theorem agentRead_swept (raise : Raise) (who : Who) (key : Tgt) (more cls : Nat) (s : State) (hraise : ∀ c k ws u, Swept (raise c k ws u) u) :
    Swept (agentRead raise who key more cls s).2 s := by
  simp only [agentRead]
  repeat' first
    | (simp [*]; done)
    | (split <;> try (first
        | (rename_i hq; have h1 := congrArg (fun p => p.2.sites.map Site.base) hq; have h2 := congrArg (fun p => p.2.plz.ownerSweep) hq; have h3 := congrArg (fun p => p.2.plz.stackSweep) hq; have h4 := congrArg (fun p => p.2.plz.flushing) hq; simp at h1 h2 h3 h4)
        | (rename_i hq; have h1 := congrArg (fun p => p.2.2.sites.map Site.base) hq; have h2 := congrArg (fun p => p.2.2.plz.ownerSweep) hq; have h3 := congrArg (fun p => p.2.2.plz.stackSweep) hq; have h4 := congrArg (fun p => p.2.2.plz.flushing) hq; simp at h1 h2 h3 h4)))
    | refine forEach_swept _ _ _ _ ?_ (fun a u => ?_)
    | (simp_all; done)
    | (have hk := remoteSend_swept (by assumption); simp_all; done)
    | (have hk := takeArrival_swept (by assumption); simp_all; done)
    | (rename_i hq; split at hq)
    | simp

@[simp] theorem agentAtomic_swept (who : Who) (node win o cls : Nat) (payload : UnitData) (s : State) :
    Swept (agentAtomic who node win o cls payload s).2 s := by
  simp only [agentAtomic]
  repeat' first
    | (simp [*]; done)
    | (split <;> try (first
        | (rename_i hq; have h1 := congrArg (fun p => p.2.sites.map Site.base) hq; have h2 := congrArg (fun p => p.2.plz.ownerSweep) hq; have h3 := congrArg (fun p => p.2.plz.stackSweep) hq; have h4 := congrArg (fun p => p.2.plz.flushing) hq; simp at h1 h2 h3 h4)
        | (rename_i hq; have h1 := congrArg (fun p => p.2.2.sites.map Site.base) hq; have h2 := congrArg (fun p => p.2.2.plz.ownerSweep) hq; have h3 := congrArg (fun p => p.2.2.plz.stackSweep) hq; have h4 := congrArg (fun p => p.2.2.plz.flushing) hq; simp at h1 h2 h3 h4)))
    | refine forEach_swept _ _ _ _ ?_ (fun a u => ?_)
    | (simp_all; done)
    | (have hk := remoteSend_swept (by assumption); simp_all; done)
    | (have hk := takeArrival_swept (by assumption); simp_all; done)
    | (rename_i hq; split at hq)
    | simp

@[simp] theorem storeLine_swept (raise : Raise) (who : Who) (lk : Nat) (d : LineData) (mask : Nat) (m0 m1 : Option Mark) (hint : Nat) (mirror : Bool) (s : State) (hraise : ∀ c k ws u, Swept (raise c k ws u) u) :
    Swept (storeLine raise who lk d mask m0 m1 hint mirror s).2 s := by
  simp only [storeLine]
  repeat' first
    | (simp [*]; done)
    | split

@[simp] theorem storeUnit_swept (raise : Raise) (who : Who) (key : Tgt) (d : UnitData) (mask : Nat) (m : Option Mark) (cls : Nat) (s : State) (hraise : ∀ c k ws u, Swept (raise c k ws u) u) :
    Swept (storeUnit raise who key d mask m cls s).2 s := by
  simp only [storeUnit]
  repeat' first
    | (simp [*]; done)
    | (split <;> try (first
        | (rename_i hq; have h1 := congrArg (fun p => p.2.sites.map Site.base) hq; have h2 := congrArg (fun p => p.2.plz.ownerSweep) hq; have h3 := congrArg (fun p => p.2.plz.stackSweep) hq; have h4 := congrArg (fun p => p.2.plz.flushing) hq; simp at h1 h2 h3 h4)
        | (rename_i hq; have h1 := congrArg (fun p => p.2.2.sites.map Site.base) hq; have h2 := congrArg (fun p => p.2.2.plz.ownerSweep) hq; have h3 := congrArg (fun p => p.2.2.plz.stackSweep) hq; have h4 := congrArg (fun p => p.2.2.plz.flushing) hq; simp at h1 h2 h3 h4)))
    | refine forEach_swept _ _ _ _ ?_ (fun a u => ?_)
    | (simp_all; done)
    | (have hk := remoteSend_swept (by assumption); simp_all; done)
    | (rename_i hq; split at hq)
    | simp

@[simp] theorem agentStore_swept (raise : Raise) (who : Who) (mark : Nat → Option Mark) (hint cls : Nat) (mirror : Bool)
    (hraise : ∀ c k ws u, Swept (raise c k ws u) u)
    (fuel i : Nat) (key : Tgt) (bytes : List Byte) (s : State) :
    Swept ((agentStore raise who mark hint cls mirror fuel i key bytes s).2) s := by
  induction fuel generalizing i key bytes s with
  | zero => simp [agentStore]
  | succ n ih =>
    cases bytes with
    | nil => simp [agentStore]
    | cons b bs =>
      unfold agentStore
      cases key with
      | stacked k a => exact (ih ..).trans (storeLine_swept _ _ _ _ _ _ _ _ _ _ hraise)
      | remote node win o =>
        refine (ih ..).trans ?_
        split
        · split
          · exact Swept.refl _
          · rename_i hq
            exact remoteSend_swept hq
          · rename_i hq
            exact remoteSend_swept hq
        · exact storeUnit_swept _ _ _ _ _ _ _ _ hraise
      | _ => exact (ih ..).trans (storeUnit_swept _ _ _ _ _ _ _ _ hraise)

@[simp] theorem storeBytes_swept (raise : Raise) (who : Who) (key : Tgt) (bytes : List Byte) (hint cls : Nat) (mirror : Bool) (s : State) (hraise : ∀ c k ws u, Swept (raise c k ws u) u) :
    Swept (storeBytes raise who key bytes hint cls mirror s).2 s := by
  simp only [storeBytes]
  repeat' first
    | (simp [*]; done)
    | split

@[simp] theorem ackWrite_swept (who : Who) (fail : Option Nat) (s : State) :
    Swept (ackWrite who fail s) s := by
  simp only [ackWrite]
  repeat' first
    | (simp [*]; done)
    | split

end Sys2Proof.Machine
end

