-- ==== Sys2Proof/Laws/SweptRecords.lean ====
section
/-!
SUPPORT. Which functions of Machine/Records.lean leave alone what a loss of a site and a sweep go by
(`Swept` of Safety.lean): one lemma each.
-/
namespace Sys2Proof.Machine

@[simp] theorem storeHeld_swept (raise : Raise) (who : Who) (e : CacheEnt) (va : Nat) (bytes : List Byte) (s : State) (hraise : ∀ c k ws u, Swept (raise c k ws u) u) :
    Swept (storeHeld raise who e va bytes s) s := by
  simp only [storeHeld]
  repeat' first
    | (simp [*]; done)
    | split
    | refine forEach_swept _ _ _ _ ?_ (fun a u => ?_)

@[simp] theorem dropOp_swept (s : State) :
    Swept (dropOp s) s := by
  simp [dropOp]

@[simp] theorem keepRecord_swept (r : Rec) (s : State) :
    Swept (keepRecord r s) s := by
  simp [keepRecord]

@[simp] theorem quietRaise_swept (c : Nat) (k : Bool) (ws : List Nat) (u : State) :
    Swept (quietRaise c k ws u) u := by
  simp only [quietRaise]
  split <;> simp

@[simp] theorem writeOp_swept (r : Rec) (s : State) :
    Swept (writeOp r s) s := by
  simp [writeOp]

@[simp] theorem placeLost_swept (s : State) :
    Swept (placeLost s) s := by
  simp [placeLost]

@[simp] theorem drainKept_swept (n : Nat) (s : State) :
    Swept ((drainKept n s)) s := by
  induction n generalizing s with
  | zero => simp [drainKept]
  | succ n ih =>
    simp only [drainKept]
    repeat' first
      | (simp [*]; done)
      | split

@[simp] theorem opRecord_swept (code : Nat) (kept : Bool) (words : List Nat) (s : State) :
    Swept (opRecord code kept words s) s := by
  simp [opRecord]

@[simp] theorem serviceRequest_swept (ty id cause action : Nat) (s : State) :
    Swept (serviceRequest ty id cause action s) s := by
  simp [serviceRequest]

@[simp] theorem fltArea_swept (c : Nat) (s : State) :
    Swept (fltArea c s).2 s := by
  simp only [fltArea]
  repeat' first
    | (simp [*]; done)
    | split

@[simp] theorem writeFlt_swept (c : Nat) (e : CacheEnt) (r : Rec) (s : State) :
    Swept (writeFlt c e r s) s := by
  simp [writeFlt]

@[simp] theorem dropFlt_swept (c : Nat) (s : State) :
    Swept (dropFlt c s) s := by
  simp [dropFlt]

@[simp] theorem deliverEntry_swept (p i : Nat) (e : Pft) (s : State) :
    Swept (deliverEntry p i e s) s := by
  simp only [deliverEntry]
  repeat' first
    | (simp [*]; done)
    | split

@[simp] theorem deliverWaiting_swept (c : Nat) (s : State) :
    Swept (deliverWaiting c s) s := by
  simp only [deliverWaiting]
  refine forEach_swept _ _ _ _ (by simp) (fun p u => forEach_swept _ _ _ _ (by simp) (fun i v => ?_))
  repeat' first
    | (simp; done)
    | split

@[simp] theorem ctxRecord_swept (c code : Nat) (words : List Nat) (s : State) :
    Swept (ctxRecord c code words s) s := by
  simp only [ctxRecord]
  repeat' first
    | (simp [*]; done)
    | (split <;> try (first
        | (rename_i hq; have h1 := congrArg (fun p => p.2.sites.map Site.base) hq; have h2 := congrArg (fun p => p.2.plz.ownerSweep) hq; have h3 := congrArg (fun p => p.2.plz.stackSweep) hq; have h4 := congrArg (fun p => p.2.plz.flushing) hq; simp at h1 h2 h3 h4)
        | (rename_i hq; have h1 := congrArg (fun p => p.2.2.sites.map Site.base) hq; have h2 := congrArg (fun p => p.2.2.plz.ownerSweep) hq; have h3 := congrArg (fun p => p.2.2.plz.stackSweep) hq; have h4 := congrArg (fun p => p.2.2.plz.flushing) hq; simp at h1 h2 h3 h4)))
    | refine forEach_swept _ _ _ _ ?_ (fun a u => ?_)
    | (simp_all; done)
    | (rename_i hq; split at hq)
    | simp

end Sys2Proof.Machine
end

