-- ==== Sys2Proof/Laws/SweptTranslate.lean ====
section
/-!
SUPPORT. Which functions of Machine/Translate.lean leave alone what a loss of a site and a sweep go by
(`Swept` of Safety.lean): one lemma each.
-/
namespace Sys2Proof.Machine

@[simp] theorem updCache_swept (who : Who) (f : List CacheEnt → List CacheEnt) (s : State) :
    Swept (updCache who f s) s := by
  simp only [updCache]
  split <;> simp

@[simp] theorem forget_swept (who : Who) (ctx va : Nat) (s : State) :
    Swept (forget who ctx va s) s := by
  simp [forget]

@[simp] theorem stallFault_swept (who : Who) (ctx va : Nat) (acc : AccKind) (cause : XFault) (level : Nat) (s : State) :
    Swept (stallFault who ctx va acc cause level s) s := by
  simp [stallFault]

@[simp] theorem countCtc_swept (who : Who) (ctx ev : Nat) (s : State) :
    Swept (countCtc who ctx ev s) s := by
  simp only [countCtc]
  split <;> simp

@[simp] theorem xlate_swept (who : Who) (ctx va : Nat) (acc : AccKind) (s : State) :
    Swept (xlate who ctx va acc s).2 s := by
  simp only [xlate]
  repeat' first
    | (simp [*]; done)
    | split

@[simp] theorem walkEntry_swept (p k : Nat) (w : Walk) (e : Option Nat) (s : State) :
    Swept (walkEntry p k w e s) s := by
  simp only [walkEntry]
  repeat' first
    | (simp [*]; done)
    | split

@[simp] theorem syncLive_swept (p : Nat) (s : State) :
    Swept (syncLive p s) s := by
  simp [syncLive]

@[simp] theorem freePft_swept (p i : Nat) (s : State) :
    Swept (freePft p i s) s := by
  simp [freePft]

@[simp] theorem clearBits_swept (p : Nat) (gone : List (Nat × Nat × Nat)) (s : State) :
    Swept (clearBits p gone s) s := by
  simp [clearBits]

@[simp] theorem trimWalks_swept (s : State) :
    Swept (trimWalks s) s := by
  simp [trimWalks]

@[simp] theorem endStalls_swept (q : Who → Nat → Bool) (s : State) :
    Swept (endStalls q s) s := by
  simp [endStalls]

@[simp] theorem leaveStalls_swept (q : Who → Nat → Bool) (s : State) :
    Swept (leaveStalls q s) s := by
  simp [leaveStalls]

@[simp] theorem dropArrivals_swept (q : Who → Bool) (s : State) :
    Swept (dropArrivals q s) s := by
  simp [dropArrivals]

@[simp] theorem leaveFaults_swept (q : Who → Nat → Bool) (s : State) :
    Swept (leaveFaults q s) s := by
  simp [leaveFaults]

@[simp] theorem dropFaults_swept (ctx : Nat) (s : State) :
    Swept (dropFaults ctx s) s := by
  simp [dropFaults]

end Sys2Proof.Machine
end

