-- ==== Sys2Proof/Laws/SweptCoherence.lean ====
section
/-!
SUPPORT. Which functions of Machine/Coherence.lean leave alone what a loss of a site and a sweep go by
(`Swept` of Safety.lean): one lemma each.
-/
namespace Sys2Proof.Machine

@[simp] theorem updTxn_swept (id : Nat) (f : Txn → Txn) (s : State) :
    Swept (updTxn id f s) s := by
  simp [updTxn]

@[simp] theorem endTxn_swept (t : Txn) (s : State) :
    Swept (endTxn t s) s := by
  simp [endTxn]

@[simp] theorem sendMsg_swept (m : CMsg) (s : State) :
    Swept (sendMsg m s) s := by
  simp [sendMsg]

@[simp] theorem syncOwners_swept (p : Nat) (s : State) :
    Swept (syncOwners p s) s := by
  simp [syncOwners]

@[simp] theorem ownLine_swept (lk n : Nat) (s : State) :
    Swept (ownLine lk n s) s := by
  simp [ownLine]

@[simp] theorem freeOwner_swept (lk : Nat) (s : State) :
    Swept (freeOwner lk s) s := by
  simp [freeOwner]

@[simp] theorem protocolError_swept (n msg : Nat) (s : State) :
    Swept (protocolError n msg s) s := by
  simp [protocolError]

@[simp] theorem storeReturn_swept (lk u : Nat) (d : UnitData) (m : Option Mark) (dirty : Bool) (s : State) :
    Swept (storeReturn lk u d m dirty s) s := by
  simp only [storeReturn]
  split <;> simp

@[simp] theorem poisonLine_swept (lk : Nat) (s : State) :
    Swept (poisonLine lk s) s := by
  simp [poisonLine]

@[simp] theorem readLine_swept (lk : Nat) (us : List Nat) (s : State) :
    Swept (readLine lk us s).2.2 s := by
  simp only [readLine]
  repeat' first
    | (simp [*]; done)
    | split

@[simp] theorem doAtomic_swept (lk off w op x cmp : Nat) (mirror : Bool) (s : State) :
    Swept (doAtomic lk off w op x cmp mirror s).2 s := by
  simp only [doAtomic]
  repeat' first
    | (simp [*]; done)
    | split
    | refine forEach_swept _ _ _ _ ?_ (fun a u => ?_)

@[simp] theorem mergeTxn_swept (t : Txn) (s : State) :
    Swept (mergeTxn t s) s := by
  simp only [mergeTxn]
  repeat' first
    | (simp [*]; done)
    | split

@[simp] theorem awaitMem_swept (t : Txn) (s : State) :
    Swept (awaitMem t s) s := by
  simp [awaitMem]

@[simp] theorem ackTxn_swept (t : Txn) (s : State) :
    Swept (ackTxn t s) s := by
  simp only [ackTxn]
  split <;> simp

@[simp] theorem evictLine_swept (l : Nat) (s : State) :
    Swept (evictLine l s) s := by
  simp [evictLine]

@[simp] theorem serveTxn_swept (t : Txn) (fwd : Bool) (s : State) :
    Swept (serveTxn t fwd s) s := by
  simp only [serveTxn]
  repeat' first
    | (simp [*]; done)
    | split

@[simp] theorem unowned_swept (t : Txn) (fwd : Bool) (s : State) :
    Swept (unowned t fwd s) s := by
  simp [unowned]

@[simp] theorem updAgentReq_swept (n txn : Nat) (f : AgentReq → AgentReq) (s : State) :
    Swept (updAgentReq n txn f s) s := by
  simp [updAgentReq]

@[simp] theorem countRequest_swept (t : Txn) (s : State) :
    Swept (countRequest t s) s := by
  simp only [countRequest]
  split <;> simp

@[simp] theorem snoopOwner_swept (t : Txn) (k : Nat) (s : State) :
    Swept (snoopOwner t k s) s := by
  simp only [snoopOwner]
  repeat' first
    | (simp [*]; done)
    | split

@[simp] theorem plazaUe_swept (lk u : Nat) (s : State) :
    Swept (plazaUe lk u s) s := by
  simp only [plazaUe]
  split <;> simp

@[simp] theorem absorbTxn_swept (t : Txn) (s : State) :
    Swept (absorbTxn t s) s := by
  simp only [absorbTxn]
  repeat' first
    | (simp [*]; done)
    | split
    | refine forEach_swept _ _ _ _ ?_ (fun a u => ?_)

@[simp] theorem failPlaza_swept (p cause : Nat) (s : State) :
    Swept (failPlaza p cause s) s := by
  simp [failPlaza]

@[simp] theorem putBefore_swept (t : Txn) (kind : TKind) (l : Nat) (s : State) :
    Swept (putBefore t kind l s) s := by
  simp only [putBefore]
  repeat' first
    | (simp [*]; done)
    | split
    | refine forEach_swept _ _ _ _ ?_ (fun a u => ?_)

@[simp] theorem lookUp_swept (t : Txn) (ev : HomeEv) (s : State) :
    Swept (lookUp t ev s) s := by
  simp only [lookUp]
  repeat' first
    | (simp [*]; done)
    | split
    | refine forEach_swept _ _ _ _ ?_ (fun a u => ?_)

@[simp] theorem unownedOrSnoop_swept (t : Txn) (s : State) :
    Swept (unownedOrSnoop t s) s := by
  simp only [unownedOrSnoop]
  repeat' first
    | (simp [*]; done)
    | split
    | refine forEach_swept _ _ _ _ ?_ (fun a u => ?_)

@[simp] theorem startBefore_swept (t : Txn) (kind : TKind) (l : Nat) (s : State) :
    Swept (startBefore t kind l s) s := by
  simp only [startBefore]
  repeat' first
    | (simp [*]; done)
    | split
    | refine forEach_swept _ _ _ _ ?_ (fun a u => ?_)

@[simp] theorem startRecall_swept (t : Txn) (l : Nat) (s : State) :
    Swept (startRecall t l s) s := by
  simp only [startRecall]
  repeat' first
    | (simp [*]; done)
    | split
    | refine forEach_swept _ _ _ _ ?_ (fun a u => ?_)

theorem makeRoom_swept (t : Txn) (l : Nat) (choice : Option Nat) (go : State → State) (s : State)
    (hgo : ∀ u, Swept (go u) u) : Swept (makeRoom t l choice go s) s := by
  simp only [makeRoom]
  repeat' first
    | (simp [*]; done)
    | split

@[simp] theorem carryOut_swept (t : Txn) (s : State) :
    Swept (carryOut t s) s := by
  simp only [carryOut]
  repeat' first
    | (simp [*]; done)
    | split
    | refine forEach_swept _ _ _ _ ?_ (fun a u => ?_)

@[simp] theorem beginTxn_swept (t : Txn) (choice : Option Nat) (s : State) :
    Swept (beginTxn t choice s) s := by
  simp only [beginTxn]
  split
  · refine makeRoom_swept _ _ _ _ _ (fun u => ?_)
    split <;> simp
  · simp

@[simp] theorem recallLine_swept (lk : Nat) (s : State) :
    Swept (recallLine lk s) s := by
  simp only [recallLine]
  repeat' first
    | (simp [*]; done)
    | split
    | refine forEach_swept _ _ _ _ ?_ (fun a u => ?_)

@[simp] theorem startTxn_swept (t : Txn) (ev : HomeEv) (s : State) :
    Swept (startTxn t ev s) s := by
  simp only [startTxn]
  repeat' first
    | (simp [*]; done)
    | split
    | refine forEach_swept _ _ _ _ ?_ (fun a u => ?_)

@[simp] theorem startIf_swept (q : TKind → Bool) (lk : Nat) (ev : HomeEv) (s : State) :
    Swept (startIf q lk ev s) s := by
  simp only [startIf]
  repeat' first
    | (simp [*]; done)
    | split
    | refine forEach_swept _ _ _ _ ?_ (fun a u => ?_)

@[simp] theorem compFwd_swept (t : Txn) (m : Option Mark) (s : State) :
    Swept (compFwd t m s) s := by
  simp [compFwd]

@[simp] theorem afterSnoop_swept (t : Txn) (gone : Bool) (s : State) :
    Swept (afterSnoop t gone s) s := by
  simp only [afterSnoop]
  repeat' first
    | (simp [*]; done)
    | split
    | refine forEach_swept _ _ _ _ ?_ (fun a u => ?_)

@[simp] theorem snpRsp_swept (n txn : Nat) (toReq toHome : Bool) (left : Nat) (s : State) :
    Swept (snpRsp n txn toReq toHome left s) s := by
  simp only [snpRsp]
  repeat' first
    | (simp [*]; done)
    | split
    | refine forEach_swept _ _ _ _ ?_ (fun a u => ?_)

@[simp] theorem wbData_swept (n txn u : Nat) (d : UnitData) (m : Option Mark) (dirty : Bool) (s : State) :
    Swept (wbData n txn u d m dirty s) s := by
  simp only [wbData]
  split <;> simp

@[simp] theorem kspUnit_swept (n txn cls u : Nat) (d : UnitData) (m : Option Mark) (g : Grant) (s : State) :
    Swept (kspUnit n txn cls u d m g s) s := by
  simp only [kspUnit]
  repeat' first
    | (simp [*]; done)
    | split
    | refine forEach_swept _ _ _ _ ?_ (fun a u => ?_)

@[simp] theorem kspData_swept (n txn u : Nat) (d : UnitData) (m : Option Mark) (g : Grant) (s : State) :
    Swept (kspData n txn u d m g s) s := by
  simp [kspData]

@[simp] theorem compAck_swept (n txn : Nat) (s : State) :
    Swept (compAck n txn s) s := by
  simp only [compAck]
  split <;> simp

@[simp] theorem retireAgent_swept (n txn : Nat) (s : State) :
    Swept (retireAgent n txn s) s := by
  simp [retireAgent]

@[simp] theorem cxlDeliver_swept (n txn : Nat) (s : State) :
    Swept (cxlDeliver n txn s) s := by
  simp only [cxlDeliver]
  split <;> simp

@[simp] theorem deliverData_swept (req : Req) (lk : Nat) (d : LineData) (m0 m1 : Option Mark) (g : Grant) (s : State) :
    Swept (deliverData req lk d m0 m1 g s) s := by
  simp only [deliverData]
  repeat' first
    | (simp [*]; done)
    | split

@[simp] theorem settleFwd_swept (f : Fwd) (s : State) :
    Swept (settleFwd f s) s := by
  simp only [settleFwd]
  repeat' first
    | (simp [*]; done)
    | split

theorem routeData_swept {num u : Nat} {d : UnitData} {m : Option Mark} {g : Grant} {s : State} {r : State} (h : routeData num u d m g s = some r) :
    Swept r s := by
  simp only [routeData] at h
  repeat' first
    | (cases h; done)
    | split at h
    | (cases h; simp [*]; done)
    | (cases h; simp)

@[simp] theorem deliverComp_swept (req : Req) (id : Nat) (m : Option Mark) (s : State) :
    Swept (deliverComp req id m s) s := by
  simp only [deliverComp]
  repeat' first
    | (simp [*]; done)
    | split

@[simp] theorem deliverWrAck_swept (req : Req) (status : Nat) (s : State) :
    Swept (deliverWrAck req status s) s := by
  simp only [deliverWrAck]
  split <;> simp

@[simp] theorem deliverWbAck_swept (req : Req) (ok : Bool) (s : State) :
    Swept (deliverWbAck req ok s) s := by
  simp only [deliverWbAck]
  split <;> simp

@[simp] theorem memDone_swept (id : Nat) (s : State) :
    Swept (memDone id s) s := by
  simp only [memDone]
  repeat' first
    | (simp [*]; done)
    | split

@[simp] theorem stashAck_swept (n txn : Nat) (s : State) :
    Swept (stashAck n txn s) s := by
  simp only [stashAck]
  split <;> simp

@[simp] theorem takeMsg_swept (m : CMsg) (s : State) :
    Swept (takeMsg m s) s := by
  simp [takeMsg]

@[simp] theorem snoopSite_swept (n code lk txn : Nat) (req : Req) (s : State) :
    Swept (snoopSite n code lk txn req s) s := by
  simp [snoopSite]

@[simp] theorem directedSnoop_swept (code n : Nat) (s : State) :
    Swept (directedSnoop code n s) s := by
  simp only [directedSnoop]
  repeat' first
    | (simp [*]; done)
    | split

theorem execTrackerStart_swept (k : Fin 12) (l : Fin (2 ^ 29)) (ev : HomeEv) (s : State) {sN : State} (h : execTrackerStart k l ev s = .next sN) :
    Swept sN s := by
  simp only [execTrackerStart] at h
  injection h with h
  subst h
  simp

theorem execRdShared_swept (k : Fin 12) (l : Fin (2 ^ 29)) (ev : HomeEv) (s : State) {sN : State} (h : execRdShared k l ev s = .next sN) :
    Swept sN s := by
  simp only [execRdShared] at h
  injection h with h
  subst h
  simp

theorem execRdUnique_swept (k : Fin 12) (l : Fin (2 ^ 29)) (ev : HomeEv) (s : State) {sN : State} (h : execRdUnique k l ev s = .next sN) :
    Swept sN s := by
  simp only [execRdUnique] at h
  injection h with h
  subst h
  simp

theorem execRdOnce_swept (k : Fin 12) (l : Fin (2 ^ 29)) (ev : HomeEv) (s : State) {sN : State} (h : execRdOnce k l ev s = .next sN) :
    Swept sN s := by
  simp only [execRdOnce] at h
  injection h with h
  subst h
  simp

theorem execWrFull_swept (k : Fin 12) (l : Fin (2 ^ 29)) (ev : HomeEv) (s : State) {sN : State} (h : execWrFull k l ev s = .next sN) :
    Swept sN s := by
  simp only [execWrFull] at h
  injection h with h
  subst h
  simp

theorem execWrPart_swept (k : Fin 12) (l : Fin (2 ^ 29)) (ev : HomeEv) (s : State) {sN : State} (h : execWrPart k l ev s = .next sN) :
    Swept sN s := by
  simp only [execWrPart] at h
  injection h with h
  subst h
  simp

theorem execAtomic_swept (k : Fin 12) (l : Fin (2 ^ 29)) (ev : HomeEv) (s : State) {sN : State} (h : execAtomic k l ev s = .next sN) :
    Swept sN s := by
  simp only [execAtomic] at h
  injection h with h
  subst h
  simp

theorem execWriteback_swept (k : Fin 12) (l : Fin (2 ^ 29)) (s : State) {sN : State} (h : execWriteback k l s = .next sN) :
    Swept sN s := by
  simp only [execWriteback] at h
  injection h with h
  subst h
  simp

theorem execEvictClean_swept (k : Fin 12) (l : Fin (2 ^ 29)) (s : State) {sN : State} (h : execEvictClean k l s = .next sN) :
    Swept sN s := by
  simp only [execEvictClean] at h
  injection h with h
  subst h
  simp

theorem execFlushLine_swept (k : Fin 12) (l : Fin (2 ^ 29)) (s : State) {sN : State} (h : execFlushLine k l s = .next sN) :
    Swept sN s := by
  simp only [execFlushLine] at h
  injection h with h
  subst h
  simp

theorem execSnpFwdShared_swept (n : Fin 6) (s : State) {sN : State} (h : execSnpFwdShared n s = .next sN) :
    Swept sN s := by
  simp only [execSnpFwdShared] at h
  injection h with h
  subst h
  simp

theorem execSnpFwdUnique_swept (n : Fin 6) (s : State) {sN : State} (h : execSnpFwdUnique n s = .next sN) :
    Swept sN s := by
  simp only [execSnpFwdUnique] at h
  injection h with h
  subst h
  simp

theorem execSnpFwdOnce_swept (n : Fin 6) (s : State) {sN : State} (h : execSnpFwdOnce n s = .next sN) :
    Swept sN s := by
  simp only [execSnpFwdOnce] at h
  injection h with h
  subst h
  simp

theorem execSnpRecall_swept (n : Fin 6) (s : State) {sN : State} (h : execSnpRecall n s = .next sN) :
    Swept sN s := by
  simp only [execSnpRecall] at h
  injection h with h
  subst h
  simp

theorem execSnpDrop_swept (n : Fin 6) (s : State) {sN : State} (h : execSnpDrop n s = .next sN) :
    Swept sN s := by
  simp only [execSnpDrop] at h
  injection h with h
  subst h
  simp

@[simp] theorem moveOnRing_swept (m x : CMsg) (stop slot : Nat) (s : State) :
    Swept (moveOnRing m x stop slot s) s := by
  simp only [moveOnRing]
  repeat' first
    | (simp [*]; done)
    | split
    | refine forEach_swept _ _ _ _ ?_ (fun a u => ?_)

theorem execSnpInvPass_swept (n : Fin 6) (txn : Nat) (s : State) {sN : State} (h : execSnpInvPass n txn s = .next sN) :
    Swept sN s := by
  simp only [execSnpInvPass] at h
  injection h with h
  subst h
  split <;> simp

theorem execSnpInvReturn_swept (txn : Nat) (s : State) {sN : State} (h : execSnpInvReturn txn s = .next sN) :
    Swept sN s := by
  simp only [execSnpInvReturn] at h
  injection h with h
  subst h
  repeat' first
    | (simp [*]; done)
    | split

theorem execRingSlotMark_swept (stop : Fin 42) (s : State) {sN : State} (h : execRingSlotMark stop s = .next sN) :
    Swept sN s := by
  simp only [execRingSlotMark] at h
  injection h with h
  subst h
  repeat' first
    | (simp [*]; done)
    | split
    | refine forEach_swept _ _ _ _ ?_ (fun a u => ?_)

theorem execMemDone_swept (i : Nat) (s : State) {sN : State} (h : execMemDone i s = .next sN) :
    Swept sN s := by
  simp only [execMemDone] at h
  injection h with h
  subst h
  split <;> simp

@[simp] theorem pushStash_swept (n : Nat) (s : State) :
    Swept (pushStash n s) s := by
  simp only [pushStash]
  split <;> simp

@[simp] theorem pushStashes_swept (s : State) :
    Swept (pushStashes s) s := by
  simp only [pushStashes]
  repeat' first
    | (simp [*]; done)
    | split
    | refine forEach_swept _ _ _ _ ?_ (fun a u => ?_)

theorem compEvent_swept (i : Nat) (s : State) {sN : State} (h : compEvent i s = .next sN) :
    Swept sN s := by
  simp only [compEvent] at h
  injection h with h
  subst h
  split <;> simp

theorem wrAckEvent_swept (i : Nat) (s : State) {sN : State} (h : wrAckEvent i s = .next sN) :
    Swept sN s := by
  simp only [wrAckEvent] at h
  injection h with h
  subst h
  split <;> simp

theorem execWbAck_swept (i : Nat) (s : State) {sN : State} (h : execWbAck i s = .next sN) :
    Swept sN s := by
  simp only [execWbAck] at h
  injection h with h
  subst h
  split <;> simp

end Sys2Proof.Machine
end

