-- ==== Sys2Proof/Laws/SweptShared.lean ====
section
/-!
SUPPORT. Which functions of Machine/Shared.lean leave alone what a loss of a site and a sweep go by
(`Swept` of Safety.lean): one lemma each.
-/
namespace Sys2Proof.Machine

@[simp] theorem setCap_swept (r c : Nat) (s : State) :
    Swept (setCap r c s) s := by
  simp [setCap]

@[simp] theorem syncStackCap_swept (k : Nat) (s : State) :
    Swept (syncStackCap k s) s := by
  simp [syncStackCap]

@[simp] theorem syncClocks_swept (k : Nat) (s : State) :
    Swept (syncClocks k s) s := by
  simp [syncClocks]

@[simp] theorem sideband_swept (n mtype : Nat) (fields : List (Nat × Nat)) (rest : List Nat) (s : State) :
    Swept (sideband n mtype fields rest s) s := by
  simp only [sideband]
  repeat' first
    | (simp [*]; done)
    | split
    | refine forEach_swept _ _ _ _ ?_ (fun a u => ?_)

@[simp] theorem sendBudget_swept (n watts : Nat) (clamp : Bool) (s : State) :
    Swept (sendBudget n watts clamp s) s := by
  simp only [sendBudget]
  repeat' first
    | (simp [*]; done)
    | split
    | refine forEach_swept _ _ _ _ ?_ (fun a u => ?_)

@[simp] theorem thermalTrip_swept (sensor stack die temp : Nat) (s : State) :
    Swept (thermalTrip sensor stack die temp s) s := by
  simp [thermalTrip]

@[simp] theorem failOver_swept (n k : Nat) (s : State) :
    Swept (failOver n k s) s := by
  simp [failOver]

@[simp] theorem poisonRegion_swept (n u : Nat) (s : State) :
    Swept (poisonRegion n u s) s := by
  simp [poisonRegion]

@[simp] theorem regionsLose_swept (k : Nat) (s : State) :
    Swept (regionsLose k s) s := by
  simp only [regionsLose]
  repeat' first
    | (simp [*]; done)
    | split
    | refine forEach_swept _ _ _ _ ?_ (fun a u => ?_)

@[simp] theorem recallStack_swept (k : Nat) (s : State) :
    Swept (recallStack k s) s := by
  simp only [recallStack]
  repeat' first
    | (simp [*]; done)
    | split
    | refine forEach_swept _ _ _ _ ?_ (fun a u => ?_)

end Sys2Proof.Machine
end

