-- ==== Sys2Proof/Laws/SweptSites.lean ====
section
/-!
SUPPORT. Which functions of Machine/Sites.lean leave alone what a loss of a site and a sweep go by
(`Swept` of Safety.lean): one lemma each.
-/
namespace Sys2Proof.Machine

@[simp] theorem syncSiteCap_swept (n : Nat) (s : State) :
    Swept (syncSiteCap n s) s := by
  simp [syncSiteCap]

@[simp] theorem sendSiteBudget_swept (n : Nat) (s : State) :
    Swept (sendSiteBudget n s) s := by
  simp [sendSiteBudget]

@[simp] theorem setSitePower_swept (n p : Nat) (s : State) :
    Swept (setSitePower n p s) s := by
  simp [setSitePower]

@[simp] theorem loseTxn_swept (n : Nat) (t : Txn) (s : State) :
    Swept (loseTxn n t s) s := by
  simp only [loseTxn]
  repeat' first
    | (simp [*]; done)
    | split

@[simp] theorem ackDead_swept (who : Who) (s : State) :
    Swept (ackDead who s) s := by
  simp only [ackDead]
  repeat' first
    | (simp [*]; done)
    | split
    | refine forEach_swept _ _ _ _ ?_ (fun a u => ?_)

@[simp] theorem answerTgts_swept (n : Nat) (s : State) :
    Swept (answerTgts n s) s := by
  simp [answerTgts]

@[simp] theorem syncModules_swept (n : Nat) (s : State) :
    Swept (syncModules n s) s := by
  simp [syncModules]

@[simp] theorem siteTraining_swept (n : Nat) (s : State) :
    Swept (siteTraining n s) s := by
  simp [siteTraining]

@[simp] theorem closeOpen_swept (n txn : Nat) (s : State) :
    Swept (closeOpen n txn s) s := by
  simp [closeOpen]

@[simp] theorem siteData_swept (n txn cls u : Nat) (d : UnitData) (m : Option Mark) (s : State) :
    Swept (siteData n txn cls u d m s) s := by
  simp only [siteData]
  repeat' first
    | (simp [*]; done)
    | split
    | refine forEach_swept _ _ _ _ ?_ (fun a u => ?_)

@[simp] theorem siteWrAck_swept (n txn cls status : Nat) (s : State) :
    Swept (siteWrAck n txn cls status s) s := by
  simp only [siteWrAck]
  repeat' first
    | (simp [*]; done)
    | split
    | refine forEach_swept _ _ _ _ ?_ (fun a u => ?_)

@[simp] theorem failOpen_swept (n : Nat) (o : OpenReq) (s : State) :
    Swept (failOpen n o s) s := by
  simp [failOpen]

@[simp] theorem postOpen_swept (n : Nat) (o : OpenReq) (k a : Nat) (mirror : Bool) (s : State) :
    Swept (postOpen n o k a mirror s) s := by
  simp [postOpen]

@[simp] theorem updOpen_swept (n txn : Nat) (f : OpenReq → OpenReq) (s : State) :
    Swept (updOpen n txn f s) s := by
  simp [updOpen]

@[simp] theorem dropDead_swept (t : Tgt) (s : State) :
    Swept (dropDead t s) s := by
  simp only [dropDead]
  repeat' first
    | (simp [*]; done)
    | split
    | refine forEach_swept _ _ _ _ ?_ (fun a u => ?_)

@[simp] theorem writeOpen_swept (n : Nat) (o : OpenReq) (t : Tgt) (s : State) :
    Swept (writeOpen n o t s) s := by
  unfold writeOpen
  extract_lets txn base s0 s1
  have h1 : Swept s1 s := by
    refine Swept.ite (Swept.refl _) ((updOpen_swept ..).trans (?_ : Swept s0 s))
    refine (forEach_swept _ _ _ _ (Swept.refl _) (fun u w => ?_))
    dsimp only
    cases w.openOf? n txn with
    | none => exact Swept.refl _
    | some o =>
      refine Swept.ite (Swept.refl _) (Swept.ite ((updOpen_swept ..).trans (dropDead_swept ..)) ?_)
      generalize hr : storeUnit _ _ _ _ _ _ _ _ = r
      have hk : Swept r.2 w := by rw [← hr]; exact storeUnit_swept _ _ _ _ _ _ _ _ (by intros; exact opRecord_swept ..)
      cases r.1 with
      | wait => exact hk
      | failed d => exact (updOpen_swept ..).trans hk
      | posted => exact (updOpen_swept ..).trans hk
      | done => exact (updOpen_swept ..).trans hk
  clear_value s1
  cases s1.openOf? n txn with
  | none => exact h1
  | some o =>
    exact Swept.ite (Swept.ite ((siteWrAck_swept ..).trans ((closeOpen_swept ..).trans h1)) ((failOpen_swept ..).trans h1)) h1

@[simp] theorem windowDenied_swept (n : Nat) (h : KMsg) (s : State) :
    Swept (windowDenied n h s) s := by
  simp only [windowDenied]
  repeat' first
    | (simp [*]; done)
    | split
    | refine forEach_swept _ _ _ _ ?_ (fun a u => ?_)

end Sys2Proof.Machine
end

