-- ==== Sys2Proof/Laws/SweptSiteCmds.lean ====
section
/-!
SUPPORT. Which functions of Machine/SiteCmds.lean leave alone what a loss of a site and a sweep go by
(`Swept` of Safety.lean): one lemma each.
-/
namespace Sys2Proof.Machine

@[simp] theorem dropAcked_swept (n ack : Nat) (s : State) :
    Swept (dropAcked n ack s) s := by
  simp [dropAcked]

@[simp] theorem takeCredits_swept (n : Nat) (credits : List Nat) (s : State) :
    Swept (takeCredits n credits s) s := by
  simp [takeCredits]

@[simp] theorem takeAck_swept (n ack : Nat) (s : State) :
    Swept (takeAck n ack s) s := by
  simp only [takeAck]
  repeat' first
    | (simp [*]; done)
    | split
    | refine forEach_swept _ _ _ _ ?_ (fun a u => ?_)

@[simp] theorem oweCredit_swept (n cls : Nat) (s : State) :
    Swept (oweCredit n cls s) s := by
  simp only [oweCredit]
  repeat' first
    | (simp [*]; done)
    | split
    | refine forEach_swept _ _ _ _ ?_ (fun a u => ?_)

@[simp] theorem takeStream_swept (n : Nat) (bs : List Byte) (s : State) :
    Swept (takeStream n bs s) s := by
  simp only [takeStream]
  repeat' first
    | (simp [*]; done)
    | split
    | refine forEach_swept _ _ _ _ ?_ (fun a u => ?_)

theorem execSiteAckTimer_swept (n : Fin 6) (s : State) {sN : State} (h : execSiteAckTimer n s = .next sN) :
    Swept sN s := by
  simp only [execSiteAckTimer] at h
  injection h with h
  subst h
  simp

theorem execSiteMonitorWindow_swept (n : Fin 6) (m : Fin 64) (b : Fin 96) (s : State) {sN : State} (h : execSiteMonitorWindow n m b s = .next sN) :
    Swept sN s := by
  simp only [execSiteMonitorWindow] at h
  injection h with h
  subst h
  simp

theorem takeTgt_swept {n txn : Nat} {write : Bool} {s : State} {r : TgtReq × State} (h : takeTgt n txn write s = some r) :
    Swept r.2 s := by
  simp only [takeTgt] at h
  repeat' first
    | (cases h; done)
    | split at h
    | (cases h; simp [*]; done)
    | (cases h; simp)

@[simp] theorem strayTgt_swept (n txn : Nat) (write : Bool) (code : Nat) (s : State) :
    Swept (strayTgt n txn write code s) s := by
  simp only [strayTgt]
  repeat' first
    | (simp [*]; done)
    | split
    | refine forEach_swept _ _ _ _ ?_ (fun a u => ?_)

@[simp] theorem ackDenied_swept (who : Who) (s : State) :
    Swept (ackDenied who s) s := by
  simp only [ackDenied]
  repeat' first
    | (simp [*]; done)
    | split
    | refine forEach_swept _ _ _ _ ?_ (fun a u => ?_)

@[simp] theorem nonce_swept (s : State) :
    Swept (nonce s).2 s := by
  simp [nonce]

@[simp] theorem grantCredits_swept (n : Nat) (s : State) :
    Swept (grantCredits n s) s := by
  simp only [grantCredits]
  repeat' first
    | (simp [*]; done)
    | split
    | refine forEach_swept _ _ _ _ ?_ (fun a u => ?_)

theorem execStatus_swept (n : Fin 6) (word : BitVec 64) (s : State) {sN : State} (h : execStatus n word s = .next sN) :
    Swept sN s := by
  simp only [execStatus] at h
  injection h with h
  subst h
  repeat' first
    | (simp [*]; done)
    | split
    | refine forEach_swept _ _ _ _ ?_ (fun a u => ?_)

theorem execPowerReport_swept (n : Fin 6) (watts : BitVec 11) (seq : BitVec 9) (s : State) {sN : State} (h : execPowerReport n watts seq s = .next sN) :
    Swept sN s := by
  simp only [execPowerReport] at h
  injection h with h
  subst h
  simp

theorem execRepairDone_swept (n : Fin 6) (m : Fin 64) (s : State) {sN : State} (h : execRepairDone n m s = .next sN) :
    Swept sN s := by
  simp only [execRepairDone] at h
  injection h with h
  subst h
  simp

@[simp] theorem winFence_swept (n : Nat) (s : State) :
    Swept (winFence n s) s := by
  simp [winFence]

theorem execSiteWinFence_swept (n : Fin 6) (s : State) {sN : State} (h : execSiteWinFence n s = .next sN) :
    Swept sN s := by
  simp only [execSiteWinFence] at h
  injection h with h
  subst h
  simp

theorem execSiteWinFenceDone_swept (n : Fin 6) (s : State) {sN : State} (h : execSiteWinFenceDone n s = .next sN) :
    Swept sN s := by
  simp only [execSiteWinFenceDone] at h
  injection h with h
  subst h
  simp

theorem execSiteBudgetTimer_swept (n : Fin 6) (s : State) {sN : State} (h : execSiteBudgetTimer n s = .next sN) :
    Swept sN s := by
  simp only [execSiteBudgetTimer] at h
  injection h with h
  subst h
  simp

@[simp] theorem wrSiteBudget_swept (n v : Nat) (s : State) :
    Swept (wrSiteBudget n v s) s := by
  simp [wrSiteBudget]

theorem execSiteBudgetWrite_swept (n : Fin 6) (w : BitVec 11) (s : State) {sN : State} (h : execSiteBudgetWrite n w s = .next sN) :
    Swept sN s := by
  simp only [execSiteBudgetWrite] at h
  injection h with h
  subst h
  simp

theorem execSiteOverpower_swept (n : Fin 6) (w : BitVec 11) (s : State) {sN : State} (h : execSiteOverpower n w s = .next sN) :
    Swept sN s := by
  simp only [execSiteOverpower] at h
  injection h with h
  subst h
  simp

theorem execSiteUnclamp_swept (n : Fin 6) (s : State) {sN : State} (h : execSiteUnclamp n s = .next sN) :
    Swept sN s := by
  simp only [execSiteUnclamp] at h
  injection h with h
  subst h
  simp

@[simp] theorem recallSite_swept (n : Nat) (s : State) :
    Swept (recallSite n s) s := by
  simp only [recallSite]
  repeat' first
    | (simp [*]; done)
    | split
    | refine forEach_swept _ _ _ _ ?_ (fun a u => ?_)

theorem execFlushed_swept (n : Fin 6) (s : State) {sN : State} (h : execFlushed n s = .next sN) :
    Swept sN s := by
  simp only [execFlushed] at h
  injection h with h
  subst h
  simp

end Sys2Proof.Machine
end

