-- ==== Sys2Proof/Laws/Tile.lean ====
section
/-!
SUPPORT. What counting an event and retiring an instruction do, said once; general registers after a write.
-/
namespace Sys2Proof.Machine

/-- Counting an event changes the counters and nothing else. -/
theorem countEvent_frame (b ev : Nat) (ctx cls : Option Nat) (pv : Option (Nat × Nat)) (n : Nat) (s : State) :
    countEvent b ev ctx cls pv n s = { s with cnt := (countEvent b ev ctx cls pv n s).cnt } := by
  unfold countEvent
  split
  · rfl
  · refine forEach_induct (fun (u : State) => u = { s with cnt := u.cnt }) _ _ _ rfl ?_
    intro i u hu
    split
    · unfold bumpCounter
      dsimp only
      rw [hu]
    · exact hu

@[simp] theorem countEvent_tiles (b ev : Nat) (ctx cls : Option Nat) (pv : Option (Nat × Nat)) (n : Nat) (s : State) :
    (countEvent b ev ctx cls pv n s).tiles = s.tiles := by rw [countEvent_frame]
@[simp] theorem countEvent_lives (b ev : Nat) (ctx cls : Option Nat) (pv : Option (Nat × Nat)) (n : Nat) (s : State) :
    (countEvent b ev ctx cls pv n s).lives = s.lives := by rw [countEvent_frame]
@[simp] theorem countEvent_regs (b ev : Nat) (ctx cls : Option Nat) (pv : Option (Nat × Nat)) (n : Nat) (s : State) :
    (countEvent b ev ctx cls pv n s).regs = s.regs := by rw [countEvent_frame]

/-- The other fields of the state do not tell which tile a state has. -/
theorem tile_of_tiles {a b : State} (h : a.tiles = b.tiles) (u : Nat) : a.tile u = b.tile u := by
  unfold State.tile
  rw [h]

/-- A tile changed changes no other tile and nothing else. -/
theorem updTile_only (t : Nat) (f : Tile → Tile) (s : State) : TileOnly t (updTile t f s) s :=
  ⟨rfl, fun u h => by rw [updTile_tile, if_neg (fun k => h k.1)]⟩

theorem TileOnly.refl (t : Nat) (a : State) : TileOnly t a a := ⟨rfl, fun _ _ => rfl⟩

theorem TileOnly.trans {t : Nat} {a b c : State} (h : TileOnly t a b) (k : TileOnly t b c) : TileOnly t a c := by
  refine ⟨?_, fun u hu => (h.2 u hu).trans (k.2 u hu)⟩
  rw [h.1, k.1]

theorem countEvent_only (t b ev : Nat) (ctx cls : Option Nat) (pv : Option (Nat × Nat)) (n : Nat) (s : State) :
    TileOnly t (countEvent b ev ctx cls pv n s) s := by
  refine ⟨?_, fun u _ => tile_of_tiles (countEvent_tiles ..) u⟩
  rw [countEvent_tiles]
  exact countEvent_frame ..

/-- What retiring does to the tile. -/
theorem retire_tile (t : Fin 72) (nxt : W64) (s : State) :
    (retire t nxt s).tile t =
      { s.tile t with pc := nxt, ir := none, stall := .none, instret := (s.tile t).instret + 1 } := by
  unfold retire
  rw [tile_of_tiles (countEvent_tiles ..), updTile_tile_self]

/-- Retiring changes its tile and the counters, nothing else. -/
theorem retire_only (t : Nat) (nxt : W64) (s : State) : TileOnly t (retire t nxt s) s :=
  (countEvent_only ..).trans (updTile_only ..)

/-- General registers after a write; x0 reads zero. -/
theorem gpr_setGpr (x : Tile) (d r : Nat) (v : W64) (hr : r < 32) :
    (x.setGpr d v).gpr r = if r = d ∧ d ≠ 0 then v else x.gpr r := by
  unfold Tile.setGpr Tile.gpr
  by_cases hd : d = 0
  · simp [hd]
  · rw [if_neg hd]
    by_cases h0 : r = 0
    · subst h0
      rw [if_pos rfl, if_neg (fun k => hd k.1.symm), if_pos rfl]
    · rw [if_neg h0, if_neg h0]
      unfold vget
      rw [Vector.getElem?_setIfInBounds]
      by_cases h : d = r
      · subst h
        simp [hd, hr]
      · rw [if_neg h, if_neg (fun k => h k.1.symm)]

theorem setGpr_eq (x : Tile) (d : Nat) (v : W64) : x.setGpr d v = { x with x := (x.setGpr d v).x } := by
  unfold Tile.setGpr
  split <;> rfl

/-- An instruction that the core may execute. -/
theorem instrAt?_of_atInstr {s : State} {t w len : Nat} (h : s.AtInstr t w len) (ok : RvClass → Bool) (hok : ok (rvClass w) = true)
    (st : Stall → Bool) (hst : st .none = true) : s.instrAt? t st ok = some (w, len) := by
  unfold State.instrAt?
  dsimp only
  rw [h.1]
  simp [h.2.1, h.2.2.1, h.2.2.2, hok, hst]

/-- An instruction that writes register `d`, after the tile's other effect `f`, retires. -/
theorem retired_set (t : Fin 72) (nxt : W64) (d : Nat) (v : W64) (f : Tile → Tile) (s : State)
    (hx : (f (s.tile t)).x = (s.tile t).x) (hi : (f (s.tile t)).instret = (s.tile t).instret) :
    Retired t nxt (some (d, v)) (f (s.tile t)) (retire t nxt (updTile t (fun x => (f x).setGpr d v) s)) s := by
  refine ⟨(retire_only ..).trans (updTile_only ..), ?_, fun r hr => ?_⟩
  · rw [retire_tile, updTile_tile_self, setGpr_eq]
    dsimp only
    rw [hi]
  · rw [retire_tile, updTile_tile_self]
    show ((f (s.tile t)).setGpr d v).gpr r = _
    rw [gpr_setGpr _ _ _ _ hr]
    have : (f (s.tile t)).gpr r = (s.tile t).gpr r := by
      unfold Tile.gpr
      rw [hx]
    rw [this]

/-- An instruction without a destination, with the tile's effect `f`, retires. -/
theorem retired_none (t : Fin 72) (nxt : W64) (f : Tile → Tile) (s : State)
    (hx : (f (s.tile t)).x = (s.tile t).x) (hi : (f (s.tile t)).instret = (s.tile t).instret) :
    Retired t nxt none (f (s.tile t)) (retire t nxt (updTile t f s)) s := by
  refine ⟨(retire_only ..).trans (updTile_only ..), ?_, fun r hr => ?_⟩
  · rw [retire_tile, updTile_tile_self]
    dsimp only
    rw [hi]
  · rw [retire_tile, updTile_tile_self]
    show (f (s.tile t)).gpr r = _
    unfold Tile.gpr
    rw [hx]

/-- An instruction that does nothing but go on. -/
theorem retired_plain (t : Fin 72) (nxt : W64) (s : State) :
    Retired t nxt none (s.tile t) (retire t nxt s) s := by
  refine ⟨retire_only .., ?_, fun r _ => ?_⟩
  · rw [retire_tile]
  · rw [retire_tile]
    rfl

/-- A store to an area of the tile's memories, before the instruction retires. -/
theorem writeArea_eq (t : Nat) (a : Area) (n v : Nat) (s : State) :
    writeArea t a n v s = updTile t (fun x => x.writeAt a n v) s := rfl

/-- Two changes of one tile after each other. -/
theorem updTile_updTile (t : Fin 72) (f g : Tile → Tile) (s : State) :
    updTile t g (updTile t f s) = updTile t (fun x => g (f x)) s := by
  unfold updTile vupd
  dsimp only
  have h : vget Tile.init (s.tiles.setIfInBounds t.val (f (vget Tile.init s.tiles t.val))) t.val =
      f (vget Tile.init s.tiles t.val) := by
    unfold vget
    simp [Vector.getElem?_setIfInBounds]
  rw [h]
  congr 1
  ext i hi
  simp [Vector.getElem_setIfInBounds]

end Sys2Proof.Machine
end

