-- ==== Sys2Proof/Tests/Slice0.lean ====
section
/-!
SUPPORT. The model's own tests: for every statement with hypotheses states and operands that meet them (`test_wit_…`; the
flags and conditions are those of the clauses of the obligation of the same subject), the worked examples of the specification,
and a command of every kind that a sender cannot form. One premise has no evaluable witness: an admission of value 0, and a
burst's or message's signature, rest on the opaque checks of log entry 5.
-/
namespace Sys2Proof.Tests
open Sys2Proof Sys2Proof.Machine
set_option Elab.async false

/-! ### Building small states -/

/-- The state with registers set. -/
def regs (l : List (Nat × Nat)) (s : State) : State := l.foldl (fun s p => setReg p.1 p.2 s) s

/-- The state with unit records set: type, identity, status. -/
def units (l : List (Nat × Nat × Nat)) (s : State) : State := l.foldl (fun s p => setStatus p.1 p.2.1 p.2.2 0 s) s

/-- Power records with the units of some types ON. -/
def on (l : List (Nat × Nat)) : Table Machine.PUnit :=
  (l.flatMap (fun p => (List.range p.2).map (fun i => unitKey p.1 i))).map (fun k => (k, { Machine.PUnit.init with target := 0, now := 0 }))

/-- The hub after READY with every unit in service and powered. -/
def s0 : State :=
  regs [(rBootStatus, 14)] { State.reset with
    boot := { State.reset.boot with reset := .running, tilesAt := List.range 72 }
    pwr := { State.reset.pwr with units := on [(1, 72), (2, 18), (4, 12), (5, 6), (10, 3)] } }

/-- The state after reset with the hub in bring-up stage `n`. -/
def stageAt (n : Nat) : State := regs [(rBootStatus, n)] { State.reset with boot := { State.reset.boot with reset := .running } }

/-- A dispatched TASK with a number, words and tiles. -/
def live (id : Nat) (ws : List Nat) (ts : List Nat) : Live := { Live.init id 5 0 7 { pos := 0, words := ws, poison := false } with tiles := ts }

/-- A command of a tile queue that has not started. -/
def qcmd (ticket : Nat) (ws : List Nat) : QCmd := 
  { ticket := ticket, words := ws, port0 := 0, port1 := 0, started := false, pos := 0, sat := false, nan := false, outst := 0,
    tagged := false, order := 1, seen := Vector.replicate 4 0 }

/-- The fabric ports UP. -/
def portsUp (s : State) : State := regs ((List.range 16).map (fun n => (rFabPortNStatus n, 0))) s

/-- An entry of the last level that maps a page of stacked memory with every right. -/
def leaf (page : Nat) : Nat := 0x21F + 65536 * page

/-! ### Stepping and the control core -/

/-- Tile 71 runs a task whose core holds the word `w`, with x1 and x2 set. -/
def core (w len : Nat) (x1 x2 : W64) (f : Tile → Tile := id) : State :=
  updTile 71 (fun x => f (((({ x with mode := .user, live := some 1, stall := .none, ir := some (w, len) }).setGpr 1 x1).setGpr 2 x2)))
    { s0 with lives := [live 1 [1] [70, 71]] }

theorem test_wit_step : (({ s0 with pending := [.flushAll] } : State).pending = .flushAll :: []) ∧ s0.pending = [] := by decide +kernel

theorem test_wit_core_alu : (core 0x002081B3 4 5 6).AtInstr 71 0x002081B3 4 ∧ rvClass 0x002081B3 = .alu ∧
    rvClass 0x0FF0000F = .fence ∧ (core 0x0FF0000F 4 5 6).AtInstr 71 0x0FF0000F 4 ∧
    rvClass 0x0000100F = .fenceI ∧ (core 0x0000100F 4 5 6).AtInstr 71 0x0000100F 4 ∧
    rvClass 0xC02022F3 = .csr ∧ rvF3 0xC02022F3 = 2 ∧ rvRs1 0xC02022F3 = 0 ∧ (core 0xC02022F3 4 5 6).AtInstr 71 0xC02022F3 4 ∧
    bits 0xC02022F3 31 20 = 0xC02 ∧ bits 0xCC1022F3 31 20 = 0xCC1 ∧ bits 0xCC3032F3 31 20 = 0xCC3 ∧ rvF3 0xCC3032F3 = 3 ∧
    rvClass 0xCC3032F3 = .csr ∧ rvClass 0xCC1022F3 = .csr := by
  simp only [State.AtInstr]; decide +kernel

/-- A word before the core in machine mode. -/
def monitor (w : Nat) (x1 : W64) : State := core w 4 x1 0 (fun x => { x with mode := .machine })

theorem test_wit_core_machine : rvClass 0x30200073 = .mret ∧ (monitor 0x30200073 0).AtInstr 71 0x30200073 4 ∧
    ((monitor 0x30200073 0).tile 71).mode = .machine ∧ rvClass 0x340092F3 = .csr ∧ bits 0x340092F3 31 20 = 0x340 ∧ rvF3 0x340092F3 = 1 ∧
    rvRs1 0x340092F3 < 32 ∧ (monitor 0x340092F3 9).AtInstr 71 0x340092F3 4 ∧ rvClass 0x10500073 = .wfi ∧
    (monitor 0x10500073 0).AtInstr 71 0x10500073 4 ∧ bit ((monitor 0x10500073 0).tile 71).csr.mip.toNat 11 = false := by
  simp only [State.AtInstr]; decide +kernel

/-- MRET from there, and the CSR written, as the steps answer. -/
theorem test_core_machine : (match exec (.aluInstruction 71) (monitor 0x30200073 0) with
      | .next u => (u.tile 71).pc == ((monitor 0x30200073 0).tile 71).csr.mepc
      | _ => false) = true ∧
    (match exec (.csrAccess 71) (monitor 0x340092F3 9) with
      | .next u => (u.tile 71).csr.mscratch == 9
      | _ => false) = true := by decide +kernel

/-- A tile whose instruction cache holds the line at 0 with a 32-bit ADD, and with C.NOP. -/
def fetching (n : Nat) : State :=
  core 0 0 0 0 (fun x => { x with ir := none, pc := 0, lines := [(0, BitVec.ofNat 512 n)] })

theorem test_wit_fetch : ((fetching 1).tile 71).parcel? 0 = some 1 ∧ 1 % 4 ≠ 3 ∧ ((fetching 1).tile 71).running = true ∧
    (fetching 1).tripped = false ∧ ((fetching 1).tile 71).ir = none ∧ ((fetching 1).tile 71).stall = .none ∧
    ((fetching 1).tile 71).pc.toNat + 2 < 2 ^ 55 ∧ ((fetching 0x002081B3).tile 71).parcel? 0 = some 0x81B3 ∧ 0x81B3 % 4 = 3 ∧ ((fetching 0x002081B3).tile 71).parcel? 2 = some 0x20 := by
  decide +kernel

/-- The tile store has been written by a command that the core has seen complete. -/
def unorderedWrite (x : Tile) : Tile :=
  { x with seen := vupd 0 x.seen 3 (fun _ => 4), unord := [{ unit := 65535, writer := 3, ticket := 4, old := 0, mark := none }] }

theorem test_wit_core_memory :
    (core 0x0000B183 4 0x1000BFF8 9).AtInstr 71 0x0000B183 4 ∧ rvClass 0x0000B183 = .load ∧
    ((core 0x0000B183 4 0x1000BFF8 9).tile 71).gpr 1 + rvImmI 0x0000B183 = BitVec.ofNat 64 (0x10000000 + 0xBFF8) ∧
    0xBFF8 % rvSize 3 = 0 ∧ 0xBFF8 + rvSize 3 ≤ 0xC000 ∧ ((core 0x0000B183 4 0x1000BFF8 9).tile 71).dmemUe.contains (0xBFF8 / 8) = false ∧
    ((core 0x0000B183 4 0x3FFFF8 9).tile 71).gpr 1 + rvImmI 0x0000B183 = BitVec.ofNat 64 0x3FFFF8 ∧ 0x3FFFF8 + 8 ≤ 0x400000 ∧
    Table.find? ((core 0x0000B183 4 0x3FFFF8 9).tile 71).storeMarks (0x3FFFF8 / 64) = none ∧
    (∀ e ∈ ((core 0x0000B183 4 0x3FFFF8 9 unorderedWrite).tile 71).unord,
      ((core 0x0000B183 4 0x3FFFF8 9 unorderedWrite).tile 71).ordered none e = true) ∧
    rvClass 0x0020B023 = .store ∧ (core 0x0020B023 4 0x3FFFF8 9).AtInstr 71 0x0020B023 4 ∧
    ((core 0x0020B023 4 0x3FFFF8 9).tile 71).gpr 1 + rvImmS 0x0020B023 = BitVec.ofNat 64 0x3FFFF8 := by
  simp only [State.AtInstr]; decide +kernel

theorem test_wit_core_atomics : rvClass 0x1000B1AF = .amo ∧ bits 0x1000B1AF 31 27 = 2 ∧ rvClass 0x1820B1AF = .amo ∧
    bits 0x1820B1AF 31 27 = 3 ∧ rvClass 0x0020B1AF = .amo ∧ bits 0x0020B1AF 31 27 = 0 ∧
    (core 0x1820B1AF 4 0x1000BFF8 9 (fun x => { x with reserv := some (0xBFF8 / 8) })).AtInstr 71 0x1820B1AF 4 ∧
    ((core 0x1820B1AF 4 0x1000BFF8 9 (fun x => { x with reserv := some (0xBFF8 / 8) })).tile 71).reserv = some (0xBFF8 / 8) ∧
    ((core 0x1820B1AF 4 0x1000BFF8 9).tile 71).reserv ≠ some (0xBFF8 / 8) ∧
    ((core 0x1000B1AF 4 0x1000BFF8 9).tile 71).gpr (rvRs1 0x1000B1AF) = BitVec.ofNat 64 (0x10000000 + 0xBFF8) := by
  simp only [State.AtInstr]; decide +kernel

/-- An ecall with `f` in a7. -/
def call (f : W64) : State := core 0x73 4 0 0 (·.setGpr 17 f)

theorem test_wit_ecalls : (call 0).AtCall 71 0x73 4 0 ∧ ((call 0).tile 71).idle = true ∧ (call 1).AtCall 71 0x73 4 1 ∧
    (call 2).AtCall 71 0x73 4 2 ∧ (call 3).AtCall 71 0x73 4 3 ∧
    ((core 0x73 4 0 0 (·.updQueue 3 (fun d => { d with entries := [qcmd 1 []] }))).tile 71).idle = false := by
  simp only [State.AtCall, State.AtInstr]; decide +kernel

theorem test_wit_exceptions : rvClass 0x00100073 = .ebreak ∧ (core 0x00100073 4 0 0).AtInstr 71 0x00100073 4 ∧
    (core 0x00100073 4 0 0).debugOn = false ∧ (regs [(rSecDebug, 1)] (core 0x00100073 4 0 0)).debugOn = true ∧
    rvClass 0xFFFFFFFF = .illegal ∧ rvClass 0x10500073 = .wfi ∧ (core 0xFFFFFFFF 4 0 0).AtInstr 71 0xFFFFFFFF 4 ∧
    (((core 0x0000B183 4 0x1000BFF9 9).tile 71).gpr (rvRs1 0x0000B183) + rvImmI 0x0000B183).toNat % rvSize 3 ≠ 0 ∧
    (((core 0x0020B023 4 4 9).tile 71).gpr (rvRs1 0x0020B023) + rvImmS 0x0020B023).toNat % rvSize 3 ≠ 0 ∧
    (((core 0x0020B1AF 4 0x0FFFFFF8 9).tile 71).gpr (rvRs1 0x0020B1AF)).toNat % rvSize 3 = 0 ∧
    (((core 0x0020B1AF 4 0x0FFFFFF8 9).tile 71).gpr (rvRs1 0x0020B1AF)).toNat < 0x10000000 ∧
    ((core 0x00100073 4 0 0).tile 71).mode = .user ∧ (s0.tile 71).mode = .machine ∧ s0.tripped = false := by
  simp only [State.AtInstr]; decide +kernel

/-- Queue 1 of the tile has completed ticket 1 of 2. -/
def tickets (w : Nat) (x1 : W64) : State :=
  core w 4 x1 0 (·.updQueue 1 (fun d =>
    { d with issued := 2, done := 1, flags := [(true, false)], entries := [qcmd 2 []] }))

theorem test_wit_tickets :
    (tickets (encR 0x0B 3 1 1 0 1) 1).AtInstr 71 (encR 0x0B 3 1 1 0 1) 4 ∧ rvClass (encR 0x0B 3 1 1 0 1) = .xkWait ∧
    rvF7 (encR 0x0B 3 1 1 0 1) % 4 = 1 ∧ (((tickets (encR 0x0B 3 1 1 0 1) 1).tile 71).gpr 1).toNat ≤
      (((tickets (encR 0x0B 3 1 1 0 1) 1).tile 71).queue 1).done ∧
    (((tickets (encR 0x0B 3 1 1 0 1) 2).tile 71).queue 1).done < (((tickets (encR 0x0B 3 1 1 0 1) 2).tile 71).gpr 1).toNat ∧
    (((tickets (encR 0x0B 3 1 1 0 1) 2).tile 71).gpr 1).toNat ≤ (((tickets (encR 0x0B 3 1 1 0 1) 2).tile 71).queue 1).issued ∧
    (((tickets (encR 0x0B 3 1 1 0 1) 2).tile 71).queue 1).done ≤ (((tickets (encR 0x0B 3 1 1 0 1) 2).tile 71).queue 1).issued ∧
    ((tickets (encR 0x0B 0 6 0 0 3) 0).liveAt 71).map (fun l => l.tiles.length) = some 2 ∧
    rvClass (encR 0x0B 3 2 1 0 1) = .xkTest ∧ rvClass (encR 0x0B 0 3 0 0 13) = .xkQfence ∧
    (∀ q, q < 4 → bit (rvF7 (encR 0x0B 0 3 0 0 13) % 16) q = true →
      (((tickets (encR 0x0B 0 3 0 0 13) 0).tile 71).queue q).entries = []) ∧
    rvClass (encR 0x0B 0 4 1 0 1) = .xkBput ∧ rvClass (encR 0x0B 3 5 0 0 1) = .xkBget ∧ rvClass (encR 0x0B 0 6 0 0 3) = .xkBar ∧
    ((tickets (encR 0x0B 0 6 0 0 3) 0).liveAt 71).isSome = true := by
  simp only [State.AtInstr]; decide +kernel

/-- Tiles 70 and 71 of a task both wait at barrier 3. -/
def atBarrier : State :=
  forEach [70, 71] (fun t => updTile t (fun x => { x with mode := .user, live := some 1, stall := .bar 3 }))
    { s0 with lives := [{ (live 1 [1] [70, 71]) with bars := vupd [] (Vector.replicate 4 []) 3 (fun _ => [71, 70]) }] }

theorem test_wit_barrier : (atBarrier.liveOf? 1).isSome = true ∧ (atBarrier.liveOf? 1).map (fun l => (vget [] l.bars 3, l.tiles)) =
      some ([71, 70], [70, 71]) ∧ atBarrier.tripped = false ∧ ((atBarrier.liveOf? 1).map (fun l =>
      l.tiles.all (atBarrier.arrived l 3))) = some true ∧ [71, 70].Nodup ∧ (atBarrier.tile 70).stall = .bar 3 ∧
    (atBarrier.tile 70).awake = true ∧ (∀ t ∈ [71, 70], t < 72) := by decide +kernel


/-! ### Queues and engines -/

/-- Words of a VOP with the operation `v` over one row of 16 FP32 elements, X at unit 0, Y at unit 1, Z at unit 2, D at unit 4. -/
def vopWords (v m : Nat) : List Nat :=
  [1, 0, 0, 0, 2 ^ 16 * 1, (if v = 4 then 2 else 0) + 2 ^ 16 * 4, 0, 0, 0, 16, 1 + 2 ^ 24 * v, m, 0, 0, 0, 0]

/-- A block for XK_ISSUE stands at the end of DMEM; `n` commands are in queue 1 of the tile. -/
def issuing (n : Nat) : State :=
  core (encR 0x0B 3 0 1 0 1) 4 0x1000BFC0 0 (fun x =>
    ({ x with dmem := Mem.writeNat [] 0xBFC0 64 ((vopWords 1 0x91011).foldr (fun w acc => w + 2 ^ 32 * acc) 0) }).updQueue 1 (fun d =>
      { d with entries := List.replicate n (qcmd 1 []) }))

theorem test_wit_issue : (issuing 15).AtInstr 71 (encR 0x0B 3 0 1 0 1) 4 ∧ rvClass (encR 0x0B 3 0 1 0 1) = .xkIssue ∧
    rvF7 (encR 0x0B 3 0 1 0 1) % 4 = 1 ∧ ((issuing 15).tile 71).gpr 1 = BitVec.ofNat 64 (0x10000000 + 0xBFC0) ∧
    0xBFC0 % 64 = 0 ∧ 0xBFC0 + 64 ≤ 0xC000 ∧ ((issuing 15).tile 71).dmemUe = [] ∧
    commandOk ((issuing 15).tile 71) 1 (wordsOf (Mem.readBytes ((issuing 15).tile 71).dmem 0xBFC0 64) 16) = true ∧
    (((issuing 15).tile 71).queue 1).issued < 2 ^ 32 - 1 ∧ (((issuing 15).tile 71).queue 1).entries.length < queueCap 1 ∧
    (((issuing 16).tile 71).queue 1).entries.length = queueCap 1 := by
  simp only [State.AtInstr]; decide +kernel

/-- Tile 71 with one command in queue `q`, not started (`pos` 0) or running. -/
def queued (q : Nat) (ws : List Nat) (started : Bool) : State :=
  core 0 0 0 0 (fun x => ({ x with ir := none }).updQueue q (fun d =>
    { d with issued := 1, entries := [{ (qcmd 1 ws) with started := started }] }))

theorem test_wit_queues : (((queued 1 (vopWords 1 0) false).tile 71).queue 1).entries = [qcmd 1 (vopWords 1 0)] ∧
    ((queued 1 (vopWords 1 0) false).tile 71).running = true ∧ (queued 1 (vopWords 1 0) false).tripped = false ∧
    ((queued 1 (vopWords 1 0) false).tile 71).depsMet (qcmd 1 (vopWords 1 0)) = true ∧
    (updTile 71 (fun x => x.progress 1 1 false true) (queued 1 (vopWords 1 0) true)).commandDone 71 1
      { (qcmd 1 (vopWords 1 0)) with started := true, pos := 1, nan := true } = true := by decide +kernel

/-- Slot 7 of the finished-tile queue is FILLING; the core waits in XK_QFENCE for a command that cannot go on. -/
def ftqState (fence : Bool) : State :=
  updTile 71 (fun x => { x with
    ftq := vupd .init x.ftq 7 (fun f => { f with st := .filling })
    stall := if fence then .qfence 1 else .none }) (if fence then queued 1 (vopWords 1 0x51001) false else core 0 0 0 0)

theorem test_wit_ftq : (vget .init ((ftqState false).tile 71).ftq ((((ftqState false).tile 71).ftqTail + 7) % 8)).st = .filling ∧
    (∀ j, j < 7 → (vget .init ((ftqState false).tile 71).ftq ((((ftqState false).tile 71).ftqTail + j) % 8)).st ≠ .filling) ∧
    (vget .init ((ftqState false).tile 71).ftq 7).hist = false ∧
    ((ftqState true).tile 71).stall = .qfence 1 ∧ ((ftqState true).tile 71).idle = false ∧ ((ftqState true).tile 71).running = true := by
  decide +kernel

/-- The same with a VOP that reads the finished-tile queue, none of whose slots is or will be FULL. -/
def stuck : State := updTile 71 (fun x => { x with stall := .qfence 2 })
  (queued 1 [1, 0, 0, 0, 0, 2 ^ 16 * 4, 0, 0, 0, 64, 32 + 2 ^ 16, 1 + 2 ^ 12 + 2 ^ 16 * 5, 0, 0, 0, 0] true)

theorem test_wit_deadlock : (∀ q, q < 4 → stuck.canProgress 71 q = false) ∧ (stuck.tile 71).idle = false ∧
    (stuck.tile 71).running = true ∧ (stuck.tile 71).held = true := by decide +kernel


/-- That VOP where the slot at the tail is FULL, or has been taken. -/
def draining (st : SlotState) : State := updTile 71 (fun x => { x with
    stall := .none, ftq := vupd .init x.ftq 0 (fun f => { f with st := st, fp32 := true, data := List.replicate 2048 0 }) }) stuck

/-- Words of a reduction over two rows of `n` FP32 elements, X at unit 0, results at unit 8, indices at unit 16. -/
def redWords (op scan k : Nat) (n : Nat := 4) : List Nat :=
  [op, 0, 0, 0, 2 ^ 16 * ((n + 15) / 16), 8 + 2 ^ 16 * 16, 1, 1, n, 2 + 2 ^ 16 * k, 1 + 32 * scan, 0, 0, 0, 0, 0]

/-- Words of a MATMUL of one row of 64 columns over 32 elements, A at unit 0, B at unit 16, C at unit 512; `m` adds flags. -/
def matWords (m : Nat) : List Nat := [1, 0, 0, 0, 2 ^ 16 * 16, 512, 0, 0, 0, 1 + 2 ^ 16, 1, 1 + 16 + 256 + 2 ^ 12 + m, 0, 0, 0, 0]

theorem test_wit_vector : ((queued 1 (vopWords 1 0x91011) true).runningCmd? 71 1).map (·.words) = some (vopWords 1 0x91011) ∧
    ((queued 1 (vopWords 1 0x91011) true).runningCmd? 71 1).map (·.pos) = some 0 ∧ 0 < vecBlocks (vopWords 1 0x91011) ∧
    ((queued 1 (vopWords 1 0x91011) true).tile 71).storeUe = [] ∧ ((queued 1 (vopWords 1 0x91011) true).tile 71).storeMarks = [] ∧
    ((queued 1 (vopWords 1 0x91011) true).tile 71).unord = [] ∧ vecMode (vopWords 1 0x91011) 0 ≠ 5 ∧
    (Fmt.fp32.decode 0x7FC00000 = .nan) ∧ (Fmt.fp32.decode 0x3F800000 ≠ .nan) ∧
    (∀ st ∈ [SlotState.full, .draining], let s := draining st
      ((s.runningCmd? 71 1).map (fun e => (vecMode e.words 0, decide (e.pos < vecBlocks e.words), wf e.words 0 15 0,
        (vget .init (s.tile 71).ftq (s.tile 71).ftqTail).fp32 == (vecFmt e.words 0 == 1)))) = some (5, true, 1, true) ∧
      (s.tile 71).ftqTail < 8 ∧ (vget .init (s.tile 71).ftq (s.tile 71).ftqTail).st = st) := by
  decide +kernel

/-- The FULL slot is taken by one step, and empty after the block of the next. -/
theorem test_slot_drains : (match exec (.vopCopy 71 none) (draining .full) with
      | .next u => (vget .init (u.tile 71).ftq 0).st == .draining
      | _ => false) = true ∧
    (match exec (.vopCopy 71 none) (draining .draining) with
      | .next u => (vget .init (u.tile 71).ftq 0).st == .empty && (u.tile 71).ftqTail == 1
      | _ => false) = true := by decide +kernel

theorem test_wit_reductions : (∀ n ∈ [4, 65], ((queued 2 (redWords 1 0 0 n) true).runningCmd? 71 2).map (fun e => (e.words, e.pos)) =
      some (redWords 1 0 0 n, 0) ∧ isRsum 0 (redWords 1 0 0 n) = true ∧ 0 < redBlocks (redWords 1 0 0 n)) ∧
    redLast (redWords 1 0 0 4) 0 = true ∧ redLast (redWords 1 0 0 65) 0 = false ∧
    ((queued 2 (redWords 1 0 0) true).tile 71).unord = [] := by
  decide +kernel

/-- The MATMUL with DEST 1, with `n` finished tiles in the accumulator banks and the head slot in a state. -/
def banks (n : Nat) (st : SlotState) : State := updTile 71 (fun x => { x with
    accs := List.replicate n .init, ftq := vupd .init x.ftq 0 (fun f => { f with st := st }) }) (queued 0 (matWords (2 ^ 13)) true)

theorem test_wit_matrix : ((queued 0 (matWords 0) true).runningCmd? 71 0).map (·.words) = some (matWords 0) ∧
    0 < (matCfg (matWords 0)).tiles ∧ (matCfg (matWords 0)).hist = false ∧ (matCfg (matWords 0)).ftq = false ∧
    ((queued 0 (matWords 0) true).tile 71).unord = [] ∧ (matCfg (matWords (2 ^ 13))).ftq = true ∧
    (∀ n ∈ [0, 1], ((banks n .full).tile 71).accs.length < 2 ∧
      (vget .init ((banks n .full).tile 71).ftq ((banks n .full).tile 71).ftqHead).st ≠ .empty) ∧
    ((banks 2 .full).tile 71).accs.length = 2 ∧ ((banks 0 .empty).tile 71).accs = [] ∧ ((banks 0 .empty).tile 71).ftqHead < 8 ∧
    (vget .init ((banks 0 .empty).tile 71).ftq ((banks 0 .empty).tile 71).ftqHead).st = .empty := by
  decide +kernel

/-- Words of a tile DMA command of one row of two units from the end of the tile store. -/
def dmaWords (op : Nat) : List Nat :=
  [op, 0, 0, 0, if op < 3 then 0x10000 else 0x1FF80, 0, 0x3FFF80, 128, 1, 0, 0, 0, 0, 0, 0, 0]

/-- Tile 71 runs a DMA command; its task has a window of two granules in the cluster store of C17. -/
def dmaState (op : Nat) : State :=
  updTile 71 (fun x => { x with cswSize := 131072, ctx := 7, store := Mem.writeBytes [] 0x3FFF80 (List.replicate 128 5) })
    (updCluster 17 (fun c => { c with turn := 3, store := Mem.writeBytes [] (6 * 65536 - 128) (List.replicate 128 9) })
      (updXlt (fun x => { x with ctc := vupd [] x.ctc 17 (fun _ => [{ ctx := 7, base := 65536, level := 3, entry := leaf 2 }]) })
        { queued 3 (dmaWords op) true with lives := [{ (live 1 [1] [70, 71]) with windows := [(17, [3, 5])] }] }))

theorem test_wit_dma_windows : ((dmaState 3).runningCmd? 71 3).map (·.words) = some (dmaWords 3) ∧ ((dmaState 3).liveAt 71).isSome = true ∧
    (dmaState 3).dmaTurn? 17 = some 3 ∧ 0 < dmaUnits (dmaWords 3) ∧ dmaOk ((dmaState 3).tile 71) (dmaWords 3) = true ∧
    [3, 5].Nodup ∧ 0x1FF80 + 64 * 2 ≤ 65536 * 2 ∧ ((dmaState 3).tile 71).storeUe = [] ∧
    dmaOk ((dmaState 4).tile 71) (dmaWords 4) = true ∧ (dmaState 4).dmaTurn? 17 = some 3 ∧
    Mem.wf ((dmaState 3).tile 71).store = true ∧ Mem.wf ((dmaState 3).cluster 17).store = true ∧ ((dmaState 3).tile 71).unord = [] := by
  decide +kernel

/-- The line that the DMA engine and the COPY go to, with the page cached for COPY 2 too, stands in its plaza. -/
def dmaLines (s : State) : State :=
  match paTarget (2 * 65536) with
  | .stacked k a => setPline (lineKey k a) { PLine.init with v0 := true, v1 := true, u0 := 7, u1 := 8 } s
  | _ => s

/-- The unit at an offset of that page. -/
def dmaUnit (o : Nat) (s : State) : Option (UnitData × Option Mark) :=
  match paTarget (2 * 65536 + o) with
  | .stacked k a =>
    if s.homeDead (lineKey k a) || !s.lineFree (lineKey k a) || (s.stackOut? k).isSome then none
    else (s.pline (lineKey k a)).unit? (a / 64 % 2)
  | _ => none

/-- The entry that the cluster's cache holds. -/
def dmaEnt : CacheEnt := { ctx := 7, base := 65536, level := 3, entry := leaf 2 }

theorem test_wit_dma_memory : (∀ op ∈ [1, 2], let s := dmaLines (dmaState op)
      s.dmaTurn? 17 = some 3 ∧ dmaOk (s.tile 71) (dmaWords op) = true ∧ s.xlt.aborted = [] ∧ s.xlt.stalled = [] ∧
      (s.cacheOf (.tileDma 71)).find? (fun e => e.hits (s.tile 71).ctx 65536) = some dmaEnt ∧
      (s.useLeaf 7 dmaEnt.entry dmaEnt.level 65536 .read) = .ok (paTarget (2 * 65536)) (leaf 2) 3 ∧
      (s.useLeaf 7 dmaEnt.entry dmaEnt.level 65536 .write) = .ok (paTarget (2 * 65536)) (leaf 2) 3 ∧
      s.plz.arrivals = [] ∧ s.plz.asked = [] ∧ dmaUnit 0 s = some (7, none) ∧ (s.tile 71).storeUe = [] ∧ (s.tile 71).unord = [] ∧
      (2 ≤ 32 ∧ 2 ≤ (512 - 65536 % 512) / 64)) ∧ (dmaState 0).dmaTurn? 16 = none := by decide +kernel

/-- Words of a COPY of one row of two units within the page at 0x10000. -/
def copyWords : List Nat := [2, 0, 0, 0, 0, 0x10000, 0, 0x10080, 0, 128, 1, 0, 0, 0, 0, 0]

/-- C17 serves a COPY of context 7. -/
def copyState : State :=
  let s := dmaState 0
  updTile 71 (fun x => x.updQueue 3 (fun d => { d with entries := [] }))
    (updCluster 17 (fun c => { c with turn := 4, copies := [2] })
      { s with lives := s.lives ++ [{ (live 2 copyWords []) with opcode := 2, cluster := 17, started := true }] })

theorem test_wit_copy : let s := dmaLines copyState
    (s.liveOf? 2).map (fun l => (l.opcode, l.cluster, l.words)) = some (2, 17, copyWords) ∧ s.dmaTurn? 17 = some 4 ∧ s.nextCopy? 17 = some 2 ∧
    s.xlt.aborted = [] ∧ s.xlt.stalled = [] ∧ s.plz.arrivals = [] ∧ s.plz.asked = [] ∧
    (s.cacheOf (.copy 2)).find? (fun e => e.hits 7 0x10080) = some dmaEnt ∧
    s.useLeaf 7 dmaEnt.entry dmaEnt.level 0x10080 .write = .ok (paTarget (2 * 65536 + 128)) (leaf 2) 3 ∧
    min (128 / 64) ((512 - 0x10080 % 512) / 64) = 2 ∧
    (∀ i, i < 2 → (s.cacheOf (.copy 2)).find? (fun e => e.hits 7 (0x10000 + 64 * i)) = some dmaEnt ∧
      s.useLeaf 7 dmaEnt.entry dmaEnt.level (0x10000 + 64 * i) .read = .ok (paTarget (2 * 65536 + 64 * i)) (leaf 2) 3 ∧
      (dmaUnit (64 * i) s).isSome = true) := by
  decide +kernel

/-! ### Work submission -/

/-- An entry of eight bytes at a device physical address of stacked memory. -/
def pte (pa e : Nat) (s : State) : State :=
  match paTarget pa with
  | .stacked k a => { s with dram := { s.dram with bytes := Mem.writeNat s.dram.bytes (byteKey k a) 8 e } }
  | _ => s

/-- A translation tree at 0 that maps the page at 0x10000 to the page at 0x30000. -/
def tree (s : State) : State := pte 0x20008 (leaf 3) (pte 0x10000 0x20001 (pte 0 0x10001 s))

/-- Ring 5 of context 7, both in use unless `r` and `c` say otherwise. -/
def ringState (r c : Nat) : State :=
  regs [(rRingCtrl 5, 0x70C + r), (rRingBaseLo 5, 0x10000), (rCtxStatus 7, c), (rCqCtrl 7, 6), (rCqBaseLo 7, 0x10000),
    (rCtxFltCtrl 7, 6), (rCtxFltBaseLo 7, 0x11000)]
    (updRing 5 (fun x => { x with held := if r = 1 then some { ctx := 7, base := 0x10000, level := 3, entry := leaf 3 } else none })
      { s0 with boot := { s0.boot with newWork := true } })

theorem test_wit_doorbell : (ringState 1 1).ringOn 5 = true ∧ (ringState 1 1).ctxState ((ringState 1 1).ringCtx 5) = 1 ∧
    (64 + 2 ^ 32 - (ringState 1 1).reg (rRingHead 5)) % 2 ^ 32 ≤ (ringState 1 1).ringSize 5 ∧
    (64 + 2 ^ 32 - ((ringState 1 1).ring 5).prod) % 2 ^ 32 < 2 ^ 31 ∧
    (ringState 1 1).ringSize 5 < (65 + 2 ^ 32 - (ringState 1 1).reg (rRingHead 5)) % 2 ^ 32 ∧
    2 ^ 31 ≤ (0 + 2 ^ 32 - ((updRing 5 (fun x => { x with prod := 1 }) (ringState 1 1)).ring 5).prod) % 2 ^ 32 ∧
    (ringState 0 1).ringOn 5 = false := by decide +kernel

theorem test_wit_rings : (tree (ringState 0 1)).ringOn 5 = false ∧ (tree (ringState 0 1)).ctxState ((tree (ringState 0 1)).ringCtx 5) = 1 ∧
    ((setRf (rRingCtrl 5) 0 0 1 (tree (ringState 0 1))).checkRing 5).isSome = true ∧
    (ringState 0 0).ctxState ((ringState 0 0).ringCtx 5) ≠ 1 ∧ (ringState 0 0).ringOn 5 = false ∧
    ((s0.reg (rCqTail 7) + 2 ^ 32 - 0) % 2 ^ 32 < 2 ^ 31) ∧ 2 ^ 31 ≤ (s0.reg (rCqTail 7) + 2 ^ 32 - 1) % 2 ^ 32 := by decide +kernel

/-- Ring 5 with a descriptor to fetch. -/
def fetchable : State := updRing 5 (fun x => { x with prod := 1 }) (ringState 1 1)

/-- The line of its descriptor stands in the plaza. -/
def fetchLine (s : State) : State :=
  match paTarget 0x30000 with
  | .stacked k a => setPline (lineKey k a) { PLine.init with v0 := true, v1 := true } s
  | _ => s

theorem test_wit_descriptor_fetch : let s := fetchLine fetchable
    s.ringServed 5 = true ∧ (s.ring 5).fetched ≠ (s.ring 5).prod ∧ s.fetchWaits 5 = false ∧
    (s.ring 5).held = some { ctx := 7, base := 0x10000, level := 3, entry := leaf 3 } ∧
    s.base55 (rRingBaseLo 5) (rRingBaseHi 5) + 64 * (0 % s.ringSize 5) = 0x10000 ∧
    heldTgt { ctx := 7, base := 0x10000, level := 3, entry := leaf 3 } 0x10000 = paTarget 0x30000 ∧ s.plz.arrivals = [] ∧ s.plz.asked = [] ∧
    (match paTarget 0x30000 with
      | .stacked k a => !s.homeDead (lineKey k a) && s.lineFree (lineKey k a) && (s.stackOut? k).isNone &&
          decide ((s.pline (lineKey k a)).unit? (a / 64 % 2) = some (0, none))
      | _ => false) = true ∧
    (updRing 5 (fun x => { x with prod := 0 }) fetchable |>.ring 5).fetched = 0 ∧ (ringState 0 1).ringServed 5 = false := by decide +kernel

/-- The head of ring 5 is a judged descriptor with its slot. -/
def head (ws : List Nat) (cause : Nat) : State :=
  updRing 5 (fun x => { x with
      prod := 1
      fetched := 1
      queue := [{ pos := 0, words := ws, poison := false }]
      judged := some (cause, 0, false, false)
      slot := true }) (ringState 1 1)

theorem test_wit_dispatch : (head [0] 1).ringServed 5 = true ∧ ((head [0] 1).ring 5).queue = [{ pos := 0, words := [0], poison := false }] ∧
    ((head [0] 1).ring 5).judged = some (1, 0, false, false) ∧ ((head [0] 1).ring 5).slot = true ∧
    (head [0] 1).servedFirst 5 = true ∧ ((head [4] 0).ring 5).judged = some (0, 0, false, false) ∧ wf [4] 0 7 0 = 4 ∧ wf [5] 0 7 0 = 5 ∧ wf [6] 0 7 0 = 6 := by decide +kernel

/-- Words of a TASK for tile 71 by MASK, or for more tiles than a partition has. -/
def taskWords (mask : Bool) : List Nat :=
  if mask then [1, 0, 0, 0, 0, 2 ^ 11, 0, 0, 2 ^ 7, 0x40, 0, 0, 0, 0, 0, 0] else [1, 0, 0, 0, 0, 1 + 2 ^ 4 * 25, 0, 0, 0, 0x40, 0, 0, 0, 0, 0, 0]

theorem test_wit_placement : ((head (taskWords true) 0).waitingTask? 5).map (·.words) = some (taskWords true) ∧
    (head (taskWords true) 0).servedFirst 5 = true ∧ (head (taskWords true) 0).placeFails (taskWords true) = none ∧ ((head (taskWords true) 0).ring 5).reserving = false ∧
    (head (taskWords true) 0).placement? 5 (taskWords true) = some [71] ∧ (head (taskWords true) 0).liveOf? 0 = none ∧
    ((head (taskWords false) 0).waitingTask? 5).isSome = true ∧ (head (taskWords false) 0).servedFirst 5 = true ∧
    (head (taskWords false) 0).placeFails (taskWords false) = some (0x33, 24) := by decide +kernel

/-- A task on tiles 70 and 71 that has started (`go`) or is being stopped (`stop`), on tile 71 in mode `m`. -/
def onTile (go stop : Bool) (f : Tile → Tile) : State :=
  updTile 71 (fun x => f { x with live := some 1 })
    { s0 with lives := [{ (live 1 (taskWords true) [70, 71]) with started := go, stopping := stop, opcode := 1 }] }

theorem test_wit_tasks : ((onTile false false id).liveOf? 1).map (·.opcode) = some 1 ∧ ((onTile true false id).liveAt 71).isSome = true ∧
    ((onTile true false id).tile 71).mode = .machine ∧ ((onTile true false id).tile 71).ending = none ∧
    (onTile true false id).tileUp 71 = true ∧ (onTile true true id).status uTile 71 = stGood ∧
    ((onTile true false (fun x => { x with ending := some .done })).tile 71).reported = false ∧
    (onTile true false (fun x => { x with ending := some .done })).awaits (isTile 71) = false ∧
    (((onTile true false (fun x => { x with ending := some .done })).tile 71).queue 3).entries.all (fun e => e.outst == 0) = true ∧
    ((onTile true false (fun x => { x with ending := some .done })).tile 71).ending = some .done ∧
    ((onTile true false (fun x => { x with prevCtx := some 7 })).tile 71).prevCtx = some 7 := by decide +kernel

/-- A dispatched descriptor of opcode `op`. -/
def opened (op : Nat) : State := { s0 with lives := [{ (live 1 [op] []) with opcode := op }] }

theorem test_wit_opcodes : ((opened 0).openLive? 1 0).isSome = true ∧ ((opened 4).openLive? 1 4).map (·.waitFor) = some [] ∧
    ((opened 5).openLive? 1 5).isSome = true ∧ ((opened 6).openLive? 1 6).map (·.started) = some false ∧
    (({ (opened 4) with lives := [{ (live 1 [4] []) with waitFor := [1] }] } : State).liveOf? 1) ≠ none := by decide +kernel

/-- A NOP of context 7 that has ended; `q` suppresses its record. -/
def ended (q : Nat) : State :=
  updCtx 7 (fun x => { x with heldCq := some { ctx := 7, base := 0x10000, level := 3, entry := leaf 3 } })
    { ringState 1 1 with lives := [{ (live 1 [2 ^ 17 * q] []) with finished := some (0, 0) }] }

/-- The step of that record, as the completion takes it. -/
def recorded (s : State) : AreaRes × State :=
  let l := { (live 1 [0] []) with finished := some (0, 0) }
  recordStep l 0 0 (updLive 1 (fun l => { l with finished := some (0, 0), step := max 1 l.step })
    (updCtx 7 (fun x => { x with waiting := [1] }) s))

/-- The same with a completion ring in package 3 behind port 15, whose request table holds `n` requests. -/
def cqRemote (n : Nat) : State :=
  let s := portsUp (regs [(rFabNode, 9), (rFabCtrl, 2 ^ 14)] (ended 0))
  updCtx 7 (fun x => { x with heldCq := some { ctx := 7, base := 0x10000, level := 3, entry := leaf 2 + 2 ^ 7 + 2 ^ 8 + 2 ^ 48 * 3 } })
    (updPort 15 (fun x => { x with
        table := (List.range n).map (fun i => (i, { who := .tileDma 71, key := .remote 3 0 0, write := true, units := 1 })) })
      { s with fab := { s.fab with routes := [(2 ^ 16 * 16 + 3, 15)] } })

theorem test_wit_completion : ((ended 0).liveOf? 1).bind (ended 0).endOf? = some (0, 0) ∧ ((ended 0).context 7).waiting = [] ∧
    ((ended 0).liveOf? 1).map (fun l => (l.step, l.ctx, l.records 0)) = some (0, 7, true) ∧
    ((ended 1).liveOf? 1).map (fun l => (l.step, l.ctx, l.records 0)) = some (0, 7, false) ∧ (ended 0).recordUnderway 7 = false ∧
    ((ended 0).liveOf? 1).map (ended 0).writesHist = some false ∧ (recorded (ended 0)).1 = .made ∧
    (recorded (ended 0)).2.recordUnderway 7 = false ∧ (recorded (cqRemote 0)).1 = .made ∧ (recorded (cqRemote 0)).2.recordUnderway 7 = true ∧
    (cqRemote 0).recordUnderway 7 = false := by
  decide +kernel

theorem test_wit_completion_waits : (recorded (cqRemote 4096)).1 = .waits := by decide +kernel

/-- Context 7 without rings in state `c`. -/
def ctxOnly (c : Nat) : State :=
  regs [(rCtxStatus 7, c), (rCqCtrl 7, 6), (rCqBaseLo 7, 0x10000), (rCtxFltCtrl 7, 6), (rCtxFltBaseLo 7, 0x11000)] s0

theorem test_wit_contexts : (tree (ctxOnly 0)).ctxState 7 = 0 ∧ (tree (ctxOnly 0)).tdiLocked 7 = false ∧
    ((tree (ctxOnly 0)).activation? 7).isSome = true ∧ (tree (ctxOnly 0)).ringsOf 7 = [] ∧ (ctxOnly 0).activation? 7 = none ∧
    (ctxOnly 1).ctxState 7 = 1 ∧ ((ctxOnly 1).context 7).waiting = [] ∧ (ctxOnly 1).fab.groups = [] ∧ (ctxOnly 0).ctxState 7 ≠ 1 ∧
    (ctxOnly 2).ctxState 7 = 2 ∧ (ctxOnly 2).ctxBusy 7 = false ∧ (ctxOnly 3).ctxState 7 = 3 ∧ (ctxOnly 3).rb (rCtxStatus 7) 2 = false := by
  decide +kernel

/-! ### Reductions across packages -/

/-- Words of 32 bits at a device physical address of stacked memory. -/
def memWords (pa : Nat) : List Nat → State → State
  | [], s => s
  | w :: ws, s => memWords (pa + 4) ws (match paTarget pa with
    | .stacked k a => { s with dram := { s.dram with bytes := Mem.writeNat s.dram.bytes (byteKey k a) 4 w } }
    | _ => s)

/-- A reduction descriptor at port 15 with child 14, whose parent is port 0 (`root` 0) or that is the root. -/
def rdWords (root : Nat) : List Nat := [15 + 16 * root + 2 ^ 9 * 2, 2 ^ 14, 16 + 2 ^ 5 * 14, 0, 0, 0, 0, 0, 0, 0, 0, 0, 0, 0, 0, 0]

/-- A REDUCE of one FP32 element, its descriptor at 0x10000. -/
def reduceLive : Live :=
  { (live 1 [3, 0, 0, 0, 0, 0x10100, 0, 0x10200, 0, 1, 0x11, 0x10000, 0, 9, 0, 0] []) with opcode := 3 }

/-- The hub with that REDUCE, its descriptor in memory as `ws`, and its groups. -/
def reduceState (ws : List Nat) (gs : List Group) : State :=
  memWords 0x20000 ws (updXlt (fun x => { x with
    fabCache := vupd [] (vupd [] x.fabCache 0 (fun _ => [{ ctx := 7, base := 65536, level := 3, entry := leaf 2 }])) 15
      (fun _ => [{ ctx := 7, base := 65536, level := 3, entry := leaf 2 }]) })
    (portsUp { s0 with lives := [reduceLive], fab := { s0.fab with groups := gs } }))

/-- Its group; `c` chunks are formed. -/
def redGroup (root : Nat) (armed : Bool) (f : Group → Group) : Group :=
  f { live := 1, port := 15, words := rdWords root, armed := armed, limitUp := 0, inputs := [], formed := 0, wrote := 0, outst := 0,
      mark := none }

/-- What a REDUCE reads first. -/
def rdRead (s : State) : RangeRes × State := readRange (.reduce 0 1) 7 (redClass reduceLive) (redVa reduceLive 11) 64 s

theorem test_wit_reduce_read : (reduceState (rdWords 0) []).reduceOf? 1 = some reduceLive ∧
    (reduceState (rdWords 0) []).groupOf? 1 = none ∧
    (match (rdRead (reduceState (rdWords 0) [])) with
      | (.ok bs none, s1) => (chunks 4 64 bs).map bytesToNat == rdWords 0 && !(rdExec (rdWords 0) :: rdTree (rdWords 0)).any s1.portDown
      | _ => false) = true ∧ rdescOk (rdWords 0) = true ∧ rdescOk (rdWords 1) = true ∧
    (match (rdRead (reduceState [] [])) with | (.ok bs none, _) => !rdescOk ((chunks 4 64 bs).map bytesToNat) | _ => false) = true := by
  decide +kernel

/-- A group whose next chunk is ready. -/
def readyGroup : Group := redGroup 0 true (fun g => { g with limitUp := 1, inputs := [(14, ([0x3F800000], none))] })

theorem test_wit_reduce_groups : (reduceState [] [redGroup 0 true id]).reduceOf? 1 = some reduceLive ∧
    (redGroup 0 true id).chunkReady reduceLive = false ∧ readyGroup.chunkReady reduceLive = true ∧ rdRoot readyGroup.words = false ∧
    (match readRange (.reduce 15 1) 7 (redClass reduceLive) (chunkSpan (redVa reduceLive 5) true reduceLive 0).1
        (chunkSpan (redVa reduceLive 5) true reduceLive 0).2 (reduceState [] [readyGroup]) with | (.ok _ _, _) => true | _ => false) = true ∧
    (reduceState [] [redGroup 1 false id]).mayArm reduceLive (redGroup 1 false id) = true ∧
    (reduceState [] [redGroup 0 false id, { (redGroup 0 true id) with live := 1 }]).mayArm reduceLive (redGroup 0 false id) = false ∧
    14 ∈ rdChildren (redGroup 0 true id).words ∧ (redGroup 0 true id).formed < redChunks reduceLive ∧
    (redGroup 0 true (fun g => { g with wrote := 1 })).wrote = redChunks reduceLive ∧
    (reduceState [] [redGroup 0 true id]).downUnacked reduceLive (redGroup 0 true id) = false := by decide +kernel

/-! ### Stacked memory -/

/-- The plaza holds unit 1 of the last line of stack 11 DIRTY. -/
def dirtyLine : State :=
  updPlz (fun p => { p with lines := [(lineKey 11 (2 ^ 36 - 64), { PLine.init with v1 := true, d1 := true, u1 := 5 })] }) s0

/-- Region 0 maps two granules at 0, mirrored at granule 1 of the next stacks, ACTIVE if `on`. -/
def region (on : Nat) : State :=
  regs [(rSrtNBaseLo 0, 0), (rSrtNMirrorLo 0, 65536), (rSrtNPages 0, 1), (rSrtNCtrl 0, 3 * on), (rSrtNStatus 0, on)] s0

/-- Stack 11 changed. -/
def stk (f : Stack → Stack) : State := updStack 11 f s0

/-- The last unit of stack 11. -/
def lastUnit : Nat := 64 * (2 ^ 30 - 1)

theorem test_wit_stack_units : s0.issues 11 lastUnit = true ∧ s0.stackOut? 11 = none ∧ s0.dramMark 11 lastUnit = none ∧
    s0.mirrorOf? 11 lastUnit = none ∧ ((dirtyLine.pline (lineKey 11 lastUnit)).unit? 1) = some (5, none) ∧
    (dirtyLine.pline (lineKey 11 lastUnit)).dirty 1 = true ∧ dirtyLine.ownerSite? (lineKey 11 lastUnit) = none ∧
    dirtyLine.issues 11 lastUnit = true ∧ dirtyLine.stackOut? 11 = none ∧
    (region 1).mirrorOf? 0 0 = some (0, 8, 4096) ∧ (region 1).stackOut? 8 = none ∧
    (readUnit opRecord 8 4096 .clean (region 1)).1 = (0, none) ∧ (region 1).issues 0 0 = true ∧
    (region 1).poisoned 0 0 = false ∧ (readUnit opRecord 8 4096 .clean (region 1)).2.poisoned 0 0 = false ∧ (region 1).stackOut? 0 = none ∧
    (stk (fun x => { x with retraining := [moduleOf lastUnit] })).issues 11 lastUnit = false ∧ (stk (fun x => { x with patrol := 2 ^ 30 - 1 })).stackOut? 11 = none ∧
    ((stk (fun x => { x with patrol := 2 ^ 30 - 1 })).stack 11).patrol = 2 ^ 30 - 1 := by decide +kernel

theorem test_wit_retrains : s0.inService uStack 11 = true ∧ (units [(uStack, 11, stIsolated)] s0).inService uStack 11 = false ∧
    63 ∈ ((stk (fun x => { x with retrainDue := [63] })).stack 11).retrainDue ∧
    ((stk (fun x => { x with retraining := [63], failing := [63 * 128 + 1] })).stack 11).failing.filter (fun b => b / 128 == 63) = [8065] ∧
    ((stk (fun x => { x with retraining := [63] })).stack 11).failing = [] ∧
    ((stk (fun x => { x with retraining := [63] })).stack 11).retry = [] ∧
    (let x := (stk (fun x => { x with retraining := [63], failing := [8069], spared := [8064, 8065, 8066, 8067], retired := [61] })).stack 11;
      8069 ∈ x.failing ∧ 8069 / 128 = 63 ∧ 4 ≤ (x.spared.filter (fun b => b / 128 == 63)).length ∧ 63 ∉ x.retired ∧ (63 ^^^ 1) ∉ x.retired) := by
  decide +kernel

theorem test_wit_rejoin : Sys2Proof.Machine.StackTrain.serves (.trained [8191] [63, 61]) = true ∧
    Sys2Proof.Machine.StackTrain.serves (.trained [] [63, 62]) = false ∧ Sys2Proof.Machine.StackTrain.serves (.failed [1]) = false := by
  decide +kernel

/-- Stack 11 ISOLATED, or in QUARANTINE while it rejoins. -/
def stackLost (st : Nat) : State :=
  updStack 11 (fun x => { x with isoCause := ccClock, rejoining := st == stQuarantine })
    (updPlz (fun p => { p with stackSweep := if st = stIsolated then [11] else [] }) (units [(uStack, 11, st)]
      { s0 with boot := { s0.boot with quar := [(unitKey uStack 11, { epoch := 1, step := 0, cause := 1 })] } }))

theorem test_wit_isolation : (stackLost stIsolated).status uStack 11 = stIsolated ∧ (stackLost stQuarantine).status uStack 11 = stQuarantine ∧
    ((stackLost stQuarantine).stack 11).rejoining = true ∧ (stackLost stQuarantine).regions = [] ∧
    11 ∉ (stackLost stQuarantine).plz.stackSweep ∧ 11 ∈ (stackLost stIsolated).plz.stackSweep ∧ (stackLost stIsolated).plz.txns = [] ∧
    (stackLost stIsolated).plz.owners = [] := by decide +kernel

theorem test_wit_throttle : (Table.get .init s0.pwr.units (unitKey uStack 11)).now ≠ 3 ∧ s0.throttles 11 = true ∧
    ((stk (fun x => { x with hot := true })).stack 11).hot = true ∧ ((stk (fun x => { x with restrains := true })).stack 11).restrains = true ∧
    s0.rf (rStkTemp 11) 7 0 ≤ s0.rf rMemCtrl 7 0 - s0.rf rMemCtrl 11 8 ∧ s0.rb (rStkStatus 11) 24 = false ∧
    (units [(uStack, 11, stIsolated)] s0).throttles 11 = false := by decide +kernel

theorem test_wit_regions : (region 0).srtActive 0 = false ∧ (setRf (rSrtNCtrl 0) 1 1 1 (region 0)).srtCheck 0 true = true ∧
    (setRf (rSrtNCtrl 255) 1 1 1 s0).srtCheck 255 true = false ∧ (region 1).srtActive 0 = true := by decide +kernel

/-! ### Homes -/

/-- The last line of stack 11. -/
def hLine : Nat := lineOf 11 (2 ^ 29 - 1)

/-- A transaction of a home at that line. -/
def txn (kind : TKind) (req : Req) (f : Txn → Txn := id) : Txn :=
  f { id := 4096, line := hLine, kind := kind, req := req, data := 3, mask := BitVec.ofNat 128 (2 ^ 128 - 1), m0 := none, m1 := none,
      hint := 0, mirror := false, phase := .waiting, owner := none, rsp := false, wb := false, ack := false, mem := false,
      stash := none, inv := 0, invSeen := 0, ring := false, noData := false, after := none, recalled := false }

/-- The line held, both units VALID. -/
def held (f : PLine → PLine := id) : PLine := f { PLine.init with v0 := true, v1 := true, d1 := true, u0 := 7, u1 := 8 }

/-- The hub with one transaction at that line, the plaza's entry `p` and an owner, if any. -/
def homeState (t : Txn) (p : PLine) (o : Option Nat) (msgs : List CMsg := []) : State :=
  updPlz (fun x => { x with
      txns := [t]
      nextTxn := 4097
      msgs := msgs
      lines := if p = .init then [] else [(hLine, p)]
      owners := match o with
        | some n => [(hLine, { site := n, order := 0 })]
        | none => [] }) s0

theorem test_wit_home_requests : ∀ k ∈ [TKind.rdShared, .rdUnique, .rdOnce true, .wrFull, .wrPart, .flushLine, .atomic 120 8 0 1 0],
    let s := homeState (txn k (.site 5 9)) held none
    s.ready? hLine = some (txn k (.site 5 9)) ∧ s.rb rPwrTrip 0 = false ∧ s.homeDead hLine = false ∧ s.ownerSite? hLine = none ∧
      (s.pline hLine) = held ∧ s.stackOut? (lineStack hLine) = none ∧ s.inService uSite 5 = true ∧
      s.recall? (txn k (.site 5 9)) = none ∧ (txn k (.site 5 9)).mirror = false ∧ (txn k (.site 5 9)).hint = 0 ∧
      s.regionOf? (lineStack hLine) (lineAddr hLine) = none ∧ s.regionOf? (lineStack hLine) (lineAddr hLine + 64) = none := by
  decide +kernel

theorem test_wit_home_atomic : held.unit? (120 / 64) = some (8, none) ∧ 120 % 8 = 0 ∧
    atomicOp 0 8 (bits (8 : UnitData).toNat (8 * (120 % 64 + 8) - 1) (8 * (120 % 64))) 1 0 = some 1 ∧
    (held (fun p => { p with m1 := some absentMark })).unit? (120 / 64) = some (8, some absentMark) := by decide +kernel

theorem test_wit_home_snoops : ∀ k ∈ [TKind.rdShared, .rdUnique, .rdOnce true, .wrFull, .wrPart, .flushLine, .atomic 120 8 0 1 0],
    let s := homeState (txn k (.site 5 9)) .init (some 0)
    s.ready? hLine = some (txn k (.site 5 9)) ∧ s.rb rPwrTrip 0 = false ∧ s.homeDead hLine = false ∧ s.ownerSite? hLine = some 0 ∧
      reqSite? (txn k (.site 5 9)).req ≠ some 0 ∧ s.noRoom? (txn k (.site 5 9)) = none ∧ s.recall? (txn k (.site 5 9)) = none := by
  decide +kernel

theorem test_wit_home_returns : ∀ k ∈ [TKind.evictClean, .writeback], ∀ o ∈ [some 5, some 0, none],
    let s := homeState (txn k (.site 5 9)) held o
    s.ready? hLine = some (txn k (.site 5 9)) ∧ s.rb rPwrTrip 0 = false ∧ s.homeDead hLine = false ∧ s.ownerSite? hLine = o ∧
      s.stackOut? (lineStack hLine) = none ∧ s.regions = [] ∧ s.hasRoom hLine = true := by decide +kernel

/-- The requests of stack 11 wait while a module retrains. -/
def memWaits (s : State) : State := updStack 11 (fun x => { x with retraining := List.range 64 }) s

theorem test_wit_home_starts : (let t := txn .rdUnique .none; let s := homeState t (held (fun p => { p with sharedOut := true })) none;
      (s.pline hLine).sharedOut = true ∧ s.memStops t = false ∧ s.mirrorBusy? t = none ∧ s.noRoom? t = none ∧ s.recall? t = none) ∧
    needsInv .rdUnique = true ∧ s0.ready? hLine = none ∧
    (memWaits (homeState (txn .rdShared .none) .init none)).memStops (txn .rdShared .none) = true ∧
    (memWaits (homeState (txn .rdShared .none) .init none)).ready? hLine = some (txn .rdShared .none) ∧
    (units [(uPlaza, s0.homePlaza hLine, stFailed)] (homeState (txn .rdShared .none) held none)).homeDead hLine = true := by
  decide +kernel

/-- Site 5 runs CXL (`cxl` 1) and caches. -/
def siteCaps (cxl : Nat) (s : State) : State := regs [(rSiteNStatus 5, 8 * cxl + 16)] s

/-- A snoop message for site 5. -/
def snoopMsgs : List (Nat × CMsg) :=
  [(0x11, .snpFwdShared 5 hLine 4096 (.site 0 9)), (0x12, .snpFwdUnique 5 hLine 4096 (.site 0 9)),
   (0x13, .snpFwdOnce 5 hLine 4096 (.site 0 9)), (0x14, .snpRecall 5 hLine 4096), (0x15, .snpDrop 5 hLine 4096)]

theorem test_wit_snoops : ∀ m ∈ snoopMsgs, let s := homeState (txn .rdUnique (.site 0 9)) .init (some 5) [m.2]
    s.msgAt? (.snp m.1 5) 0 = some m.2 ∧ (siteCaps 1 s).inService uSite 5 = true ∧ (siteCaps 1 s).siteCxl 5 = true ∧
      (siteCaps 0 s).inService uSite 5 = true ∧ (siteCaps 0 s).siteCxl 5 = false ∧ (units [(uSite, 5, stAbsent)] s).inService uSite 5 = false := by
  decide +kernel

/-- The SNP_INV of that line, `dist` stops from its home's. -/
def invMsg (slot : Option Nat) (dist : Nat) : CMsg := .snpInv hLine 4096 0 slot dist 0

/-- The hub with it under way. -/
def invState (slot : Option Nat) (dist : Nat) : State :=
  homeState (txn .rdUnique (.site 0 9) (fun t => { t with phase := .invalidating, ring := true })) (held (fun p => { p with sharedOut := true }))
    none [invMsg slot dist]

/-- The stops from its home's to that of site `n`, and the last site on the way. -/
def farOf (n : Nat) : Nat := stopsTo (plazaStop (s0.homePlaza hLine)) (siteStop n)

/-- The site whose stop is the last of the six, and the one before. -/
def lastSite (k : Nat) : Nat := ((List.range 6).find? (fun n => ((List.range 6).filter (fun j => farOf j < farOf n)).length == k)).getD 6

theorem test_wit_inv_pass : let n := lastSite 5; let d := farOf (lastSite 4)
    n < 6 ∧ d < farOf n ∧ (∀ k, k < 6 → d < farOf k → farOf n ≤ farOf k) ∧
    (invState (some 3) d).onRing? 4096 = some (invMsg (some 3) d, invMsg (some 3) d, 3) ∧
    (invState none 0).onRing? 4096 = some (invMsg none 0, invMsg (some 0) 0, 0) ∧
    (invState (some 3) d).siteCaching n = false ∧ (let s := regs [(rSiteNStatus n, 16)] (invState (some 3) d)
      s.siteServes n = true ∧ s.inService uSite n = true ∧ s.siteCaching n = true ∧ (s.site n).join = .none) ∧ n ≠ 0 := by
  decide +kernel

theorem test_wit_inv_return : (∃ k, k < 6 ∧ farOf (lastSite 4) < farOf k) ∧ (∀ k, k < 6 → farOf k ≤ farOf (lastSite 5)) ∧
    (invState (some 3) 41).onRing? 4096 = some (invMsg (some 3) 41, invMsg (some 3) 41, 3) ∧ ((invState none 0).txn? 4096).isSome = true ∧
    ((invState none 0).txn? 4096).map (invState none 0).memStops = some false := by decide +kernel

theorem test_wit_ring_marks : (invState none 0).waitsAt (invMsg none 0) (plazaStop (s0.homePlaza hLine)) = true ∧ s0.plz.ringMarks = [] ∧
    (invState none 0).plz.msgs = [invMsg none 0] ∧ s0.plz.msgs = [] ∧ plazaStop (s0.homePlaza hLine) < 42 ∧
    { s0.plz with ringMarks := [(41, 0), (3, 1)] }.ringMarks.all (fun e => e.2 != 2) = true := by decide +kernel

/-- The stops of the plazas and the sites are the 42 of the ring, each once (R23). -/
theorem test_ring_stops : ((List.range 36).map plazaStop ++ (List.range 6).map siteStop).Nodup ∧
    ((List.range 36).map plazaStop ++ (List.range 6).map siteStop).all (· < 42) = true := by decide +kernel

/-- Site 5 has sent a message, and the home awaits its answer. -/
def answer (m : KMsg) (t : Txn) (snoops : List Snoop) : State :=
  updSite 5 (fun x => { x with
      inbox := [(m, 6)]
      agents := [{ txn := 9, line := hLine, kind := .rdUnique, cxl := true, needComp := false, gotComp := false, gotData := false, noData := false,
                   data := 0, m0 := none, m1 := none, grant := .none, unit := 0, cls := 0, urg := 0, fenced := false }] })
    (updPlz (fun p => { p with snoops := snoops }) (homeState t .init (some 5)))

/-- The transaction of RD_UNIQUE from site 0 whose snoop of site 5 is out. -/
def snooped : Txn := txn .rdUnique (.site 0 9) (fun t => { t with phase := .snooping, owner := some 5, rsp := true })

/-- A message with a number. -/
def kmsg (msg : Nat) : KMsg := { KMsg.blank with msg := msg, unit := 1, dirty := true }

theorem test_wit_answers : (let s := answer { (kmsg 0x21) with toReq := true } snooped [{ site := 5, line := hLine, txn := 4096 }]
      ((takeInbox 5 3 (fun m => m.msg == 0x21 && !s.answerStops 5 m.txn) s).map (·.1)) = some ({ (kmsg 0x21) with toReq := true }, 6)) ∧
    snooped.phase = .snooping ∧ snooped.kind = .rdUnique ∧ snooped.wb = false ∧ snooped.req = .site 0 9 ∧
    ((takeInbox 5 3 (fun m => m.msg == 0x23) (answer { (kmsg 0x23) with txn := 9 } (txn .rdUnique (.site 5 9) (fun t => { t with phase := .closing, ack := true })) [])).isSome) = true ∧
    ((takeInbox 5 3 (fun m => m.msg == 0x26) (answer (kmsg 0x26) (txn .wrFull (.site 0 9) (fun t => { t with phase := .closing, stash := some 5 })) [])).isSome) = true ∧
    ((takeInbox 5 4 (fun m => m.msg == 0x32) (answer (kmsg 0x32) { snooped with wb := true } [])).map (·.1)) = some (kmsg 0x32, 6) ∧
    (answer (kmsg 0x32) { snooped with wb := true } []).plz.txns.find? (fun t => t.id % 4096 == 0 && t.owner == some 5) = some { snooped with wb := true } ∧
    (homeState (txn (.rdOnce true) .none (fun t => { t with mem := true })) .init none [.memDone hLine 4096]).msgAt? .memDone 0 = some (.memDone hLine 4096) ∧
    s0.heldWrite? (lineStack hLine) (lineAddr hLine) = none ∧ s0.heldWrite? (lineStack hLine) (lineAddr hLine + 64) = none ∧
    (updPlz (fun p => { p with msgs := [.wbAck (.site 5 9) hLine true] }) (answer (kmsg 0) snooped [])).msgAt? .wbAck 0 = some (.wbAck (.site 5 9) hLine true) ∧
    (((answer (kmsg 0) snooped []).site 5).agents.any (fun a => a.txn == 9 && a.cxl)) = true ∧
    ((s0.site 5).agents.any (fun a => a.txn == 9 && a.cxl)) = false := by decide +kernel

/-- FLUSH_ALL under way with a DIRTY line. -/
def flushState : State := updPlz (fun p => { p with flushing := true, lines := [(hLine, held)] }) (regs [(rPlzCtrl, 2 ^ 15)] s0)

theorem test_wit_flush : s0.rb rPlzCtrl 15 = false ∧ flushState.rb rPlzCtrl 15 = true ∧ flushState.plz.flushing = true ∧
    flushState.blocked hLine = false ∧ flushState.cleanStops hLine = false ∧ flushState.stackOut? (lineStack hLine) = none ∧ flushState.ownerSite? hLine = none ∧
    (flushState.pline hLine).held = true := by decide +kernel

/-! ### Bridges and bonds -/

/-- Site 5 runs CXL with caching; window entry 255 maps 64 KiB of stacked memory at 0x10000 with rights `r`. -/
def cxlState (r : Nat) : State :=
  regs [(rSiteNStatus 5, 24), (rSiteNWinMCtrl 5 255, 1 + 4 * r + 256), (rSiteNWinMBaseLo 5 255, 0x10000)] s0

theorem test_wit_cxl : (cxlState 15).siteCxl 5 = true ∧ (cxlState 15).siteServes 5 = true ∧ (cxlState 15).siteCaching 5 = true ∧
    (cxlState 15).openOf? 5 4095 = none ∧ bit ((cxlState 15).rff (rSiteNPolicy 5) 15 0) ((cxlState 15).rff (rSiteNPolicy 5) 19 16) = true ∧
    paTarget (0x1FFFF / 128 * 128) = .stacked 3 12160 ∧ (cxlState 15).physPass 5 (0x1FFFF / 128 * 128) 128 9 = true ∧
    (cxlState 15).physPass 5 (0x1FFFF / 128 * 128) 128 11 = true ∧ (cxlState 15).physPass 5 (0x1FFFF / 128 * 128) 128 1 = true ∧
    (cxlState 1).physPass 5 (0x1FFFF / 128 * 128) 128 9 = false ∧ (cxlState 15).physPass 5 (0x1FFFF / 128 * 128) 128 2 = true ∧
    paTarget (0x1FFFF / 64 * 64) = .stacked 3 12224 ∧ (cxlState 15).physPass 5 (0x1FFFF / 64 * 64) 64 1 = true ∧
    paTarget 0x1FFFF = .stacked 3 12287 := by decide +kernel

/-- Data owed to the bridge of site 5 for the last line of stack 11. -/
def owed (code : Nat) : CxlDue := { line := hLine, txn := 4095, code := code, modified := true }

/-- That site with a snoop out or data owed. -/
def cxlSnooped (t : Txn) (code : Nat) : State :=
  updSite 5 (fun x => { x with due := [owed code] }) (updPlz (fun p => { p with
      snoops := [{ site := 5, line := hLine, txn := 4096 }] }) (siteCaps 1 (homeState t .init (some 5))))

theorem test_wit_cxl_answers : (siteCaps 1 s0).siteCxl 5 = true ∧ (siteCaps 1 s0).plz.snoops = [] ∧ (cxlSnooped snooped 0).siteCxl 5 = true ∧
    (cxlSnooped snooped 0).plz.snoops.find? (fun x => x.site == 5 && x.line == hLine) = some { site := 5, line := hLine, txn := 4096 } ∧
    (cxlSnooped snooped 0).txn? 4096 = some snooped ∧ (s0.site 5).due = [] ∧ (owed 0).code = 0 ∧
    ((cxlSnooped snooped 0).site 5).due.find? (fun d => d.line == hLine) = some (owed 0) ∧ (cxlSnooped snooped 0).openOf? 5 4095 = none := by
  decide +kernel

/-- A flit. -/
def flit (seq : Nat) (ty : FType) (slots : List KMsg) : Flit :=
  { seq := seq, ack := 3, ftype := ty, nak := false, credits := [0, 0, 0, 0, 0], slots := slots, unit := 6, stream := [] }

/-- Site 5 changed. -/
def atSite (f : Site → Site) : State := updSite 5 f s0

/-- Its link with two unacknowledged flits. -/
def linkState (f : Site → Site) : State :=
  atSite (fun x => f { x with rxSeq := 2 ^ 14 - 1, unacked := [flit 3 .hdr [kmsg 0x24], flit 4 .hdr [kmsg 0x22]] })

theorem test_wit_link : (linkState id).mainBand 5 = true ∧ 63 ∈ rotation ((linkState id).site 5) ∧
    ((linkState id).site 5).held = [] ∧ ((linkState id).site 5).corrRun = [] ∧ ((linkState id).site 5).early = [] ∧
    ((linkState (fun x => { x with naks := 14, gap := true })).site 5).naks < 15 ∧
    ((linkState (fun x => { x with naks := 14, gap := true })).site 5).gap = true ∧
    ((linkState (fun x => { x with naks := 15 })).site 5).naks = 15 ∧ ((linkState (fun x => { x with naksRx := 14 })).site 5).naksRx < 15 := by
  decide +kernel

theorem test_wit_flits : (let f := flitOf (flitPayload (flit 0 .idle [])); f.ftype = .idle ∧ f.nak = false) ∧
    (let f := flitOf (flitPayload (flit (2 ^ 14 - 1) .hdrData [{ (kmsg 0x34) with epoch := ((linkState id).site 5).epoch }]));
      f.seq = ((linkState id).site 5).rxSeq ∧ f.ftype = .hdrData ∧ f.nak = false ∧ f.unit = 6 ∧
      f.slots = [{ (kmsg 0x34) with epoch := ((linkState id).site 5).epoch }] ∧ kspFromChiplet 0x34 = true) ∧
    (let f := flitOf (flitPayload (flit (2 ^ 14 - 1) .hdr [{ KMsg.blank with msg := 0x21, epoch := 5 }]));
      f.seq = ((linkState id).site 5).rxSeq ∧ f.ftype = .hdr ∧ f.slots = { KMsg.blank with msg := 0x21, epoch := 5 } :: List.replicate 4 KMsg.blank ∧
        5 ≠ ((linkState id).site 5).epoch) := by decide +kernel

theorem test_wit_flit_errors : wrongBonds (s0.site 5) 63 [(0, 1), (95, 255), (94, 3)] = [0, 94, 95] ∧
    wrongBonds (s0.site 5) 63 [(0, 1), (1, 1), (2, 1), (3, 1), (4, 1), (95, 1), (99, 1)] = [0, 1, 2, 3, 4, 95] ∧
    wrongBonds { (s0.site 5) with spareMap := [(63 * 128 + 95, 3)] } 63 [(95, 1), (99, 1)] = [95] := by decide +kernel

theorem test_wit_repair : s0.inService uSite 5 = true ∧ (s0.site 5).gap = false ∧ (63, 95) ∉ (s0.site 5).failing ∧ 63 ∉ (s0.site 5).retired ∧
    Table.get 0 ((atSite (fun x => { x with sparesUsed := [(63, 3)] })).site 5).sparesUsed 63 = 3 ∧
    4 ≤ Table.get 0 ((atSite (fun x => { x with sparesUsed := [(63, 4)] })).site 5).sparesUsed 63 ∧
    (∃ r ∈ ((atSite (fun x => { x with repairing := [(63, 95, 0)] })).site 5).repairing, r.1 = 63) ∧
    ((atSite (fun x => { x with repairing := [(63, 95, 0)] })).site 5).repairing = [((63 : Fin 64).val, (95 : Fin 96).val, 0)] ∧
    ((atSite (fun x => { x with retired := List.range 31 })).site 5).retired.length < 32 ∧
    (atSite (fun x => { x with retired := List.range 31 })).inService uSite 5 = true ∧ (s0.site 5).failing = [] := by decide +kernel

/-! ### Sites -/

/-- Site 5 with a status. -/
def siteAt (st : Nat) (f : Site → Site) : State := units [(uSite, 5, st)] (atSite f)

theorem test_wit_losses : s0.inService uSite 5 = true ∧ (∃ x ∈ (updPlz (fun p => { p with snoops := [{ site := 5, line := 0, txn := 0 }] }) s0).plz.snoops, x.site = 5) ∧
    (s0.site 5).barred = false ∧ 1400 < (2047 : BitVec 11).toNat ∧ ((atSite (fun x => { x with clampBudget := some 9 })).site 5).clampBudget ≠ none ∧
    (s0.site 5).retired = [] ∧ (siteAt stEmpty id).status uSite 5 = stEmpty ∧ s0.plz.snoops = [] ∧
    5 ∈ (updPlz (fun p => { p with ownerSweep := [5], owners := [(hLine, { site := 5, order := 0 })] }) s0).plz.ownerSweep ∧ s0.plz.txns = [] := by
  decide +kernel

/-- Site 5 in stage S3, its join at a step, with a certificate under way. -/
def joinState (j : JoinStep) (len : Nat) : State :=
  updSite 5 (fun x => { x with join := j, certLen := len, cert := [1, 2] }) (stageAt 3)

theorem test_wit_joining : (siteAt stAbsent id).status uSite 5 = stAbsent ∧ ((siteAt stAbsent id).site 5).join = .none ∧ s0.status uSite 5 ≠ stAbsent ∧
    ((siteAt stAbsent id).site 5).barred = false ∧ ((siteAt stAbsent (fun x => { x with barred := true })).site 5).barred = true ∧
    (stageAt 3).stage = 3 ∧ (stageAt 3).ready = false ∧ bit ((stageAt 3).inForce (rSiteNPolicy 5)) 21 = true ∧
    bit ((stageAt 3).inForce (rSiteNPolicy 5)) 20 = true ∧ ((joinState .cert 4).site 5).join = .cert ∧ (joinState .cert 4).sec.rngFailed = false ∧
    (((joinState .cert 4).site 5).cert ++ [3]).length < ((joinState .cert 4).site 5).certLen ∧
    ((((joinState .cert 4).site 5).cert ++ [3, 4, 5]).take ((joinState .cert 4).site 5).certLen).length = ((joinState .cert 4).site 5).certLen ∧
    256 < (List.replicate 257 (0 : Byte)).length ∧ ((atSite (fun x => { x with join := .join })).site 5).join = .join ∧
    rotation ((atSite (fun x => { x with join := .join })).site 5) ≠ [] ∧ (atSite (fun x => { x with join := .join })).siteCxl 5 = false ∧
    ((siteAt stAbsent (fun x => { x with join := .joined })).site 5).join = .joined ∧ (siteAt stAbsent (fun x => { x with join := .joined })).ready = true := by
  decide +kernel

/-- A challenge is out at S3, or in a rejoin where S3 took another certificate. The verdict on the answer is a free value of
`Config.ecdsaVerify`, so either one goes with these states. -/
theorem test_wit_challenge : ((joinState .challenge 2).site 5).join = .challenge ∧ (List.replicate 96 (0 : Byte)).length = 96 ∧
    (joinState .challenge 2).ready = false ∧ ((joinState .challenge 2).site 5).retired = [] ∧ ((joinState .challenge 2).site 5).cert ≠ [] ∧
    (siteAt stAbsent (fun x => { x with join := .challenge, firstDigest := none })).ready = true ∧
    ((siteAt stAbsent (fun x => { x with join := .challenge, firstDigest := none })).site 5).firstDigest = none := by decide +kernel

/-- Site 5 without CXL, caching, its window table open, with a message in its inbox. -/
def kspState (r : Nat) (m : KMsg) (f : Site → Site) : State :=
  updSite 5 (fun x => f { x with inbox := [(m, 6)] }) (regs [(rSiteNStatus 5, 16)] (cxlState r))

/-- A request header at 0x10000. -/
def kreq (msg : Nat) : KMsg := { KMsg.blank with msg := msg, txn := 4095, addr := 0x10000 }

/-- An open write. -/
def openWrite (need : Nat) : OpenReq :=
  { hdr := kreq 4, data := 0, mask := 0, m0 := none, m1 := none, need := need, fenced := false, fail := 0, sent := false, outst := 0 }

/-- A request of the hub to the aperture of site 5. -/
def tgtReq (w : Bool) : TgtReq := { txn := 4095, who := .tileDma 71, key := .site 5 0, write := w, units := 1 }

theorem test_wit_requests : (serveSites (siteAt stAbsent id)).siteServes 5 = false ∧
    (∀ m ∈ [1, 2, 4], let s := serveSites (kspState 15 (kreq m) id)
      s.siteServes 5 = true ∧ ((takeInbox 5 0 (fun _ => true) s).map (·.1)) = some (kreq m, 6) ∧ s.siteCxl 5 = false ∧ s.siteCaching 5 = true ∧
        s.openOf? 5 4095 = none ∧ bit (s.rff (rSiteNPolicy 5) 15 0) 0 = true ∧ paTarget 0x10000 = .stacked 8 4096 ∧
        s.physPass 5 0x10000 128 9 = true ∧ s.physPass 5 0x10000 128 11 = true ∧ s.physPass 5 0x10000 128 2 = true) ∧
    (kspState 0 (kreq 4) id).physPass 5 0x10000 128 2 = false ∧
    ((takeInbox 5 4 (fun m => m.msg == 0x0A) (kspState 15 (kreq 0x0A) id)).isSome) = true ∧ (kspState 15 (kreq 0x0A) id).openOf? 5 4095 = none ∧
    (kspState 15 (kreq 0x0A) (fun x => { x with opens := [openWrite 2] })).openOf? 5 4095 = some (openWrite 2) ∧
    ((takeInbox 5 4 (fun m => m.msg == 0x34) (kspState 15 (kreq 0x34) (fun x => { x with tgts := [tgtReq false] }))).bind
      (fun r => takeTgt 5 4095 false r.2)).isSome = true ∧
    ((takeInbox 5 3 (fun m => m.msg == 0x27) (kspState 15 (kreq 0x27) (fun x => { x with tgts := [tgtReq true] }))).bind
      (fun r => takeTgt 5 4095 true r.2)).isSome = true ∧
    takeTgt 5 4095 false (kspState 15 (kreq 0x34) id) = none ∧ takeTgt 5 4095 true (kspState 15 (kreq 0x27) id) = none ∧
    ((kspState 15 (kreq 0) (fun x => { x with tgts := [tgtReq true] })).site 5).tgts.find? (fun q => q.txn == 4095) = some (tgtReq true) ∧
    (updSite 5 (fun x => { x with tgts := [tgtReq false] }) (cxlState 15)).siteCxl 5 = true := by decide +kernel

/-- A request of the hub whose answer comes too late, and the chiplet's words that say STATUS and something reserved. -/
theorem test_wit_late : (4095, false) ∈ (let s := kspState 15 (kreq 0x34) (fun x => { x with late := [(4095, false)] }); (s.site 5).late) ∧
    takeTgt 5 4095 false (kspState 15 (kreq 0x34) (fun x => { x with late := [(4095, false)] })) = none ∧
    (0x800004 : BitVec 64).toNat % 256 = 4 ∧ (0x800004 : BitVec 64).getLsbD 23 = true ∧ 0x13 < (0x14 : BitVec 64).toNat % 256 := by decide +kernel

theorem test_wit_site_power : (s0.site 5).clampBudget = none ∧ (siteAt stQuarantine id).status uSite 5 = stQuarantine ∧
    (1400 : BitVec 11).toNat ≤ 1400 ∧ (regs [(rSiteNCtrl 5, 2 ^ 11)] s0).rb (rSiteNCtrl 5) 11 = true ∧ (s0.site 5).opens = [] ∧ (s0.site 5).agents = [] ∧
    (∃ o ∈ ((atSite (fun x => { x with opens := [{ (openWrite 2) with fenced := true }] })).site 5).opens, o.fenced = true) ∧
    ((atSite (fun x => { x with flushing := true })).site 5).flushing = true ∧ s0.plz.owners = [] ∧ (s0.site 5).flushing = false := by
  decide +kernel

/-! ### Walks, faults and returns to service -/

/-- A walk of the DMA engine of tile 71 at the first level, and the entry it reads at 0 (`e`). -/
def walk : Walk := { num := 8, who := .tileDma 71, ctx := 7, va := 0x10000, acc := .read, level := 1, table := 0 }

/-- Walker 2 with that walk, and the state of its tables. -/
def walkState (e : Nat) (f : Walker → Walker) : State := pte 0 e (updWalker 2 f s0)

/-- The entry that the walk reads. -/
def walkRead (s : State) : Option (UnitData × Option Mark) × State := agentRead opRecord (.walker 2 walk.num) (.stacked 0 0) 0 0 s

theorem test_wit_walks : ((walkState 0x10001 (fun w => { w with walks := [walk] })).walker 2).walks[0]? = some walk ∧
    paTarget (entryAt walk.table walk.level walk.va) = .stacked 0 0 ∧
    (∀ e ∈ [0, 0x10001], (walkRead (walkState e (fun w => { w with walks := [walk] }))).1 = some (BitVec.ofNat 512 e, none)) ∧
    (walkRead (updPlz (fun p => { p with asked := [(.walker 2 8, .stacked 0 0)] }) (walkState 0 id))).1 = none ∧
    bit (bits (0 : UnitData).toNat 63 0) 0 = false ∧ formatOk 0x10001 1 = true ∧ bit 0x10001 0 = true ∧ bit 0x10001 1 = false := by
  decide +kernel

/-- A fault of that engine on the way. -/
def fault : FaultMsg := { src := 2, who := .tileDma 71, ctx := 7, va := 0x20000, acc := .write, cause := .notPresent, level := 3 }

/-- An entry of a pending-fault table. -/
def pft (st : PftState) : Pft := { st := st, ctx := 7, page := 2, seq := 4, access := 1, causes := 2, level := 3, bitmap := 2 ^ 71, wake := 1 }

theorem test_wit_fault_arrival : ((walkState 0 (fun w => { w with arriving := [fault], pft := [(255, pft .delivered)] })).walker 2).arriving = [fault] ∧
    ([(255, pft .delivered)].filter (fun e => e.2.live && e.2.ctx == fault.ctx)).find? (fun e => e.2.page == fault.va / 65536) = some (255, pft .delivered) ∧
    0 < (walkState 0 id).rf rFltCtrl 8 0 ∧ (regs [(rFltCtrl, 0)] (walkState 0 (fun w => { w with arriving := [fault] }))).rf rFltCtrl 8 0 ≤ 0 ∧
    Table.find? ((walkState 0 id).walker 2).pft 255 = none ∧ (s0.walker 2).arriving = [] := by decide +kernel

/-- Context 7 with its fault ring held, and an entry of walker 2 in that state. -/
def faultState (st : PftState) : State :=
  updCtx 7 (fun x => { x with heldFlt := some { ctx := 7, base := 0x10000, level := 3, entry := leaf 3 } })
    (updWalker 2 (fun w => { w with order := [255], pft := [(255, pft st)], noRecord := [fault] }) (ctxOnly 1))

/-- A kept record. -/
def rec : Rec := { code := 0x0801, stalling := false, device := true, ctx := 0, words := [1] }

/-- A RESUME_PAGE at that entry, with an access stalled on it. -/
def resumeState (seq : Nat) : State :=
  updXlt (fun x => { x with resumes := [(1, 2, 255)], stalled := [{ who := .tileDma 71, ctx := 7, page := 2 }] })
    { faultState .delivered with lives := [live 1 [6, 0, 0, 0, 0, 2 ^ 17, 0, 0, seq] []] }

/-- An access of the host in context 7 that is stalled. -/
def hostStalled : State :=
  updXlt (fun x => { x with stalled := [{ who := .host 127 3, ctx := 7, page := 2 }] })
    { s0 with host := { s0.host with apt := [{ id := 3, tag := 0, fn := 127, ctx := 7, va := 0x20000, len := 4, write := false, atomic := none, bytes := [], got := [] }] } }

theorem test_wit_fault_records : ((faultState .undelivered).walker 2).order = [255] ∧
    Table.find? ((faultState .undelivered).walker 2).pft 255 = some (pft .undelivered) ∧ (faultState .undelivered).fltRoom 7 = true ∧
    (fltArea 7 (faultState .undelivered)).1 = some { ctx := 7, base := 0x10000, level := 3, entry := leaf 3 } ∧ (s0.walker 2).order = [] ∧
    (fltArea 7 (faultState .undelivered)).2.heldWaits { ctx := 7, base := 0x10000, level := 3, entry := leaf 3 }
      ((fltArea 7 (faultState .undelivered)).2.fltSlot 7) 64 = false ∧
    (setReg (rCtxFltTail 7) 64 (faultState .undelivered)).fltRoom 7 = false ∧ s0.xlt.kept = [] ∧
    (regs [(rFltOpCtrl, 2 ^ 31 + 6)] s0).opOn = true ∧ (regs [(rFltOpCtrl, 2 ^ 31 + 6)] s0).opRoom = true := by decide +kernel

theorem test_wit_resume : (resumeState 4).xlt.resumes.find? (fun r => r.1 == 1) = some (1, 2, 255) ∧ ((resumeState 4).liveOf? 1).isSome = true ∧
    (pft .delivered).live = true ∧ (pft .delivered).page = wf [6, 0, 0, 0, 0, 2 ^ 17] 5 31 16 ∧ (pft .delivered).seq = 4 ∧
    bit (wd [6, 0, 0, 0, 0, 2 ^ 17, 0, 0, 4] 7) 10 = false ∧ (pft .delivered).seq ≠ 5 ∧
    Table.find? ((faultState .waking).walker 2).pft 255 = some (pft .waking) ∧ hostStalled.isStalled (.host 127 3) 7 = true ∧
    (hostStalled.apt? 3).map (·.fn) = some 127 := by decide +kernel

/-- Function 5 owns context 7 and asks to invalidate. -/
def invalState (busy : Nat) : State :=
  regs [(rCtxPolicy 7, 5), (fnKey 5 rXltInvStatus, busy)] (updXlt (fun x => { x with
    invs := if busy = 1 then [{ fn := 5, ctx := 7, whole := false, lo := 0, hi := 1 }] else []
    hostCache := [{ ctx := 7, base := 65536, level := 3, entry := leaf 2 }] }) (ctxOnly 1))

theorem test_wit_invalidate : bit (2 ^ 19 + 7) 19 = true ∧ (invalState 1).rb (fnKey 5 rXltInvStatus) 0 = true ∧
    (invalState 0).rb (fnKey 5 rXltInvStatus) 0 = false ∧ (invalState 0).owner 7 = 5 ∧ s0.owner 7 ≠ 5 ∧
    (invalState 1).xlt.invs.find? (fun v => v.fn == 5) = some { fn := 5, ctx := 7, whole := false, lo := 0, hi := 1 } ∧
    (invalState 1).ctxOutstanding 7 = false ∧
    (updPlz (fun p => { p with asked := [(.tileDma 71, .stacked 0 0)] }) (updTile 71 (fun x => { x with ctx := 7 }) (invalState 1))).ctxOutstanding 7 = true := by
  decide +kernel

theorem test_wit_fault_rings : s0.opOn = false ∧ (setRf rFltOpCtrl 3 0 6 s0).opRingOk = true ∧ (setRf rFltOpCtrl 3 0 5 s0).opRingOk = false ∧
    (s0.reg rFltOpTail + 2 ^ 32 - 0) % 2 ^ 32 < 2 ^ 31 ∧ ¬(s0.reg (rCtxFltTail 4095) + 2 ^ 32 - 1) % 2 ^ 32 < 2 ^ 31 := by decide +kernel

/-- Tile 71, alone in QUARANTINE at a step. -/
def quarState (step : Nat) (l : List Nat := [markerCode 191 4 4 true]) : State :=
  let s := units [(uTile, 71, stQuarantine)] (regs [(rMxePath 71, 4)] s0)
  { s with
    boot := { s.boot with quar := [(unitKey uTile 71, { epoch := 1, step := step, cause := 1 })] }
    net := { s.net with markers := [(unitKey uTile 71, l)] } }

theorem test_wit_retirement : s0.tileAt? 71 = some 71 ∧ s0.running = true ∧ s0.status uTile 71 ≠ stFailed ∧ s0.status uTile 71 ≠ stDisabled ∧
    s0.tileAt? 127 = none ∧ (units [(uTile, 71, stFailed)] s0).status uTile 71 = stFailed ∧ s0.status uPartition 2 ≠ stQuarantine ∧
    s0.status uPartition 2 ≠ stFailed ∧
    (Table.get Machine.PUnit.init ({ s0 with pwr := { s0.pwr with units := on [(uPartition, 3)] } } : State).pwr.units (unitKey uPartition 2)).now ≠ 3 ∧
    Table.find? ({ s0 with boot := { s0.boot with partReset := [(2, 5)] } } : State).boot.partReset 2 = some 5 ∧
    markerKey (.tile 71) = unitKey uTile 71 := by
  decide +kernel

theorem test_wit_markers : (let l := [markerCode 0 0 0 false, markerCode 191 4 4 true];
      Table.find? (quarState 2 l).net.markers (markerKey (.tile 71)) = some l ∧ markerCode 191 4 4 true ∈ l ∧ l.erase (markerCode 191 4 4 true) ≠ []) ∧
    markerCode 0 0 0 false ∉ [markerCode 191 4 4 true] ∧
    (quarState 2).markerBehind ((quarState 2).quarGroup (.tile 71)) 191 4 4 true = false := by
  decide +kernel

theorem test_wit_quarantine : (quarState 2).status uTile 71 = stQuarantine ∧ (quarState 2).status uPartition (tilePart 71) ≠ stQuarantine ∧
    Table.find? (quarState 2).net.markers (unitKey uTile 71) = some [markerCode 191 4 4 true] ∧
    (quarState 2).markerBehind [(uTile, 71)] 191 4 4 true = false ∧ (quarState 2).quarStep uTile 71 = 2 ∧
    Table.find? (quarState 1).boot.quar (unitKey uTile 71) ≠ none ∧ (quarState 1).quarStep uTile 71 < 2 ∧ (quarState 1).boot.shadow = [] ∧
    (quarState 3).quarStep uTile 71 = 3 := by decide +kernel

/-! ### Fabric -/

/-- A fabric message from node 3. -/
def kfl (msg : Nat) (f : KflMsg → KflMsg := id) : KflMsg :=
  f { msg := msg, len := 1, cls := 0, vl := 0, fmt := 0, hops := 63, dst := 9, src := 3, w2 := 0, w3 := 0, payload := [5], marks := [none] }

/-- Port 15 in a state, at width 8 when it is UP, with that message arrived, in a package of node 9. -/
def fabState (st : Nat) (ms : List KflMsg) (f : FabPort → FabPort := id) : State :=
  regs [(rFabPortNStatus 15, st + (if st = 0 then 32 else 0) + 2 ^ 6 * 255), (rFabNode, 9)] (updPort 15 f
    { s0 with fab := { s0.fab with arriving := ms.map (fun m => (15, m)) } })

/-- The DISABLE of port 15 comes into force at a retrain. -/
def offAtRetrain (s : State) : Bool := (applyKey .linkRetrain (rFabPortNCtrl 15) s).rff (rFabPortNCtrl 15) 1 1 == 1

/-- The fields of a fabric flit that carries slots. -/
def kflit (ms : List KflMsg) : KflFlit :=
  { seq := 2 ^ 16 - 1, ack := 0, idle := false, nak := false, first := 0, credits := [], slots := ms.flatMap kflSlots, ends := [] }

theorem crcBits_lt (n : Nat) : ∀ c : Nat, c < 2 ^ 32 → crcBits n c < 2 ^ 32 := by
  induction n with
  | zero => exact fun c h => h
  | succ n ih =>
    intro c h
    refine ih _ ?_
    split
    · exact Nat.xor_lt_two_pow (by omega) (by omega)
    · omega

theorem crcBytes_lt (n : Nat) : ∀ v c : Nat, c < 2 ^ 32 → crcBytes n v c < 2 ^ 32 := by
  induction n with
  | zero => exact fun _ c h => Nat.xor_lt_two_pow h (by omega)
  | succ n ih => exact fun v c h => ih _ _ (crcBits_lt 8 _ (Nat.xor_lt_two_pow h (by omega)))

/-- The fields that 636 bytes spell. -/
def kflFields (body : Nat) : Nat × KflFlit :=
  (bits body 33 32,
    { seq := bits body 15 0, ack := bits body 31 16, idle := bits body 33 32 == 0, nak := bit body 34, first := bits body 41 36,
      credits := [(bits body 67 64, bits body 79 68), (bits body 83 80, bits body 95 84)].filter (fun c => decide (c.1 < 7)),
      slots := (List.range 39).map (fun i => body / 2 ^ (96 + 128 * i) % 2 ^ 128), ends := [] })

/-- 636 bytes with their CRC, or with its bits turned by `x`. -/
def kflBytes (body x : Nat) : BitVec 5120 := BitVec.ofNat 5120 (body + 2 ^ 5088 * (flitCrc body ^^^ x))

theorem split_below (m n b c : Nat) (h : b < 2 ^ m) (hc : c < 2 ^ n) : b + 2 ^ m * c < 2 ^ (m + n) := by
  have := Nat.mul_le_mul_left (2 ^ m) (Nat.succ_le_of_lt hc)
  rw [Nat.mul_succ] at this
  rw [Nat.pow_add]
  omega

theorem ofNat_split (m n b c : Nat) (h : b < 2 ^ m) (hc : c < 2 ^ n) :
    (BitVec.ofNat (m + n) (b + 2 ^ m * c)).toNat / 2 ^ m = c ∧ (BitVec.ofNat (m + n) (b + 2 ^ m * c)).toNat % 2 ^ m = b := by
  rw [BitVec.toNat_ofNat, Nat.mod_eq_of_lt (split_below m n b c h hc)]
  constructor
  · rw [Nat.add_mul_div_left _ _ (Nat.two_pow_pos m), Nat.div_eq_of_lt h, Nat.zero_add]
  · rw [Nat.add_mul_mod_self_left, Nat.mod_eq_of_lt h]

theorem kflBytes_split (body x : Nat) (h : body < 2 ^ 5088) (hx : x < 2 ^ 32) :
    (kflBytes body x).toNat / 2 ^ 5088 = flitCrc body ^^^ x ∧ (kflBytes body x).toNat % 2 ^ 5088 = body :=
  ofNat_split 5088 32 body _ h (Nat.xor_lt_two_pow (crcBytes_lt _ _ _ (by decide)) hx)

/-- A flit whose CRC is wrong spells none. -/
theorem kflBytes_bad (body : Nat) (h : body < 2 ^ 5088) : kflFlitOf? (kflBytes body 1) = none := by
  obtain ⟨hd, hm⟩ := kflBytes_split body 1 h (by decide)
  rw [kflFlitOf?, hd, hm]
  refine if_pos fun e => ?_
  have := congrArg (fun n => n.testBit 0) e
  simp at this
  omega

theorem bits_low (v hi lo : Nat) (h : hi < 5088) : bits v hi lo = bits (v % 2 ^ 5088) hi lo := by
  apply Nat.eq_of_testBit_eq
  intro i
  simp only [bits, Nat.testBit_mod_two_pow, Nat.testBit_div_two_pow]
  by_cases hi : i < hi + 1 - lo
  · have : i + lo < 5088 := by omega
    simp [hi, this]
  · simp [hi]

/-- A flit whose CRC holds spells its fields. -/
theorem kflBytes_good (body : Nat) (h : body < 2 ^ 5088) : kflFlitOf? (kflBytes body 0) = some (kflFields body) := by
  obtain ⟨hd, hm⟩ := kflBytes_split body 0 h (by decide)
  rw [kflFlitOf?, hd, hm, if_neg (by simp), kflFields]
  have hb : (kflBytes body 0).toNat / 2 ^ 34 % 2 = body / 2 ^ 34 % 2 := by
    have := bits_low (kflBytes body 0).toNat 34 34 (by decide)
    rw [hm] at this
    exact this
  simp only [bit, hb, bits_low (kflBytes body 0).toNat _ _ (by decide : 15 < 5088), bits_low (kflBytes body 0).toNat _ _ (by decide : 31 < 5088),
    bits_low (kflBytes body 0).toNat _ _ (by decide : 33 < 5088),
    bits_low (kflBytes body 0).toNat _ _ (by decide : 41 < 5088), bits_low (kflBytes body 0).toNat _ _ (by decide : 67 < 5088),
    bits_low (kflBytes body 0).toNat _ _ (by decide : 79 < 5088), bits_low (kflBytes body 0).toNat _ _ (by decide : 83 < 5088),
    bits_low (kflBytes body 0).toNat _ _ (by decide : 95 < 5088), hm]

/-- A flit of WR, one of FTYPE 2, and the bytes of both before their CRC, are what a witness of the link's rules needs. -/
theorem test_wit_fabric_flits : (let x := kflFields (kflFlitBody (kflit [kfl 2]))
      x.1 = 1 ∧ x.2.seq = 2 ^ 16 - 1 ∧ x.2.nak = false ∧ kflParse 72 (x.2.slots.drop x.2.first) = ([kfl 2], [])) ∧
    (kflFields (kflFlitBody (kflit []) + 2 ^ 32)).1 = 2 ∧ kflFlitBody (kflit [kfl 2]) < 2 ^ 5088 ∧ kflFlitBody (kflit []) + 2 ^ 32 < 2 ^ 5088 ∧
    kflKnown 2 = true := by decide +kernel

theorem test_wit_fabric_links : (fabState 2 []).portDown 15 = true ∧ (fabState 0 []).portDown 15 = false ∧
    ((fabState 0 [] (fun x => { x with naks := 14 })).port 15).naks < 15 ∧ ((fabState 0 []).port 15).held = [] ∧ ((fabState 0 []).port 15).tx = [] ∧
    ((fabState 0 []).port 15).part = [] ∧ ((fabState 0 [] (fun x => { x with rxSeq := 2 ^ 16 - 1 })).port 15).rxSeq = (kflit []).seq ∧
    ((fabState 0 []).port 15).rxSeq ≠ (kflit []).seq ∧ ((fabState 0 [] (fun x => { x with naksRx := 14 })).port 15).naksRx < 15 ∧
    (fabState 0 []).portState 15 = 0 ∧ (fabState 0 []).portWidth 15 ≠ 0 ∧ offAtRetrain (fabState 0 []) = false ∧
    bit ((fabState 0 []).rf (rFabPortNStatus 15) 13 6) 7 = true ∧ 2 ^ 36 < (2 ^ 36 / 10000 + 1) * 10000 ∧ (2 ^ 36 / 10000) * 10000 ≤ 2 ^ 36 ∧
    ((kflTake 15 0x32 (fabState 0 [kfl 0x32])).map (·.1)) = some (kfl 0x32) := by decide +kernel

theorem test_wit_fabric_trainings : ((fabState 2 [] (fun x => { x with cause := ccNoPeer })).port 15).cause = ccNoPeer ∧ (fabState 2 []).portState 15 = 2 ∧
    (fabState 2 []).portWidth 15 = 0 ∧ offAtRetrain (fabState 2 []) = false ∧ (fabState 2 []).running = true ∧ (fabState 1 []).portState 15 = 1 ∧
    planWidth ((fabState 1 []).rf (rFabPortNStatus 15) 13 6 &&& ((fabState 1 []).port 15).peerPlan) = 8 ∧
    planWidth ((fabState 1 [] (fun x => { x with peerPlan := 0x55 })).rf (rFabPortNStatus 15) 13 6 &&& 0x55) = 0 := by decide +kernel

/-- Window 4095 admits reads and writes of node 3 in 64 KiB at 0x10000. -/
def winState (m : KflMsg) (open' : Nat) : State :=
  regs [(rFabWinWCtrl 4095, open' * 0x1D), (rFabWinWSrc 4095, 2 ^ 32 - 2 ^ 16 + 3), (rFabWinWBaseLo 4095, 0x10000), (rFabWinWSize 4095, 1)]
    (fabState 0 [m])

/-- A request through that window. -/
def winReq (msg : Nat) : KflMsg := kfl msg (fun m => { m with w2 := 2 ^ 16 * 4095 })

theorem test_wit_fabric_requests : ∀ c ∈ [1, 2, 3, 4], kflTake 15 c (fabState 0 []) = none ∧
    ((kflTake 15 c (winState (winReq c) 0)).map (fun r => (r.1, (routeKfl 15 r.1 r.2).1, r.2.winAdmits r.1))) = some (winReq c, true, false) ∧
    ((kflTake 15 c (winState (kfl c (fun m => { m with dst := 8 })) 0)).map (fun r => (routeKfl 15 r.1 r.2).1)) = some false := by
  decide +kernel

theorem test_wit_fabric_windows : (∀ c ∈ [1, 2, 3], (winState (winReq c) 1).winAdmits (winReq c) = true) ∧ (fabState 0 []).rf rFabNode 15 0 ≠ 0xFFFF ∧
    (regs [(rFabCtrl, 2 ^ 14)] { fabState 0 [] with fab := { (fabState 0 []).fab with routes := [(2 ^ 16 * 15 + 8, 15)] } }).routeOut? 15 8 = some 15 ∧
    (regs [(rFabCtrl, 2 ^ 14)] (fabState 0 [])).rb rFabCtrl 14 = true := by decide +kernel

/-- Request 4095 of port 15 is out. -/
def fabReq (w : Bool) : FabReq := { who := .tileDma 71, key := .remote 3 0 0, write := w, units := 1 }

/-- That state, with an answer that has arrived. -/
def reqState (w : Bool) (m : KflMsg) : State := fabState 0 [m] (fun x => { x with table := [(4095, fabReq w)] })

/-- An admitted read of context 7 that is stalled. -/
def winStalled : State :=
  updXlt (fun x => { x with stalled := [{ who := .fabWin 15 4095 2, ctx := 7, page := 0 }] }) (fabState 0 [] (fun x => { x with
    winReqs := [{ id := 2, msg := winReq 1, win := 4095, ctx := some 7, addr := 0, hint := 0, cls := 0, fenced := false, todo := [0], outst := 0, fail := 0, got := [] }] }))

theorem test_wit_fabric_answers : (∀ w ∈ [(0x11, false), (0x12, true)], let m := kfl w.1 (fun m => { m with w2 := 2 ^ 16 - 1 })
      ((kflTake 15 w.1 (reqState w.2 m)).map (fun r => ((routeKfl 15 r.1 r.2).1, Table.find? (r.2.port 15).table 4095))) = some (true, some (fabReq w.2))) ∧
    Table.find? ((reqState true (kfl 0x12)).port 0).table 0 = none ∧ (winStalled.winReq? 15 2).bind (·.ctx) = some 7 ∧
    winStalled.isStalled (.fabWin 15 4095 2) 7 = true ∧ (updXlt (fun x => { x with stalled := [] }) winStalled).isStalled (.fabWin 15 4095 2) 7 = false := by
  decide +kernel

theorem test_wit_fabric_control : ((kflTake 15 0x31 (fabState 0 [kfl 0x31])).map (fun r => (r.2.port 15).peerNode)) = some none ∧
    (kfl 0x31).src < 2 ^ 16 ∧ (fabState 1 []).portState 15 ≠ 0 ∧ (∀ n, n < 16 → s0.portState n ≠ 0) ∧ s0.rf rFabRtSel 20 16 ≤ 16 ∧ bits 15 5 0 ≠ 31 ∧
    (regs [(rFabCtrl, 2 ^ 13)] s0).rb rFabCtrl 13 = true ∧ (∀ p, p < 16 → (s0.port p).winReqs = []) ∧
    (∃ r ∈ ((updPort 15 (fun x => { x with winReqs := x.winReqs.map (fun r => { r with fenced := true }) }) winStalled).port 15).winReqs, r.fenced = true) := by
  decide +kernel

/-- A RED message of group 9 on port 0, the parent of the armed group of `reduceState`. -/
def red (msg : Nat) (f : KflMsg → KflMsg := id) : KflMsg := kfl msg (fun m => f { m with w2 := 9 })

/-- That state with the message. -/
def redState (gs : List Group) (m : KflMsg) : State :=
  let s := regs [(rFabNode, 9)] (reduceState [] gs)
  { s with fab := { s.fab with arriving := [(0, m)] } }

/-- The group's parameters. -/
def redPar : UnitData := BitVec.ofNat 512 (readyParams reduceLive (redGroup 0 true id))

theorem test_wit_red : (∀ c ∈ [0x21, 0x22, 0x23], ((kflTake 0 c (redState [redGroup 0 true id] (red c))).map (fun r => (r.1, (r.2.armedGroup? 9).isSome))) = some (red c, true)) ∧
    ((kflTake 0 0x22 (redState [] (red 0x22))).map (fun r => (r.2.armedGroup? 9).isSome)) = some false ∧ (redGroup 0 true id).wrote = bits (red 0x21).w3 20 0 ∧
    redPar.toNat % 2 ^ 128 = readyParams reduceLive (redGroup 0 true id) ∧ (redGroup 0 true id).wrote < redChunks reduceLive ∧ bit (9 + 2 ^ 16) 16 = true ∧
    rdParent (redGroup 0 true id).words = 0 ∧ (rdTree (redGroup 0 true id).words).contains 0 = true ∧ (rdTree (redGroup 1 true id).words).contains 0 = false ∧
    (((writeTargets (.reduce 15 1) 7 (chunkPieces (chunkSpan (redVa reduceLive 7) true reduceLive 0).1 (chunkSpan (redVa reduceLive 7) true reduceLive 0).2)
      (redState [redGroup 0 true id] (red 0x21))).1).map (·.length)) = some 1 := by decide +kernel

/-! ### Messages and the host -/

/-- The hub with one message out, a unit asked for or not, and a forwarded request 4095 of a tile. -/
def msgState (m : CMsg) (asked : Bool) : State :=
  updPlz (fun p => { p with
      msgs := [m]
      asked := if asked then [(.tileDma 71, unitTgt hLine 1)] else []
      fwds := [{ num := 4095, req := .agent (.tileDma 71) 1, line := hLine, comp := false, got0 := none, got1 := none }] })
    (answer { (kmsg 0x31) with txn := 7 } snooped [])

/-- DATA for unit 1. -/
def dataMsg (r : Req) : CMsg := .data r hLine (BitVec.ofNat 1024 (2 ^ 512 * 9 + 5)) none (some absentMark) .s

/-- Site 5 awaits COMP too. -/
def needsComp (s : State) : State := updSite 5 (fun x => { x with agents := x.agents.map (fun a => { a with needComp := true }) }) s

theorem test_wit_messages : (∀ b ∈ [true, false], let s := msgState (dataMsg (.agent (.tileDma 71) 1)) b
      s.msgAt? .data 0 = some (dataMsg (.agent (.tileDma 71) 1)) ∧ s.plz.asked.contains (.tileDma 71, unitTgt hLine 1) = b) ∧
    (needsComp (msgState (dataMsg (.site 5 9)) false)).msgAt? .data 0 = some (dataMsg (.site 5 9)) ∧
    (((needsComp (msgState (dataMsg (.site 5 9)) false)).site 5).agents.find? (fun a => a.txn == 9)).map
      (fun a => (a.cxl, a.needComp, a.gotComp, a.gotData)) = some (true, true, false, false) ∧
    ((takeInbox 5 4 (fun m => m.msg == 0x31) (msgState (dataMsg .none) false)).map (fun r => (r.1, r.2.plz.fwds.find? (fun f => f.num == r.1.1.txn)))) =
      some (({ (kmsg 0x31) with txn := 7 }, 6), none) ∧
    (msgState (.comp (.agent (.tileDma 71) 1) hLine 8191 (some absentMark)) true).msgAt? .comp 0 =
      some (.comp (.agent (.tileDma 71) 1) hLine 8191 (some absentMark)) ∧
    ((msgState (.wrAck .none hLine 0) true).plz.fwds.find? (fun f => f.num == 8191 % 4096)).isSome = true ∧
    (msgState (.wrAck (.agent (.tileDma 71) 0) hLine 4) true).msgAt? .wrAck 0 = some (.wrAck (.agent (.tileDma 71) 0) hLine 4) ∧
    (msgState (.wrAck (.site 5 9) hLine 0) true).msgAt? .wrAck 0 = some (.wrAck (.site 5 9) hLine 0) ∧
    ((msgState (.wrAck (.site 5 9) hLine 0) true).site 5).agents.any (fun a => a.txn == 9 && a.cxl) = true := by decide +kernel

theorem test_wit_no_push : ∀ n lk t d m0 m1, CMsg.stash n lk t d m0 m1 ∉ (msgState (.wrAck (.site 5 9) hLine 0) true).plz.msgs := by
  intro n lk t d m0 m1 h; simp [msgState, answer, updPlz, updSite] at h

theorem test_wit_calmed : s0.Calmed := by
  refine ⟨by decide +kernel, fun n h => ?_, fun p h => ?_, by decide +kernel⟩
  · revert n; decide +kernel
  · revert p; decide +kernel

/-- Function `f` in a state. -/
def fnState (f : Nat) (g : Machine.Fn → Machine.Fn) (s : State := s0) : State :=
  updFn f (fun x => g { x with present := true, mse := true, bme := true }) (regs [(rHifStatus, 271)] s)

/-- A read of function 127 with tag 16383 is out. -/
def readState : State :=
  let s := fnState 127 id
  updPlz (fun p => { p with asked := [(.tileDma 71, .host 127 (2 ^ 64 - 64))] }) { s with host := { s.host with
    reads := [{ tag := 16383, fn := 127, who := .tileDma 71, key := .host 127 (2 ^ 64 - 64), units := 1 }], retired := [0] } }

/-- The port contained. -/
def contained (s : State) : State := regs [(rHifStatus, s.reg rHifStatus + 2 ^ 9)] s

theorem test_wit_host_reads : (readState.host.reads.find? (fun r => r.tag == 16383)).isSome = true ∧ (∀ r ∈ readState.host.reads, r.tag ≠ 0) ∧
    0 ∈ readState.host.retired ∧ 1 ∉ readState.host.retired ∧ readState.rb rHifStatus 9 = false ∧
    (∀ f, f < 128 → (readState.fn f).stream ≠ some 7) ∧ readState.rb rHifStatus 0 = true ∧ s0.rb rHifStatus 9 = false ∧ s0.rb rHifStatus 0 = false ∧
    (contained readState).errorsOpen = false ∧ (contained readState).rb rHifStatus 10 = false ∧ (contained readState).rb rHifStatus 9 = true := by
  decide +kernel

theorem test_wit_flr : (∀ f ∈ [1, 127], ((fnState f id).fn f).present = true ∧ ((fnState f id).fn f).flr = false ∧ (fnState f id).liveCtxs f = [] ∧
      (fnState f id).host.reads = []) ∧ (s0.fn 1).present = false ∧
    let s := fnState 127 (fun x => { x with flr := true })
    (s.fn 127).flr = true ∧ (s.fn 0).flr = false ∧ s.liveCtxs 127 = [] ∧ (s.fn 127).recorded = [] ∧ s.rb rHifStatus 9 = false := by
  decide +kernel

theorem test_wit_functions : s0.ready = true ∧ 63 < vectors 127 ∧ ((fnState 127 id).fn 127).pba = [] ∧ (stageAt 6).ready = false ∧
    ((fnState 0 id).fn 0).present = true ∧ s0.boot.reset ≠ .held ∧ s0.sec.lcMove = none ∧ State.reset.boot.reset = .held ∧ s0.running = true ∧
    State.reset.running = false := by decide +kernel

theorem test_tags : readState.tagCount = 2 ^ 14 ∧ (s0.tagCount = 2 ^ 10) ∧ freeTag [1023, 0] 1024 3 1023 = some 1 ∧ readState.readTag? = some 1 := by
  decide +kernel

theorem test_flr_writes : lastWrites [.bme true, .mse true, .bme false] = [.mse true, .bme false] ∧
    pinsBack { s0 with pins := { s0.pins with thermtripLow := true } } = [.pin "GPIO2" 0, .pin "THERMTRIP_N" 1] := by decide +kernel

/-- A request of function 127. -/
def tlp (p : Bool) : HostTlp := { fn := 127, tag := 16383, stream := none, poisoned := p }

/-- Slot 15 of function 127 opens context 7, with writes. -/
def aptState (s : State) : State :=
  regs [(fnKey 127 (rAptSCtrl 15), 31), (rCtxPolicy 7, 127), (rCtxStatus 7, 1)] s

theorem test_wit_host_accesses : let s := aptState (fnState 127 id)
    s.serves (tlp false) false = .yes ∧ s.aptSlot? 127 (2 ^ 26 * 15 + 4) false = some (7, 4) ∧ s.aptSlot? 127 (2 ^ 26 * 15 + 4) true = some (7, 4) ∧
    s.aptSlot? 127 (2 ^ 26 * 16) false = none ∧ s0.serves (tlp false) false = .ur ∧ (contained s).serves (tlp false) false = .ca ∧
    s.serves (tlp false) true = .yes ∧ hostAtomicOk 2 16 = true ∧ hostAtomicOk 0 16 = false := by decide +kernel

/-! ### Registers, the bulk window, debug, the mailbox and the ports -/

/-- The physical function, with clear-on-read contents at a key. -/
def rcState (k : Nat) (r : RcReg) (l : List (Nat × Nat)) : State :=
  setRc 0 k r (regs l (fnState 0 id { s0 with pins := { s0.pins with gpio3Low := true } }))

/-- Contents with two event numbers, latched or not. -/
def rcReg (val : Nat) (latched : Bool) : RcReg :=
  { val := val, seq := 2 ^ 16 - 1, fieldSeq := [(1, 3), (0, 2 ^ 16 - 1)], latched := if latched then some (2 ^ 16 - 1, val) else none }

/-- The clear-on-read fields of a register. -/
def rcFields (k : Nat) : List FieldInfo := (regFields (k % 2 ^ 30)).filter (fun x => x.acc == .rc)

theorem test_wit_rc : ∀ k ∈ [rSvcStatus, rRegStatus, rCtxFltTail 4095 + 4, rHifFnFStatus 127],
    let s := rcState k (rcReg 3 true) [(rRegCompat, 1)]
    s.mmio 0 = true ∧ s.ready = true ∧ s.sqMode 0 = true ∧ (rcState k (rcReg 3 false) []).sqMode 0 = false ∧ rcFields k ≠ [] ∧
    s.locate 0 k = some (k, false) ∧ (s.rcReg 0 k).latched = some (2 ^ 16 - 1, 3) ∧ s.counterDead k = false := by decide +kernel

theorem test_wit_rc_mismatch : ∀ v, ((rcState rSvcStatus (rcReg 3 true) [(rRegCompat, 1)]).rcReg 0 rSvcStatus).latched ≠ some (7, v) := by
  intro v h
  rw [(test_wit_rc rSvcStatus (by simp)).2.2.2.2.2.2.1] at h
  simp at h

/-- A write of four bytes. -/
def four (n : Nat) : List Byte := natToBytes 4 n

/-- The function's window on an area. -/
def bulkState (f area addr : Nat) (l : List (Nat × Nat) := []) (s : State := s0) : State :=
  regs ([(fnKey f rBulkSel, 8 + area), (fnKey f rBulkAddrLo, addr)] ++ l) (fnState f id s)

theorem test_wit_rc_none : s0.mmio 0 = false ∧ (rcState 0 (rcReg 0 false) []).locate 0 (2 ^ 26 - 4) = none ∧ rcFields 0xA0008 ≠ [] ∧
    (units [(uTile, 0, stDisabled)] (rcState 0 (rcReg 0 false) [])).counterDead 0xA0008 = true ∧
    (fnState 127 id).serves (tlp false) true = .yes ∧ hostDomain 0 = false ∧ ((aptState (fnState 127 id)).locate 127 (128 * 7 + 8)).isSome = true ∧
    s0.serves (tlp false) true ≠ .yes ∧ hostDomain 0xFFFFC = true := by decide +kernel

theorem test_wit_register_writes : (fnState 0 id (stageAt 5)).mmio 0 = true ∧ (fnState 0 id (stageAt 5)).ready = false ∧ bootOffset 0 = false ∧
    (fnState 127 id).locate 127 0x100000 = none ∧ (fnState 0 id).locate 0 rPlzCtrl = some (rPlzCtrl, false) ∧
    (fnState 0 id).locate 0 rSvcStatus = some (rSvcStatus, false) ∧ (regFields rSvcStatus).any (fun x => x.acc == .rc) = true ∧
    (regFields rPlzCtrl).any (fun x => x.acc == .rc) = false ∧ s0.gatesOpen = [] ∧ (∀ x ∈ regFields rMemCtrl, x.lo ≤ x.hi ∧ x.hi < 32) ∧
    (regFields rMemCtrl).Pairwise (fun x y => x.hi < y.lo ∨ y.hi < x.lo) := by decide +kernel

theorem test_wit_bulk : (∀ f ∈ [0, 127], (bulkState f 2 0).mmio f = true) ∧ (bulkState 127 2 0).bulkFail 127 2400 4 false = some 0 ∧
    (bulkState 127 2 0).bulkFail 127 2396 4 false = none ∧ (bulkState 127 2 0).bulkFail 127 0 4 true = some 1 ∧
    (bulkState 127 1 0).areaOpen 127 ((bulkState 127 1 0).bulkArea 127) = false ∧ (bulkState 127 2 0).serves (tlp false) true = .yes ∧
    (contained (bulkState 127 2 0)).serves (tlp false) true = .ca ∧ burstOk (0xD0000 + 4092) 4 = true ∧ burstOk (0xD0000 + 4092) 8 = false ∧
    (readBulkData 127 (bulkState 127 2 0)).1.isSome = true ∧
    (readBulkData 0 (bulkState 0 3 0x40 [(rSecDebug, 1)] (setPline 0 { PLine.init with sharedOut := true } s0))).1.isSome = true := by decide +kernel

/-- A tile that the debugger holds. -/
def haltedState : State := regs [(rSecDebug, 1)] (updTile 71 (fun x => { x with stall := .halted, ir := some (1, 2) }) s0)

theorem test_wit_debug : haltedState.tileHalted 71 = true ∧ s0.tileHalted 71 = false ∧ s0.inService uSite 5 = true ∧ s0.outBusy 5 = false ∧
    (regs [(rBulkMboxStatus, 32)] s0).outBusy 5 = true ∧ s0.status uSite 5 ≠ stEmpty ∧ s0.rb rBulkMboxStatus 11 = false ∧
    (regs [(rBulkMboxStatus, 2 ^ 11)] s0).rb rBulkMboxStatus 11 = true ∧ s0.gatesOpen = [] ∧ (regs [(rSecGateOpenHi, 2 ^ 15)] s0).gatesOpen ≠ [] ∧
    s0.i3cUp = true ∧ s0.pins.i3cAddr = none ∧ s0.i3cWord? 0x14 = none ∧ (s0.i3cWord? 0x10).isSome = true ∧ (stageAt 0).i3cUp = false := by
  decide +kernel

/-! ### The network and the counters -/

/-- The network in service, with the Crossing links of `l`. -/
def netState (l : Nat) (f : Machine.Net → Machine.Net := id) : State :=
  regs [(rNocStatus, l), (rHifStatus, 1)] { s0 with net := f { s0.net with started := true } }

/-- A packet of tile 1 to tile 71. -/
def packet (msg : PktMsg) (point : Option (Fin 113)) : Packet :=
  { src := 100, dst := 660, point := point, msg := msg, ctx := 4095, device := false, cls := 15, dotFast := false, epoch := 0, colour := false,
    urg := 3, standing := .system, poison := 0 }

theorem test_wit_routes : (netState 0xFFFF).pktRoute 0 191 ≠ [] ∧ (netState 0x8001).pktRoute 0 191 = [] ∧
    ((netState 0x8080).pktRoute 0 23).length = 38 ∧ (netState 0x8080).rowOk 0 23 7 = true ∧ (netState 0).pktRoute 0 7 ≠ [] := by decide +kernel

theorem test_wit_packets : (netState 0xFFFF).net.started = true ∧ (netState 0xFFFF).rb rNocStatus 16 = false ∧ (netState 0xFFFF).net.waiting = [] ∧
    (attUnit? 100).isSome = true ∧ (attUnit? 660).isSome = true ∧ (attUnit? 767) = none ∧ isRequest .wrFull = true ∧ isRequest (.data 2) = false ∧
    (netState 0xFFFF).routeOf (packet .wrFull none) ≠ [] ∧ (netState 0).routeOf (packet .wrFull none) = [] ∧
    ((netState 0xFFFF (fun x => { x with seen := [packet .rdUnique none] })).causeOf { (packet (.data 2) none) with src := 660, dst := 100 } (some (0, true))) =
      some (packet .rdUnique none) ∧
    ((netState 0xFFFF).causeOf (packet (.data 2) none) (some (0, true))) = none := by decide +kernel

/-- A buffer in which no packet stands has a credit. -/
theorem bufferFree_of_empty (s : State) (b : Nat) (h : s.net.packets.filter (fun t => bufferOf t == b) = []) : s.bufferFree b = true := by
  simp [State.bufferFree, bufferDepth, h]

/-- The packet on its way at router `r`, with the routers ahead. -/
def transit (r port : Nat) (l : List Nat) (m : PktMsg) : Transit :=
  { pkt := packet m none, plane := 2, here := r, port := port, ahead := l, legA := 0, phaseA := false, beganA := false, aged := false }

/-- The network with packets under way; tile 71 has tag `t`, status `st` and `n` writes absorbed. -/
def transitState (l : List Transit) (t st n : Nat) : State :=
  units [(uTile, 71, st)] (netState 0xFFFF (fun x => { x with
    packets := l
    tags := [(unitKey uTile 1, t)]
    absorbed := [(660, n)] }))

/-- The last router of a packet to attachment 660. -/
def ejecting (m : PktMsg) (t st n : Nat) : State := transitState [transit 165 0 [] m] t st n

theorem test_wit_link_choice : (transitState [transit 141 0 [165] .wrFull] 1 stGood 0).linkChoice 141 (portTo 141 165) 2 = some 0 := by
  have h : (transitState [transit 141 0 [165] .wrFull] 1 stGood 0).askers 141 (portTo 141 165) 2 = [0] := by decide +kernel
  have hb := bufferFree_of_empty (transitState [transit 141 0 [165] .wrFull] 1 stGood 0) (bufferOf (nextBuffer (transit 141 0 [165] .wrFull)))
    (by decide +kernel)
  have hp : (transitState [transit 141 0 [165] .wrFull] 1 stGood 0).net.packets[0]? = some (transit 141 0 [165] .wrFull) := rfl
  rw [State.linkChoice, h]
  simp [hp, hb, bestOf]

theorem test_wit_eject : (ejecting .wrFull 2 stGood 0).ejectChoice 660 2 false = some 0 ∧ (ejecting .rdUnique 1 stGood 0).ejectChoice 660 2 true = none ∧
    (ejecting .wrFull 2 stGood 0).stale (packet .wrFull none) = true ∧
    (ejecting .wrFull 1 stGood 0).stale (packet .wrFull none) = false ∧ (ejecting .wrFull 1 stGood 0).isolated 660 0 = false ∧
    (ejecting .wrFull 1 stFailed 0).isolated 660 0 = true ∧ isAbsorbedWrite .wrFull = true ∧ isAbsorbedWrite .rdUnique = false ∧
    (ejecting .wrFull 1 stGood 0).net.packets[0]? = some (transit 165 0 [] .wrFull) ∧
    Table.get 0 (ejecting .wrFull 1 stFailed 3).net.absorbed 660 = 3 := by decide +kernel

theorem test_wit_network_failures : (netState 0xFFFF).ready = true ∧ (netState 0x1FFFF).rb rNocStatus 16 = true ∧ s0.running = true ∧
    (ejecting .wrFull 1 stGood 0).net.packets[0]? = some (transit 165 0 [] .wrFull) ∧ (ejecting .wrFull 1 stGood 0).net.packets.length ≤ 1 ∧
    linksOf [7 + 24, 8 + 24] = [(0, 1)] ∧ (∀ t ∈ (ejecting .wrFull 1 stGood 0).net.packets, (0, 1) ∉ linksOf (t.here :: t.ahead)) ∧
    (netState 0xFFFF).isolated 660 4 = false ∧ attUnit? 660 = some (uTile, 71) ∧ (netState 0xFFFF).isolated 765 4 = false ∧
    (netState 0xFFFF).linksLeft 1 = [0, 1, 2, 3, 4, 5, 6, 7] ∧ (netState 0x8000).linksLeft 1 = [7] ∧ 7 ∉ (netState 0x100).linksLeft 1 ∧
    (1, 7) ∈ (netState 0xFFFF (fun x => { x with heldLinks := [(1, 7)] })).net.heldLinks := by decide +kernel

/-- Point 112 has a budget of one for class 15, guaranteed or not. -/
def budgetState (g : Nat) : State :=
  regs [(rQosBudgetNK 112 7, 2 ^ 16), (rQosGuaranteed, g), (rQosCapR 61, 100), (rQosResRK 61 7, 101 * 2 ^ 16 + 60), (rQosResRK 61 0, 41),
    (rQosClassCCtrl 15, 16), (rQosClassCCtrl 14, 17), (rQosClassCCtrl 0, 31)] (netState 0xFFFF)

theorem test_wit_guarantees : (budgetState 0).budget 112 15 * 256 = 256 ∧ (budgetState 0).charge 112 15 = 0 ∧
    (budgetState 0).rb rQosGuaranteed 15 = false ∧ (budgetState 0).net.started = true ∧
    (budgetState 0).budget 112 14 * 256 ≤ (budgetState 0).charge 112 14 ∧ s0.net.started = false ∧
    (budgetState 0).guarantees = ([14], [(15, 61), (0, 61)]) := by decide +kernel

/-- A snapshot in progress, with what has latched and reported. -/
def snapState (l rep : List Nat) : State :=
  { (regs [(rSnapStatus, 1)] (netState 0xFFFF)) with
    cnt := { s0.cnt with
      seqRun := 6
      run := some { latched := l, reported := rep, arrived := [], sels := [] }
      val := [(352 * 16 + 7, 9)] }
    lives := [{ (live 1 [] []) with opcode := 5, started := true, snapFrom := 6 }, live 2 [] [3]] }

theorem test_wit_counters : (352 * 1 < 353) ∧ (snapState [] []).cnt.run.isSome = true ∧ inChannels 352 ≠ [] ∧
    (∀ j, j < 8 → Table.find? ((snapState [] []).cnt.bank 6) (352 * 16 + j) = none) ∧
    bits (s0.inForce (rCntBBwCtrl 352)) 5 5 = 0 ∧ bits ((regs [(rCntBBwCtrl 352, 32)] s0).inForce (rCntBBwCtrl 352)) 5 5 ≠ 0 ∧
    (∀ b, b < 353 → b ∈ List.range 353) ∧ s0.cnt.run = none ∧ (s0.running = true ∧ s0.rb rNocStatus 16 = false) ∧
    { s0 with cnt := { s0.cnt with asked := true } }.cnt.asked = true ∧ s0.blockDead 352 = false ∧ s0.mayCount 0 352 7 = true ∧
    s0.mayCount 127 352 7 = false := by decide +kernel

/-! ### Power, clocks and temperature -/

/-- The power record of a unit set. -/
def pwrState (ty id : Nat) (u : Machine.PUnit) (s : State := s0) : State := setPwr ty id u s

/-- A power record. -/
def pu (target now : Nat) (moving held : Option Nat) : Machine.PUnit := { target := target, now := now, moving := moving, held := held }

theorem test_wit_power_command : s0.running = true ∧ s0.refusesPower uTile 72 0 = true ∧ s0.refusesPower uTile 71 3 = false ∧
    s0.mustHold uTile 71 3 = false ∧ (pwrState uTile 71 (pu 1 1 (some 1) none)).mustHold uTile 71 3 = true ∧ (s0.pwrUnit uTile 71).now = 0 ∧
    (stageAt 3).running = false ∧ (s0.refusesPower uStack 11 1 = false ∧ s0.mustHold uStack 11 1 = false) := by decide +kernel

theorem test_wit_power_apply : ((pwrState uTile 71 (pu 3 0 none (some 3))).pwrUnit uTile 71).held = some 3 ∧
    (pwrState uTile 71 (pu 3 0 none (some 3))).mustHold uTile 71 3 = false ∧
    (pwrState uTile 71 (pu 3 1 (some 1) (some 3))).mustHold uTile 71 3 = true := by decide +kernel

theorem test_wit_power_done : ((pwrState uTile 71 (pu 3 3 (some 3) none)).pwrUnit uTile 71).moving = some 3 ∧ s0.status uTile 71 ≠ stQuarantine ∧
    11 ∉ s0.plz.stackSweep ∧ (s0.site 5).flushing = false ∧ (s0.site 5).join = .none ∧ s0.plz.owners = [] ∧ s0.inService uSite 5 = true ∧
    (updSite 5 (fun x => { x with flushing := true }) s0 |>.site 5).flushing = true ∧
    (pwrState uTile 71 (pu 3 3 (some 3) none)).effPower uTile 71 = 3 := by decide +kernel

/-- Stack 11 leaves ON, with the line of `homeState` and its owner, if any. -/
def sweepState (o : Option Nat) (p : PLine) : State :=
  updPlz (fun z => { z with stackSweep := [11], txns := [] }) (pwrState uStack 11 (pu 1 0 (some 1) none) (homeState (txn .rdShared .none) p o))

theorem test_wit_power_sweep : (∀ o ∈ [none, some 5], let s := sweepState o held
      (s.pwrUnit uStack 11).moving = some 1 ∧ 11 ∈ s.plz.stackSweep ∧ s.inService uStack 11 = true ∧
      s.plz.lines.any (fun e => lineStack e.1 == 11 && (e.2.d0 || e.2.d1) && s.cleanStops e.1) = false ∧
      (memWaits s).plz.lines.any (fun e => lineStack e.1 == 11 && (e.2.d0 || e.2.d1) && (memWaits s).cleanStops e.1) = true ∧
      s.plz.txns.any (fun t => lineStack t.line == 11 && t.phase != .waiting) = false ∧
      (s.plz.owners.any (fun e => lineStack e.1 == 11)) = o.isSome) ∧ (sweepState none .init).plz.lines = [] := by decide +kernel

/-- Stack 11 with a clamp or none and a budget. -/
def clampState (c : Option Nat) : State :=
  updStack 11 (fun x => { x with clampBudget := c, curBudget := 440, budgetSeq := 511 }) (regs [(rPwrStkSBudget 11, 511)] s0)

theorem test_wit_clamps : s0.stackOn 11 = true ∧ (units [(uStack, 11, stFailed)] s0).stackOn 11 = false ∧ s0.status uStack 11 ≠ stQuarantine ∧
    (units [(uStack, 11, stQuarantine)] s0).status uStack 11 = stQuarantine ∧ ((clampState none).stack 11).clampBudget = none ∧
    ((clampState (some 396)).stack 11).clampBudget = some 396 ∧ State.reset.running = false ∧ (441 : Nat) ≤ 511 := by decide +kernel

theorem test_wit_sensors : s0.ready = true ∧ (stageAt 4).ready = false ∧ s0.boot.reset = .running ∧ State.reset.boot.reset ≠ .running ∧
    53 ∈ { s0 with pwr := { s0.pwr with hotLast := [53] } }.pwr.hotLast ∧ 53 ∉ s0.pwr.hotLast ∧ s0.tripped = false ∧
    (regs [(rPwrTrip, 1)] s0).tripped = true := by decide +kernel

/-! ### Security -/

/-- The security state changed, with keys provisioned. -/
def secState (f : Machine.Sec → Machine.Sec) (s : State := s0) : State :=
  { s with sec := f { s.sec with otp := { s.sec.otp with idkPriv := 1, lmsPriv := 1, svnFloor := 63 } } }

theorem test_wit_certificates : (secState (fun x => { x with due := true, issued := 4095, block := some 32767 })).sec.due = true ∧ s0.ready = true ∧
    (secState (fun x => { x with due := true })).sec.block = none ∧ s0.sec.due = false ∧ (secState id).sec.otp.keysPresent = true ∧
    s0.sec.otp.keysPresent = false ∧ s0.sec.otp.nextBlock? = some 0 ∧ (secState id).rb rSecLmsStatus 30 = false ∧
    (regs [(rSecLmsStatus, 2 ^ 30)] s0).rb rSecLmsStatus 30 = true ∧ (secState (fun x => { x with issued := 4094 })).sec.issued = 4094 ∧
    (regs [(rSecFwSvn, 64)] (secState id)).rf rSecFwSvn 6 0 = 64 ∧ (regs [(rSecFwSvn, 63)] (secState id)).rf rSecFwSvn 6 0 = 63 ∧
    ({ s0.sec.otp with reserve := [0, 1, 3] } : Otp).nextBlock? = some 2 ∧ (secState id).imageNat 0xC 1 < (secState id).sec.otp.svnFloor := by
  decide +kernel

theorem test_wit_no_block_left : ({ s0.sec.otp with reserve := List.range 32768 } : Otp).nextBlock? = none := by
  simp [Otp.nextBlock?, List.find?_eq_none]

/-- The token of each target is the one written, or another. -/
def tokenState (right : Bool) (r : Nat) : State :=
  regs [(rSecLcStatus, r)] { s0 with sec := { s0.sec with
    otp := { s0.sec.otp with tokenDigest := Vector.replicate 4 ((Config.sha384 s0.tokenBytes).toNat + b2n (!right)) } } }

theorem test_wit_life_cycle : s0.running = true ∧ (stageAt 2).running = false ∧ s0.sec.lcMove = none ∧
    { s0.sec with lcMove := some { src := 2, dst := 3 } }.lcMove.isSome = true ∧ s0.ctxs = [] ∧ (regs [(rCtxStatus 7, 1)] s0).ctxState 7 ≠ 0 ∧
    (tokenState true 0).rb rSecLcStatus 11 = false ∧ (tokenState true (2 ^ 11)).rb rSecLcStatus 11 = true ∧
    (tokenState true 0).sec.otp.mayMove 1 = true ∧ (tokenState true 0).sec.otp.mayMove 2 = false ∧ (tokenState true 0).ctxs = [] ∧
    (regs [(rSecStatus, 1)] s0).lcState = 1 ∧ s0.lcState ≠ 1 ∧ s0.lcState ≠ 2 := by decide +kernel

theorem test_wit_token_right : (Config.sha384 (tokenState true 0).tokenBytes).toNat = vget 0 (tokenState true 0).sec.otp.tokenDigest 0 := by
  have h : (tokenState true 0).tokenBytes = s0.tokenBytes := rfl
  rw [h]
  simp [tokenState, regs, vget, setReg, b2n]

theorem test_wit_token_wrong : (Config.sha384 (tokenState false 0).tokenBytes).toNat ≠ vget 0 (tokenState false 0).sec.otp.tokenDigest 0 := by
  have h : (tokenState false 0).tokenBytes = s0.tokenBytes := rfl
  rw [h]
  simp [tokenState, regs, vget, setReg, b2n]

/-- A transition of the life cycle under way. -/
def movingState (src dst : Nat) : State := secState (fun x => { x with lcMove := some { src := src, dst := dst } })

theorem test_wit_burn : (movingState 1 2).sec.lcMove = some { src := 1, dst := 2 } ∧ (movingState 2 4).sec.lcMove = some { src := 2, dst := 4 } ∧
    ({ s0.sec.otp with lcA := 0xF } : Otp).lcCode = 7 ∧ ({ s0.sec.otp with lcA := 0xF } : Otp).mayMove 1 = true ∧
    ({ s0.sec.otp with lcA := 0xF } : Otp).mayMove 5 = false := by decide +kernel

theorem test_wit_gates : s0.ready = true ∧ s0.stage ≠ 0 ∧ gateAllowed s0.lcState 38 = true ∧ s0.rb rSecGateOpenHi 6 = false ∧
    gateAllowed 4 38 = false ∧ gateAllowed 1 27 = true ∧ gateAllowed 3 36 = true ∧ gateAllowed 0 39 = false ∧ s0.rb rSecDebug 2 = false ∧
    38 ∉ s0.sec.gatesSeen ∧ s0.debugOn = false ∧ s0.lcState ≠ 7 ∧ s0.lcState ≠ 4 ∧
    (∀ f, f < 128 → (s0.fn f).tdi ≠ .locked ∧ (s0.fn f).tdi ≠ .run) ∧ s0.rb rSecDebug 1 = false ∧ s0.sec.rngFailed = false := by decide +kernel

/-- A certificate. -/
def cert : Cert := { leaf := 5, epoch := 1, lc := 2, debug := 0, blocks := 1 }

/-- The responder after negotiation, with a certificate or none, a session 7 and streams. -/
def spdmState (c : Option Cert) (secured : Bool) : State :=
  let s := secState (fun x => { x with cert := c })
  { s with host := { s.host with
      streams := [3]
      spdm := { s.host.spdm with version := true, caps := true, algs := true, sessions := [(7, { secured := secured, leaf := 5, keyGen := 1 })] } } }

theorem test_wit_spdm : s0.running = true ∧ s0.host.spdm.version = false ∧ s0.host.spdm.caps = false ∧ s0.host.spdm.algs = false ∧
    (spdmState none true).host.spdm.algs = true ∧ (spdmState none true).sec.cert = none ∧ (spdmState none true).sec.due = false ∧
    (secState (fun x => { x with due := true })).sec.due = true ∧ (spdmState (some cert) true).sec.cert = some cert ∧
    (spdmState none true).secured 7 = true ∧ (spdmState none false).secured 7 = false ∧
    Table.find? (spdmState none false).host.spdm.sessions 7 = some { secured := false, leaf := 5, keyGen := 1 } ∧
    Table.find? s0.host.spdm.sessions 7 = none ∧ (stageAt 3).running = false := by decide +kernel

/-- A TDI of function 127 in a state. -/
def tdiState (t : Tdi) : State := fnState 127 (fun x => { x with tdi := t, nonce := some 9, stream := some 3 }) (spdmState none true)

theorem test_wit_tdi : (tdiState .unlocked).running = true ∧ (tdiState .unlocked).secured 7 = true ∧ ((tdiState .unlocked).fn 127).present = true ∧
    3 ∈ (tdiState .unlocked).host.streams ∧ 4 ∉ (tdiState .unlocked).host.streams ∧ ((tdiState .locked).fn 127).nonce = some 9 ∧
    ((tdiState .locked).fn 126).present = false ∧
    (setTdi 127 .run (tdiState .locked) |>.ownedCtxs 127).filter (fun c => (tdiState .locked).ctxState c == 0) = [] := by decide +kernel

/-! ### Bring-up -/

/-- A training in which nothing is back. -/
def noTraining : Training :=
  { stks := Vector.replicate 12 none, sites := Vector.replicate 6 none, ports := Vector.replicate 16 none, west := 255, east := 255 }

theorem test_wit_resets : s0.sec.lcMove = none ∧ s0.boot.reset ≠ .railWait ∧
    { s0 with boot := { s0.boot with reset := .railWait } }.boot.reset = .railWait ∧
    State.reset.pins.resetLow = true ∧ { s0 with pins := { s0.pins with resetLow := false } }.pins.resetLow = false := by decide +kernel

/-- The image is in the area. -/
def imageState : State := regs [(rBootStatus, 2 + 2 ^ 5)] (stageAt 2)

theorem test_wit_stages : (stageAt 0).inStage 0 = true ∧ (stageAt 1).inStage 0 = false ∧ (stageAt 1).inStage 1 = true ∧ (stageAt 2).ready = false ∧
    (stageAt 2).rb rBootStatus 5 = false ∧ (stageAt 2).stage = 2 ∧ (stageAt 2).boot.reset = .running ∧ imageState.inStage 2 = true ∧
    imageState.rb rBootStatus 5 = true ∧ imageState.admission ≠ 0 ∧ (stageAt 3).inStage 3 = true ∧ (stageAt 4).inStage 4 = true ∧
    (stageAt 5).inStage 5 = true ∧ (stageAt 6).inStage 6 = true ∧ (regs [(rBootStatus, 4 + 2 ^ 4)] (stageAt 4)).inStage 4 = false := by
  decide +kernel

/-- Site 5 has been accepted, or has not, and answers. -/
def acceptedSite (b : Bool) : State := units [(uSite, 5, stAbsent)] (updSite 5 (fun x => { x with everAccepted := b }) (stageAt 3))

theorem test_wit_training : (∃ m ∈ [(63 : Fin 64), 62], ∃ m' ∈ [(63 : Fin 64), 62], m'.val = m.val ^^^ 1) ∧
    (∀ m ∈ [(63 : Fin 64), 61], ∀ m' ∈ [(63 : Fin 64), 61], m'.val ≠ m.val ^^^ 1) ∧ (acceptedSite true).status uSite 5 ≠ stEmpty ∧
    ((acceptedSite true).site 5).everAccepted = true ∧ ((acceptedSite false).site 5).everAccepted = false ∧
    (stageAt 4).status uTile 71 ≠ stDisabled := by decide +kernel

/-! ### The whole hub -/

theorem test_wit_ready : (stageAt 6).inStage 6 = true ∧ (stageAt 5).inStage 6 = false ∧ (stageAt 6).status uTile 71 ≠ stFailed ∧
    (stageAt 6).status uTile 71 ≠ stDisabled := by decide +kernel

theorem test_wit_reset_command : ResetCommand .hotReset ∧ ¬ ResetCommand (.gateClose 3) := by
  constructor
  · exact .inl rfl
  · rintro (h | h | h) <;> exact absurd h (by decide)

theorem test_wit_sec_command : ¬ SecCommand .refclkLost := by
  simp [SecCommand, ResetCommand, BarWrite]

theorem test_wit_leaves : State.reset.sec.LeavesOk :=
  ⟨by decide +kernel, by decide +kernel, by decide +kernel, fun _ h => (Option.some_ne_none _ h.symm).elim,
    fun _ h => (Option.some_ne_none _ h.symm).elim⟩

theorem test_wit_next : ∃ t, step s0 = .next t := ⟨s0, rfl⟩

theorem test_wit_mem : Mem.wf [(3, 1), (9, 255)] = true := by decide +kernel

theorem test_wit_next_exec : ∃ t, exec .refclkLost s0 = .next t := ⟨_, rfl⟩

/-! ### The specification's own examples -/

/-- The worked encodings of R55: xk.issue a0, a1, 3; xk.wait a2, a0, 3; xk.qfence 0b1111. -/
theorem test_worked_encodings :
    (rvClass 0x0605850B, rvF7 0x0605850B, rvRs1 0x0605850B, rvRd 0x0605850B) = (.xkIssue, 3, 11, 10) ∧
    (rvClass 0x0605160B, rvF7 0x0605160B, rvRs1 0x0605160B, rvRd 0x0605160B) = (.xkWait, 3, 10, 12) ∧
    (rvClass 0x1E00300B, rvF7 0x1E00300B) = (.xkQfence, 15) := by decide +kernel

/-- A field that R55 lists as zero must be zero: rs2 of xk.issue, and funct3 0b111 is reserved. -/
theorem test_reserved_encodings : rvClass (0x0605850B + 2 ^ 20) = .illegal ∧ rvClass 0x0605F50B = .illegal := by decide +kernel

/-- The case worked out under R197 and R198: GLOBAL offset 0x01234800, the same bytes in LOCAL_M, and their module. -/
theorem test_worked_address : paTarget 0x01234800 = .stacked 9 0x184000 ∧ aliasOffset? 2 9 0x184000 = some 0x00611800 ∧
    paTarget (0x14000000000 + 0x00611800) = .stacked 9 0x184000 ∧ moduleOf 0x184000 = 16 := by decide +kernel

/-- The homes worked out under R226. -/
theorem test_worked_homes : homeSlot 9 0x184000 = 23 ∧ homeSlot 9 0x184080 = 12 := by decide +kernel

/-- The pairs of the first worked chunk of R126. -/
def workedChunk : List (Opnd × Opnd) :=
  let e (c : Nat) : Opnd := { v := Fmt.e4m3.decode c, p := 4 }
  List.replicate 30 (e 0x52, e 0x52) ++ [(e 0x7E, e 0x7E), (e 0x7E, e 0xFE)]

/-- Its result in the exact class and in the fast class of both shapes. -/
theorem test_worked_chunk : exactChunk (workedChunk.map (fun x => Val.mul x.1.v x.2.v)) 0 = 0x453B8000 ∧
    fastGroup false 0 workedChunk 0 = 0x00000000 ∧ fastGroup true 0 workedChunk 0 = 0x45380000 := by decide +kernel

/-- The conversions of the worked cases: 3,000 to BF16 and, saturating, to E4M3. -/
theorem test_worked_conversions : Fmt.bf16.convert .rne (.fin false 3000 0) = (0x453C, false) ∧
    Fmt.e4m3.convert .rne (.fin false 3000 0) = (0x7E, true) ∧ fp32Add 0x4B800000 0x3FC00000 = 0x4B800001 ∧
    Fmt.bf16.convert .rne (Fmt.fp32.decode 0x4B800001) = (0x4B80, false) ∧
    Fmt.bf16.convert { mode := .sr, draw := 65535 } (Fmt.fp32.decode 0x4B800001) = (0x4B81, false) ∧
    Fmt.bf16.convert { mode := .sr, draw := 65536 } (Fmt.fp32.decode 0x4B800001) = (0x4B80, false) := by decide +kernel

/-- The pieces of 0x3FAAAAAB that are worked out under R129. -/
theorem test_worked_pieces : let p := fp32Pieces 0x3FAAAAAB
    [p.1, p.2.1, p.2.2].map (fun v => (Fmt.bf16.convert .rne v).1) = [0x3FAA, 0x3BAA, 0x37AB] := by decide +kernel

/-- The MATMUL of the worked decode case passes the checks of R81; with a reserved bit set it does not. -/
def workedMatmul : List Nat :=
  [1, 0, 0, 0, 0x0000C000, 0x0000C400, 0x0C000000, 0, 0, 0x00010001, 0xC0, 0x00021184, 0, 0xF00, 0, 0]

theorem test_worked_matmul : matmulOk workedMatmul = true ∧ matmulOk (workedMatmul.set 14 1) = false := by decide +kernel

/-- The two offsets worked out under R542. -/
theorem test_worked_offsets : rSiteNWinMCtrl 3 17 = 0x147118 ∧ rQosBudgetNK 90 2 = 0x105B48 := by decide +kernel

/-- The AES-256 example of FIPS 197, appendix C.3, and the check value of CRC-32 for the nine digits "123456789" (R202, R359). -/
theorem test_standards : aesBlock (aesKeys (List.range 32)) ((List.range 16).map (fun i => 17 * i)) =
      [0x8E, 0xA2, 0xB7, 0xCA, 0x51, 0x67, 0x45, 0xBF, 0xEA, 0xFC, 0x49, 0x90, 0x4B, 0x49, 0x60, 0x89] ∧
    crcBytes 9 0x393837363534333231 0xFFFFFFFF = 0xCBF43926 := by decide +kernel

/-- Vector 10 of IEEE 1619 (AES-256-XTS), its first 64 bytes: bytes 0, 1, 2, … under tweak 255 (R202). -/
theorem test_xts : xtsUnit (0x2776966649575999699370245777496226357174286053234590452818281827 +
      2 ^ 256 * 0x9245947409820551379993169741880295278333646284239397585326594131) 255
      (BitVec.ofNat 512 (natOf (List.range 64))) =
    BitVec.ofNat 512 (2 ^ 256 * 0xfd88b14bcbfebe4533fcad35ac860a68443f68acf917b3668d4afef876e2315d +
      0x3be6a314d412aea45723485e3f8000ea9bcf70e3996c83e48603772f103a3b1c) := by decide +kernel

/-- A reserved hint makes xk.issue raise exception 24 and a COPY fail check 1 of R168, in word 14 (R246). -/
theorem test_reserved_hints : dmaOk Tile.init [2, 0, 0, 0, 64, 0, 64, 64, 1, 0, 0, 0, 13, 0, 0, 0] = true ∧
    dmaOk Tile.init [2, 0, 0, 0, 64, 0, 64, 64, 1, 0, 0, 0, 3, 0, 0, 0] = false ∧
    descriptorCheck 0 (2 ^ 16) [2, 0, 0, 0, 0, 0, 0, 0, 0, 64, 1, 0, 0, 0, 13, 0] = (0, 0) ∧
    descriptorCheck 0 (2 ^ 16) [2, 0, 0, 0, 0, 0, 0, 0, 0, 64, 1, 0, 0, 0, 14, 0] = (1, 14) := by decide +kernel

/-! ### Commands that a sender can form, and for each check one that it refuses -/

theorem test_wf_symbols : Instr.wf (.mwr 11 0 [0, 71]) = true ∧ Instr.wf (.mwr 11 0 [72]) = false ∧ Instr.wf (.mwr 11 0 [1, 2, 3]) = false := by decide +kernel

theorem test_wf_reads : Instr.wf (.mrd 0 0 (.corrected [71]) (.linkRetry 2 [])) = true ∧ Instr.wf (.mrd 0 0 (.linkRetry 3 []) .clean) = false ∧
    Instr.wf (.mrd 0 0 .clean (.corrected [1, 2, 3])) = false ∧ Instr.wf (.mirrorHeal 0 0 (.linkRetry 1 [72])) = false ∧
    Instr.wf (.patrolRead 0 (.linkRetry 0 []) .clean) = false := by decide +kernel

theorem test_wf_host : Instr.wf (.hostMemoryRequest (tlp false) false 0 4 (some [1, 2, 3, 4])) = true ∧
    Instr.wf (.hostMemoryRequest (tlp false) false 0 0 none) = false ∧ Instr.wf (.apertureAccess (tlp false) 0 4097 none) = false ∧
    Instr.wf (.bulkBurstAccess (tlp false) 0 4 (some [1])) = false ∧ Instr.wf (.hostAtomicop (tlp false) true 0 2 16 0 0) = true ∧
    Instr.wf (.hostAtomicop (tlp false) true 0 0 5 0 0) = false ∧ Instr.wf (.hostCompletion 0 .ok (List.replicate 64 0)) = true ∧
    Instr.wf (.hostCompletion 0 .ok []) = false ∧ Instr.wf (.hostCompletion 0 .ur [0]) = false := by decide +kernel

theorem test_wf_payloads : Instr.wf (.certData 0 (List.replicate 256 0)) = true ∧ Instr.wf (.certData 0 (List.replicate 257 0)) = false ∧
    Instr.wf (.response 0 (List.replicate 96 0)) = true ∧ Instr.wf (.response 0 []) = false ∧
    Instr.wf (.mbox 0 (List.replicate 256 0)) = true ∧ Instr.wf (.mbox 0 (List.replicate 257 0)) = false := by decide +kernel

/-- A payload longer than a mailbox holds is no message (R313). -/
theorem test_ill_formed (bs : List Byte) (h : bs.length = 257) : exec (.mbox 0 bs) s0 = .fault .illFormed :=
  if_pos (by omega)

/-- No word spells a command: the table gives no row bits. -/
theorem test_decode : decodeTableWord 32 0x0605850B = none := rfl

end Sys2Proof.Tests
end

namespace Sys2Proof.Machine

/-! ### What `exec` leaves alone

The lemmas `exec…_keep` and `exec…_held` of the single commands, put together over all commands. -/

/-- A command outside those of `SecCommand` keeps the queue, the security state, the numbered tiles and the digest: one line for
each command, which is its own lemma. -/
theorem exec_kept {c : Instr} {s t : State} (h : exec c s = .next t) (hc : ¬ SecCommand c) : Kept t s :=
  match c, h, hc with
  | .aluInstruction _, h, _ => execAluInstruction_keep _ _ h
  | .load _ _, h, _ => execLoad_keep _ _ _ h
  | .store _, h, _ => execStore_keep _ _ h
  | .amo _ _, h, _ => execAmo_keep _ _ _ h
  | .fenceI _, h, _ => execFenceI_keep _ _ h
  | .ebreak _, h, _ => execEbreak_keep _ _ h
  | .wfi _, h, _ => execWfi_keep _ _ h
  | .csrAccess _, h, _ => execCsrAccess_keep _ _ h
  | .instructionFetch _, h, _ => execInstructionFetch_keep _ _ h
  | .taskEnd _, h, _ => execTaskEnd_keep _ _ h
  | .taskFail _, h, _ => execTaskFail_keep _ _ h
  | .trace _, h, _ => execTrace_keep _ _ h
  | .illegalEcall _, h, _ => execIllegalEcall_keep _ _ h
  | .xkIssue _ _, h, _ => execXkIssue_keep _ _ _ h
  | .xkWait _, h, _ => execXkWait_keep _ _ h
  | .xkTest _, h, _ => execXkTest_keep _ _ h
  | .xkQfence _, h, _ => execXkQfence_keep _ _ h
  | .xkBput _, h, _ => execXkBput_keep _ _ h
  | .xkBget _, h, _ => execXkBget_keep _ _ h
  | .xkBar _, h, _ => execXkBar_keep _ _ h
  | .barrierRelease _ _, h, _ => execBarrierRelease_keep _ _ _ h
  | .commandStart _ _, h, _ => execCommandStart_keep _ _ _ h
  | .commandComplete _ _, h, _ => execCommandComplete_keep _ _ _ h
  | .copyIn _, h, _ => execCopyIn_keep _ _ h
  | .copyOut _, h, _ => execCopyOut_keep _ _ h
  | .csIn _, h, _ => execCsIn_keep _ _ h
  | .csOut _, h, _ => execCsOut_keep _ _ h
  | .dmaTransferUnit _, h, _ => execDmaTransferUnit_keep _ _ h
  | .matmul _ _ _, h, _ => execMatmul_keep _ _ _ _ h
  | .ftqSlotFull _, h, _ => execFtqSlotFull_keep _ _ h
  | .ftqDeadlock _, h, _ => execFtqDeadlock_keep _ _ h
  | .vopCopy _ _, h, _ => execVopCopy_keep _ _ _ h
  | .vopAdd _ _, h, _ => execVopAdd_keep _ _ _ h
  | .vopSub _ _, h, _ => execVopSub_keep _ _ _ h
  | .vopMul _ _, h, _ => execVopMul_keep _ _ _ h
  | .vopFma _ _, h, _ => execVopFma_keep _ _ _ h
  | .vopMax _ _, h, _ => execVopMax_keep _ _ _ h
  | .vopMin _ _, h, _ => execVopMin_keep _ _ _ h
  | .vopAbs _ _, h, _ => execVopAbs_keep _ _ _ h
  | .vopNeg _ _, h, _ => execVopNeg_keep _ _ _ h
  | .vopExp _ _, h, _ => execVopExp_keep _ _ _ h
  | .vopLog _ _, h, _ => execVopLog_keep _ _ _ h
  | .vopRcp _ _, h, _ => execVopRcp_keep _ _ _ h
  | .vopRsqrt _ _, h, _ => execVopRsqrt_keep _ _ _ h
  | .vopTanh _ _, h, _ => execVopTanh_keep _ _ _ h
  | .vopErf _ _, h, _ => execVopErf_keep _ _ _ h
  | .vopCmplt _ _, h, _ => execVopCmplt_keep _ _ _ h
  | .vopCmple _ _, h, _ => execVopCmple_keep _ _ _ h
  | .vopCmpeq _ _, h, _ => execVopCmpeq_keep _ _ _ h
  | .vopSel _ _, h, _ => execVopSel_keep _ _ _ h
  | .vopUrand _ _, h, _ => execVopUrand_keep _ _ _ h
  | .compress _ _, h, _ => execCompress_keep _ _ _ h
  | .expand _ _, h, _ => execExpand_keep _ _ _ h
  | .mxpack _ _, h, _ => execMxpack_keep _ _ _ h
  | .rsum _ _, h, _ => execRsum_keep _ _ _ h
  | .rsumInclusiveScan _ _, h, _ => execRsumInclusiveScan_keep _ _ _ h
  | .rsumExclusiveScan _ _, h, _ => execRsumExclusiveScan_keep _ _ _ h
  | .rmax _ _, h, _ => execRmax_keep _ _ _ h
  | .rmin _ _, h, _ => execRmin_keep _ _ _ h
  | .rargmax _ _, h, _ => execRargmax_keep _ _ _ h
  | .rtopk _ _, h, _ => execRtopk_keep _ _ _ h
  | .taskDelivery _, h, _ => execTaskDelivery_keep _ _ h
  | .abortInterrupt _, h, _ => execAbortInterrupt_keep _ _ h
  | .tileReport _, h, _ => execTileReport_keep _ _ h
  | .doorbell _ _, h, _ => execDoorbell_keep _ _ _ h
  | .descriptorFetch _, h, _ => execDescriptorFetch_keep _ _ h
  | .dispatch _, h, _ => execDispatch_keep _ _ h
  | .taskPlacement _, h, _ => execTaskPlacement_keep _ _ h
  | .taskReserving _, h, _ => execTaskReserving_keep _ _ h
  | .nop _, h, _ => execNop_keep _ _ h
  | .task _, h, _ => execTask_keep _ _ h
  | .copy _, h, _ => execCopy_keep _ _ h
  | .reduce _, h, _ => execReduce_keep _ _ h
  | .barrier _, h, _ => execBarrier_keep _ _ h
  | .snapshot _, h, _ => execSnapshot_keep _ _ h
  | .resumePage _, h, _ => execResumePage_keep _ _ h
  | .descriptorComplete _, h, _ => execDescriptorComplete_keep _ _ h
  | .contextEnable _, h, _ => execContextEnable_keep _ _ h
  | .contextDrain _, h, _ => execContextDrain_keep _ _ h
  | .contextQuiesced _, h, _ => execContextQuiesced_keep _ _ h
  | .contextOff _, h, _ => execContextOff_keep _ _ h
  | .ringEnable _, h, _ => execRingEnable_keep _ _ h
  | .ringDisable _, h, _ => execRingDisable_keep _ _ h
  | .cqHeadWrite _ _, h, _ => execCqHeadWrite_keep _ _ _ h
  | .mrd _ _ _ _, h, _ => execMrd_keep _ _ _ _ _ h
  | .mwr _ _ _, h, _ => execMwr_keep _ _ _ _ h
  | .mirrorHeal _ _ _, h, _ => execMirrorHeal_keep _ _ _ _ h
  | .bondMonitorWindow _ _, h, _ => execBondMonitorWindow_keep _ _ _ h
  | .patrolRead _ _ _, h, _ => execPatrolRead_keep _ _ _ _ h
  | .moduleRetrainStart _ _, h, _ => execModuleRetrainStart_keep _ _ _ h
  | .moduleRetrainDone _ _, h, _ => execModuleRetrainDone_keep _ _ _ h
  | .stkCtrlRetrain _ _, h, _ => execStkCtrlRetrain_keep _ _ _ h
  | .stkCtrlIsolate _, h, _ => execStkCtrlIsolate_keep _ _ h
  | .stkCtrlRejoin _ _, h, _ => execStkCtrlRejoin_keep _ _ _ h
  | .stackRejoinFillDone _, h, _ => execStackRejoinFillDone_keep _ _ h
  | .stackClockLost _, h, _ => execStackClockLost_keep _ _ h
  | .stackTrainingLost _, h, _ => execStackTrainingLost_keep _ _ h
  | .stackBaseReset _, h, _ => execStackBaseReset_keep _ _ h
  | .stackSweepDone _, h, _ => execStackSweepDone_keep _ _ h
  | .stackTempReport _ _ _, h, _ => execStackTempReport_keep _ _ _ _ h
  | .throttleStepDown _, h, _ => execThrottleStepDown_keep _ _ h
  | .throttleStepUp _, h, _ => execThrottleStepUp_keep _ _ h
  | .telemetryStale _, h, _ => execTelemetryStale_keep _ _ h
  | .srtValidSet _ _, h, _ => execSrtValidSet_keep _ _ _ h
  | .srtValidClear _ _, h, _ => execSrtValidClear_keep _ _ _ h
  | .trackerStart _ _ _, h, _ => execTrackerStart_keep _ _ _ _ h
  | .rdShared _ _ _, h, _ => execRdShared_keep _ _ _ _ h
  | .rdUnique _ _ _, h, _ => execRdUnique_keep _ _ _ _ h
  | .rdOnce _ _ _, h, _ => execRdOnce_keep _ _ _ _ h
  | .wrFull _ _ _, h, _ => execWrFull_keep _ _ _ _ h
  | .wrPart _ _ _, h, _ => execWrPart_keep _ _ _ _ h
  | .atomic _ _ _, h, _ => execAtomic_keep _ _ _ _ h
  | .writeback _ _, h, _ => execWriteback_keep _ _ _ h
  | .evictClean _ _, h, _ => execEvictClean_keep _ _ _ h
  | .flushLine _ _, h, _ => execFlushLine_keep _ _ _ h
  | .snpFwdShared _, h, _ => execSnpFwdShared_keep _ _ h
  | .snpFwdUnique _, h, _ => execSnpFwdUnique_keep _ _ h
  | .snpFwdOnce _, h, _ => execSnpFwdOnce_keep _ _ h
  | .snpRecall _, h, _ => execSnpRecall_keep _ _ h
  | .snpDrop _, h, _ => execSnpDrop_keep _ _ h
  | .snpInvPass _ _, h, _ => execSnpInvPass_keep _ _ _ h
  | .snpInvReturn _, h, _ => execSnpInvReturn_keep _ _ h
  | .ringSlotMark _, h, _ => execRingSlotMark_keep _ _ h
  | .snpRsp _, h, _ => execSnpRsp_keep _ _ h
  | .compAck _, h, _ => execCompAck_keep _ _ h
  | .wbData _, h, _ => execWbData_keep _ _ h
  | .stashAck _, h, _ => execStashAck_keep _ _ h
  | .memDone _, h, _ => execMemDone_keep _ _ h
  | .data _ _, h, _ => execData_keep _ _ _ h
  | .comp _, h, _ => execComp_keep _ _ h
  | .wrAck _, h, _ => execWrAck_keep _ _ h
  | .wbAck _, h, _ => execWbAck_keep _ _ h
  | .snoopTimeout _, h, _ => execSnoopTimeout_keep _ _ h
  | .flushAll, h, _ => execFlushAll_keep _ h
  | .flushAllDone, h, _ => execFlushAllDone_keep _ h
  | .cxlRdshared _ _ _, h, _ => execCxlRdshared_keep _ _ _ _ h
  | .cxlRdany _ _ _, h, _ => execCxlRdany_keep _ _ _ _ h
  | .cxlRdown _ _ _, h, _ => execCxlRdown_keep _ _ _ _ h
  | .cxlRdownnodata _ _ _, h, _ => execCxlRdownnodata_keep _ _ _ _ h
  | .cxlRdcurr _ _ _, h, _ => execCxlRdcurr_keep _ _ _ _ h
  | .cxlItomwr _ _ _ _ _ _, h, _ => execCxlItomwr_keep _ _ _ _ _ _ _ h
  | .cxlWrcur _ _ _ _ _ _, h, _ => execCxlWrcur_keep _ _ _ _ _ _ _ h
  | .cxlWrinv _ _ _ _ _ _, h, _ => execCxlWrinv_keep _ _ _ _ _ _ _ h
  | .cxlWowrinv _ _ _ _ _ _, h, _ => execCxlWowrinv_keep _ _ _ _ _ _ _ h
  | .cxlWowrinvf _ _ _ _ _ _, h, _ => execCxlWowrinvf_keep _ _ _ _ _ _ _ h
  | .cxlDirtyevict _ _ _, h, _ => execCxlDirtyevict_keep _ _ _ _ h
  | .cxlCleanevict _ _ _, h, _ => execCxlCleanevict_keep _ _ _ _ h
  | .cxlCleanevictnodata _ _ _, h, _ => execCxlCleanevictnodata_keep _ _ _ _ h
  | .cxlClflush _ _ _, h, _ => execCxlClflush_keep _ _ _ _ h
  | .cxlCacheflushed n, h, _ => execCxlCacheflushed_keep n _ h
  | .cxlOtherRequest _, h, _ => execCxlOtherRequest_keep _ _ h
  | .cxlSnoopResponse _ _ _ _, h, _ => execCxlSnoopResponse_keep _ _ _ _ _ h
  | .siteOwnerSweepDone _, h, _ => execSiteOwnerSweepDone_keep _ _ h
  | .translationWalkStep _ _, h, _ => execTranslationWalkStep_keep _ _ _ h
  | .faultArrival _ _, h, _ => execFaultArrival_keep _ _ _ h
  | .faultRecordDelivery _, h, _ => execFaultRecordDelivery_keep _ _ h
  | .keptRecordWrite, h, _ => execKeptRecordWrite_keep _ h
  | .resumeAtWalker _, h, _ => execResumeAtWalker_keep _ _ h
  | .resumeWakeDone _ _, h, _ => execResumeWakeDone_keep _ _ _ h
  | .hostWaitExpiry _ _, h, _ => execHostWaitExpiry_keep _ _ _ h
  | .xltInv _ _, h, _ => execXltInv_keep _ _ _ h
  | .xltInvDone _, h, _ => execXltInvDone_keep _ _ h
  | .fltOpEnable _, h, _ => execFltOpEnable_keep _ _ h
  | .fltOpDisable _, h, _ => execFltOpDisable_keep _ _ h
  | .fltHeadWrite _ _, h, _ => execFltHeadWrite_keep _ _ _ h
  | .siteFlit _ _ _, h, _ => execSiteFlit_keep _ _ _ _ h
  | .siteNak _ _, h, _ => execSiteNak_keep _ _ _ h
  | .siteSeqGapTimeout _, h, _ => execSiteSeqGapTimeout_keep _ _ h
  | .siteAckTimer _, h, _ => execSiteAckTimer_keep _ _ h
  | .kspReqAdmission _, h, _ => execKspReqAdmission_keep _ _ h
  | .wdata _ _, h, _ => execWdata_keep _ _ _ h
  | .memData _, h, _ => execMemData_keep _ _ h
  | .memAck _, h, _ => execMemAck_keep _ _ h
  | .tgtTimeout _ _, h, _ => execTgtTimeout_keep _ _ _ h
  | .caps _ _ _ _ _ _ _ _ _ _, h, _ => execCaps_keep _ _ _ _ _ _ _ _ _ _ _ h
  | .joined _, h, _ => execJoined_keep _ _ h
  | .status _ _, h, _ => execStatus_keep _ _ _ h
  | .powerReport _ _ _, h, _ => execPowerReport_keep _ _ _ _ h
  | .bondFail _ _ _, h, _ => execBondFail_keep _ _ _ _ h
  | .repairDone _ _, h, _ => execRepairDone_keep _ _ _ h
  | .siteRepairTimeout _ _, h, _ => execSiteRepairTimeout_keep _ _ _ h
  | .certData _ _, h, _ => execCertData_keep _ _ _ h
  | .response _ _, h, _ => execResponse_keep _ _ _ h
  | .resetNotice _, h, _ => execResetNotice_keep _ _ h
  | .pllUnlock _, h, _ => execPllUnlock_keep _ _ h
  | .flushed _, h, _ => execFlushed_keep _ _ h
  | .mbox _ _, h, _ => execMbox_keep _ _ _ h
  | .siteBudgetTimer _, h, _ => execSiteBudgetTimer_keep _ _ h
  | .siteBudgetWrite _ _, h, _ => execSiteBudgetWrite_keep _ _ _ h
  | .sidebandLost _, h, _ => execSidebandLost_keep _ _ h
  | .siteClockLost _ _, h, _ => execSiteClockLost_keep _ _ _ h
  | .siteOverpower _ _, h, _ => execSiteOverpower_keep _ _ _ h
  | .siteClampTimeout _ _, h, _ => execSiteClampTimeout_keep _ _ _ h
  | .siteUnclamp _, h, _ => execSiteUnclamp_keep _ _ h
  | .siteReset _, h, _ => execSiteReset_keep _ _ h
  | .siteRejoin _, h, _ => execSiteRejoin_keep _ _ h
  | .siteIsolate _, h, _ => execSiteIsolate_keep _ _ h
  | .siteRetrain _ _, h, _ => execSiteRetrain_keep _ _ _ h
  | .siteWinFence _, h, _ => execSiteWinFence_keep _ _ h
  | .siteWinFenceDone _, h, _ => execSiteWinFenceDone_keep _ _ h
  | .siteRejoined _, h, _ => execSiteRejoined_keep _ _ h
  | .siteRejoinFailed _, h, _ => execSiteRejoinFailed_keep _ _ h
  | .packetInject _ _, h, _ => execPacketInject_keep _ _ _ h
  | .packetEject _ _, h, _ => execPacketEject_keep _ _ _ h
  | .linkFlitError _ _ _ _, h, _ => execLinkFlitError_keep _ _ _ _ _ h
  | .flushMarkerReturn _, h, _ => execFlushMarkerReturn_keep _ _ h
  | .deadTargetTimeout _ _, h, _ => execDeadTargetTimeout_keep _ _ _ h
  | .crossingLinkLost _ _, h, _ => execCrossingLinkLost_keep _ _ _ h
  | .crossingDrainDone _ _, h, _ => execCrossingDrainDone_keep _ _ _ h
  | .qosPeriodBoundary _, h, _ => execQosPeriodBoundary_keep _ _ h
  | .fabricFlit _ _, h, _ => execFabricFlit_keep _ _ _ h
  | .fabricNak _ _, h, _ => execFabricNak_keep _ _ _ h
  | .fabricAckTimer _, h, _ => execFabricAckTimer_keep _ _ h
  | .kflRd _, h, _ => execKflRd_keep _ _ h
  | .kflWr _, h, _ => execKflWr_keep _ _ h
  | .kflWrPart _, h, _ => execKflWrPart_keep _ _ h
  | .kflAtomic _, h, _ => execKflAtomic_keep _ _ h
  | .rdData _, h, _ => execRdData_keep _ _ h
  | .kflWrAck _, h, _ => execKflWrAck_keep _ _ h
  | .fabricRspTimeout _ _, h, _ => execFabricRspTimeout_keep _ _ _ h
  | .faultWaitExpiry _ _, h, _ => execFaultWaitExpiry_keep _ _ _ h
  | .hello _, h, _ => execHello_keep _ _ h
  | .helloTimer _, h, _ => execHelloTimer_keep _ _ h
  | .lanePlan _, h, _ => execLanePlan_keep _ _ h
  | .laneErrorWindow _ _ _ _ _, h, _ => execLaneErrorWindow_keep _ _ _ _ _ _ h
  | .laneLockLost _ _, h, _ => execLaneLockLost_keep _ _ _ h
  | .fabricRetrain _, h, _ => execFabricRetrain_keep _ _ h
  | .fabricRetrainDone _, h, _ => execFabricRetrainDone_keep _ _ h
  | .fabricRetrainTimeout _, h, _ => execFabricRetrainTimeout_keep _ _ h
  | .noPeerRetry _, h, _ => execNoPeerRetry_keep _ _ h
  | .fabNodeWrite _, h, _ => execFabNodeWrite_keep _ _ h
  | .fabRtDataAccess _, h, _ => execFabRtDataAccess_keep _ _ h
  | .fabWinFence, h, _ => execFabWinFence_keep _ h
  | .fabWinFenceDone, h, _ => execFabWinFenceDone_keep _ h
  | .reduceArm _, h, _ => execReduceArm_keep _ _ h
  | .redReady _, h, _ => execRedReady_keep _ _ h
  | .redReadyRepeat _ _, h, _ => execRedReadyRepeat_keep _ _ _ h
  | .redData _, h, _ => execRedData_keep _ _ h
  | .redAbort _, h, _ => execRedAbort_keep _ _ h
  | .reduceTimeout _, h, _ => execReduceTimeout_keep _ _ h
  | .reduceComplete _, h, _ => execReduceComplete_keep _ _ h
  | .hostMemoryRequest _ _ _ _ _, _, hc => absurd (by simp [SecCommand, ResetCommand, BarWrite]) hc
  | .hostAtomicop _ _ _ _ _ _ _, h, _ => execHostAtomicop_keep _ _ _ _ _ _ _ _ h
  | .apertureAccess _ _ _ _, h, _ => execApertureAccess_keep _ _ _ _ _ h
  | .hostCompletion _ _ _, h, _ => execHostCompletion_keep _ _ _ _ h
  | .completionTimeout _ _, h, _ => execCompletionTimeout_keep _ _ _ h
  | .portUncorrectableError _ _, h, _ => execPortUncorrectableError_keep _ _ _ h
  | .containmentRelease, h, _ => execContainmentRelease_keep _ h
  | .hotReset, _, hc => absurd (by simp [SecCommand, ResetCommand, BarWrite]) hc
  | .hostLinkDown, h, _ => execHostLinkDown_keep _ h
  | .configWrite _ _, h, _ => execConfigWrite_keep _ _ _ h
  | .flr _, h, _ => execFlr_keep _ _ h
  | .flrDone _, h, _ => execFlrDone_keep _ _ h
  | .msixTableWrite _ _, h, _ => execMsixTableWrite_keep _ _ _ h
  | .getVersion, h, _ => execGetVersion_keep _ h
  | .getCapabilities, h, _ => execGetCapabilities_keep _ h
  | .negotiateAlgorithms _, h, _ => execNegotiateAlgorithms_keep _ _ h
  | .getDigests, h, _ => execGetDigests_keep _ h
  | .getCertificate _ _ _, h, _ => execGetCertificate_keep _ _ _ _ h
  | .challenge _ _, h, _ => execChallenge_keep _ _ _ h
  | .getMeasurements _ _ _, h, _ => execGetMeasurements_keep _ _ _ _ h
  | .keyExchange _, h, _ => execKeyExchange_keep _ _ h
  | .finish _ _, h, _ => execFinish_keep _ _ _ h
  | .heartbeat _, h, _ => execHeartbeat_keep _ _ h
  | .keyUpdate _ _, h, _ => execKeyUpdate_keep _ _ _ h
  | .endSession _, h, _ => execEndSession_keep _ _ h
  | .ideKm _ _, h, _ => execIdeKm_keep _ _ _ h
  | .lockInterfaceRequest _ _ _, h, _ => execLockInterfaceRequest_keep _ _ _ _ h
  | .getDeviceInterfaceReport _ _, h, _ => execGetDeviceInterfaceReport_keep _ _ _ h
  | .getDeviceInterfaceState _ _, h, _ => execGetDeviceInterfaceState_keep _ _ _ h
  | .startInterfaceRequest _ _ _, h, _ => execStartInterfaceRequest_keep _ _ _ _ h
  | .stopInterfaceRequest _ _, h, _ => execStopInterfaceRequest_keep _ _ _ h
  | .resetAssert, _, hc => absurd (by simp [SecCommand, ResetCommand, BarWrite]) hc
  | .resetRelease _, h, _ => execResetRelease_keep _ _ h
  | .railUndervoltage, _, hc => absurd (by simp [SecCommand, ResetCommand, BarWrite]) hc
  | .stageS0Done _ _ _, _, hc => absurd (by simp [SecCommand, ResetCommand, BarWrite]) hc
  | .hostLinkTrained _ _, h, _ => execHostLinkTrained_keep _ _ _ h
  | .imageReady, h, _ => execImageReady_keep _ h
  | .imageAdmission, _, hc => absurd (by simp [SecCommand, ResetCommand, BarWrite]) hc
  | .trainingDone _, h, _ => execTrainingDone_keep _ _ h
  | .selftestDone _, h, _ => execSelftestDone_keep _ _ h
  | .qualificationDone _, h, _ => execQualificationDone_keep _ _ h
  | .ready, _, hc => absurd (by simp [SecCommand, ResetCommand, BarWrite]) hc
  | .stageTimeout _ _, h, _ => execStageTimeout_keep _ _ _ h
  | .partitionReset _, h, _ => execPartitionReset_keep _ _ h
  | .partitionResetDone _, h, _ => execPartitionResetDone_keep _ _ h
  | .quarantineExit _ _, h, _ => execQuarantineExit_keep _ _ _ h
  | .tileRetire _, h, _ => execTileRetire_keep _ _ h
  | .certIssue, _, hc => absurd (by simp [SecCommand, ResetCommand, BarWrite]) hc
  | .reissue, _, hc => absurd (by simp [SecCommand, ResetCommand, BarWrite]) hc
  | .svnCommit, _, hc => absurd (by simp [SecCommand, ResetCommand, BarWrite]) hc
  | .lcTransitionGo _, _, hc => absurd (by simp [SecCommand, ResetCommand, BarWrite]) hc
  | .lcTransition _, _, hc => absurd (by simp [SecCommand, ResetCommand, BarWrite]) hc
  | .userStoreBurn _, _, hc => absurd (by simp [SecCommand, ResetCommand, BarWrite]) hc
  | .gateOpen _, _, hc => absurd (by simp [SecCommand, ResetCommand, BarWrite]) hc
  | .gateClose _, h, _ => execGateClose_keep _ _ h
  | .debugEnable, _, hc => absurd (by simp [SecCommand, ResetCommand, BarWrite]) hc
  | .debugDisable, h, _ => execDebugDisable_keep _ h
  | .rngHealthFail, _, hc => absurd (by simp [SecCommand, ResetCommand, BarWrite]) hc
  | .tapInstruction _, _, hc => absurd (by simp [SecCommand, ResetCommand, BarWrite]) hc
  | .setdasa _ _, h, _ => execSetdasa_keep _ _ _ h
  | .entdaa _ _, h, _ => execEntdaa_keep _ _ _ h
  | .i3cRead _ _, h, _ => execI3cRead_keep _ _ _ h
  | .powerCommand _ _ _, h, _ => execPowerCommand_keep _ _ _ _ h
  | .powerCommandApply _, h, _ => execPowerCommandApply_keep _ _ h
  | .powerTransitionDone _, h, _ => execPowerTransitionDone_keep _ _ h
  | .stackPowerSweepDone _, h, _ => execStackPowerSweepDone_keep _ _ h
  | .stackBudgetTimer, h, _ => execStackBudgetTimer_keep _ h
  | .stackBudgetWrite _ _, h, _ => execStackBudgetWrite_keep _ _ _ h
  | .stackPowerReport _ _, h, _ => execStackPowerReport_keep _ _ _ h
  | .fieldPowerSample _ _, h, _ => execFieldPowerSample_keep _ _ _ h
  | .stackClampTimeout _ _, h, _ => execStackClampTimeout_keep _ _ _ h
  | .stackUnclamp _, h, _ => execStackUnclamp_keep _ _ h
  | .pllLockLost _, h, _ => execPllLockLost_keep _ _ h
  | .refclkLost, h, _ => execRefclkLost_keep _ h
  | .tempSensorRead _ _, h, _ => execTempSensorRead_keep _ _ _ h
  | .counterWrap, h, _ => execCounterWrap_keep _ h
  | .bwWindowEnd _, h, _ => execBwWindowEnd_keep _ _ h
  | .counterLoRead _ _ _, h, _ => execCounterLoRead_keep _ _ _ _ h
  | .snapRequest, h, _ => execSnapRequest_keep _ h
  | .snapshotBegin, h, _ => execSnapshotBegin_keep _ h
  | .snapshotMarker _ _ _, h, _ => execSnapshotMarker_keep _ _ _ _ h
  | .snapshotComplete, h, _ => execSnapshotComplete_keep _ h
  | .rcRead _ _, h, _ => execRcRead_keep _ _ _ h
  | .sqClear _ _ _, h, _ => execSqClear_keep _ _ _ _ h
  | .registerWrite _ _ _, _, hc => absurd (by simp [SecCommand, ResetCommand, BarWrite]) hc
  | .registerStallTimeout _ _ _, h, _ => execRegisterStallTimeout_keep _ _ _ _ h
  | .bulkSelWrite _ _, _, hc => absurd (by simp [SecCommand, ResetCommand, BarWrite]) hc
  | .bulkDataAccess _ _, _, hc => absurd (by simp [SecCommand, ResetCommand, BarWrite]) hc
  | .bulkBurstAccess _ _ _ _, _, hc => absurd (by simp [SecCommand, ResetCommand, BarWrite]) hc
  | .debugResume _, h, _ => execDebugResume_keep _ _ h
  | .debugEndTask _, h, _ => execDebugEndTask_keep _ _ h
  | .mboxSend _ _, h, _ => execMboxSend_keep _ _ _ h
  | .mboxInAck _ _, h, _ => execMboxInAck_keep _ _ _ h
  | .railBackInRange, h, _ => execRailBackInRange_keep _ h
  | .hostLinkRetrained _ _, h, _ => execHostLinkRetrained_keep _ _ _ h
  | .channelLost _, h, _ => execChannelLost_keep _ _ h
  | .routerFailure _, h, _ => execRouterFailure_keep _ _ h
  | .siteMonitorWindow _ _ _, h, _ => execSiteMonitorWindow_keep _ _ _ _ h
  | .cxlMemResponse _ _ _ _, h, _ => execCxlMemResponse_keep _ _ _ _ _ h
  | .cxlD2hData _ _ _ _ _, h, _ => execCxlD2hData_keep _ _ _ _ _ _ h
  | .mboxOutDone _, h, _ => execMboxOutDone_keep _ _ h
  | .hubPowerSample _, h, _ => execHubPowerSample_keep _ _ h

/-- The commands that act on the security state, but for the resets and READY, keep the rest. -/
theorem exec_held_of_secCommand {c : Instr} {s t : State} (h : exec c s = .next t) (hc : SecCommand c)
    (hr : ¬ ResetCommand c) (hn : c ≠ .ready) : Held t s := by
  rcases hc with hc | hc | rfl | rfl | rfl | ⟨_, rfl⟩ | ⟨_, rfl⟩ | ⟨_, rfl⟩ | ⟨_, rfl⟩ | rfl | rfl | ⟨_, _, _, rfl⟩ | rfl | rfl | ⟨_, rfl⟩
  · exact absurd hc hr
  · rcases hc with ⟨_, _, _, rfl⟩ | ⟨_, _, rfl⟩ | ⟨_, _, rfl⟩ | ⟨_, _, _, _, _, rfl⟩ | ⟨_, _, _, _, rfl⟩
    · exact execRegisterWrite_held _ _ _ _ h
    · exact execBulkSelWrite_held _ _ _ h
    · exact execBulkDataAccess_held _ _ _ h
    · exact execHostMemoryRequest_held _ _ _ _ _ _ h
    · exact execBulkBurstAccess_held _ _ _ _ _ h
  · exact execCertIssue_held _ h
  · exact execReissue_held _ h
  · exact execSvnCommit_held _ h
  · exact execLcTransitionGo_held _ _ h
  · exact execLcTransition_held _ _ h
  · exact execUserStoreBurn_held _ _ h
  · exact execGateOpen_held _ _ h
  · exact execDebugEnable_held _ h
  · exact execRngHealthFail_held _ h
  · exact execStageS0Done_held _ _ _ _ h
  · exact execImageAdmission_held _ h
  · exact absurd rfl hn
  · exact execTapInstruction_held _ _ h

/-- Every command but the resets and READY keeps the queue, the numbered tiles, the digest and the rules of the leaves. -/
theorem exec_held {c : Instr} {s t : State} (h : exec c s = .next t) (hr : ¬ ResetCommand c) (hn : c ≠ .ready) : Held t s := by
  by_cases hc : SecCommand c
  · exact exec_held_of_secCommand h hc hr hn
  · exact (exec_kept h hc).held

/-! ### READY (R25, R40) -/

/-- READY outside stage S6 changes nothing. -/
theorem execReady_of_not_inStage {s t : State} (h : execReady s = .next t) (hs : s.inStage 6 = false) : t = s := by
  rw [execReady, hs] at h
  cases h
  rfl

/-- READY in stage S6 runs the steps of R426. -/
theorem execReady_of_inStage {s t : State} (h : execReady s = .next t) (hs : s.inStage 6 = true) : t = becomeReady s := by
  rw [execReady, hs] at h
  cases h
  rfl

theorem numberTiles_tilesAt (s : State) :
    (numberTiles s).boot.tilesAt = (List.range 72).filter (fun k => s.status uTile k == stGood) := by
  unfold numberTiles
  extract_lets tiles
  exact (rewriteUnits_keep ..).2.2.1

theorem firstPlan_tilesAt (s : State) : (firstPlan s).boot.tilesAt = s.boot.tilesAt := rfl

theorem startNet_tilesAt (tags : Table Nat) (s : State) : (startNet tags s).boot.tilesAt = s.boot.tilesAt := rfl

/-- Only the first step of READY numbers tiles. -/
theorem becomeReady_tilesAt (s : State) : (becomeReady s).boot.tilesAt = (numberTiles s).boot.tilesAt := by
  unfold becomeReady
  extract_lets s1 s2 s3 s4 s5
  calc
    _ = s5.boot.tilesAt := (askCertificate_held _).2.1.trans (by simp)
    _ = s4.boot.tilesAt := by simp [s5]
    _ = s3.boot.tilesAt := by simp [s4]
    _ = s2.boot.tilesAt := by simp [s3, startNet_tilesAt]
    _ = s1.boot.tilesAt := by simp [s2, firstPlan_tilesAt]

/-! ### Resets of the hub (R392, R549, R550) -/

@[simp] theorem hubReset_tilesAt (r : ResetState) (s : State) : (hubReset r s).boot.tilesAt = [] := rfl

@[simp] theorem hubReset_ready (r : ResetState) (s : State) : (hubReset r s).ready = false := by
  change State.reset.ready = false
  decide

/-- A reset that takes place clears the numbers, and the hub is not ready. -/
theorem exec_resetCommand {c : Instr} {s t : State} (h : exec c s = .next t) (hc : ResetCommand c) :
    t = s ∨ (t.boot.tilesAt = [] ∧ t.ready = false) := by
  rcases hc with rfl | rfl | rfl
  · have h' : execHotReset s = .next t := h
    unfold execHotReset at h'
    cases h'
    split
    · exact .inl rfl
    · exact .inr ⟨hubReset_tilesAt .., hubReset_ready ..⟩
  · cases h
    exact .inr ⟨rfl, hubReset_ready (if s.boot.reset = .railWait then .railWait else .held) s⟩
  · cases h
    exact .inr ⟨hubReset_tilesAt .., hubReset_ready ..⟩

/-! ### Retirement of a tile (R440, R441) -/

/-- What a group of record changes makes of the records. -/
theorem rewriteUnits_units (ch : List (Nat × (UnitRec → UnitRec))) (s : State) :
    (rewriteUnits ch s).boot.plan.units =
      forEach ch (fun c us => Table.set us c.1 (c.2 (Table.get .init us c.1))) s.boot.plan.units := by
  unfold rewriteUnits
  extract_lets p us changed p'
  have hp : p'.units = us := by
    simp only [p']
    split <;> rfl
  rw [(syncStatus_still _).1, forEach_still_boot_ _ _ _ (fun k u => syncUnit_still k u)]
  exact hp

/-- A record that is rewritten alone. -/
theorem rewriteUnits_unit (ty id : Nat) (f : UnitRec → UnitRec) (s : State) :
    (rewriteUnits [(unitKey ty id, f)] s).unit ty id = f (s.unit ty id) := by
  rw [State.unit, rewriteUnits_units, forEach_cons, forEach_nil, Table.get_set_self]
  rfl

/-- Marking units failed changes the report by one group of record changes. -/
theorem markFailed_plan (us : List (Nat × Nat × Nat)) (s : State) :
    (markFailed us s).boot.plan = (rewriteUnits (us.map (fun u =>
      (unitKey u.1 u.2.1, fun r => { r with status := stFailed, cause := u.2.2 }))) s).boot.plan := by
  unfold markFailed
  rw [forEach_still_boot_ _ _ _ (fun u v => Still.ite (Still.refl _) (opRecord_still ..))]

/-- A unit's record depends on the plan alone. -/
theorem unit_congr {a b : State} (h : a.boot.plan = b.boot.plan) (ty id : Nat) : a.unit ty id = b.unit ty id := by
  rw [State.unit, State.unit, h]

/-- A unit that is marked failed has status FAILED and the cause. -/
theorem markFailed_unit (ty id cause : Nat) (s : State) :
    (markFailed [(ty, id, cause)] s).unit ty id = { s.unit ty id with status := stFailed, cause := cause } :=
  (unit_congr (markFailed_plan ..) ty id).trans (rewriteUnits_unit ..)

theorem stopTile_boot (t : Nat) (r : Report) (s : State) : (stopTile t r s).boot = s.boot := by
  unfold stopTile
  split
  · rfl
  · exact (endStalls_still ..).1

theorem dropTile_boot (t cause detail : Nat) (s : State) : (dropTile t cause detail s).boot = s.boot := by
  unfold dropTile
  extract_lets s1
  refine (leaveFaults_still ..).1.trans ?_
  simp only [s1]
  cases s.liveAt t with
  | none => rfl
  | some l =>
    dsimp only
    split
    · rfl
    · exact stopTile_boot ..

theorem refix_boot (t : Nat) (s : State) : (refix t s).boot = s.boot := by
  unfold refix
  refine forEach_induct (fun u : State => u.boot = s.boot) _ _ _ rfl (fun e u hu => ?_)
  split
  · exact hu
  · exact hu

theorem serviceRequest_boot (ty id cause action : Nat) (s : State) : (serviceRequest ty id cause action s).boot = s.boot :=
  (serviceRequest_still ..).1

/-- A tile in service that is retired has status FAILED. -/
theorem retireTile_unit (t cause : Nat) (s : State) (hf : s.status uTile t ≠ stFailed) (hd : s.status uTile t ≠ stDisabled) :
    (retireTile t cause s).unit uTile t = { s.unit uTile t with status := stFailed, cause := cause } := by
  rw [retireTile, if_neg (not_or.mpr ⟨hf, hd⟩), ← markFailed_unit]
  refine unit_congr (congrArg Boot.plan ?_) uTile t
  rw [serviceRequest_boot, refix_boot, dropTile_boot]

theorem retireTile_tilesAt (t cause : Nat) (s : State) : (retireTile t cause s).boot.tilesAt = s.boot.tilesAt :=
  (retireTile_keep ..).2.2.1

/-- A tile's logical number depends on the numbered tiles alone. -/
theorem logicalOf?_congr {a b : State} (h : a.boot.tilesAt = b.boot.tilesAt) (t : Nat) : a.logicalOf? t = b.logicalOf? t := by
  unfold State.logicalOf?
  rw [h]

/-! ### Logical numbers (R25, R27, R40) -/

/-- Settles O56: over all commands for the numbers and the digest; READY, the resets and retirement by what each does. -/
theorem logicalNumbersStay : Obligations.LogicalNumbersStay := by
  refine ⟨fun c s t h => ⟨fun hn hr => ?_, fun hc hs => ?_, exec_resetCommand h⟩, fun t cause s _ hf hd => ?_⟩
  · by_cases hc : c = .ready
    · subst hc
      rw [execReady_of_not_inStage h (hn.resolve_left (not_not_intro rfl))]
      exact ⟨rfl, rfl⟩
    · obtain ⟨_, htiles, hdigest, _⟩ := exec_held h hr hc
      exact ⟨htiles, hdigest⟩
  · subst hc
    rw [execReady_of_inStage h hs, becomeReady_tilesAt, numberTiles_tilesAt]
  · have htiles := retireTile_tilesAt t cause s
    rw [retireTile_unit t cause s hf hd]
    exact ⟨rfl, logicalOf?_congr htiles t, htiles⟩

end Sys2Proof.Machine

namespace Sys2Proof.Machine

/-! ### A refused GO (R469) -/

/-- SEC_LC_STATUS as a refusal leaves it: the result "refused" and the reason. -/
def noteRefusal (reason : Nat) (s : State) : State := setRf rSecLcStatus 6 4 reason (setRf rSecLcStatus 2 1 2 s)

theorem refuseLc_eq (reason : Nat) (s : State) :
    refuseLc reason s = opRecord 0x0907 false [reason] (noteRefusal reason s) := rfl

theorem noteRefusal_frame (reason : Nat) (s : State) :
    noteRefusal reason s = { s with regs := (noteRefusal reason s).regs } := rfl

theorem noteRefusal_reason (reason : Nat) (s : State) : (noteRefusal reason s).rf rSecLcStatus 6 4 = reason % 8 :=
  rf_setRf_self _ _ _ _ _ (by decide)

theorem noteRefusal_result (reason : Nat) (s : State) : (noteRefusal reason s).rf rSecLcStatus 2 1 = 2 :=
  (rf_setRf_apart _ _ _ _ _ _ _ (by decide) (by decide) (by decide)).trans (rf_setRf_self _ _ _ _ _ (by decide))

/-! ### GO with a target (R467, R469) -/

/-- The conditions of R469 on GO, but for LOCKED_OUT. -/
structure State.GoOpen (s : State) : Prop where
  running : s.running = true
  noMove : s.sec.lcMove = none
  ctxsOff : ∀ e ∈ s.ctxs, s.ctxState e.1 = 0

/-- The token is used up by a GO that is looked at (R469 step 2). -/
def dropToken (s : State) : State := { s with sec := { s.sec with token := [] } }

/-- The token written is the one of a target. -/
abbrev State.TokenRight (s : State) (dst : Nat) : Prop :=
  (Config.sha384 s.tokenBytes).toNat = vget 0 s.sec.otp.tokenDigest (dst - 1)

/-- One more wrong token: FAILED_TOKENS and LOCKED_OUT follow. -/
def countWrongToken (s : State) : State :=
  setRf rSecLcStatus 11 11 (b2n (decide (8 ≤ s.rf rSecLcStatus 10 7 + 1)))
    (setRf rSecLcStatus 10 7 (min (s.rf rSecLcStatus 10 7 + 1) 8) s)

/-- A transition to `dst` under way, with the token used up: its burns begin. -/
def beginMove (dst : Nat) (s : State) : State :=
  setRf rSecLcStatus 6 0 1
    { s with sec := { s.sec with token := [], lcMove := some { src := s.sec.otp.lcCode, dst := dst } } }

/-- GO takes its target from the bits [2:0] of what is written. -/
theorem exec_lcTransitionGo (t : Fin 8) (s : State) : exec (.lcTransitionGo t) s = .next (goLc t.val s) := by
  have hgo : bit (t.val + 8) 3 = true := by revert t; decide
  have htarget : bits (t.val + 8) 2 0 = t.val := by revert t; decide
  change Host.Outcome.next (wrLcCtrl (t.val + 8) s) = _
  rw [wrLcCtrl, if_pos hgo, htarget]

theorem exec_lcTransitionGo_of_busy (t : Fin 8) {s : State} (h : s.running = false ∨ s.sec.lcMove.isSome = true) :
    exec (.lcTransitionGo t) s = .next (refuseLc 1 s) := by
  rw [exec_lcTransitionGo, goLc, if_pos (by simpa using h)]

theorem exec_lcTransitionGo_of_contextOn (t : Fin 8) {s : State} (hr : s.running = true) (hm : s.sec.lcMove = none)
    (hc : ∃ e ∈ s.ctxs, s.ctxState e.1 ≠ 0) : exec (.lcTransitionGo t) s = .next (refuseLc 2 s) := by
  rw [exec_lcTransitionGo, goLc, if_neg (by simp [hr, hm]), if_pos (by simpa using hc)]

/-- Where every condition but LOCKED_OUT holds, the lock, the table of R467 and the token decide, in this order. -/
theorem exec_lcTransitionGo_of_goOpen (t : Fin 8) {s : State} (h : s.GoOpen) :
    exec (.lcTransitionGo t) s = .next (if s.rb rSecLcStatus 11 = true then refuseLc 5 s
      else if s.sec.otp.mayMove t = false then refuseLc 3 (dropToken s)
      else if s.TokenRight t then beginMove t s
      else refuseLc 4 (countWrongToken (dropToken s))) := by
  rw [exec_lcTransitionGo, goLc, if_neg (by simp [h.running, h.noMove]), if_neg (by simpa using h.ctxsOff)]
  exact congrArg _ (ite_congr rfl (fun _ => rfl) fun _ => ite_congr (by simp) (fun _ => rfl) fun _ => ite_not ..)

theorem countWrongToken_frame (s : State) : countWrongToken s = { s with regs := (countWrongToken s).regs } := rfl

theorem countWrongToken_failed (s : State) :
    (countWrongToken s).rf rSecLcStatus 10 7 = min (s.rf rSecLcStatus 10 7 + 1) 8 := by
  rw [countWrongToken, rf_setRf_apart _ _ _ _ _ _ _ (by decide) (by decide) (by decide), rf_setRf_self _ _ _ _ _ (by decide)]
  exact Nat.mod_eq_of_lt (by omega)

/-- The eighth wrong token locks the transitions out. -/
theorem countWrongToken_lockedOut (s : State) :
    (countWrongToken s).rb rSecLcStatus 11 = true ↔ 7 ≤ s.rf rSecLcStatus 10 7 := by
  rw [countWrongToken, rb_setRf_self _ _ _ _ (by decide), bit_b2n, decide_eq_true_iff]
  omega

theorem beginMove_frame (dst : Nat) (s : State) :
    beginMove dst s = { s with sec := (beginMove dst s).sec, regs := (beginMove dst s).regs } := rfl

theorem beginMove_status (dst : Nat) (s : State) : (beginMove dst s).rf rSecLcStatus 6 0 = 1 :=
  rf_setRf_self _ _ _ _ _ (by decide)

/-! ### The end of the burns (R469, R470) -/

/-- The one-time-programmable memory after a confirmed transition to `dst`: the burned words, then the wipe. -/
def Otp.movedTo (dst : Nat) (o : Otp) : Otp :=
  let p := { o with lcA := o.lcA ||| lcWord dst, lcB := o.lcB ||| lcWord dst }
  if 3 ≤ dst then wipeOtp dst p else p

theorem Otp.movedTo_of_lt {dst : Nat} (o : Otp) (h : dst < 3) :
    o.movedTo dst = { o with lcA := o.lcA ||| lcWord dst, lcB := o.lcB ||| lcWord dst } :=
  if_neg (by omega)

theorem Otp.movedTo_of_le {dst : Nat} (o : Otp) (h : 3 ≤ dst) :
    o.movedTo dst = wipeOtp dst { o with lcA := o.lcA ||| lcWord dst, lcB := o.lcB ||| lcWord dst } :=
  if_pos h

/-- No wipe touches the life-cycle words. -/
theorem wipeOtp_words (code : Nat) (o : Otp) : (wipeOtp code o).lcA = o.lcA ∧ (wipeOtp code o).lcB = o.lcB := by
  unfold wipeOtp
  split <;> exact ⟨rfl, rfl⟩

theorem Otp.movedTo_words (dst : Nat) (o : Otp) :
    (o.movedTo dst).lcA = o.lcA ||| lcWord dst ∧ (o.movedTo dst).lcB = o.lcB ||| lcWord dst := by
  rcases Nat.lt_or_ge dst 3 with h | h
  · rw [o.movedTo_of_lt h]
    exact ⟨rfl, rfl⟩
  · rw [o.movedTo_of_le h]
    exact wipeOtp_words ..

/-- Every wipe burns IDK_PRIV, LMS_PRIV and MEM_KEY to all ones (R470). -/
theorem wipeOtp_keys (code : Nat) (o : Otp) : (wipeOtp code o).idkPriv = 2 ^ 384 - 1 ∧
    (wipeOtp code o).lmsPriv = 2 ^ 320 - 1 ∧ (wipeOtp code o).memKey = 2 ^ 512 - 1 := by
  unfold wipeOtp
  extract_lets wiped
  split <;> simp only [wiped, and_self]

theorem wipeOtp_user (code : Nat) (o : Otp) :
    (wipeOtp code o).user = (List.range 512).map (fun i => (i, 2 ^ 32 - 1)) := by
  unfold wipeOtp
  extract_lets wiped
  split <;> simp only [wiped]

/-- A table that lists consecutive keys with one value. -/
theorem Table.get_map_range' {α : Type} (d v : α) (n a i : Nat) (ha : a ≤ i) (hi : i < a + n) :
    Table.get d ((List.range' a n).map (fun j => (j, v))) i = v := by
  induction n generalizing a with
  | zero => omega
  | succ n ih =>
    rw [List.range'_succ, List.map_cons, Table.get, Table.find?]
    by_cases h : a = i
    · rw [if_pos h]
      rfl
    · rw [if_neg h, if_neg (by omega)]
      exact ih (a + 1) (by omega) (by omega)

theorem wipeOtp_userWord (code : Nat) (o : Otp) {i : Nat} (hi : i < 512) :
    Table.get 0 (wipeOtp code o).user i = 2 ^ 32 - 1 := by
  rw [wipeOtp_user, List.range_eq_range']
  exact Table.get_map_range' 0 _ 512 0 i (Nat.zero_le i) (by omega)

/-- A transition to RETURNED or SCRAPPED leaves no key and no user word. -/
theorem Otp.movedTo_wiped {dst : Nat} (o : Otp) (h : 3 ≤ dst) : (o.movedTo dst).idkPriv = 2 ^ 384 - 1 ∧
    (o.movedTo dst).lmsPriv = 2 ^ 320 - 1 ∧ (o.movedTo dst).memKey = 2 ^ 512 - 1 ∧
    ∀ i, i < 512 → Table.get 0 (o.movedTo dst).user i = 2 ^ 32 - 1 := by
  rw [o.movedTo_of_le h]
  obtain ⟨hidk, hlms, hmem⟩ := wipeOtp_keys dst { o with lcA := o.lcA ||| lcWord dst, lcB := o.lcB ||| lcWord dst }
  exact ⟨hidk, hlms, hmem, fun i hi => wipeOtp_userWord _ _ hi⟩

/-- A confirmed transition as SEC_LC_STATUS and the records show it; then the hub holds. -/
def endMove (m : LcMove) (s : State) : State :=
  opRecord 0x0906 true [m.src, m.dst] (setRf rSecLcStatus 3 0 (2 + 8)
    { s with sec := { s.sec with otp := s.sec.otp.movedTo m.dst, lcMove := none } })

/-- A transition whose burns were not confirmed: the words are as far burned as the model's free value says. -/
def cutMove (s : State) : State :=
  setRf rSecLcStatus 0 0 0 { s with sec := { s.sec with otp := s.burnCut.1, lcMove := none }, free := s.burnCut.2 }

theorem exec_lcTransition_none (ok : Bool) {s : State} (h : s.sec.lcMove = none) : exec (.lcTransition ok) s = .next s := by
  change execLcTransition ok s = _
  rw [execLcTransition, h]

theorem exec_lcTransition_confirmed {s : State} {m : LcMove} (h : s.sec.lcMove = some m) :
    exec (.lcTransition true) s =
      .next { endMove m s with boot := { (endMove m s).boot with hubHeld := true } } := by
  change execLcTransition true s = _
  rw [execLcTransition, h]
  rfl

theorem exec_lcTransition_unconfirmed {s : State} {m : LcMove} (h : s.sec.lcMove = some m) :
    exec (.lcTransition false) s = .next (refuseLc 6 (cutMove s)) := by
  change execLcTransition false s = _
  rw [execLcTransition, h]
  rfl

theorem endMove_pending (m : LcMove) (s : State) : (endMove m s).pending = s.pending := (opRecord_keep ..).1

theorem endMove_sec (m : LcMove) (s : State) :
    (endMove m s).sec = { s.sec with otp := s.sec.otp.movedTo m.dst, lcMove := none } := (opRecord_keep ..).2.1

theorem endMove_plan (m : LcMove) (s : State) : (endMove m s).boot.plan = s.boot.plan :=
  congrArg Boot.plan (opRecord_still ..).1

theorem cutMove_frame (s : State) : cutMove s =
    { s with sec := (cutMove s).sec, regs := (cutMove s).regs, free := s.burnCut.2 } := rfl

theorem cutMove_busy (s : State) : (cutMove s).rb rSecLcStatus 0 = false :=
  rb_setRf_self _ _ _ _ (by decide)

/-! ### The table of transitions (R467) -/

/-- A transition is one of the table, or completes what the words of an INVALID state hold. -/
theorem Otp.mayMove_iff (o : Otp) (dst : Nat) : o.mayMove dst = true ↔
    (o.lcCode, dst) ∈ [(0, 1), (0, 4), (1, 2), (1, 4), (2, 3), (2, 4), (3, 4)] ∨
      (o.lcCode = 7 ∧ 1 ≤ dst ∧ dst ≤ 4 ∧ o.lcA ||| lcWord dst = lcWord dst ∧ o.lcB ||| lcWord dst = lcWord dst) := by
  have htable : ∀ src, (src, dst) ∈ [(0, 1), (0, 4), (1, 2), (1, 4), (2, 3), (2, 4), (3, 4)] → 1 ≤ dst ∧ dst ≤ 4 := by
    intro src h
    simp only [List.mem_cons, Prod.mk.injEq, List.not_mem_nil, or_false] at h
    omega
  unfold Otp.mayMove
  simp only [Bool.and_eq_true, Bool.or_eq_true, decide_eq_true_iff, List.contains_iff_mem, beq_iff_eq]
  constructor
  · rintro ⟨⟨hlo, hhi⟩, h | ⟨⟨hinvalid, ha⟩, hb⟩⟩
    · exact .inl h
    · exact .inr ⟨hinvalid, hlo, hhi, ha, hb⟩
  · rintro (h | ⟨hinvalid, hlo, hhi, ha, hb⟩)
    · exact ⟨htable _ h, .inl h⟩
    · exact ⟨⟨hlo, hhi⟩, .inr ⟨⟨hinvalid, ha⟩, hb⟩⟩

/-! ### The user store (R472) -/

/-- The selected word of the user store with the set bits of `v` burned. -/
def burnUser (v : Nat) (s : State) : State :=
  updOtp (fun o => { o with user := Table.set o.user (s.rf rSecUserSel 8 0) (Table.get 0 o.user (s.rf rSecUserSel 8 0) ||| v) }) s

theorem exec_userStoreBurn (v : BitVec 32) {s : State} (hr : s.running = true) (hl : s.lcState = 1 ∨ s.lcState = 2) :
    exec (.userStoreBurn v) s = .next (burnUser v.toNat s) := by
  change Host.Outcome.next (wrUserData v.toNat s) = _
  rw [wrUserData, if_pos (by simpa [hr] using hl)]
  rfl

theorem exec_userStoreBurn_ignored (v : BitVec 32) {s : State}
    (h : s.running = false ∨ (s.lcState ≠ 1 ∧ s.lcState ≠ 2)) : exec (.userStoreBurn v) s = .next s := by
  change Host.Outcome.next (wrUserData v.toNat s) = _
  rw [wrUserData, if_neg]
  simp only [Bool.and_eq_true, Bool.or_eq_true, beq_iff_eq]
  rintro ⟨hr, hl⟩
  rcases h with h | ⟨h1, h2⟩
  · exact absurd hr (by simp [h])
  · exact hl.elim h1 h2

theorem burnUser_selected (v : Nat) (s : State) : Table.get 0 (burnUser v s).sec.otp.user (s.rf rSecUserSel 8 0) =
    Table.get 0 s.sec.otp.user (s.rf rSecUserSel 8 0) ||| v := Table.get_set_self ..

theorem burnUser_other (v : Nat) (s : State) {j : Nat} (h : j ≠ s.rf rSecUserSel 8 0) :
    Table.get 0 (burnUser v s).sec.otp.user j = Table.get 0 s.sec.otp.user j := Table.get_set_ne _ _ _ h

/-- SEC_USER_DATA reads as the selected word. -/
theorem readWord_userData (s : State) :
    s.readWord rSecUserData = Table.get 0 s.sec.otp.user (s.rf rSecUserSel 8 0) := rfl

/-- A register from 0x100000 on, where the security registers stand, is named for the physical function only. -/
theorem locate_high (f off : Nat) (s : State) (hf : f ≠ 0) (ho : 0x100000 ≤ off) : s.locate f off = none := by
  unfold State.locate rHifFnStatus rSnapSeq
  extract_lets own named
  repeat rw [if_neg (by omega)]
  rw [if_neg (by simp [hf])]

/-! ### Life cycle (R466 to R472) -/

/-- Settles O51: GO by the order of its refusals, the end of the burns by what each end writes, the table of R467 and the user
store. -/
theorem lifeCycle : Obligations.LifeCycle := by
  refine ⟨fun t s => ⟨exec_lcTransitionGo_of_busy t, fun hr hm => ⟨exec_lcTransitionGo_of_contextOn t hr hm, fun hc => ?_⟩⟩,
    fun r s => ?_, fun ok s => ⟨exec_lcTransition_none ok, fun m hm => ⟨?_, ?_⟩⟩, Otp.mayMove_iff,
    fun v s => ⟨fun hr hl => ?_, exec_userStoreBurn_ignored v, readWord_userData s⟩,
    fun f s hf => ⟨locate_high f _ s hf (by decide), locate_high f _ s hf (by decide)⟩⟩
  · have hgo := exec_lcTransitionGo_of_goOpen t ⟨hr, hm, hc⟩
    refine ⟨fun hlock => ?_, fun hlock hmove => ?_, fun hlock hmove htoken => ?_, fun hlock hmove htoken => ?_⟩
    · rw [hgo, if_pos hlock]
    · rw [hgo, if_neg (by simp [hlock]), if_pos hmove]
      rfl
    · rw [if_neg (by simp [hlock]), if_neg (by simp [hmove]), if_neg htoken] at hgo
      exact ⟨_, hgo, countWrongToken_frame _, countWrongToken_failed _, countWrongToken_lockedOut _⟩
    · rw [if_neg (by simp [hlock]), if_neg (by simp [hmove]), if_pos htoken] at hgo
      exact ⟨_, hgo, beginMove_frame t s, beginMove_status t s, rfl⟩
  · exact ⟨_, refuseLc_eq r s, noteRefusal_frame r s, noteRefusal_reason r s, noteRefusal_result r s⟩
  · rintro rfl
    obtain ⟨hA, hB⟩ := s.sec.otp.movedTo_words m.dst
    refine ⟨_, exec_lcTransition_confirmed hm, rfl, endMove_plan m s, endMove_pending m s, ?_⟩
    dsimp only
    rw [endMove_sec]
    refine ⟨rfl, hA, hB, fun hlow => ?_, s.sec.otp.movedTo_wiped⟩
    rw [s.sec.otp.movedTo_of_lt hlow]
  · rintro rfl
    exact ⟨_, exec_lcTransition_unconfirmed hm, rfl, cutMove_frame s, cutMove_busy s⟩
  · exact ⟨_, exec_userStoreBurn v hr hl, rfl, rfl, burnUser_selected _ s, fun j hj => burnUser_other _ s hj⟩

end Sys2Proof.Machine
